-- ==== Sys2Proof/Word.lean ====
section
/-!
DEFINITION. The word types of the ZK96 model and the index types of its parts.
Bit-field, sign and byte-order helpers stand in Machine/Bits.lean.
-/

namespace Sys2Proof

/-- A byte of device memory, host memory or configuration memory. -/
abbrev Byte := BitVec 8
/-- A 32-bit register value. -/
abbrev W32 := BitVec 32
/-- A 64-bit register value or instruction word. -/
abbrev W64 := BitVec 64
/-- A 64-B submission descriptor (R454), byte 0 in bits [7:0] (R16). -/
abbrev Desc := BitVec 512

/-- Site n is owned by site-sequencer engine n (R24). -/
abbrev SiteId := Fin 64
/-- Channel ch c. -/
abbrev Chan := Fin 128
/-- Octet n holds ch(8n) to ch(8n+7). -/
abbrev OctetId := Fin 16
/-- Trigger unit. -/
abbrev UnitId := Fin 16
/-- DDS generator. -/
abbrev GenId := Fin 8
/-- Plan slot (R37). -/
abbrev PlanSlot := Fin 8
/-- Queue q (R445). -/
abbrev QueueId := Fin 8192
/-- A slot of the command store (R466). -/
abbrev CmdSlot := Fin 2048
/-- Engine number (R23). -/
abbrev EngineId := Fin 96
/-- DRAM channel (R183). -/
abbrev DramCh := Fin 16
/-- Window monitor. -/
abbrev MonId := Fin 32
/-- Halso port. -/
abbrev PortId := Fin 4
/-- Event counter (R519). -/
abbrev CntId := Fin 64
/-- An instant within the current span, in grains after its tick (R15: a span is 524,288 gr). -/
abbrev Grain := Fin 524288

end Sys2Proof
end

