-- ==== Sys2Proof/Syntax.lean ====
section
/-!
DEFINITION. The commands of the ZK96: one constructor of Instr per row of spec/opcode_table.json.
The block has no decoder, so an operand is what the row's rules take from outside the block: the
instance the step acts on, the value a host writes, the data a bus returns, the level an analogue
part reads. Everything else a step needs it finds in State.
-/

namespace Sys2Proof

/-- What the comparator gives at a compare instant (Table 2.12, R106). -/
inductive Cls where
  | between
  | low
  | high
  /-- A window with any other result. -/
  | other
deriving DecidableEq, Repr, Inhabited

/-- Comparator results of one channel in one vector, in time order of its compare instants.
(DESIGN CHOICE, entry 116.) -/
structure Obs where
  ch : Chan
  cls : List Cls
deriving DecidableEq, Repr, Inhabited

/-- A host write of a register: the halves it carries (R536) and the value. -/
structure Wr where
  lo : Bool := true
  hi : Bool := true
  val : W64
deriving DecidableEq, Repr, Inhabited

/-- The statistics of one DFE tap over its 8 spans (R403, R404, R408). (DESIGN CHOICE, entry 116.) -/
structure DfeStat where
  ch : Chan
  /-- c_n of R408. -/
  c : Int
  /-- UI of the window: decisions of the data slicer. -/
  n : Nat
  /-- Decisions that differ from the decision before them (R403). -/
  changed : Nat
  /-- UI by signal: offset of the signal about the data slicer's threshold, in units of 50 µV, and their number. -/
  split : List (Int × Nat)
deriving DecidableEq, Repr, Inhabited

/-- What a span tick takes from outside: engines that made no renewal, banks with queued requests at the tick and at
cycle 128 of the span that begins, DFE statistics. -/
structure TickIn where
  missed : List EngineId := []
  busy : List (DramCh × BitVec 16) := []
  busy128 : List (DramCh × BitVec 16) := []
  dfe : List DfeStat := []
deriving DecidableEq, Repr, Inhabited

/-- The MR4 refresh-rate readout (R193). -/
inductive Mr4 where
  | below1
  | x1
  | x2
  | x4
deriving DecidableEq, Repr, Inhabited

/-- How the DRAM reads of a PLAN_LOAD ended (R578, R179): an error in the read of the header, in that of block t + 1, or
in the copies after check 5. -/
inductive ReadOutcome where
  | ok
  | errHeader
  | errBlock (t : Fin 9)
  | errCopy
deriving DecidableEq, Repr, Inhabited

/-- A PTP event message; the row's instant is that of its hardware timestamp at the PCS (R377).
(DEDUCED, entry 75.) -/
inductive PtpEvent where
  /-- Sync received: one-step origin time when not two-step; correctionField in grains. -/
  | syncRx (seq : BitVec 16) (origin : Option Int) (corr : Int)
  | delayReqTx (seq : BitVec 16)
  | pdelayReqTx (seq : BitVec 16)
  /-- Pdelay_Resp received: the requestReceipt timestamp it carries, and one-step flag. -/
  | pdelayRespRx (seq : BitVec 16) (receipt : Int) (twoStep : Bool) (corr : Int)
  | syncTx (seq : BitVec 16)
  | delayReqRx (seq : BitVec 16)
  | pdelayReqRx (seq : BitVec 16)
  | pdelayRespTx (seq : BitVec 16)
deriving DecidableEq, Repr, Inhabited

/-- The data set of an Announce message (R376, BMCA). -/
structure Announce where
  priority1 : Nat
  clockClass : Nat
  accuracy : Nat
  variance : Nat
  priority2 : Nat
  identity : Nat
  steps : Nat
deriving DecidableEq, Repr, Inhabited

/-- A PTP general message (R378): one received, or an Announce that the port sends. -/
inductive PtpGeneral where
  | announceTx (seq : BitVec 16)
  | announce (a : Announce)
  | followUp (seq : BitVec 16) (origin : Int) (corr : Int)
  | delayResp (seq : BitVec 16) (receipt : Int) (corr : Int)
  | pdelayRespFollowUp (seq : BitVec 16) (origin : Int) (corr : Int)
deriving DecidableEq, Repr, Inhabited

/-- A Halso time tick (Table 8.7, type 0x22). -/
structure HalsoTick where
  /-- 0 forward, 1 return. -/
  ret : Bool
  epoch : BitVec 4
  state : BitVec 3
  traceable : Bool
  /-- Running count at send. -/
  sent : Nat
  /-- Running count at receipt of the last tick from the other direction. -/
  got : Nat
  /-- Device time at send, in grains (forward only). -/
  devTime : Int
deriving DecidableEq, Repr, Inhabited

/-- Which hop of a trigger message: group firing or Halso event (Table 8.7, type 0x31). -/
inductive HalsoTrig where
  | group (gid : BitVec 8) (units : BitVec 16)
  | event (n : Fin 32)
deriving DecidableEq, Repr, Inhabited

/-- The hello fields of a management message (Table 8.7, type 0x50). -/
structure Hello where
  dev : BitVec 4
  master : Bool
  nM1 : BitVec 4
  ring : Bool
  position : BitVec 4
deriving DecidableEq, Repr, Inhabited

/-- What one unit's window of a calibration step measured (Table 9.2). (DESIGN CHOICE, entry 116.) -/
structure StepIn where
  step : BitVec 8
  unit : Nat
  /-- A continuous step of a visit. -/
  live : Bool
  /-- The converter reference check failed, or DRAM training did not converge (codes 8 and 10). -/
  bad : Bool := false
  /-- Rising and falling drive transitions of the window (code 4). -/
  rise : Nat := 0
  fall : Nat := 0
  /-- Spread of the readings in the step's unit (code 5). -/
  spread : Nat := 0
  /-- Readings and results, in the order that the step's column of Table 9.2 names them; for a crossing search the rising
  and the falling crossing, for a live drive window E and L. -/
  vals : List Int
deriving DecidableEq, Repr, Inhabited

/-- What Boot finds outside the die (R503). -/
structure BootIn where
  /-- The configuration memory answered. -/
  memAnswers : Bool := true
  /-- Every DRAM channel trained (R187). -/
  dramOk : Bool := true
  /-- Density code found in training. -/
  density : BitVec 2 := 0
  /-- Memory size 2^log_size from SFDP. -/
  logSize : BitVec 5 := 23
  addr4 : Bool := false
deriving DecidableEq, Repr, Inhabited

/-- How one occurrence of a precisely sampled event ends (R530). (DESIGN CHOICE, entry 115.) -/
structure PsEnd where
  /-- Number of the occurrence among the sampled ones. -/
  idx : Nat
  abandoned : Bool
  /-- Engine field, instruction word and address of Table 12.2. -/
  engine : BitVec 8
  instr : W64
  addr : W64
  /-- The instant within the span at which it ends. -/
  at_ : Grain
deriving DecidableEq, Repr, Inhabited

/-- A DRAM channel, and an instant within the span. -/
structure ChanAt where
  ch : DramCh
  t : Grain
deriving DecidableEq, Repr, Inhabited

/-- A site, and an instant within the span. -/
structure SiteAt where
  site : SiteId
  t : Grain
deriving DecidableEq, Repr, Inhabited

/-- The domain of a PTP message, and the instant within the span of its timestamp (R377). -/
structure PtpAt where
  dom : BitVec 8
  t : Grain
deriving DecidableEq, Repr, Inhabited

/-- A span mark: the sender's span counter, and the blocks with bad sync headers on the port since the mark before it
(Tables 8.7 and 8.24). -/
structure MarkIn where
  counter : BitVec 48
  bad : BitVec 16
deriving DecidableEq, Repr, Inhabited

/-- Who sends a fail-merge message: device and site, and the status of the site's run (Table 8.7). -/
structure MergeIn where
  dev : BitVec 4
  site : SiteId
  status : BitVec 8
deriving DecidableEq, Repr, Inhabited

/-- What a lock window shows: the phase tracked to, and the bits that the data slicer decided (R252, R254, R265). -/
structure CdrWindow where
  phase : Int
  sliced : List Bool
deriving DecidableEq, Repr, Inhabited

/-- The commands and events of the block, in the order of spec/opcode_table.json. -/
inductive Instr where
  | spanTick (inp : TickIn)
  | delayListExpiry
  | scheduleEntryAdvance (p : PlanSlot)
  | peckArrival (id : Nat) (linkErr : Bool)
  | peckRetryIssue (id : Nat)
  | refreshAccrualTick (ch : ChanAt)
  | mr4Poll (ch : ChanAt) (rate : Mr4)
  | wck2dqOscillatorRead (ch : DramCh) (target : Int)
  | vernierMove (c : Chan)
  | leaseLapse (e : EngineId)
  | engineFirstRenewal (e : EngineId)
  | nop (k : CmdSlot)
  | fence (k : CmdSlot)
  | cancel (k : CmdSlot)
  | memWrite (k : CmdSlot)
  | memRead (k : CmdSlot)
  | memFill (k : CmdSlot)
  | planLoad (k : CmdSlot) (rd : ReadOutcome)
  | planRetire (k : CmdSlot)
  | tableLoad (k : CmdSlot) (linkErr : Bool)
  | siteStart (k : CmdSlot)
  | siteStop (k : CmdSlot)
  | sitePark (k : CmdSlot)
  | siteReset (k : CmdSlot)
  | trigArm (k : CmdSlot)
  | trigDisarm (k : CmdSlot)
  | acqRead (k : CmdSlot)
  | ddsLoad (k : CmdSlot) (linkErr : Bool)
  | ddsStart (k : CmdSlot)
  | ddsStop (k : CmdSlot)
  | calRun (k : CmdSlot)
  | calCommit (k : CmdSlot)
  | eyeScan (k : CmdSlot)
  | eyeScanPoint (c : Chan) (high low : Nat) (t : Grain)
  | timeSet (k : CmdSlot)
  | timeAdjust (k : CmdSlot)
  | cfgSave (k : CmdSlot) (written : Bool)
  | vec (n : SiteId)
  | loop (n : SiteId)
  | endloop (n : SiteId)
  | call (n : SiteId)
  | ret (n : SiteId)
  | jump (n : SiteId)
  | matchIns (n : SiteId)
  | matchDecision (n : SiteId)
  | waitTrig (n : SiteId)
  | waitTrigSatisfied (n : SiteId)
  | waitTimeout (n : SiteId)
  | signal (n : SiteId)
  | sync (n : SiteId)
  | syncArrival (n : SiteId)
  | syncRelease (p : PlanSlot) (b : Fin 32)
  | syncTimeout (n : SiteId)
  | setTs (n : SiteId)
  | mark (n : SiteId)
  | park (n : SiteId)
  | parkExpiry (n : SiteId)
  | halt (n : SiteId)
  | illegalOpcode (n : SiteId)
  | siteRunBegin (n : SiteId)
  | bundleRead (n : SiteAt)
  | issueStarved (n : SiteId)
  | vectorPlayed (n : SiteId) (obs : List Obs)
  | stallPointReached (n : SiteId)
  | siteStopEffect (n : SiteId)
  | siteParkLimit (n : SiteId)
  | siteCompletion (n : SiteId)
  | sableWriteSlot (w : Fin 32)
  | trigInEdge (pin : Fin 4) (g : Grain)
  | holdoffExpiry (u : UnitId)
  | autoTrigger (u : UnitId)
  | groupRearm (u : UnitId)
  | ddsRunBegin (g : GenId)
  | ddsSegmentBoundary (g : GenId)
  | ddsJumpWrite (g : GenId) (v : W32) (t : Grain)
  | ppsInEdge (t : Grain)
  | ppsOutEdge (t : Grain)
  | ptpEventMessage (m : PtpEvent) (p : PtpAt)
  | timeStepApply
  | sourceLost
  | traceableHoldExpiry
  | refLost
  | refInReturn
  | tsRingEntryDrop
  | halsoSpanMark (p : PortId) (m : MarkIn)
  | halsoTimeTick (p : PortId) (m : HalsoTick) (t : Grain)
  | halsoServoOffset (p : PortId) (dev : BitVec 4) (state : BitVec 3) (traceable : Bool) (e : BitVec 48)
  | halsoArm (p : PortId) (dev : BitVec 4) (barrier : Fin 32) (span : BitVec 32)
  | halsoTrigger (p : PortId) (dev : BitVec 4) (m : HalsoTrig) (span : BitVec 18) (cycle : BitVec 8) (t : Grain)
  | halsoMatchBroadcast (p : PortId) (dev : BitVec 4) (group : BitVec 4) (hit : Bool) (cycle : BitVec 25)
  | halsoFailMerge (p : PortId) (group : CntId) (m : MergeIn) (ended : Bool) (span : BitVec 48)
  | halsoHello (p : PortId) (h : Hello)
  | halsoJoin
  | halsoUpstreamLost (otherSide : Bool)
  | uiPllUnlock (o : OctetId) (t : Grain)
  | uiPllLock (o : OctetId) (t : Grain)
  | lockWindowEnd (c : Chan) (ferr : Int) (w : CdrWindow)
  | phaseLimit (c : Chan) (upper : Bool) (t : Grain)
  | losAssert (c : Chan) (t : Grain)
  | losDeassert (c : Chan) (t : Grain)
  | linkMarkEcho (o : OctetId) (lane : Fin 4) (rtt : Nat)
  | linkResultWord (o : OctetId) (lane : Fin 4) (slotB : Bool) (w : W32)
  | linkResultTimeout (c : Chan)
  | linkStatusBlock (o : OctetId) (lane : Fin 4) (txLocked : Bool) (faults : BitVec 2) (t : Grain)
  | calVisit (q : Fin 4)
  | octetDriftEval (o : OctetId) (t : Grain) (readings : List Int)
  | convCheckPeriodic (spread : Nat) (mean : Int)
  | calStepEnd (r : StepIn)
  | ageingReading (o : OctetId) (bp : Nat)
  | ageingLogAppend (ceilingFall : Bool)
  | calAdcGo (v : Wr)
  | calAdcDone (codes : List (BitVec 12))
  | monSample (m : MonId) (uv : Int)
  | calMonCfgWrite (i : MonId) (v : W32)
  | thermSample (temps : List (BitVec 12))
  | doorbellWrite (off : BitVec 19) (size : Nat) (v : W64)
  | descriptorFetch (data : List (Option Desc))
  | commandDispatch
  | completionRelease (k : CmdSlot)
  | spillMove (q : QueueId)
  | postedCreditTimeout (k : CmdSlot)
  | msixModerationTimeout (q : QueueId)
  | qctxCfgWrite (q : QueueId) (reg : Fin 5) (w : Wr)
  | hqmSpillWrite (w : Wr)
  | hqmCtrlWrite (v : W32)
  | standbyRequest
  | deepStandbyRequest
  | wakeRequest
  | wakeComplete
  | softResetRequest (key : BitVec 8)
  | octetDisableRequest (o : OctetId)
  | octetEnable (o : OctetId)
  | pinCfgWrite (c : Chan) (cfg aux ctle : Option W32)
  | pinLinkWrite (o : OctetId) (w : Wr)
  | timingOctetCfgWrite (o : OctetId) (v : W32)
  | timingPinDeskewWrite (c : Chan) (v : W32)
  | dramCtrlWrite (v : W32)
  | timeCfgWrite (w : Wr)
  | timePtpAsymWrite (w : Wr)
  | halsoCableWrite (p : PortId) (w : Wr)
  | timeNowRead (t : Grain)
  | perfCntRead (n : CntId)
  | perfSelWrite (n : CntId) (v : W32)
  | perfFreeze (v : W32)
  | perfCounterOverflow (n : CntId) (occ : Nat)
  | snapshotRequest (v : W32)
  | perfSnapshot
  | perfPsCfgWrite (w : Wr)
  | preciseSampleEntry (r : PsEnd)
  | registerWrite (off : BitVec 22) (size : Nat) (v : W64)
  | powerOnReset
  | resetNAssert
  | resetNDeassert
  | bootComplete (b : BootIn)
  | perstN
  | flr
  | powerOnResetEnd
  | halsoLinkDown (p : PortId) (lanes : BitVec 2)
  | halsoLanesLocked (p : PortId)
  | ptpGeneralMessage (m : PtpGeneral) (p : PtpAt)
  | pllLockTimeout
  | bestEffortRequestServed (ch : DramCh) (ready : List Nat) (data : Desc) (err : Bool) (t : Grain)
deriving DecidableEq, Repr, Inhabited

end Sys2Proof
end

