-- ==== Sys2Proof/Config.lean ====
section
/-!
DEFINITION. Free values: what the spec leaves open after a step that goes on. Each is an opaque
constant with no body, so a proof holds for every value of it (DESIGN CHOICE, entry 1).
-/

namespace Sys2Proof.Config

/-- What a comparator gives at an instant for which the environment supplied no result; the argument is
State.free. (DESIGN CHOICE, entry 1.) -/
opaque sampleCls : Nat → Cls

/-- s(θ) of R339, where the scaled sine is no integer, is the integer beside it that lies farther from 0: the spec states
no rounding. (DESIGN CHOICE, entry 1.) -/
opaque ddsSineUp : Nat → Bool

/-- The next value of the 16-bit LFSR of R529: the spec names no feedback taps. -/
opaque lfsrNext : BitVec 16 → BitVec 16

/-- A free natural number; the argument is State.free. -/
opaque freeNat : Nat → Nat

/-- What BAR4 shows of memories whose layout the spec leaves open: acquisition buffers, and the memories of engines other
than site sequencers (R548, Table 13.15); the arguments are State.free and the offset of the aligned 8 B. -/
opaque windowWord : Nat → Nat → BitVec 64

/-- clockIdentity of the device's own PTP clock: a factory value that the spec does not give (R376). -/
opaque clockIdentity : Nat

/-- Where between its two middle values the median of an even number of values lies (R407, R437 do not say).
(DESIGN CHOICE, entry 9.) -/
opaque medianPick : List Int → Nat

/-- A DAC whose gain and offset are both off their targets moves its gain, else its offset (R242 lets one of them move);
the arguments are the span, the channel and the DAC. -/
opaque dacGainTurn : Nat → Nat → Nat → Bool

/-- What a coefficient takes, within its field, where its measured value falls outside it (Table 9.2). -/
opaque beyondField : Int → Int

/-- CAL_AGE.next_margin where no margin of its field lowers the ceiling (R440); the arguments are c_fab and the margin. -/
opaque noLowerMargin : Nat → Int → Int

/-- The record that a DDS_LOAD names whose sequence program as a whole breaks a limit (R343); the argument is the bodies.
(DESIGN CHOICE, entry 12.) -/
opaque ddsFaultRecord : List (List Nat) → Nat

end Sys2Proof.Config
end

