-- ==== Sys2Proof/Machine/Bits.lean ====
section
/-!
DEFINITION. Bit fields (R17), byte order (R16), signed fields, saturation and CRC-32C.
-/

namespace Sys2Proof.Machine

/-- Field [lo+len-1:lo] of a register or memory word (R17). -/
def bits {w : Nat} (x : BitVec w) (lo len : Nat) : Nat := x.toNat / 2 ^ lo % 2 ^ len

/-- Bit i of a word. -/
def bit {w : Nat} (x : BitVec w) (i : Nat) : Bool := x.getLsbD i

/-- Two's-complement value of an n-bit field. -/
def signedOf (n v : Nat) : Int := if v < 2 ^ (n - 1) then (v : Int) else (v : Int) - 2 ^ n

/-- Signed field of a word. -/
def sbits {w : Nat} (x : BitVec w) (lo len : Nat) : Int := signedOf len (bits x lo len)

/-- The n-bit two's-complement code of a value. -/
def codeOf (n : Nat) (v : Int) : Nat := (v % 2 ^ n).toNat

/-- Bit b as a number. -/
def b2n (b : Bool) : Nat := if b then 1 else 0

/-- A word with bit i replaced. -/
def setBit {w : Nat} (x : BitVec w) (i : Nat) (b : Bool) : BitVec w :=
  if b then x ||| BitVec.ofNat w (2 ^ i) else x &&& ~~~ (BitVec.ofNat w (2 ^ i))

/-- A word with field [lo+len-1:lo] replaced by a value. -/
def setBits {w : Nat} (x : BitVec w) (lo len v : Nat) : BitVec w :=
  (x &&& ~~~ (BitVec.ofNat w ((2 ^ len - 1) * 2 ^ lo))) ||| BitVec.ofNat w (v % 2 ^ len * 2 ^ lo)

/-- A sum held at its largest value (a saturating counter). -/
def satAdd (max a b : Nat) : Nat := min max (a + b)

/-- A value held at the nearer limit. -/
def clampI (lo hi v : Int) : Int := if v < lo then lo else if hi < v then hi else v

/-- A value held at the nearer limit. -/
def clampN (lo hi v : Nat) : Nat := if v < lo then lo else if hi < v then hi else v

/-- ⌈a / b⌉. -/
def ceilDiv (a b : Nat) : Nat := (a + b - 1) / b

/-- One step of v toward a target, by at most d. -/
def toward (d : Nat) (v target : Int) : Int :=
  if v < target then min target (v + d) else max target (v - d)

/-- The n little-endian bytes of a number (R16). -/
def leBytes : Nat → Nat → List Byte
  | 0, _ => []
  | n + 1, v => BitVec.ofNat 8 v :: leBytes n (v / 256)

/-- The number that little-endian bytes spell (R16). -/
def leNat : List Byte → Nat
  | [] => 0
  | b :: bs => b.toNat + 256 * leNat bs

/-- One bit of CRC-32C, reflected polynomial 0x82F63B78. (PRESUMED, entry 8.) -/
def crcBit (c : Nat) : Nat := if c % 2 = 1 then (c / 2) ^^^ 0x82F63B78 else c / 2

/-- One byte of CRC-32C. (PRESUMED, entry 8.) -/
def crcByte (c : Nat) (b : Byte) : Nat :=
  crcBit (crcBit (crcBit (crcBit (crcBit (crcBit (crcBit (crcBit (c ^^^ b.toNat))))))))

/-- CRC-32C of a byte string (PRESUMED, entry 8). -/
def crc32c (bs : List Byte) : W32 :=
  BitVec.ofNat 32 ((bs.foldl crcByte 0xFFFFFFFF) ^^^ 0xFFFFFFFF)

/-- The bit indices set in a word. -/
def bitList {w : Nat} (x : BitVec w) : List Nat := (List.range w).filter fun i => x.getLsbD i

/-- The value of an optional Bool list at an index, false outside it. -/
def nthB (l : List Bool) (i : Nat) : Bool := l.getD i false

/-- Insertion into an ascending list of integers. -/
def insertI (v : Int) : List Int → List Int
  | [] => [v]
  | x :: xs => if v ≤ x then v :: x :: xs else x :: insertI v xs

/-- A list of integers in ascending order. -/
def sortI : List Int → List Int
  | [] => []
  | x :: xs => insertI x (sortI xs)

/-- The median; of an even number with two different middle values, a free value between them (DESIGN CHOICE, entry 9). -/
def medianI (l : List Int) : Int :=
  let lo := (sortI l).getD ((l.length - 1) / 2) 0
  let hi := (sortI l).getD (l.length / 2) 0
  if lo = hi then lo else lo + ((Config.medianPick l : Int) % (hi - lo + 1))

/-- A measured value in a signed field: itself, or a free value of the field where it falls outside (DESIGN CHOICE, entry 85). -/
def fieldI (lo hi v : Int) : Int := if lo ≤ v ∧ v ≤ hi then v else clampI lo hi (Config.beyondField v)

end Sys2Proof.Machine
end

