-- ==== Sys2Proof/Machine/Flags.lean ====
section
/-!
DEFINITION. Access codes (R19), halves of a register (R536), guards (R575) and reserved values (R577).
-/

namespace Sys2Proof.Machine

/-- The mask of field [lo+len-1:lo] of a 64-bit register. -/
def fm (lo len : Nat) : W64 := BitVec.ofNat 64 ((2 ^ len - 1) * 2 ^ lo)

/-- The bits that a write reaches: the halves it carries (R536). -/
def wrMask (w : Wr) : W64 := (if w.lo then fm 0 32 else 0) ||| (if w.hi then fm 32 32 else 0)

/-- A register after a write of its RW fields (R19, R536); other bits are kept. -/
def rwMerge (rw : W64) (w : Wr) (cur : W64) : W64 :=
  (cur &&& ~~~ (rw &&& wrMask w)) ||| (w.val &&& rw &&& wrMask w)

/-- The W1C or WO bits that a write sets to 1 (R19, R536). -/
def hitBits (mask : W64) (w : Wr) : W64 := w.val &&& mask &&& wrMask w

/-- A write would change a guarded field (R575). -/
def changes (guarded : W64) (rw : W64) (w : Wr) (cur : W64) : Bool :=
  (rwMerge rw w cur ^^^ cur) &&& guarded != 0

/-- A 32-bit write as a write of the low half of a 64-bit word. -/
def wr32 (v : W32) : Wr := { lo := true, hi := false, val := BitVec.ofNat 64 v.toNat }

/-- The low 32 bits of a word. -/
def lo32 (v : W64) : W32 := BitVec.ofNat 32 v.toNat

/-- A 32-bit register after a write of its RW fields. -/
def rw32 (rw : W32) (v : W32) (cur : W32) : W32 := (cur &&& ~~~ rw) ||| (v &&& rw)

/-- W1C of one flag: cleared where the written bit is 1 (R19). -/
def clr (flag : Bool) (hit : W64) (i : Nat) : Bool := flag && !bit hit i

end Sys2Proof.Machine
end

