-- ==== Sys2Proof/Machine/State.lean ====
section
/-!
DEFINITION. The state of the ZK96 as plain data: every register, memory, queue, counter, mode and pin
the spec gives the block, and the queue of commands that wait. A field's default is its value after
power-on reset (R539); where the spec gives none, the assumption log names the value (DESIGN CHOICE, entry 2).
Arrays are sparse maps: a list of (index, value) pairs, indices rising, an unlisted index holding the
default of its type, and no listed value equal to it (DESIGN CHOICE, entry 3).
-/

namespace Sys2Proof.Machine

/-- A sparse array: indices rising, an unlisted index holds the default value. -/
abbrev SMap (V : Type) := List (Nat × V)

/-- A byte memory: an unlisted address reads as zero. -/
abbrev Mem := List Host.Cell

/-- No command of this block ends in a fault: the spec gives every step an effect or none, and a step
whose occasion is not there leaves the state as it is (DEDUCED, entry 4). Safe. -/
inductive Fault where
deriving DecidableEq, Repr

/-- Why a command has no meaning. -/
inductive Refusal where
  /-- Raised only by Dispatch, for a row that has no meaning yet; none is left. Safe. -/
  | notModelled (mnemonic : String)
deriving DecidableEq, Repr

/-- The seven device states (Table 1.6), in code order. -/
inductive DevState where
  | reset | boot | bringUp | calibrate | ready | standby | deepStandby
deriving DecidableEq, Repr, Inhabited

/-- What leaves the block, newest first in State.out: the model's own record of its outputs (DESIGN CHOICE, entry 5). -/
inductive Out where
  /-- An MSI-X message of a vector (R482, R546). -/
  | msix (vector : Nat)
  /-- A transition at the ball of a channel, at an instant in grains of running count (R230): 0 the open input, 1 low,
  2 high, 3 the termination (R243, R244). -/
  | drive (ch : Nat) (t : Int) (lvl : Nat)
  /-- The start of an 8 ns TRIG_OUT pulse, at the firing instant it answers (R101, R313). -/
  | trigOut (i : Nat) (t : Int)
  /-- PPS_OUT from an instant on: driven high, driven low, or not driven (R364). -/
  | ppsOut (t : Int) (level : Option Bool)
  /-- REF_OUT over the span that begins at an instant: periods in the span, the first rising edge on the tick (R362). -/
  | refOut (t : Int) (periods : Nat)
  /-- A Halso message handed to a port: instant, port, class, and its blocks in order, sync header in bits [1:0] and
  payload in [65:2] (R383, Table 8.7). -/
  | halso (t : Int) (port cls : Nat) (blocks : List (BitVec 66))
  /-- A PTP message that the port sends: messageType, UDP/IPv4 or Ethernet, domainNumber, sequenceId, and the timestamp it
  carries, 0 for none (R376, R377). -/
  | ptp (msg : Nat) (udp : Bool) (dom seq : Nat) (stamp : Int)
  /-- An Announce that the port sends. -/
  | ptpAnnounce (udp : Bool) (dom seq : Nat) (a : Announce)
  /-- A block sent on a link TX lane: instant of its first bit, octet, lane, sync header in bits [1:0] and payload in
  [65:2] (R275, Tables 5.8, 5.9). -/
  | link (t : Int) (o lane : Nat) (block : BitVec 66)
deriving DecidableEq, Repr, Inhabited

/-- The SYS block (Tables 13.3 to 13.14) and the device state. -/
structure Sys where
  /-- Ordering code ZK96-64 (R6): a factory value. -/
  is64 : Bool := false
  /-- Stepping letter and digit (R14): a factory value. -/
  rev : BitVec 12 := 0x142
  state : DevState := .reset
  prev : DevState := .reset
  /-- A wake is under way (Table 13.6, busy). -/
  waking : Bool := false
  refused : Bool := false
  refusedReq : BitVec 3 := 0
  /-- Power request waiting for its test at the next span (R540). -/
  powerReq : BitVec 2 := 0
  softReq : Bool := false
  /-- PERST_N or FLR waiting for cycle 0 of the next span (R510). -/
  pcieReq : Bool := false
  disReq : BitVec 16 := 0
  /-- Octet-disable requests not yet tested (R517). -/
  disTest : BitVec 16 := 0
  disabled : BitVec 16 := 0
  /-- SYS_LOST: dram is 1 after power-on reset. -/
  lost : BitVec 5 := 0b00010
  ceilOctet : BitVec 4 := 0
  ceilDropped : BitVec 16 := 0
  irqStatus : BitVec 20 := 0
  irqEnable : BitVec 20 := 0
  alertSel : BitVec 20 := 0
  route : SMap (BitVec 11) := []
  scratch : W64 := 0
  /-- ALERT_N is released until the end of Boot step 1 (R568). -/
  alertHeld : Bool := true
  /-- RESET_N is low. -/
  resetN : Bool := false
  /-- Power-on reset has not ended. -/
  por : Bool := true
  /-- A supply is below its detector, so Boot cannot begin (R561). -/
  railsGood : Bool := false
  /-- The Boot under way follows a soft reset (R503). -/
  softBoot : Bool := false
  /-- PCIe subsystem vendor and subsystem identity of section 0 (Table 11.3). -/
  subVendor : BitVec 16 := 0
  subId : BitVec 16 := 0
deriving DecidableEq, Repr, Inhabited

/-- An MSI-X table entry and its pending bit (PCIe MSI-X rules, R482). (PRESUMED, entry 26.) -/
structure Msix where
  addr : W64 := 0
  data : W32 := 0
  masked : Bool := true
  pending : Bool := false
deriving DecidableEq, Repr, Inhabited

/-- A queue context (Tables 10.3 to 10.7). -/
structure Queue where
  base : W64 := 0
  headwb : W64 := 0
  /-- QCTX_CFG (Table 10.5). -/
  cfg : W64 := 0
  head : Nat := 0
  tail : Nat := 0
  phase : Bool := false
  dbErr : Bool := false
  fetchErr : Bool := false
  refused : Bool := false
  /-- Fetch stopped by a read error until the queue is enabled again (R453). -/
  halted : Bool := false
  /-- The next descriptor would open a chain beyond 4,096 (R473). -/
  chainStop : Bool := false
  posted : Nat := 0
  /-- The head has moved since its last writeback (R448). -/
  hwbDue : Bool := false
  /-- One more than the span of the last head writeback; 0 for none. -/
  hwbSpan : Nat := 0
  /-- Posted entries not yet signalled (R481). -/
  unsig : Nat := 0
  /-- Span in which the oldest of them was posted. -/
  unsigSpan : Nat := 0
deriving DecidableEq, Repr, Inhabited

/-- Where a command stands between its fetch and its release (R466). -/
inductive Phase where
  | free | waiting | delayed | ready | dispatched | done
deriving DecidableEq, Repr, Inhabited

/-- A slot of the command store. -/
structure Cmd where
  ph : Phase := .free
  desc : Desc := 0
  sq : Nat := 0
  /-- Fetch order. -/
  seq : Nat := 0
  /-- Fetch number of the chain member before it (R470). -/
  pred : Option Nat := none
  dspan : Nat := 0
  /-- Its unit has begun it (a long-running command). -/
  begun : Bool := false
  status : BitVec 8 := 0
  result : W32 := 0
  cspan : Nat := 0
  untraceable : Bool := false
  /-- Dispatch number, from 1 (R43, R469). -/
  dord : Nat := 0
deriving DecidableEq, Repr, Inhabited

/-- A chain (R473): outstanding members and the status of the last one released. (DEDUCED, entry 73.) -/
structure Chain where
  active : Nat := 0
  last : Option Nat := none
  relStatus : BitVec 8 := 0
deriving DecidableEq, Repr, Inhabited

/-- An entry of the spill ring (R477). -/
structure SpillEnt where
  cq : Nat
  entry : BitVec 128
  irqNow : Bool
deriving DecidableEq, Repr, Inhabited

/-- The HQM global registers and schedulers (Tables 10.17 to 10.23). -/
structure Hqm where
  fetchEn : Bool := true
  late : Bool := false
  spillEn : Bool := false
  spillRefused : Bool := false
  spillBase : BitVec 22 := 0
  spill : List SpillEnt := []
  spillWr : Nat := 0
  spillEvent : Bool := false
  highWater : Nat := 0
  errQueue : BitVec 13 := 0
  errKind : BitVec 3 := 0
  errEvent : Bool := false
  revEngine : BitVec 7 := 0
  revEvent : Bool := false
  revCount : Nat := 0
  /-- Group and queue served last (R467). -/
  lastGroup : Nat := 127
  lastQ : SMap Nat := []
  /-- Ready commands in dispatch order (R469). -/
  readyQ : List Nat := []
  dispatched : Nat := 0
  /-- Dispatch number of the latest command dispatched (R43, R469). -/
  dispNo : Nat := 0
  nextSeq : Nat := 0
  chains : SMap Chain := []
  cmds : SMap Cmd := []
  queues : SMap Queue := []
  msix : SMap Msix := []
deriving DecidableEq, Repr, Inhabited

/-- A DRAM channel (Table 3.19, R579, R195). -/
structure DramChan where
  trained : Bool := false
  debt : Nat := 0
  quarter : Nat := 0
  /-- MR4 rate code: 0, 1, 2 for 1×, 2×, 4×. -/
  rate : Nat := 0
  forced : Bool := false
  forcedEvent : Bool := false
  forcedCount : Nat := 0
  /-- Banks already refreshed in the current round. -/
  done : BitVec 16 := 0
  /-- Write timing and its target (R188). -/
  wtime : Int := 0
  wtarget : Int := 0
  /-- The refresh of cycle 128 of the span is still to come; the banks that are busy then (R195). -/
  second : Option (BitVec 16) := none
  /-- It has been in FORCED in some part of the span (R172). -/
  wasForced : Bool := false
deriving DecidableEq, Repr, Inhabited

/-- Kinds of DRAM request: the best-effort ones, and the reserved ones, whose data the stream and capture engines move
(R191, Table 12.2). -/
inductive BeKind where
  | memRead | memWrite | memFill | acqRead | spill | tsRing | psRing | reserved
deriving DecidableEq, Repr, Inhabited

/-- A best-effort DRAM request: bytes `pos` to `len` still to move. -/
structure BeReq where
  id : Nat := 0
  kind : BeKind := .spill
  cmd : Option Nat := none
  dram : Nat := 0
  host : Nat := 0
  len : Nat := 0
  pos : Nat := 0
  /-- Running count at queueing: its age (R191). -/
  at_ : Nat := 0
  pattern : W64 := 0
  /-- An engine wrote a line of the range meanwhile (R463). -/
  suspect : Bool := false
  /-- Bytes to write, for a ring entry. -/
  data : List Byte := []
  /-- Status and result to complete with (R329, R464). -/
  status : BitVec 8 := 0
  res : Nat := 0
deriving DecidableEq, Repr, Inhabited

/-- The DRAM controller (Tables 3.18, 3.19). -/
structure Dram where
  grain : BitVec 3 := 0
  rate : BitVec 3 := 5
  refused : Bool := false
  activeRate : BitVec 3 := 0
  density : BitVec 2 := 0
  enabled : Bool := false
  chans : SMap DramChan := []
  mem : Mem := []
  reqs : List BeReq := []
  nextReq : Nat := 0
  /-- Open row plus 1 of bank b of channel c at index 16c + b; 0 closed. -/
  openRow : SMap Nat := []
  /-- The devices are in self-refresh (R512, R513). -/
  selfRef : Bool := false
deriving DecidableEq, Repr, Inhabited

/-- The bushel map (Table 13.15). -/
structure Bushel where
  claimed : Bool := false
  slot : Nat := 0
  pb : Nat := 0
deriving DecidableEq, Repr, Inhabited

/-- Peck frame states (Table 3.1). -/
inductive FrameSt where
  | empty | valid | pending | bad
deriving DecidableEq, Repr, Inhabited

/-- A stream frame: its state and the refill slot that last issued into it. -/
structure Frame where
  st : FrameSt := .empty
  slot : Nat := 0
deriving DecidableEq, Repr, Inhabited

/-- A refill issued and not yet arrived correct (R172, R173). -/
structure Refill where
  id : Nat := 0
  plan : Nat := 0
  /-- Frame index of a stream peck. -/
  frame : Nat := 0
  /-- Overlay load: site, window, overlay. -/
  isOvl : Bool := false
  site : Nat := 0
  window : Nat := 0
  ovl : Nat := 0
  slot : Nat := 0
  src : Nat := 0
  crc : W32 := 0
  span : Nat := 0
  /-- DRAM address of its CRC in block 9. -/
  crcAt : Nat := 0
  /-- k of R172 so far: spans in which a channel that its lines touch was in FORCED. -/
  waits : Nat := 0
  /-- The attempt in flight is the retry. -/
  retry : Bool := false
  /-- The first attempt failed and the retry waits for this span and slot. -/
  retryAt : Option (Nat × Nat) := none
deriving DecidableEq, Repr, Inhabited

/-- A region descriptor (Table 3.7). -/
structure Region where
  kind : Nat := 0
  site : Nat := 0
  first : Nat := 0
  count : Nat := 0
  src : Nat := 0
  srcCount : Nat := 0
  crcIndex : Nat := 0
  loopCursor : Nat := 0
  crc : W32 := 0
deriving DecidableEq, Repr, Inhabited

/-- A span template (Table 3.8). -/
structure Template where
  refill : List Nat := []
  write : List Nat := []
deriving DecidableEq, Repr, Inhabited

/-- A schedule entry (Table 3.9). -/
structure SchedEntry where
  template : Nat := 0
  repeatM1 : Nat := 0
  stallFirst : Nat := 0
  stallCount : Nat := 0
deriving DecidableEq, Repr, Inhabited

/-- A stall-point entry (Table 3.10). -/
structure Stall where
  site : Nat := 0
  park : Bool := false
  addr : Nat := 0
  ovl : Nat := 0
  vaddr : Nat := 0
deriving DecidableEq, Repr, Inhabited

/-- A loaded plan (R37 to R47, R147 to R168). -/
structure Plan where
  planId : W64 := 0
  rates : List Nat := []
  linkMask : BitVec 16 := 0
  sites : List Nat := []
  regions : List Region := []
  templates : List Template := []
  entries : List SchedEntry := []
  loopFrom : Nat := 0xFFFF
  stalls : List Stall := []
  blk8 : Nat := 0
  blk9 : Nat := 0
  /-- Physical bushel of each claimed plan bushel (R140). -/
  bushels : SMap Nat := []
  frames : SMap Frame := []
  cursors : SMap Nat := []
  running : Bool := false
  /-- Span in which the schedule starts (R159). -/
  startAt : Option Nat := none
  entry : Nat := 0
  rep : Nat := 0
  /-- The current entry is held at a closed gate (R167). -/
  held : Bool := false
  /-- Template whose write slots hold in this span (R162). -/
  curT : Nat := 0
  /-- The schedule has ended without a wrap (R161). -/
  ended : Bool := false
  /-- Retired, awaiting the tick of R46. -/
  retired : Bool := false
deriving DecidableEq, Repr, Inhabited

/-- The vector store and the plan and template stores (Tables 3.16, 3.17). -/
structure Vstore where
  bushels : SMap Bushel := []
  mem : Mem := []
  plans : SMap (Option Plan) := []
  refills : List Refill := []
  nextRefill : Nat := 0
  /-- Pecks issued in the current span and the 7 before it, newest first (R36). -/
  issued : List Nat := []
  crcFail : Nat := 0
  bad : Nat := 0
  event : Bool := false
  /-- A PLAN_LOAD that waits for UI PLLs it powered up: command and octets (R228). -/
  loadWait : Option (Nat × BitVec 16) := none
  /-- How its reads end, where it was told so before that wait. -/
  loadErr : ReadOutcome := .ok
deriving DecidableEq, Repr, Inhabited

/-- A loop-stack entry (R95), with the window tag it recorded (R82). -/
structure LoopEnt where
  addr : Nat := 0
  ovl : Nat := 0
  count : Nat := 0
  depth : Nat := 0
deriving DecidableEq, Repr, Inhabited

/-- A call-stack entry (R96), with the overlay it recorded. -/
structure CallEnt where
  addr : Nat := 0
  ovl : Nat := 0
deriving DecidableEq, Repr, Inhabited

/-- How a run ends (R136, R177): status and result of SITE_START. -/
structure EndInfo where
  status : BitVec 8 := 0
  result : W32 := 0
  reason : BitVec 8 := 0
deriving DecidableEq, Repr, Inhabited

/-- What the sequencer has issued and the pins have not yet reached, in order. -/
inductive QItem where
  /-- A bundle of a VEC: address, overlay, run line, first record index, count, vectors played; whether it has been
  read, and was staged by a MATCH (R91). -/
  | bundle (addr ovl line j count played : Nat) (read staged : Bool) (recs : List Nat) (under : Option EndInfo)
  | setTs (ts : Nat)
  | mark (addr ovl m : Nat)
  | signal (dst : Nat)
  | matchI (addr ovl desc tgtA tgtB : Nat)
  | wait (addr ovl src timeout line : Nat) (clr : Bool)
  | sync (addr ovl barrier timeout rel : Nat)
  | park (addr ovl dur : Nat)
  | halt (addr ovl : Nat)
  /-- A stall point at an instruction address, before that instruction. -/
  | stall (addr ovl : Nat)
  /-- An abort or underrun that the issue side met: it ends the run here. Address and overlay of the instruction
  that met it. -/
  | stop (addr ovl : Nat) (e : EndInfo)
deriving DecidableEq, Repr, Inhabited

/-- What the pins of a site are doing. -/
inductive Play where
  | idle
  /-- Accepted; the first vector is still to start (R94). -/
  | starting
  | run
  /-- In a MATCH: descriptor, targets, address, overlay, cycle from 1, consecutive hits, vectors of the
  cycle played, hit of this cycle, an unlocked pin met. -/
  | probe (desc tgtA tgtB addr ovl cycle hits pos : Nat) (hit unlocked : Bool)
  /-- At a WAIT_TRIG: wait vectors played. -/
  | wait (addr ovl src timeout line played : Nat)
  /-- Held at a SYNC since span a. -/
  | sync (addr ovl barrier timeout rel a : Nat)
  | park (addr ovl until_ : Nat)
  /-- Paused at a stall point, playing the stall vector at a line unless parked (R165, R168). -/
  | stall (addr ovl : Nat) (parked : Bool) (line : Nat)
  /-- Pins parked at the end of the run; entries still to be written (R128). -/
  | ended
deriving DecidableEq, Repr, Inhabited

/-- An event latch with the instant that set it (R118, R120), and one more than the instant of its last clear, 0 for
none: a firing at or before a clear does not set it (R119). -/
structure Latch where
  set : Bool := false
  t : Nat := 0
  clr : Nat := 0
deriving DecidableEq, Repr, Inhabited

/-- A pending stop (R129, R133, R581): its command, none for R430, R435 and R510. -/
structure StopReq where
  cmd : Option Nat := none
  isPark : Bool := false
  /-- The span that follows its dispatch. -/
  p : Nat := 0
  /-- Span limit of a SITE_PARK, 0 for none. -/
  limit : Nat := 0
  /-- Dispatch order. -/
  ord : Nat := 0
deriving DecidableEq, Repr, Inhabited

/-- Where in a run an entry stands: vcount, instruction address and overlay, running count of the instant. -/
structure At where
  v : Nat := 0
  addr : Nat := 0
  ovl : Nat := 0
  t : Nat := 0
deriving DecidableEq, Repr, Inhabited

/-- A compare instant of a vector: its instant, its class, its expectation in the coding of strobe_expect,
and whether it is judged, suppressed, or sent to an external device and not yet answered (R206, R259, R281). -/
structure CmpRes where
  t : Int := 0
  cls : Option Cls := none
  exp : Nat := 0
  judged : Bool := false
  supp : Bool := false
  sent : Bool := false
  window : Bool := false
deriving DecidableEq, Repr, Inhabited

/-- The compares of one pin in one vector, in time order, and its marks. -/
structure PinRes where
  ch : Nat := 0
  cmps : List CmpRes := []
  marks : List Nat := []
  /-- An event word of the logical pin was not sent (R280). -/
  late : Bool := false
  /-- The vector lies in an open suspect range of the pin (R298). -/
  ranged : Bool := false
deriving DecidableEq, Repr, Inhabited

/-- A suspect range entry to make: channel, cause, lock-window length (Table 6.4). -/
abbrev SusEnt := Nat × Nat × Nat

/-- What a site has produced and its fail log has not yet taken: a vector whose results are complete once no
compare is unanswered, a boundary entry, or the end of the run. -/
inductive Held where
  /-- A vector: place, timing set, untraceable, a match vector (its descriptor), logged under
  log_match, results, suspect ranges that open and close there. -/
  | vec (p : At) (ts : Nat) (untr : Bool) (probe : Option Nat) (logM : Bool) (pins : List PinRes)
      (opens closes : List SusEnt)
  /-- An entry: type, word_a, word_b. -/
  | entry (p : At) (type wa wb : Nat) (untr : Bool)
  /-- The end of the run: a SITE_STOP made it; status and reason. -/
  | fin (p : At) (stopped : Bool) (status reason : BitVec 8) (untr : Bool)
deriving DecidableEq, Repr, Inhabited

/-- A site sequencer and its site. -/
structure Site where
  /-- Mode declared by the site program (Table 1.8); 7 unassigned. -/
  mode : Nat := 7
  running : Bool := false
  plan : Nat := 0
  lastReason : BitVec 8 := 0
  imem : SMap W64 := []
  dmem : Mem := []
  win0 : Nat := 0
  win1 : Nat := 0
  pc : Nat := 0
  ovl : Nat := 0
  loops : List LoopEnt := []
  calls : List CallEnt := []
  issuing : Bool := false
  /-- Vectors of the current VEC already issued. -/
  vecDone : Nat := 0
  /-- The last instruction was a VEC into which none is folded yet (R90). -/
  foldable : Bool := false
  /-- Issue waits at a MATCH for its decision (R91). -/
  matchWait : Bool := false
  q : List QItem := []
  play : Play := .idle
  /-- Running count at which the next vector starts. -/
  nextT : Nat := 0
  ts : Nat := 0
  vcount : Nat := 0
  latches : SMap Latch := []
  /-- One more than the instant of the SITE_START that cleared the latches (R118). -/
  latchT : Nat := 0
  /-- The instant at which it became known what plays from that boundary on: a latch set, a decision (R112, R120). -/
  cueT : Nat := 0
  /-- The boundary before which it was not known what plays next: the end of a wait, of a pause or of a MATCH (R120,
  R168, R576). -/
  knownT : Nat := 0
  /-- Bundles of a MATCH that still play after a revocation (R135). -/
  leaseLeft : Option Nat := none
  mCycles : Nat := 0
  mOutcome : Bool := false
  mSuspect : Bool := false
  mDesc : Nat := 0
  mSpan : W32 := 0
  cmd : Option Nat := none
  fin : Option EndInfo := none
  stops : List StopReq := []
  /-- Stop commands that the run's end decided without (R581), to complete with result 0. -/
  losers : List Nat := []
  /-- Timing sets that the site's program names, as PLAN_LOAD found them (R87, R217). -/
  named : BitVec 64 := 0
  mergeEn : Bool := false
  mergeGroup : Nat := 0
  /-- Boundary of the last SIGNAL and the destinations raised there (R102). -/
  sigT : Nat := 0
  sigs : List Nat := []
  /-- Span in which the pins parked at the end of the run (R136, R176). -/
  parkSpan : Nat := 0
  /-- What the fail log has not yet taken, oldest first. -/
  held : List Held := []
  /-- The last vector played. -/
  lastV : At := {}
  /-- The site leaves its stall point at the first stall-vector boundary from here on (R168). -/
  resume : Bool := false
  /-- The command that decided the stop, to complete with result 1 (R581). -/
  decider : Option Nat := none
deriving DecidableEq, Repr, Inhabited

/-- A barrier of a group of sites (R123 to R126). -/
structure Barrier where
  arrived : BitVec 64 := 0
  /-- Latest local arrival span. -/
  a : Nat := 0
  sent : Bool := false
  /-- Arrivals of other devices: device and span. -/
  remote : SMap (Option Nat) := []
  /-- Release span once A is formed (R124). -/
  rel : Option Nat := none
deriving DecidableEq, Repr, Inhabited

/-- A data block of a TX lane: the instant of its first bit, and its two words, 0 in an empty slot (R275, R276). -/
structure LinkBlk where
  t : Int
  a : Nat := 0
  b : Nat := 0
deriving DecidableEq, Repr, Inhabited

/-- An octet: UI PLL, ceiling, ageing, link lanes. -/
structure Octet where
  pllOff : Bool := false
  locked : Bool := false
  unlockEvent : Bool := false
  unlockCount : Nat := 0
  /-- Changes of locked, newest first: running count, value then (R259). -/
  chg : List (Nat × Bool) := []
  ceiling : Nat := 0
  /-- The ceiling that Boot set (R439). -/
  bootCeil : Nat := 0
  tCal : BitVec 12 := 0
  drop : Bool := false
  /-- It was enabled again and its UI PLL has not locked since (R517). -/
  relock : Bool := false
  cFab : Nat := 0
  margin0 : Int := 0
  base0 : Int := 0
  readings : List Nat := []
  nReadings : Nat := 0
  d : Nat := 0
  m : Int := 0
  /-- UI PLL band code (Table 11.4). -/
  band : Nat := 0
  trim : Int := 0
  asym : List Int := []
  /-- Median of the previous applied OCTET_DRIFT evaluation (R407). -/
  baseline : Option Int := none
  /-- Index of the lane rate (R227, Table 4.10). -/
  linkRate : Nat := 0
  linkEn : Bool := false
  scale : BitVec 2 := 0
  linkReady : Bool := false
  rxLol : BitVec 4 := 0
  txFault : BitVec 4 := 0
  laneEvent : Bool := false
  late : Nat := 0
  /-- Round trip of each lane whose echo has been measured, plus 1, in grains (R277). -/
  rtts : SMap Nat := []
  /-- Fault bits of the logical pins (R284). -/
  faults : BitVec 8 := 0
  /-- Management words, lane, address and data, that wait until no running site owns a logical pin (R283), oldest
  first. -/
  mgmt : List (Nat × Nat × Nat) := []
  /-- Data blocks of each TX lane that later words may still join, newest first (R275). -/
  blks : SMap (List LinkBlk) := []
deriving DecidableEq, Repr, Inhabited

/-- Targets and applied corrections of one DAC (Table 5.19). -/
structure Dac where
  tOff : Int := 0
  tGain : Int := 0
  off : Int := 0
  gain : Int := 0
deriving DecidableEq, Repr, Inhabited

/-- An open suspect range of a channel (R260, R298). -/
structure Suspect where
  site : Nat := 0
  cause : Nat := 0
  lockWin : Nat := 0
  /-- Its first vector has been played. -/
  opened : Bool := false
  closing : Bool := false
deriving DecidableEq, Repr, Inhabited

/-- A running eye scan (R266 to R269). -/
structure Scan where
  cmd : Nat := 0
  d : Nat := 0
  pMin : Int := 0
  pStep : Nat := 1
  pCount : Nat := 0
  vMin : Int := 0
  vStep : Nat := 1
  vCount : Nat := 0
  dest : Nat := 0
  done : Nat := 0
  /-- In the point under way the pin was unlocked, or moved a DFE tap (Table 5.6). -/
  unl : Bool := false
  moved : Bool := false
deriving DecidableEq, Repr, Inhabited

/-- A pin channel: its TIMING, PIN, DDS_PIN_SEL, CAL_CH_STATUS and CAP_CH_FAILS registers, tables and
electronics. -/
structure Pin where
  cfg : W32 := 0x300
  aux : W32 := 0x320000
  /-- PIN_CTLE. Its setting of 6 is also the factory default that Bring-up holds: whether R251 means this value or that of
  the PIN_CTLE record of the factory region (R496) the spec leaves open (DESIGN CHOICE, entry 140). -/
  ctle : W32 := 0x106
  taps : SMap Int := []
  phase : Int := 0
  ferr : Int := 0
  locked : Bool := false
  los : Bool := false
  lolEvent : Bool := false
  losEvent : Bool := false
  phaseLimit : Bool := false
  refused : Bool := false
  dacSat : Bool := false
  lolCount : Nat := 0
  scan : Option Scan := none
  dacs : SMap Dac := []
  dDrv : Int := 0
  dCmp : Int := 0
  tDrv : Int := 0
  tCmp : Int := 0
  fall : Int := 0
  vDrv : Int := 0
  vCmp : Int := 0
  /-- One more than the span of the last vernier move (R233). -/
  vSpan : Nat := 0
  /-- Drive state at the ball: 0 HiZ, 1 low, 2 high (R205). -/
  drv : Nat := 0
  /-- Parked with code 0b00 or released: the open input (R244). -/
  openIn : Bool := true
  lastDrv : Option Int := none
  lastCmp : Option Int := none
  /-- Changes of locked, newest first: running count, value then (R259). -/
  chg : List (Nat × Bool) := []
  /-- Changes of the phase, newest first: running count, φ from then on (R237). -/
  phs : List (Nat × Int) := []
  /-- Level set of the last vector, and the start of the first vector played under it (R221, R241). -/
  lastLev : Nat := 0
  levT : Int := 0
  /-- First bit of the last data block that carries a word of the logical pin (R280). -/
  sentT : Option Int := none
  /-- One more than the span in which the last eye scan completed (R270). -/
  scanEnd : Nat := 0
  /-- Running count of the end of the last lock window, or of entry into tracked mode (R254). -/
  winT : Nat := 0
  goodWin : Nat := 0
  tset : SMap W64 := []
  loaded : BitVec 64 := 0
  level : SMap W64 := []
  /-- Wave entry e of timing set s at index 16s + e. -/
  waves : SMap (BitVec 256) := []
  ddsGen : Nat := 0
  ddsEn : Bool := false
  lastStep : BitVec 8 := 0
  lastPre : BitVec 4 := 0
  vernSat : Bool := false
  preFail : Nat := 0
  visits : Nat := 0
  fails : Nat := 0
  suspect : Option Suspect := none
  /-- A tap moved in the current span (R249). -/
  dfeMoved : Bool := false
  /-- Spans for which tap 1 has stayed at or above +96 mV, or at or below +16 mV, with preconditions held (R409). -/
  ctleHi : Nat := 0
  ctleLo : Nat := 0
  /-- DRIVE_TIMING has applied a result since the last OCTET_DRIFT evaluation (R407). -/
  driveTimed : Bool := false
  /-- State changed during the window of a running step of the channel (R402), or of a DDS_SKEW that uses it. -/
  disturbed : Bool := false
  refDist : Bool := false
  /-- Lowest and highest reading of the octet's sensor in the window of a step; none without one (code 7). -/
  temps : Option (Int × Int) := none
  /-- Vernier targets in force before those written in a span, and one more than that span (R418). -/
  pDrv : Int := 0
  pCmp : Int := 0
  tSpan : Nat := 0
  /-- Changes of the fault-free state of a logical pin (R284), newest first: running count, state then. -/
  lchg : List (Nat × Bool) := []
deriving DecidableEq, Repr, Inhabited

/-- A staged fail-log entry (R290, R305). -/
structure Staged where
  site : Nat := 0
  bits : BitVec 256 := 0
  /-- Entry number in its run. -/
  e : Nat := 0
  span : Nat := 0
  /-- It holds the site's reserved truncation place. -/
  reserved : Bool := false
deriving DecidableEq, Repr, Inhabited

/-- Capture registers and log state of a site (Tables 6.10 to 6.15). -/
structure SiteCap where
  logLimit : BitVec 24 := 0
  logEn : Bool := false
  holdEn : Bool := false
  refused : Bool := false
  size : BitVec 4 := 0
  base : BitVec 36 := 0
  wr : Nat := 0
  fails : Nat := 0
  failsSat : Bool := false
  limitHit : Bool := false
  truncated : Bool := false
  compares : Nat := 0
  comparesSat : Bool := false
  supp : Nat := 0
  suppSat : Bool := false
  firstV : Nat := 0
  firstAddr : Nat := 0
  firstOvl : Nat := 0
  firstSpan : BitVec 48 := 0
  firstCycle : Nat := 0
  firstCh : Nat := 0
  firstValid : Bool := false
  /-- Entries staged in this run: the next entry number. -/
  nextE : Nat := 0
  failEntries : Nat := 0
  lostFail : Nat := 0
  lostOther : Nat := 0
  /-- Unreported losses fell in a lease revocation (R309). -/
  lostRevoked : Bool := false
  /-- An entry of the run was lost to a full staging (R295, R305). -/
  lostFull : Bool := false
  /-- Where the run ended, when its end entry fell in a lease revocation (R309). -/
  endAt : Option At := none
deriving DecidableEq, Repr, Inhabited

/-- A capture engine 64 + m (Tables 6.17, 6.18). -/
structure CapEng where
  holdHi : BitVec 7 := 96
  holdLo : BitVec 7 := 32
  hold : Bool := false
  lost : Nat := 0
  lostEvent : Bool := false
  staging : List Staged := []
  /-- Leases revoked, first renewal still to come (R309). -/
  revoked : Bool := false
deriving DecidableEq, Repr, Inhabited

/-- A trigger unit (Tables 6.19 to 6.25). -/
structure TrigUnit where
  cfg : W64 := 0
  chanLo : W64 := 0
  chanHi : W64 := 0
  pattern : W64 := 0
  holdoff : W64 := 0
  acq : W64 := 0
  refused : Bool := false
  /-- Armed, in the group of this master. -/
  armed : Bool := false
  master : Nat := 0
  missed : Nat := 0
  remote : Nat := 0
  /-- In hold-off: since this instant (mode 1), or with this many missed conditions so far (mode 2). -/
  inHold : Bool := false
  holdT : Nat := 0
  holdN : Nat := 0
  /-- The pattern held in the previous sample since arming (R311). -/
  held : Bool := false
deriving DecidableEq, Repr, Inhabited

/-- A sample of the master's site: running count, vector index, entry index since arming or re-arming and position in
the entry (R319, Table 6.7). -/
structure Sample where
  t : Nat := 0
  v : Nat := 0
  idx : Nat := 0
  pos : Nat := 0
deriving DecidableEq, Repr, Inhabited

/-- The trigger of a group that is collecting (R319, R327). -/
structure Trig where
  /-- Firing instant of the first unit. -/
  ft : Nat := 0
  /-- Its trigger sample, once known. -/
  sample : Option Sample := none
  causeMap : BitVec 16 := 0
  remoteMap : BitVec 16 := 0
  forced : Bool := false
  /-- Missed triggers since the previous trigger sample or arming. -/
  missed : Nat := 0
deriving DecidableEq, Repr, Inhabited

/-- A record closed and being written, or written (R324, R328, R329). -/
structure Rec where
  seq : Nat := 0
  addr : Nat := 0
  len : Nat := 0
  flags : BitVec 16 := 0
  /-- Span in which it was closed. -/
  span : Nat := 0
  /-- Lines written. -/
  lines : Nat := 0
deriving DecidableEq, Repr, Inhabited

/-- A closed record of an arming that has ended: its lines still to be written, the records of that arming written so
far, and the commands that complete with it (R317). -/
structure Tail where
  cur : Rec
  lines : List (List Byte) := []
  written : Nat := 0
  cmd : Option Nat := none
  disarm : List (Option Nat) := []
  /-- No later TRIG_ARM of the master has ended access to it (R329). -/
  own : Bool := true
deriving DecidableEq, Repr, Inhabited

/-- States of a group (Table 6.24), with the arming that waits for its span (R315). -/
inductive GSt where
  | disarmed | arming | armed | collecting | rearming
deriving DecidableEq, Repr, Inhabited

/-- A trigger group, at the index of its master (R314 to R329). -/
structure Group where
  st : GSt := .disarmed
  units : BitVec 16 := 0
  recs : Bool := false
  count : Nat := 0
  gid : BitVec 8 := 0
  devices : BitVec 16 := 0
  base : Nat := 0
  size : Nat := 0
  cmd : Option Nat := none
  /-- First span of the arming, or of the last re-arming; and of the arming. -/
  armAt : Nat := 0
  armedAt : Nat := 0
  /-- TRIG_DISARM commands waiting: span and command (R317, R510). -/
  disarm : List (Nat × Option Nat) := []
  /-- Completed entries still held, oldest first, and the index of the first since arming. -/
  entries : List (List Nat) := []
  first : Nat := 0
  /-- The open interval in averaged mode: samples so far, high counts and none flags. -/
  nPart : Nat := 0
  highs : List Nat := []
  nones : List Bool := []
  /-- The samples since arming or re-arming that a firing may still map to, newest first (R319). -/
  hist : List Sample := []
  trig : Option Trig := none
  /-- The record closes at the last sample before an instant, with flags; whether the group is disarmed (R309, R317). -/
  shut : Option (Nat × Nat × Bool) := none
  missedAcc : Nat := 0
  closed : Nat := 0
  written : Nat := 0
  wrPos : Nat := 0
  /-- The closed record and its lines still to be written. -/
  cur : Option Rec := none
  lines : List (List Byte) := []
  past : List Rec := []
  /-- Span in which the last line was written. -/
  lineSpan : Nat := 0
  /-- Span in which the group became armed: start of the auto timer (R327). -/
  autoFrom : Nat := 0
  /-- Closed records of armings that have ended, oldest first (R317). -/
  tails : List Tail := []
deriving DecidableEq, Repr, Inhabited

/-- The capture and trigger engines. -/
structure Cap where
  sites : SMap SiteCap := []
  engs : SMap CapEng := []
  units : SMap TrigUnit := []
  groups : SMap Group := []
  /-- Rotation over engines for unclaimed write slots (R162). -/
  rot : Nat := 0
  /-- Write slots that have written in this span (R33). -/
  slotsUsed : BitVec 32 := 0
deriving DecidableEq, Repr, Inhabited

/-- What a generator plays from an instant on: a segment, or its idle value (R337 to R339). -/
structure GenSeg where
  /-- Running count of its start, skew included. -/
  from_ : Int := 0
  /-- Running count of sample 0, skew included. -/
  t0 : Int := 0
  /-- It runs; else the idle value. -/
  on : Bool := false
  /-- DDS_GEN_CFG.idle, or out of a segment: density (R335, R339). -/
  val : Bool := false
  /-- First sample. -/
  n0 : Nat := 0
  w : BitVec 48 := 0
  p : W32 := 0
  a : BitVec 16 := 0
  /-- Accumulator and error register at the first sample. -/
  acc : BitVec 48 := 0
  err : Nat := 0
deriving DecidableEq, Repr, Inhabited

/-- A DDS generator (Tables 7.1 to 7.12). -/
structure Gen where
  cfg : W32 := 0
  target : BitVec 11 := 0
  skew : Int := 0
  freq : SMap W64 := []
  phase : SMap W32 := []
  amp : SMap W32 := []
  seg : SMap (BitVec 128) := []
  seq : SMap W64 := []
  running : Bool := false
  /-- Accepted, sample 0 still to begin, in this span (R336). -/
  startSpan : Option Nat := none
  cmd : Option Nat := none
  /-- Jump pending: request instant and target (R346). -/
  jump : Option (Nat × Nat) := none
  /-- Target of the jump resolved for the next boundary, which a later request no longer replaces (R342). -/
  due : Option Nat := none
  jumpDone : Bool := false
  replaced : Nat := 0
  jumpBoundary : Nat := 0
  /-- Sequence address that follows the current SEG. -/
  pc : Nat := 0
  /-- Loop entries: address, count, call depth. -/
  loops : List (Nat × Nat × Nat) := []
  calls : List Nat := []
  /-- Samples of the current segment. -/
  len : Nat := 0
  /-- Segments played, newest first, at most 300. -/
  segs : List GenSeg := []
  boundaries : Nat := 0
  /-- Stops pending, in dispatch order: span from which each holds, immediate flag, command (R350). -/
  stops : List (Nat × Bool × Option Nat) := []
deriving DecidableEq, Repr, Inhabited

/-- The DDS block. -/
structure Dds where
  refused : Bool := false
  gens : SMap Gen := []
deriving DecidableEq, Repr, Inhabited

/-- Servo states (Table 8.3). -/
inductive Servo where
  | free | acquire | locked | holdover | slew
deriving DecidableEq, Repr, Inhabited

/-- An entry of the timestamp event ring or of the sample ring not yet written (R380, R531): its 32 B and its age. -/
structure TsEnt where
  bits : BitVec 256 := 0
  at_ : Nat := 0
deriving DecidableEq, Repr, Inhabited

/-- The PTP port (R376 to R382). -/
structure Ptp where
  /-- Data set of the best Announce received. -/
  parent : Option Announce := none
  /-- Two-step Sync waiting for its Follow_Up: sequence, receipt time, correction. -/
  sync : Option (BitVec 16 × Int × Int) := none
  /-- Complete Sync that no measurement has used: origin time with its corrections added, and receipt time. -/
  t12 : Option (Int × Int) := none
  /-- The same, kept for the delay exchange that follows it. -/
  lastSync : Option (Int × Int) := none
  /-- Two-step Pdelay_Resp waiting for its Follow_Up: sequence, request sent, receipt carried, own receipt,
  correction. -/
  pd : Option (BitVec 16 × Int × Int × Int × Int) := none
  /-- Last meanPathDelay, and whether no measurement has used it yet. -/
  mpd : Option Int := none
  fresh : Bool := false
  /-- Last 8 accepted path delays, newest first (R381). -/
  delays : List Int := []
  /-- Previous accepted offset. -/
  lastOff : Option Int := none
  /-- Transmit timestamp queue (R379): sequence, message type, time. -/
  txq : List (BitVec 16 × Nat × Int) := []
  /-- Pdelay_Req received and not answered: sequence and receipt. -/
  preq : Option (BitVec 16 × Int) := none
deriving DecidableEq, Repr, Inhabited

/-- The time base (Tables 8.11 to 8.21). -/
structure Time where
  /-- The span counter (R28). -/
  span : Nat := 0
  /-- The first tick since Reset has come: it leaves the counter at 0 (R28). -/
  ticked : Bool := false
  /-- Grains elapsed since the last tick, as the last command that carries an instant gave them (DESIGN CHOICE, entry 6). -/
  grain : Nat := 0
  /-- Device time less running count, in grains (R355). -/
  offset : Int := 0
  epoch : BitVec 4 := 0
  nowHi : W32 := 0
  nowSpan : W64 := 0
  cfg : W64 := 0x0064000000000000
  gain : W64 := 0x1000000000800000
  limits : W64 := 0x050A0003E80003E8
  ptpCfg : W64 := 0x0000008080000000
  ptpAsym : BitVec 40 := 0x1400000000
  ptpLat : W32 := 0
  tsRing : W64 := 0
  tsWritten : Nat := 0
  tsLost : Nat := 0
  tsPend : List TsEnt := []
  refPresent : Bool := false
  refLostNow : Bool := true
  /-- One more than the running count at which REF_IN was last lost or returned; 0 for none (code 9). -/
  refT : Nat := 0
  refLost : Bool := false
  timeJump : Bool := false
  asymSuspect : Bool := false
  txTsOvf : Bool := false
  refused : Bool := false
  servo : Servo := .free
  holdCause : BitVec 3 := 0
  holdSpans : Nat := 0
  holdExpired : Bool := false
  /-- Applied ρ, integrator i and u of R360 and R366, in units of 2⁻⁴⁸. -/
  rho : Int := 0
  integ : Int := 0
  u : Int := 0
  lastE : Int := 0
  /-- Measurement accepted since the last evaluation: e and running count. -/
  meas : Option (Int × Nat) := none
  /-- Running count of the previous accepted measurement. -/
  lastT : Nat := 0
  /-- ACQUIRE: measurements taken, e2 and its instant, step allowed (R369). -/
  acqN : Nat := 0
  acqE : Int := 0
  acqT : Nat := 0
  acqStep : Bool := true
  /-- A jump that waits to be resolved: its e (R370, R393). -/
  jump : Option Int := none
  /-- A step decided (R371): the change of the offset, or the new offset of a TIME_SET; the span of its
  application; whether it is a TIME_SET; its command. -/
  step : Option (Int × Nat × Bool × Option Nat) := none
  /-- Remaining error while slewing (R370), or of a small Halso difference (R393). -/
  slewLeft : Int := 0
  /-- New source, effective at the next tick (R365). -/
  srcNext : Option (BitVec 2) := none
  /-- One more than the running count of the last PPS_OUT edge; 0 for none. -/
  lastPps : Nat := 0
  /-- PPS_OUT is driven, and the instant at which the pulse that is high ends (R364). -/
  ppsDriven : Bool := false
  ppsFall : Option Nat := none
  ptp : Ptp := {}
deriving DecidableEq, Repr, Inhabited

/-- A Halso port (Tables 8.24, 8.25). -/
structure HPort where
  up : Bool := false
  lanes : BitVec 2 := 0
  rtt : Nat := 0
  blockErr : Nat := 0
  asym : BitVec 16 := 0
  valid : Bool := false
  latTx : Int := 0
  latRx : Int := 0
  /-- Forward tick received: t1, t2, device time; return tick sent: t3. -/
  fwd : Option (Nat × Nat × Int) := none
  t3 : Option Nat := none
  /-- Last complete tick pair: t1, t2, d_fwd, device time carried (R393, R396). -/
  pair : Option (Nat × Nat × Int × Int) := none
  lastRtt : Option Nat := none
  /-- Receipt of the last return tick, reported back (t4). -/
  lastGot : Nat := 0
  /-- The neighbour on this port: the device of the first hello since its lanes locked (DEDUCED, entry 80). -/
  nbr : Option (BitVec 4) := none
  /-- One more than the span of the last span mark received; 0 for none. -/
  markAt : Nat := 0
deriving DecidableEq, Repr, Inhabited

/-- HALSO_PEER (Table 8.26). -/
structure Peer where
  e : BitVec 48 := 0
  state : BitVec 3 := 0
  traceable : Bool := false
  /-- One more than the span of the last receipt; 0 for none. -/
  at_ : Nat := 0
deriving DecidableEq, Repr, Inhabited

/-- HALSO_MERGE (Table 8.27). -/
structure Merge where
  failed : BitVec 16 := 0
  ended : BitVec 16 := 0
  first : BitVec 48 := 0
deriving DecidableEq, Repr, Inhabited

/-- A peer's hit for a cross-device probe cycle (R116). -/
structure PeerHit where
  dev : Nat
  group : Nat
  cycle : Nat
  hit : Bool
deriving DecidableEq, Repr, Inhabited

/-- The Halso link (Tables 8.22 to 8.27). -/
structure Halso where
  cfg : W64 := 0x400000
  joined : Bool := false
  joinPending : Bool := false
  conflict : Bool := false
  ringBroken : Bool := false
  lost : Bool := false
  rttStep : Bool := false
  spanSlip : Bool := false
  refused : Bool := false
  upstream : Bool := false
  position : BitVec 4 := 0
  present : BitVec 16 := 0
  /-- A hello has named the master, and its device number. -/
  masterSeen : Bool := false
  masterDev : BitVec 4 := 0
  helloDone : Bool := false
  /-- Span marks arrive on the upstream side (R396). -/
  marks : Bool := false
  masterTraceable : Bool := false
  /-- The second port of a side carries its next class-1 or class-2 message: bit d for side d (R388). -/
  alt : BitVec 2 := 0
  /-- Positions of the other devices, as their hellos gave them (R389). -/
  pos : SMap Nat := []
  /-- Class-0 messages of which one port of a pair has received the first copy: port, payload, span (R388). -/
  firsts : List (Nat × Nat × Nat) := []
  ports : SMap HPort := []
  peers : SMap Peer := []
  merges : SMap Merge := []
  hits : List PeerHit := []
deriving DecidableEq, Repr, Inhabited

/-- A window monitor (Tables 9.16 to 9.18). -/
structure Mon where
  cfg : W32 := 0
  sites : W64 := 0
  out : Bool := false
  unresolved : Bool := true
  rise : Bool := false
  fall : Bool := false
  raw : Bool := false
  refused : Bool := false
  edges : Nat := 0
  /-- Raw decisions, newest first, at most 31. -/
  hist : List Bool := []
  /-- A decision has been forced by a threshold since enabling. -/
  forced : Bool := false
deriving DecidableEq, Repr, Inhabited

/-- A temperature sensor (Table 9.12). -/
structure Sensor where
  temp : BitVec 12 := 0
  peak : BitVec 12 := 0
  /-- It has been read since power-on reset. -/
  seen : Bool := false
deriving DecidableEq, Repr, Inhabited

/-- What a calibration run does. -/
inductive CalMode where
  | none | full | single
deriving DecidableEq, Repr, Inhabited

/-- Calibration, converter, monitors, thermal sensing (Tables 9.7 to 9.18). -/
structure Cal where
  cont : BitVec 16 := 0x005E
  autoCal : Bool := false
  ddsRef : BitVec 7 := 0
  ddsRefEn : Bool := false
  step : BitVec 8 := 0
  failStep : BitVec 8 := 0
  failUnit : BitVec 7 := 0
  failPre : BitVec 4 := 0
  failEvent : Bool := false
  refused : Bool := false
  preFail : Nat := 0
  adcKind : BitVec 4 := 0
  adcIndex : BitVec 7 := 0
  adcA : BitVec 4 := 0
  adcBusy : Bool := false
  adcDone : Bool := false
  adcSum : BitVec 20 := 0
  warn : BitVec 12 := 800
  crit : BitVec 12 := 880
  warnEvent : Bool := false
  critEvent : Bool := false
  trip : Bool := false
  sensors : SMap Sensor := []
  mons : SMap Mon := []
  mode : CalMode := .none
  /-- Windows still to end, in order: step and unit. -/
  todo : List (Nat × Nat) := []
  cmd : Option Nat := none
  /-- CAL_RUN commands that wait their turn, in dispatch order. -/
  waiting : List Nat := []
  savedLoop : SMap (BitVec 3) := []
  written : Nat := 0
  refusedN : Nat := 0
  lowUnit : Nat := 0
  lowPre : BitVec 4 := 0
  convOff : Int := 0
  /-- Holdover frequency of the on-die oscillator (R361). -/
  oscFreq : Int := 0
  /-- One more than the channel of the last visit of each pin engine, and the span in which it began. -/
  visitCh : SMap Nat := []
  visitAt : SMap Nat := []
  /-- Steps of the visit whose windows have still to end. -/
  visitLeft : SMap (List Nat) := []
  /-- Spans each engine has gone without a renewal. -/
  missed : SMap Nat := []
  /-- Engines whose leases are revoked. -/
  revoked : SMap Bool := []
deriving DecidableEq, Repr, Inhabited

/-- An event counter (Table 12.6). -/
structure Cnt where
  count : BitVec 48 := 0
  high : BitVec 16 := 0
  sel : W32 := 0
deriving DecidableEq, Repr, Inhabited

/-- A snapshot of a counter. -/
structure Snap where
  count : BitVec 48 := 0
  ovf : Bool := false
deriving DecidableEq, Repr, Inhabited

/-- A sampled occurrence that has not ended (R528, R530): its number, its unit and the instant it started. -/
structure PsOpen where
  idx : Nat := 0
  unit : Nat := 0
  start : Nat := 0
deriving DecidableEq, Repr, Inhabited

/-- The PERF block (Tables 12.4 to 12.8). -/
structure Perf where
  freeze : Bool := false
  ovf : W64 := 0
  /-- One more than the span of the first go write that no snapshot has answered; 0 for none (R526). -/
  snapGo : Nat := 0
  period : BitVec 20 := 0
  snapSpan : BitVec 48 := 0
  snapSeq : BitVec 16 := 0
  /-- One more than the span of the last snapshot. -/
  snapAt : Nat := 0
  cnts : SMap Cnt := []
  snaps : SMap Snap := []
  psCfg : W64 := 0x0000000100000000
  psRefused : Bool := false
  psDropped : Nat := 0
  psSkipped : Nat := 0
  psRing : W64 := 0
  psWritten : Nat := 0
  psBuf : List TsEnt := []
  /-- The sampled occurrences still open (R530). -/
  psOpen : List PsOpen := []
  /-- Occurrences until the next sampled one, and sampled so far. -/
  psGap : Nat := 0
  psIdx : Nat := 0
  psLfsr : BitVec 16 := 0
  psDropFlag : Bool := false
deriving DecidableEq, Repr, Inhabited

/-- The configuration store (Tables 11.1 to 11.14). -/
structure Cfg where
  /-- The configuration memory, each byte complemented: an unlisted address reads 0xFF, erased (DESIGN CHOICE, entry 7). -/
  flash : Mem := []
  bank : Bool := false
  imageValid : Bool := false
  factoryCopy : Bool := false
  factoryBad : Bool := false
  saveFail : Bool := false
  absent : Bool := false
  present : BitVec 7 := 0
  skipped : Nat := 0
  seq : W32 := 0
  logSize : BitVec 5 := 0
  addr4 : Bool := false
  ageEntries : Nat := 0
  ageHalf : Bool := false
  ageSeq : W32 := 0
deriving DecidableEq, Repr, Inhabited

/-- TIMING_STATUS (Table 4.17): instants that the spacing rule moved, its event bits and the refused bit. -/
structure Timing where
  spacing : Nat := 0
  spacingEvent : Bool := false
  trimSat : Bool := false
  refused : Bool := false
deriving DecidableEq, Repr, Inhabited

/-- The whole machine. -/
structure State where
  sys : Sys := {}
  hqm : Hqm := {}
  dram : Dram := {}
  vs : Vstore := {}
  sites : SMap Site := []
  /-- Barrier b of the group of sites whose lowest site is n, at index 32n + b (R124). -/
  barriers : SMap Barrier := []
  octets : SMap Octet := []
  pins : SMap Pin := []
  timing : Timing := {}
  cap : Cap := {}
  dds : Dds := {}
  time : Time := {}
  halso : Halso := {}
  cal : Cal := {}
  perf : Perf := {}
  cfg : Cfg := {}
  /-- Host memory as the block has written it: rings, head writebacks, copied data. -/
  host : Mem := []
  /-- Outputs of the block, newest first. -/
  out : List Out := []
  /-- The model's own counter of free values drawn (DESIGN CHOICE, entry 1). -/
  free : Nat := 0
  /-- The commands that wait, first in, first out. -/
  pending : List Instr := []
deriving DecidableEq, Repr, Inhabited

/-- The machine right after power-on reset: device state Reset, no command waiting. (DESIGN CHOICE, entry 2.) -/
def State.reset : State := {}

end Sys2Proof.Machine
end

