-- ==== Sys2Proof/Machine/Map.lean ====
section
/-!
DEFINITION. Sparse arrays and byte memories: reading, writing and their canonical form. Their laws
stand in Laws/Map.lean.
-/

namespace Sys2Proof.Machine

/-- Element n: the default when unlisted. -/
def SMap.get {V : Type} [Inhabited V] : SMap V → Nat → V
  | [], _ => default
  | (k, v) :: m, n => if k = n then v else SMap.get m n

/-- A pair put before the first larger index. -/
def SMap.ins {V : Type} (n : Nat) (v : V) : SMap V → SMap V
  | [] => [(n, v)]
  | (k, w) :: m => if n < k then (n, v) :: (k, w) :: m else (k, w) :: SMap.ins n v m

/-- Element n replaced; a default value is unlisted. (DESIGN CHOICE, entry 3.) -/
def SMap.set {V : Type} [Inhabited V] [DecidableEq V] (m : SMap V) (n : Nat) (v : V) : SMap V :=
  let rest := m.filter fun e => e.1 != n
  if v = default then rest else SMap.ins n v rest

/-- Element n changed by a function. -/
def SMap.mod {V : Type} [Inhabited V] [DecidableEq V] (m : SMap V) (n : Nat) (f : V → V) : SMap V :=
  m.set n (f (m.get n))

/-- Every listed element changed by a function of its index. -/
def SMap.mapAll {V : Type} [Inhabited V] [DecidableEq V] : SMap V → (Nat → V → V) → SMap V
  | [], _ => []
  | (k, v) :: m, f =>
    let rest := (SMap.mapAll m f).filter fun e => e.1 != k
    if f k v = default then rest else (k, f k v) :: rest

/-- Indices rising and no listed default. (DESIGN CHOICE, entry 3.) -/
def SMap.wf {V : Type} [Inhabited V] [DecidableEq V] (m : SMap V) : Bool :=
  (m.map Prod.fst).Pairwise (· < ·) && m.all fun e => decide (e.2 ≠ default)

/-- A byte memory in canonical form: addresses rising, no listed zero. -/
def Mem.wf (m : Mem) : Bool := SMap.wf (V := Byte) m

/-- The byte at an address. -/
def Mem.byte (m : Mem) (a : Nat) : Byte := SMap.get (V := Byte) m a

/-- The n bytes from an address. -/
def Mem.bytes (m : Mem) (a n : Nat) : List Byte :=
  let part : Mem := m.filter fun e => decide (a ≤ e.1) && decide (e.1 < a + n)
  (List.range n).map fun i => Mem.byte part (a + i)

/-- The little-endian number in n bytes from an address (R16). -/
def Mem.num (m : Mem) (a n : Nat) : Nat := leNat (Mem.bytes m a n)

/-- The nonzero bytes of a string as cells from an address. -/
def Mem.cells : Nat → List Byte → Mem
  | _, [] => []
  | a, b :: bs => if b = 0#8 then Mem.cells (a + 1) bs else (a, b) :: Mem.cells (a + 1) bs

/-- A byte string stored from an address. -/
def Mem.store (m : Mem) (a : Nat) (bs : List Byte) : Mem :=
  (m.filter fun e => decide (e.1 < a)) ++ Mem.cells a bs ++
    m.filter fun e => decide (a + bs.length ≤ e.1)

/-- n bytes from an address set to zero. -/
def Mem.clear (m : Mem) (a n : Nat) : Mem :=
  m.filter fun e => decide (e.1 < a) || decide (a + n ≤ e.1)

/-- n bytes copied from an address of one memory to an address of another. -/
def Mem.copyTo (src : Mem) (sa n : Nat) (dst : Mem) (da : Nat) : Mem :=
  let part : Mem := src.filter fun e => decide (sa ≤ e.1) && decide (e.1 < sa + n)
  (dst.filter fun e => decide (e.1 < da)) ++ (part.map fun e => (e.1 - sa + da, e.2)) ++
    dst.filter fun e => decide (da + n ≤ e.1)

/-- A range filled with a repeated 8-byte pattern (MEM_FILL). -/
def fillBytes (pattern : W64) (pos n : Nat) : List Byte :=
  (List.range n).map fun i => BitVec.ofNat 8 (pattern.toNat / 2 ^ (8 * ((pos + i) % 8)))

end Sys2Proof.Machine
end

