-- ==== Sys2Proof/Machine/Ops.lean ====
section
/-!
DEFINITION. The operations every family shares: parts of State replaced, instants and device time,
interrupts and MSI-X messages, event counting, command completion, best-effort requests.
-/

namespace Sys2Proof.Machine

/-- What a command answers. -/
abbrev Res := Host.Outcome State Fault Refusal

/-- Grains in a span (R15). -/
def spanGr : Nat := 524288

/-- Grains in a core cycle (R15). -/
def cycleGr : Nat := 2048

/-- Part of the state changed by a function. -/
def modSys (f : Sys → Sys) (s : State) : State := { s with sys := f s.sys }
/-- Part of the state changed by a function. -/
def modHqm (f : Hqm → Hqm) (s : State) : State := { s with hqm := f s.hqm }
/-- Part of the state changed by a function. -/
def modTime (f : Time → Time) (s : State) : State := { s with time := f s.time }
/-- Part of the state changed by a function. -/
def modVs (f : Vstore → Vstore) (s : State) : State := { s with vs := f s.vs }
/-- Part of the state changed by a function. -/
def modDram (f : Dram → Dram) (s : State) : State := { s with dram := f s.dram }
/-- Part of the state changed by a function. -/
def modCal (f : Cal → Cal) (s : State) : State := { s with cal := f s.cal }
/-- Part of the state changed by a function. -/
def modHalso (f : Halso → Halso) (s : State) : State := { s with halso := f s.halso }
/-- Part of the state changed by a function. -/
def modPerf (f : Perf → Perf) (s : State) : State := { s with perf := f s.perf }
/-- Part of the state changed by a function. -/
def modCap (f : Cap → Cap) (s : State) : State := { s with cap := f s.cap }
/-- Part of the state changed by a function. -/
def modCfg (f : Cfg → Cfg) (s : State) : State := { s with cfg := f s.cfg }
/-- Part of the state changed by a function. -/
def modDds (f : Dds → Dds) (s : State) : State := { s with dds := f s.dds }
/-- Part of the state changed by a function. -/
def modTiming (f : Timing → Timing) (s : State) : State := { s with timing := f s.timing }
/-- Every channel changed by a function of its number. -/
def mapPins (f : Nat → Pin → Pin) (s : State) : State := { s with pins := s.pins.mapAll f }
/-- Every octet changed by a function of its number. -/
def mapOctets (f : Nat → Octet → Octet) (s : State) : State := { s with octets := s.octets.mapAll f }
/-- The channels replaced. -/
def setPins (m : SMap Pin) (s : State) : State := { s with pins := m }
/-- Site n changed by a function. -/
def modSite (n : Nat) (f : Site → Site) (s : State) : State := { s with sites := s.sites.mod n f }
/-- Channel c changed by a function. -/
def modPin (c : Nat) (f : Pin → Pin) (s : State) : State := { s with pins := s.pins.mod c f }
/-- Octet o changed by a function. -/
def modOctet (o : Nat) (f : Octet → Octet) (s : State) : State :=
  { s with octets := s.octets.mod o f }
/-- Generator g changed by a function. -/
def modGen (g : Nat) (f : Gen → Gen) (s : State) : State :=
  { s with dds := { s.dds with gens := s.dds.gens.mod g f } }
/-- Queue q changed by a function. -/
def modQueue (q : Nat) (f : Queue → Queue) (s : State) : State :=
  { s with hqm := { s.hqm with queues := s.hqm.queues.mod q f } }
/-- Command slot k changed by a function. -/
def modCmd (k : Nat) (f : Cmd → Cmd) (s : State) : State :=
  { s with hqm := { s.hqm with cmds := s.hqm.cmds.mod k f } }
/-- Plan slot p changed by a function, when it holds a plan. -/
def modPlan (p : Nat) (f : Plan → Plan) (s : State) : State :=
  { s with vs := { s.vs with plans := s.vs.plans.mod p (Option.map f) } }
/-- Capture registers of site n changed by a function. -/
def modSiteCap (n : Nat) (f : SiteCap → SiteCap) (s : State) : State :=
  { s with cap := { s.cap with sites := s.cap.sites.mod n f } }
/-- Capture engine 64 + m changed by a function. -/
def modEng (m : Nat) (f : CapEng → CapEng) (s : State) : State :=
  { s with cap := { s.cap with engs := s.cap.engs.mod m f } }
/-- Trigger unit u changed by a function. -/
def modUnit (u : Nat) (f : TrigUnit → TrigUnit) (s : State) : State :=
  { s with cap := { s.cap with units := s.cap.units.mod u f } }
/-- Group of master u changed by a function. -/
def modGroup (u : Nat) (f : Group → Group) (s : State) : State :=
  { s with cap := { s.cap with groups := s.cap.groups.mod u f } }
/-- DRAM channel n changed by a function. -/
def modChan (n : Nat) (f : DramChan → DramChan) (s : State) : State :=
  { s with dram := { s.dram with chans := s.dram.chans.mod n f } }
/-- Halso port p changed by a function. -/
def modPort (p : Nat) (f : HPort → HPort) (s : State) : State :=
  { s with halso := { s.halso with ports := s.halso.ports.mod p f } }

/-- Site n. -/
def State.site (s : State) (n : Nat) : Site := s.sites.get n
/-- Channel c. -/
def State.pin (s : State) (c : Nat) : Pin := s.pins.get c
/-- Octet o. -/
def State.octet (s : State) (o : Nat) : Octet := s.octets.get o
/-- Generator g. -/
def State.gen (s : State) (g : Nat) : Gen := s.dds.gens.get g
/-- Queue q. -/
def State.queue (s : State) (q : Nat) : Queue := s.hqm.queues.get q
/-- Command slot k. -/
def State.cmd (s : State) (k : Nat) : Cmd := s.hqm.cmds.get k
/-- The plan in slot p. -/
def State.plan (s : State) (p : Nat) : Option Plan := s.vs.plans.get p

/-- An output of the block recorded (DESIGN CHOICE, entry 5). -/
def emit (o : Out) (s : State) : State := { s with out := o :: s.out }

/-- Outputs of the block recorded, the newest first. -/
def emitAll (l : List Out) (s : State) : State := { s with out := l ++ s.out }

/-- The counter of free values moved on (DESIGN CHOICE, entry 1). -/
def setFree (n : Nat) (s : State) : State := { s with free := n }

/-- Channels enabled on this ordering code (R6). (DESIGN CHOICE, entry 27.) -/
def State.nCh (s : State) : Nat := if s.sys.is64 then 64 else 128
/-- Octets enabled on this ordering code. (DESIGN CHOICE, entry 27.) -/
def State.nOct (s : State) : Nat := if s.sys.is64 then 8 else 16

/-- The running count (R354). (DESIGN CHOICE, entry 6.) -/
def State.now (s : State) : Nat := s.time.span * spanGr + s.time.grain

/-- The core cycle of the current span. -/
def State.cycle (s : State) : Nat := s.time.grain / cycleGr

/-- The span stamp now (R29). -/
def State.stamp (s : State) : BitVec 48 := BitVec.ofNat 48 s.time.span

/-- An instant within the current span, from the command that carries it (DESIGN CHOICE, entry 6). -/
def atGrain (t : Grain) (s : State) : State := modTime (fun x => { x with grain := t.val }) s

/-- Grains of one second of device time (R15). -/
def secGr : Nat := 4096000000000

/-- Device time at a running count, in grains, without its epoch (R355). -/
def State.devTime (s : State) (t : Nat) : Int := (t : Int) + s.time.offset

/-- A device time in the format of Table 8.1. -/
def timeValue (g : Int) (epoch : BitVec 4) : BitVec 96 :=
  let n := (g % (2 ^ 48 * secGr : Nat)).toNat
  BitVec.ofNat 96 (n % 4096 + n / 4096 % 1000000000 * 2 ^ 12 + n / secGr % 2 ^ 48 * 2 ^ 44 +
    epoch.toNat * 2 ^ 92)

/-- The grains that a value in the format of Table 8.1 spells, epoch ignored. -/
def timeGr (v : Nat) : Nat := v % 4096 + v / 2 ^ 12 % 2 ^ 32 * 4096 + v / 2 ^ 44 % 2 ^ 48 * secGr

/-- HALSO_CFG fields. -/
def State.haN (s : State) : Nat := bits s.halso.cfg 5 4 + 1
@[inherit_doc State.haN] def State.haRing (s : State) : Bool := bit s.halso.cfg 9
@[inherit_doc State.haN] def State.haPair (s : State) : Bool := bit s.halso.cfg 10
@[inherit_doc State.haN] def State.haEn (s : State) : Bool := bit s.halso.cfg 11

/-- TIME_CFG.src (Table 8.12). -/
def State.src (s : State) : Nat := bits s.time.cfg 0 2

/-- HALSO_CFG.master. -/
def State.isMaster (s : State) : Bool := bit s.halso.cfg 4

/-- HALSO_CFG.dev. -/
def State.dev (s : State) : Nat := bits s.halso.cfg 0 4

/-- The servo is in a state in which src 1 and 2 are traceable: LOCKED, SLEW, or HOLDOVER for less than
hold_s seconds (R374). -/
def State.heldGood (s : State) : Bool :=
  match s.time.servo with
  | .locked | .slew => true
  | .holdover => !s.time.holdExpired
  | _ => false

/-- TIME_STATUS.traceable (R374). -/
def State.traceable (s : State) : Bool :=
  (match s.sys.state with
    | .calibrate | .ready | .standby | .deepStandby => true
    | _ => false) &&
  (match s.src with
    | 1 | 2 => s.heldGood
    | 3 => s.halso.joined && s.halso.masterTraceable && s.time.jump.isNone && !s.time.refLostNow
    | _ => false)

/-- The untraceable flag of what is produced now (R64, R374). -/
def State.untraceable (s : State) : Bool := !s.traceable

/-! ## Event counters (R519 to R521, R528 to R530) -/

/-- A unit that Table 12.1 counts on this ordering code: no channel above 63 on ZK96-64. -/
def perfUnitOk (is64 : Bool) (code unit : Nat) : Bool :=
  !(is64 && 0x040 ≤ code && code ≤ 0x045 && 64 ≤ unit)

/-- PERF_SEL selects an event of a unit and counts. -/
def cntSelects (c : Cnt) (code unit : Nat) : Bool :=
  bit c.sel 24 && bits c.sel 0 10 == code && (bit c.sel 23 || bits c.sel 16 7 == unit)

/-- Occurrences added to counter n; true when the overflow raises PERF_OVERFLOW (R519, R520).
(DESIGN CHOICE, entry 69.) -/
def cntAdd (n occ : Nat) (p : Perf) : Perf × Bool :=
  let c := p.cnts.get n
  let v := c.count.toNat + occ
  let p1 := { p with cnts := p.cnts.set n { c with count := BitVec.ofNat 48 v } }
  if 2 ^ 48 ≤ v then ({ p1 with ovf := setBit p1.ovf n true }, bit c.sel 25) else (p1, false)

/-- Occurrences of an event of a unit counted by every counter that selects it. -/
def perfBump (code unit occ : Nat) (p : Perf) : Perf × Bool :=
  if p.freeze || occ == 0 then (p, false)
  else p.cnts.foldl (fun acc e =>
    if cntSelects e.2 code unit then
      let r := cntAdd e.1 occ acc.1
      (r.1, acc.2 || r.2)
    else acc) (p, false)

/-- n of R529: 21 to 31 act as 20. -/
def psLog (p : Perf) : Nat := min 20 (bits p.psCfg 3 5)

/-- The next gap of the precise sampler (R529). -/
def psNextGap (p : Perf) : Nat × BitVec 16 :=
  let n := psLog p
  if bit p.psCfg 2 && n != 0 then
    let x := Config.lfsrNext p.psLfsr
    (2 ^ (n - 1) + x.toNat % 2 ^ n, x)
  else (2 ^ n, p.psLfsr)

/-- An occurrence that started at an instant, met by the precise sampler (R528 to R530). (DESIGN CHOICE, entry 115.) -/
def psOccur (code unit start : Nat) (p : Perf) : Perf :=
  if bit p.psCfg 0 && bits p.psCfg 8 10 == code && (bit p.psCfg 1 || bits p.psCfg 18 7 == unit) &&
      [0x010, 0x020, 0x028, 0x035, 0x039].contains code then
    if 1 < p.psGap then { p with psGap := p.psGap - 1 }
    else
      let g := psNextGap p
      let p1 := { p with psGap := g.1, psLfsr := g.2 }
      if 16 ≤ p.psOpen.length then { p1 with psSkipped := satAdd (2 ^ 24 - 1) p.psSkipped 1 }
      else { p1 with psOpen := p.psOpen ++ [{ idx := p.psIdx, unit, start }], psIdx := p.psIdx + 1 }
  else p

/-! ## Interrupts (R482, R545, R546) -/

/-- The message of a vector, or its pending bit while the entry is masked (PCIe MSI-X rules). -/
def putMsix (v : Nat) (s : State) : State :=
  if (s.hqm.msix.get v).masked then
    modHqm (fun h => { h with msix := h.msix.mod v fun e => { e with pending := true } }) s
  else emit (.msix v) s

/-- An MSI-X message, counted as event 0x03C; a counter that this overflows raises PERF_OVERFLOW, whose
own message counts too. (PRESUMED, entry 26.) -/
def sendMsix (v : Nat) (s : State) : State :=
  let s1 := putMsix v s
  if (s.hqm.msix.get v).masked then s1
  else
    let r := perfBump 0x03C 0 1 s1.perf
    let s2 := modPerf (fun _ => r.1) s1
    if r.2 && !bit s2.sys.irqStatus 19 then
      let s3 := modSys (fun y => { y with irqStatus := setBit y.irqStatus 19 true }) s2
      if bit s3.sys.irqEnable 19 then
        let s4 := putMsix (s3.sys.route.get 19).toNat s3
        if (s3.hqm.msix.get (s3.sys.route.get 19).toNat).masked then s4
        else modPerf (fun p => (perfBump 0x03C 0 1 p).1) s4
      else s3
    else s2

/-- Interrupt b raised: its status bit, and its message when the bit rises while enabled (R545, R546).
(DEDUCED, entry 15.) -/
def raiseIrq (b : Nat) (s : State) : State :=
  if bit s.sys.irqStatus b then s
  else
    let s1 := modSys (fun y => { y with irqStatus := setBit y.irqStatus b true }) s
    if bit s.sys.irqEnable b then sendMsix (s.sys.route.get b).toNat s1 else s1

/-- Some temperature sensor is at or above the critical level (R434). (DEDUCED, entry 92.) -/
def State.hot (s : State) : Bool :=
  s.cal.sensors.any fun e => e.2.seen && decide (s.cal.crit.toInt ≤ e.2.temp.toInt)

/-- ALERT_N is asserted (R547, R434, R568). -/
def State.alert (s : State) : Bool :=
  !s.sys.alertHeld && (s.hot || (s.sys.irqStatus &&& s.sys.alertSel) != 0#20)

/-- Occurrences of an event of a unit, for the counters and the sampler, which takes them as started at an instant
(R519, R528, R529). (DESIGN CHOICE, entry 69.) -/
def perfFrom (code unit occ start : Nat) (s : State) : State :=
  if perfUnitOk s.sys.is64 code unit then
    let r := perfBump code unit occ s.perf
    let s1 := modPerf (fun _ => (List.range occ).foldl (fun p _ => psOccur code unit start p) r.1) s
    if r.2 then raiseIrq 19 s1 else s1
  else s

/-- Occurrences of an event of a unit, now. -/
def perfEvent (code unit occ : Nat) (s : State) : State := perfFrom code unit occ s.now s

/-! ## Halso messages sent (R383 to R390, Table 8.7) -/

/-- The blocks of a message: a control block, then its data blocks (R383). -/
def haBlocks : List Nat → List (BitVec 66)
  | [] => []
  | w :: ds => BitVec.ofNat 66 (2 + w % 2 ^ 64 * 4) :: ds.map fun d => BitVec.ofNat 66 (1 + d % 2 ^ 64 * 4)

/-- A message put behind those of its instant that go before it: class 0 before 1 before 2, and within a class the one
handed over first (R386); the newest stands first. -/
def putHalso (t : Int) (p c : Nat) (b : List (BitVec 66)) : List Out → List Out
  | .halso u q d x :: rest =>
    if u = t ∧ c < d then .halso u q d x :: putHalso t p c b rest else .halso t p c b :: .halso u q d x :: rest
  | l => .halso t p c b :: l

/-- A message sent at an instant on the given ports. -/
def sendOn (ports : List Nat) (t : Int) (cls : Nat) (ws : List Nat) (s : State) : State :=
  { s with out := ports.foldl (fun l p => putHalso t p cls (haBlocks ws) l) s.out }

/-- The ports of a side that are up (R388). -/
def State.sidePorts (s : State) (d : Nat) : List Nat :=
  (if s.haPair then [d, d + 2] else [d]).filter fun p => s.haEn && (s.halso.ports.get p).up

/-- A class-0 message sent on every port of a side (R388). -/
def sendSide0 (d : Nat) (t : Int) (ws : List Nat) (s : State) : State := sendOn (s.sidePorts d) t 0 ws s

/-- A message of class 1 or 2 sent on a side: the two ports of a pair take turns (R388). -/
def sendSide (d : Nat) (t : Int) (cls : Nat) (ws : List Nat) (s : State) : State :=
  match s.sidePorts d with
  | [a, b] =>
    modHalso (fun h => { h with alt := h.alt ^^^ BitVec.ofNat 2 (2 ^ d) })
      (sendOn [if bit s.halso.alt d then b else a] t cls ws s)
  | l => sendOn l t cls ws s

/-- A class-0 broadcast of this device, on both sides (R390). -/
def broadcast0 (t : Int) (ws : List Nat) (s : State) : State := sendSide0 1 t ws (sendSide0 0 t ws s)

/-- A class-2 broadcast of this device, on both sides (R390). -/
def broadcast2 (t : Int) (ws : List Nat) (s : State) : State := sendSide 1 t 2 ws (sendSide 0 t 2 ws s)

/-- The control blocks of the broadcasts of Table 8.7. -/
def armMsg (dev b span : Nat) : Nat := 0x30 + dev * 2 ^ 10 + b * 2 ^ 14 + span % 2 ^ 32 * 2 ^ 19
@[inherit_doc armMsg] def firingMsg (dev gid units span cycle : Nat) : Nat :=
  0x31 + dev * 2 ^ 10 + gid * 2 ^ 14 + units * 2 ^ 22 + span % 2 ^ 18 * 2 ^ 38 + cycle * 2 ^ 56
@[inherit_doc armMsg] def eventMsg (dev m span cycle : Nat) : Nat :=
  0x31 + 2 ^ 8 + dev * 2 ^ 10 + m * 2 ^ 14 + span % 2 ^ 18 * 2 ^ 38 + cycle * 2 ^ 56
@[inherit_doc armMsg] def hitMsg (dev group : Nat) (hit : Bool) (cycle : Nat) : Nat :=
  0x32 + dev * 2 ^ 8 + group * 2 ^ 12 + b2n hit * 2 ^ 16 + cycle * 2 ^ 17
@[inherit_doc armMsg] def mergeMsg (group dev site : Nat) (ended : Bool) (status : Nat) : Nat :=
  0x40 + group * 2 ^ 8 + dev * 2 ^ 14 + site * 2 ^ 18 + b2n ended * 2 ^ 24 + status * 2 ^ 25

/-! ## Commands in the command store -/

/-- The opcode of a descriptor (Table 10.8). -/
def descOp (d : Desc) : Nat := bits d 0 8

/-- n bytes of a descriptor's payload from offset o, little-endian (Table 10.12). -/
def pay (d : Desc) (o n : Nat) : Nat := bits d (128 + 8 * o) (8 * n)

/-- A command completes: status and result with the span stamp and the untraceable flag of this instant
(R459, R64). -/
def complete (k : Nat) (status : BitVec 8) (result : Nat) (s : State) : State :=
  let u := s.untraceable
  modCmd k (fun c => { c with ph := .done, status := status, result := BitVec.ofNat 32 result,
                              cspan := s.time.span, untraceable := u }) s

/-- A command that may be there completes. -/
def completeOpt (k : Option Nat) (status : BitVec 8) (result : Nat) (s : State) : State :=
  match k with
  | some n => complete n status result s
  | none => s

/-- Completion statuses (Table 10.11). -/
def stOK : BitVec 8 := 0x00
@[inherit_doc stOK] def stCancelled : BitVec 8 := 0x01
@[inherit_doc stOK] def stRejected : BitVec 8 := 0x02
@[inherit_doc stOK] def stUnderrun : BitVec 8 := 0x03
@[inherit_doc stOK] def stPrecondition : BitVec 8 := 0x04
@[inherit_doc stOK] def stTimeout : BitVec 8 := 0x05
@[inherit_doc stOK] def stAborted : BitVec 8 := 0x06
@[inherit_doc stOK] def stBad : BitVec 8 := 0x07
@[inherit_doc stOK] def stIntegrity : BitVec 8 := 0x08
@[inherit_doc stOK] def stTruncated : BitVec 8 := 0x09
@[inherit_doc stOK] def stSuspect : BitVec 8 := 0x0A

/-- Slot k holds a dispatched command of an opcode that its unit has not begun. -/
def State.holds (s : State) (k : Nat) (op : Nat) : Bool :=
  decide ((s.cmd k).ph = .dispatched) && descOp (s.cmd k).desc == op && !(s.cmd k).begun

/-- An opcode's effect on slot k when the slot holds such a command; nothing otherwise (DEDUCED, entry 4). -/
def onCmd (k : CmdSlot) (op : Nat) (s : State) (f : Desc → State → State) : Res :=
  if s.holds k.val op then .next (f (s.cmd k.val).desc s) else .next s

/-- A register block answers: none in Reset, and in Deep standby only SYS, TIME, CFG and CAL (R507, R513).
(DESIGN CHOICE, entry 24.) -/
def State.blockOn (s : State) (always : Bool) : Bool :=
  match s.sys.state with
  | .reset => false
  | .deepStandby => always
  | _ => true

/-- A host write to a block that answers; nothing otherwise (R513). (DEDUCED, entry 4.) -/
def onBlock (always : Bool) (s : State) (f : State → State) : Res :=
  if s.blockOn always then .next (f s) else .next s

/-- A command's unit has begun it: it completes later. -/
def begin_ (k : Nat) (s : State) : State := modCmd k (fun c => { c with begun := true }) s

/-! ## Sites -/

/-- Running sites (R60). -/
def State.running (s : State) : List Nat := (s.sites.filter fun e => e.2.running).map Prod.fst

/-- Some site runs. -/
def State.anyRunning (s : State) : Bool := s.sites.any fun e => e.2.running

/-- Some site runs in Run, Stream, Acquire or Synthesise (R370, R373). -/
def State.stepBlocked (s : State) : Bool :=
  s.sites.any fun e => e.2.running && [1, 2, 3, 5].contains e.2.mode

/-- The loaded plans with their slots. -/
def State.plans (s : State) : List (Nat × Plan) :=
  s.vs.plans.filterMap fun e => e.2.map fun p => (e.1, p)

/-! ## Best-effort DRAM requests (R191, R192) -/

/-- Self-refresh ends or a channel is retrained: debt and quarter count restart at 0 (R579). -/
def restartRefresh (s : State) : State :=
  modDram (fun d => { d with selfRef := false, chans := d.chans.mapAll fun _ c =>
    { c with debt := 0, quarter := 0, forced := false, second := none } }) s

/-- A command needs DRAM: devices in self-refresh in Standby leave it (R512, R579). -/
def wakeDram (s : State) : State :=
  if s.sys.state = .standby ∧ s.dram.selfRef then restartRefresh s else s

/-- No command needs DRAM any longer: in Standby the devices return to self-refresh (R512). -/
def restDram (s : State) : State :=
  if s.sys.state = .standby ∧ s.dram.reqs = [] ∧ s.time.tsPend = [] ∧ s.perf.psBuf = [] then
    modDram (fun d => { d with selfRef := true }) s
  else s

/-- A best-effort request queued now. -/
def queueBe (r : BeReq) (s : State) : State :=
  modDram (fun d => { d with reqs := d.reqs ++ [{ r with id := d.nextReq, at_ := s.now }],
                             nextReq := d.nextReq + 1 }) s

/-- Bytes written to DRAM. A best-effort copy under way whose range they touch becomes suspect (R463). -/
def engineStore (a : Nat) (bs : List Byte) (s : State) : State :=
  modDram (fun d => { d with
    mem := Mem.store d.mem a bs,
    reqs := d.reqs.map fun r =>
      if r.kind = .memRead ∧ r.dram < a + bs.length ∧ a < r.dram + r.len then
        { r with suspect := true } else r }) s

/-- Bytes the block writes to host memory. -/
def hostStore (a : Nat) (bs : List Byte) (s : State) : State :=
  { s with host := Mem.store s.host a bs }

/-- A free value drawn: the counter that feeds the opaque constants moves on (DESIGN CHOICE, entry 1). -/
def drawFree (s : State) : Nat × State := (s.free, setFree (s.free + 1) s)

/-- The device state changes, with SYS_STATE.prev and STATE_CHANGE (R542). -/
def enterState (d : DevState) (s : State) : State :=
  raiseIrq 0 (modSys (fun y => { y with state := d, prev := y.state }) s)

/-- A request refused (R50, R542). -/
def refuseReq (code : BitVec 3) (s : State) : State :=
  modSys (fun y => { y with refused := true, refusedReq := code }) s

/-- Octet n of a channel. -/
def octOf (c : Nat) : Nat := c / 8

end Sys2Proof.Machine
end

