-- ==== Sys2Proof/Machine/Operands.lean ====
section
/-!
DEFINITION. The operand form of a submission descriptor: its envelope and payload fields (Tables 10.8,
10.10, 10.12) and the check of R455; how a DRAM byte address maps to channel, bank, row and column (R189).
-/

namespace Sys2Proof.Machine

/-- Installed DRAM in bytes: 16 channels of 512 MiB × 2^density (R183). -/
def State.installed (s : State) : Nat := 2 ^ 33 * 2 ^ s.dram.density.toNat

/-- The opcodes of Table 10.10. -/
def opcodes : List Nat :=
  [0x00, 0x01, 0x02, 0x08, 0x09, 0x0A, 0x10, 0x11, 0x18, 0x20, 0x21, 0x22, 0x23, 0x28, 0x29, 0x2A,
   0x30, 0x31, 0x32, 0x38, 0x39, 0x3A, 0x40, 0x41, 0x48]

/-- Wake-class opcodes (R52). -/
def wakeClass (op : Nat) : Bool := [0x20, 0x28, 0x31, 0x38, 0x3A].contains op

/-- Envelope fields (Table 10.8). -/
def descChained (d : Desc) : Bool := bit d 8
@[inherit_doc descChained] def descDependent (d : Desc) : Bool := bit d 9
@[inherit_doc descChained] def descIrqNow (d : Desc) : Bool := bit d 10
@[inherit_doc descChained] def descChain (d : Desc) : Nat := bits d 16 16
@[inherit_doc descChained] def descNotBefore (d : Desc) : Nat := bits d 32 48
@[inherit_doc descChained] def descTag (d : Desc) : Nat := bits d 96 32

/-- Signed byte of a payload. -/
def payS (d : Desc) (o : Nat) : Int := signedOf 8 (pay d o 1)

/-- Points of an EYE_SCAN axis (R460). -/
def scanCount (mn mx : Int) (step : Nat) : Nat := ((mx - mn) / (step : Int) + 1).toNat

/-- A payload field: its offset, its size and the values it takes. -/
abbrev PayField := Nat × Nat × (Nat → Bool)

/-- Any value. -/
def anyV (_ : Nat) : Bool := true

/-- A multiple of n. -/
def multOf (n v : Nat) : Bool := v % n == 0

/-- The payload fields of an opcode with their ranges (Table 10.12); inst is installed DRAM, g the queue
group of the submission queue. -/
def payFields (inst g : Nat) (d : Desc) : List PayField :=
  match descOp d with
  | 0x02 => [(0, 2, fun v => decide (v < 8192) && v / 64 == g), (4, 4, anyV), (8, 4, anyV)]
  | 0x08 | 0x09 =>
    [(0, 8, multOf 64), (8, 8, fun v => multOf 64 v && decide (v < inst)),
     (0x10, 4, fun v => multOf 64 v && decide (64 ≤ v) && decide (pay d 8 8 < inst → pay d 8 8 + v ≤ inst))]
  | 0x0A =>
    [(8, 8, fun v => multOf 64 v && decide (v < inst)),
     (0x10, 4, fun v => multOf 64 v && decide (pay d 8 8 < inst → pay d 8 8 + v ≤ inst)), (0x18, 8, anyV)]
  | 0x10 => [(8, 8, fun v => multOf 4096 v && decide (v < inst))]
  | 0x11 => [(0, 1, fun v => decide (v < 8))]
  | 0x18 => [(8, 8, fun v => multOf 32 v && decide (v < inst))]
  | 0x20 => [(0, 1, fun v => decide (v < 64)), (1, 1, fun v => v / 64 % 2 == 0)]
  | 0x21 | 0x23 => [(0, 1, fun v => decide (v < 64))]
  | 0x22 => [(0, 1, fun v => decide (v < 64)), (4, 4, anyV)]
  | 0x28 =>
    [(0, 1, fun v => decide (v < 16)), (2, 2, fun v => v / 2 ^ (pay d 0 1 % 16) % 2 == 0), (4, 4, anyV),
     (8, 1, fun v => decide (v < 2)), (9, 1, anyV), (0x0A, 2, anyV),
     (0x10, 8, fun v => multOf 4096 v && decide (v + 65536 * 2 ^ min 14 (pay d 0x18 1) ≤ inst)),
     (0x18, 1, fun v => decide (v ≤ 14))]
  | 0x29 => [(0, 1, fun v => decide (v < 16))]
  | 0x2A => [(0, 1, fun v => decide (v < 16)), (4, 4, anyV), (8, 8, multOf 64), (0x10, 4, multOf 64)]
  | 0x30 => [(0, 1, fun v => decide (v < 8)), (8, 8, fun v => multOf 16 v && decide (v < inst))]
  | 0x31 => [(0, 1, fun v => decide (v < 8))]
  | 0x32 => [(0, 1, fun v => decide (v < 8)), (1, 1, fun v => decide (v < 2))]
  | 0x38 => [(0, 1, anyV), (0x10, 16, anyV)]
  | 0x39 => [(0x10, 16, anyV)]
  | 0x3A =>
    [(0, 1, fun v => decide (v < 128)), (1, 1, fun v => decide (10 ≤ v ∧ v ≤ 40)),
     (2, 1, fun v => decide (-32 ≤ signedOf 8 v ∧ signedOf 8 v ≤ 32 ∧ signedOf 8 v ≤ payS d 3)),
     (3, 1, fun v => decide (-32 ≤ signedOf 8 v ∧ signedOf 8 v ≤ 32)),
     (4, 1, fun v => decide (1 ≤ v ∧ v ≤ 64)),
     (5, 1, fun v => decide (signedOf 8 v ≤ payS d 6)), (6, 1, anyV), (7, 1, fun v => decide (1 ≤ v)),
     (8, 8, fun v => multOf 64 v && decide (v + 8 * (scanCount (payS d 2) (payS d 3) (pay d 4 1) *
        scanCount (payS d 5) (payS d 6) (pay d 7 1)) ≤ inst))]
  | 0x40 => [(0, 12, fun v => decide (v / 2 ^ 12 % 2 ^ 32 < 1000000000))]
  | 0x41 => [(0, 1, fun v => decide (1 ≤ v ∧ v ≤ 3))]
  | 0x48 => [(0, 4, fun v => decide (v ≠ 0) && v % 2 == 0 && decide (v < 128))]
  | _ => []

/-- Payload byte i belongs to no field: it is reserved (R460). (DEDUCED, entry 33.) -/
def payReserved (fs : List PayField) (i : Nat) : Bool :=
  fs.all fun f => decide (i < f.1) || decide (f.1 + f.2.1 ≤ i)

/-- The smaller of two optional offsets. -/
def minOff (a : Option Nat) (b : Nat) : Option Nat :=
  match a with
  | some x => some (min x b)
  | none => some b

/-- Faulty payload offsets: fields out of range, and reserved bytes that are set. (DEDUCED, entry 33.) -/
def payFaults (inst g : Nat) (d : Desc) : List Nat :=
  let fs := payFields inst g d
  ((fs.filter fun f => !f.2.2 (pay d f.1 f.2.1)).map fun f => 0x10 + f.1) ++
    ((List.range 48).filter fun i => payReserved fs i && pay d i 1 != 0).map fun i => 0x10 + i

/-- Faulty envelope offsets (R455). -/
def envFaults (d : Desc) : List Nat :=
  (if bits d 11 5 != 0 || (descDependent d && !descChained d) then [1] else []) ++
  (if descChain d != 0 && !descChained d then [2] else []) ++
  (if bits d 80 16 != 0 then [0x0A] else [])

/-- The offset of the first offending field of a descriptor; none for a good one (R455). -/
def badDesc (inst g : Nat) (d : Desc) : Option Nat :=
  if opcodes.contains (descOp d) then (envFaults d ++ payFaults inst g d).foldl minOff none else some 0

/-! ## Address mapping (R189) -/

/-- Interleave grain g. -/
def State.grainBytes (s : State) : Nat := 2 ^ (8 + s.dram.grain.toNat)

/-- Channel of a DRAM byte address and the address C within it, at a grain. -/
def dramSplit (g a : Nat) : Nat × Nat := (a / g % 16, a / (16 * g) * g + a % g)

/-- The DRAM byte address that a grain gives address C of a channel. -/
def dramJoin (g ch c : Nat) : Nat := c / g * (16 * g) + ch * g + c % g

/-- Channel, 4-bit bank number and row of a DRAM byte address. -/
def State.dramMap (s : State) (a : Nat) : Nat × Nat × Nat :=
  let x := dramSplit s.grainBytes a
  let q := x.2 / 2048
  let row := q / 16
  (x.1, 4 * ((q / 4 % 4) ^^^ (row % 4)) + q % 4, row)

/-- Column of a DRAM byte address. -/
def State.dramCol (s : State) (a : Nat) : Nat := (dramSplit s.grainBytes a).2 % 2048

/-- The first line of a peck that lies in a channel. -/
def State.peckLine (s : State) (a ch : Nat) : Option Nat :=
  ((List.range 64).map fun i => a + 64 * i).find? fun x => (s.dramMap x).1 == ch

/-- The channels that the lines of a peck touch (R172). -/
def State.peckChans (s : State) (a : Nat) : List Nat := (List.range 16).filter fun ch => (s.peckLine a ch).isSome

end Sys2Proof.Machine
end

