-- ==== Sys2Proof/Machine/SiteOps.lean ====
section
/-!
DEFINITION. Fields of a site's data memory and instruction words (Tables 2.2 to 2.6, 2.11, 2.15), plan
lookups, and the operations that the sequencer and the schedule share.
-/

namespace Sys2Proof.Machine

/-! ## Data memory (Tables 2.3, 2.4) -/

/-- An n-byte field of a site's data memory. -/
def Site.d (x : Site) (o n : Nat) : Nat := Mem.num x.dmem o n

/-- Site header fields (Table 2.4). -/
def Site.pinMap (x : Site) : BitVec 128 := BitVec.ofNat 128 (x.d 0xC00 16)
@[inherit_doc Site.pinMap] def Site.parkCode (x : Site) (c : Nat) : Nat := x.d 0xC10 32 / 2 ^ (2 * c) % 4
@[inherit_doc Site.pinMap] def Site.entry (x : Site) : Nat := x.d 0xC30 2
@[inherit_doc Site.pinMap] def Site.initTs (x : Site) : Nat := x.d 0xC32 1 % 64
@[inherit_doc Site.pinMap] def Site.mux (x : Site) : Nat := x.d 0xC33 1
@[inherit_doc Site.pinMap] def Site.hdrMode (x : Site) : Nat := x.d 0xC34 1
@[inherit_doc Site.pinMap] def Site.stride (x : Site) : Nat := x.d 0xC38 2

/-- The channels of a site's pin map, ascending. -/
def Site.chans (x : Site) : List Nat := bitList x.pinMap

/-- The octets of a site's pin map. -/
def Site.octs (x : Site) : List Nat :=
  (List.range 16).filter fun o => bits x.pinMap (8 * o) 8 != 0

/-- Overlay entry fields (Table 3.6): peck in block 8, its CRC, instructions, window. -/
def Site.ovlSrc (x : Site) (n : Nat) : Nat := x.d (0xA00 + 16 * n) 4
@[inherit_doc Site.ovlSrc] def Site.ovlCrc (x : Site) (n : Nat) : Nat := x.d (0xA04 + 16 * n) 4
@[inherit_doc Site.ovlSrc] def Site.ovlCount (x : Site) (n : Nat) : Nat := x.d (0xA08 + 16 * n) 2
@[inherit_doc Site.ovlSrc] def Site.ovlWin (x : Site) (n : Nat) : Nat := x.d (0xA0A + 16 * n) 1

/-- Barrier entry fields (Table 2.15). -/
def Site.barSites (x : Site) (b : Nat) : BitVec 64 := BitVec.ofNat 64 (x.d (0x800 + 16 * b) 8)
@[inherit_doc Site.barSites] def Site.barDevices (x : Site) (b : Nat) : BitVec 16 :=
  BitVec.ofNat 16 (x.d (0x808 + 16 * b) 2)
@[inherit_doc Site.barSites] def Site.barValid (x : Site) (b : Nat) : Bool := x.d (0x80A + 16 * b) 2 % 2 == 1

/-- A match descriptor (Table 2.11). -/
structure MatchDesc where
  value : BitVec 128
  mask : BitVec 128
  line : Nat
  guardLine : Nat
  /-- Probe cycles. -/
  cycles : Nat
  guard : Nat
  /-- Consecutive hits required. -/
  need : Nat
  ts : Nat
  xdev : Bool
  orMode : Bool
  logMatch : Bool
  record : Bool
  group : Nat
  hops : Nat
  devices : BitVec 16
deriving DecidableEq, Repr

/-- Match descriptor d of a site. -/
def Site.matchDesc (x : Site) (d : Nat) : MatchDesc :=
  let b := 64 * d
  let w := x.d (b + 0x2C) 4
  let f := x.d (b + 0x30) 4
  { value := BitVec.ofNat 128 (x.d b 16), mask := BitVec.ofNat 128 (x.d (b + 0x10) 16),
    line := x.d (b + 0x20) 4 % 2 ^ 19, guardLine := x.d (b + 0x24) 4 % 2 ^ 19,
    cycles := x.d (b + 0x28) 4 % 2 ^ 24 + 1, guard := w % 2 ^ 16, need := w / 2 ^ 16 % 2 ^ 8 + 1,
    ts := w / 2 ^ 24 % 64, xdev := f % 2 == 1, orMode := f / 2 % 2 == 1, logMatch := f / 4 % 2 == 1,
    record := f / 8 % 2 == 1, group := f / 16 % 16, hops := f / 256 % 16,
    devices := BitVec.ofNat 16 (x.d (b + 0x34) 2) }

/-! ## Instruction words (Tables 2.2, 2.5, 2.6) -/

/-- The window that an address lies in: 0, 1 or none (Table 2.2). -/
def winOf (a : Nat) : Option Nat :=
  if a < 0x400 then none else if a < 0x600 then some 0 else some 1

/-- The tag of a window. -/
def Site.tag (x : Site) (w : Nat) : Nat := if w = 0 then x.win0 else x.win1

/-- A window's tag replaced. -/
def Site.setTag (x : Site) (w v : Nat) : Site := if w = 0 then { x with win0 := v } else { x with win1 := v }

/-- The instruction word at an address. -/
def Site.word (x : Site) (a : Nat) : W64 := x.imem.get a

/-- Opcode of an instruction word (R85). -/
def wOp (w : W64) : Nat := bits w 58 6

/-- The opcodes of Table 2.5. -/
def opListed (op : Nat) : Bool :=
  [0x01, 0x02, 0x03, 0x04, 0x05, 0x06, 0x08, 0x0A, 0x0B, 0x0C, 0x0D, 0x0E, 0x0F, 0x3F].contains op

/-- The bits of an instruction word that Table 2.6 names, opcode included. -/
def namedBits (op : Nat) : W64 :=
  fm 58 6 |||
  (match op with
    | 0x01 => fm 40 16 ||| fm 0 19
    | 0x02 => fm 0 32
    | 0x04 => fm 0 16
    | 0x06 => fm 0 20
    | 0x08 => fm 53 5 ||| fm 43 10 ||| fm 33 10
    | 0x0A => fm 57 1 ||| fm 51 6 ||| fm 32 19 ||| fm 0 19
    | 0x0B => fm 0 6
    | 0x0C => fm 53 5 ||| fm 32 20 ||| fm 0 8
    | 0x0D => fm 0 6
    | 0x0E => fm 0 24
    | 0x0F => fm 0 32
    | _ => 0)

/-- A defined encoding: a listed opcode, no reserved bit set, no reserved field value (R85, R86). -/
def wLegal (w : W64) : Bool :=
  let op := wOp w
  opListed op && (w &&& ~~~ (namedBits op)) == 0 &&
  (match op with
    | 0x06 => decide (bits w 16 4 ≤ 8)
    | 0x0A => decide (bits w 51 6 < 16 ∨ 32 ≤ bits w 51 6)
    | 0x0B => decide (bits w 0 6 < 20 ∨ 32 ≤ bits w 0 6)
    | _ => true)

/-- A word that acts as a reserved or unlisted opcode at run time: its opcode is not in Table 2.5 (R85).
(DEDUCED, entry 47.) -/
def wIllegal (w : W64) : Bool := !opListed (wOp w)

/-- Instructions that fold into a VEC (Table 2.5). -/
def foldableOp (op : Nat) : Bool := [0x03, 0x04, 0x05, 0x06, 0x0B, 0x0D, 0x0E].contains op

/-- A channel changed state: a calibration window open on it fails (R402). -/
def Pin.disturb (p : Pin) : Pin := { p with disturbed := true, refDist := true }

/-- The channels of a site changed state. -/
def disturbSite (n : Nat) (s : State) : State :=
  (s.site n).chans.foldl (fun t c => modPin c Pin.disturb t) s

/-! ## Plans -/

/-- The plan that holds a site. -/
def State.planOf (s : State) (n : Nat) : Option Plan :=
  if (s.site n).mode = 7 then none else s.plan (s.site n).plan

/-- The region that holds a plan bushel (R153). -/
def Plan.regionOf (p : Plan) (pb : Nat) : Option Region :=
  p.regions.find? fun r => (r.kind == 1 || r.kind == 2) && decide (r.first ≤ pb) && decide (pb < r.first + r.count)

/-- The state of a peck frame of a plan: resident frames are VALID, frames of no region EMPTY (Table 3.1).
(DEDUCED, entry 66.) -/
def Plan.frameSt (p : Plan) (f : Nat) : FrameSt :=
  match p.regionOf (f / 64) with
  | some r => if r.kind = 1 then .valid else (p.frames.get f).st
  | none => .empty

/-- Byte address in the vector store of a byte of the plan vector space (R140, R142). -/
def Plan.byteAddr (p : Plan) (b : Nat) : Nat := p.bushels.get (b / 2 ^ 18) * 2 ^ 18 + b % 2 ^ 18

/-- The schedule entry that follows entry e (R161). -/
def Plan.nextEntry (p : Plan) (e : Nat) : Option Nat :=
  if e + 1 < p.entries.length then some (e + 1) else if p.loopFrom = 0xFFFF then none else some p.loopFrom

/-- The entry whose gate is armed now (R164): the current one before it begins, else the next. -/
def Plan.armedEntry (p : Plan) : Option Nat :=
  if !p.running || p.ended then none else if p.rep = 0 then some p.entry else p.nextEntry p.entry

/-- The stall points of an entry's gate. -/
def Plan.gate (p : Plan) (e : Nat) : List Stall :=
  let x := p.entries.getD e {}
  (List.range x.stallCount).map fun i => p.stalls.getD (x.stallFirst + i) {}

/-- A stall-point entry is that of a site at an address and overlay. -/
def Stall.isAt (t : Stall) (n addr ovl : Nat) : Bool := t.site == n && t.addr == addr && t.ovl == ovl

/-- A stall point of a site, by its address and overlay, wherever a gate names it. -/
def Plan.stallAt (p : Plan) (n addr ovl : Nat) : Option Stall := p.stalls.find? fun t => t.isAt n addr ovl

/-- The stall point of the armed gate (R164). -/
def Plan.armedStall (p : Plan) (n addr ovl : Nat) : Option Stall :=
  p.armedEntry.bind fun e => (p.gate e).find? fun t => t.isAt n addr ovl

/-- A stall point is armed now (R164). -/
def Plan.armed (p : Plan) (n addr ovl : Nat) : Bool := (p.armedStall n addr ovl).isSome

/-- The entry that says how a site pauses: that of the armed gate; under a capture hold alone, the first entry that
names the point (R168, R307). (DEDUCED, entry 118.) -/
def Plan.pauseAt (p : Plan) (n addr ovl : Nat) : Option Stall :=
  match p.armedStall n addr ovl with
  | some t => some t
  | none => p.stallAt n addr ovl

/-- The stall point of a site at an address is armed now. -/
def State.armed (s : State) (n addr ovl : Nat) : Bool :=
  match s.planOf n with
  | none => false
  | some p => p.armed n addr ovl

/-- A capture hold applies to a site (R307, R308). -/
def State.holdOn (s : State) (n : Nat) : Bool :=
  (s.cap.sites.get n).holdEn && (s.cap.engs.get (n / 4)).hold

/-! ## When a stop acts (R129 to R133, R581) -/

/-- Where a stop finds a site at its pins: at a bundle boundary, at a stall point it has just reached, paused at one
(parked or not), or held at a SYNC, a PARK or a WAIT_TRIG (R129, R131, R133). -/
inductive StopAt where
  | boundary
  | stallPoint
  | paused (parked : Bool)
  | held
deriving DecidableEq, Repr

/-- The place is a safe-stall point (R133). -/
def StopAt.isStall : StopAt → Bool
  | .stallPoint | .paused _ => true
  | .boundary | .held => false

/-- A request acts there at its own instant, not only after it: on a held site (R131), and for a SITE_PARK on a paused
one (R133); a boundary must lie after it (R129). (DEDUCED, entry 60.) -/
def StopAt.atOnce (k : StopAt) (isPark : Bool) : Bool :=
  match k with
  | .boundary | .stallPoint => false
  | .paused parked => parked || isPark
  | .held => true

/-- The instant from which a stop request would stop a held or paused site. -/
def StopReq.from_ (r : StopReq) (k : StopAt) : Option Nat :=
  if !r.isPark || k.isStall then some (r.p * spanGr)
  else if r.limit ≠ 0 then some ((r.p + r.limit) * spanGr)
  else none

/-- A request acts at an instant; some true where the stop is made with TRUNCATED marking: for a SITE_STOP, and for a
SITE_PARK past its limit. -/
def StopReq.at_ (r : StopReq) (k : StopAt) (t : Nat) : Option Bool :=
  let since (i : Nat) : Bool := if k.atOnce r.isPark then decide (i ≤ t) else decide (i < t)
  if !r.isPark then (if since (r.p * spanGr) then some true else none)
  else if r.limit ≠ 0 && since ((r.p + r.limit) * spanGr) then some true
  else if k.isStall && since (r.p * spanGr) then some false
  else none

/-- The request that decides among two: a SITE_STOP before a SITE_PARK, an earlier before a later (R581). -/
def decides (a b : StopReq) : StopReq :=
  if a.isPark = b.isPark then (if a.ord ≤ b.ord then a else b) else if a.isPark then b else a

/-- The deciding request at an instant. (DEDUCED, entry 60.) -/
def Site.stopDue (x : Site) (k : StopAt) (t : Nat) : Option StopReq :=
  (x.stops.filter fun r => (r.at_ k t).isSome).foldl (fun acc r =>
    match acc with
    | none => some r
    | some a => some (decides a r)) none

/-! ## Ends of runs -/

/-- The end of a run with ABORTED or TIMEOUT: the result of R136. -/
def endOf (status : BitVec 8) (reason : BitVec 8) (addr ovl : Nat) : EndInfo :=
  { status := status, reason := reason,
    result := BitVec.ofNat 32 (reason.toNat + addr % 2048 * 2 ^ 8 + ovl % 32 * 2 ^ 19) }

/-- Reasons of Table 2.16. -/
def rIllegal : BitVec 8 := 0x01
@[inherit_doc rIllegal] def rLoopOver : BitVec 8 := 0x02
@[inherit_doc rIllegal] def rLoopUnder : BitVec 8 := 0x03
@[inherit_doc rIllegal] def rLoopUnbal : BitVec 8 := 0x04
@[inherit_doc rIllegal] def rCallOver : BitVec 8 := 0x05
@[inherit_doc rIllegal] def rCallUnder : BitVec 8 := 0x06
@[inherit_doc rIllegal] def rClobbered : BitVec 8 := 0x07
@[inherit_doc rIllegal] def rStarved : BitVec 8 := 0x08
@[inherit_doc rIllegal] def rPeerLate : BitVec 8 := 0x09
@[inherit_doc rIllegal] def rLease : BitVec 8 := 0x0A
@[inherit_doc rIllegal] def rFlow : BitVec 8 := 0x0B
@[inherit_doc rIllegal] def rWaitTo : BitVec 8 := 0x20
@[inherit_doc rIllegal] def rSyncTo : BitVec 8 := 0x21

/-- Issue ends: the run ends at the pins after what is queued; the end stands at the instruction being issued. The end of
a tag mismatch too carries that instruction: the spec names none for it. (DEDUCED, entry 20.) -/
def endIssue (e : EndInfo) (x : Site) : Site := { x with issuing := false, q := x.q ++ [.stop x.pc x.ovl e] }

/-- Issue ends with an abort at the current position. (DEDUCED, entry 64.) -/
def abortAt (reason : BitVec 8) (x : Site) : Site := endIssue (endOf stAborted reason x.pc x.ovl) x

/-- The tag of a window changes; a sequencer that fetches from it aborts (R82). A sequencer whose MATCH issued from that
window awaits its decision counts as fetching from it, whatever its targets are. (DEDUCED, entry 117.) -/
def retag (w v : Nat) (x : Site) : Site :=
  let y := x.setTag w v
  if x.issuing && winOf x.pc == some w && x.tag w != v then abortAt rClobbered y else y

/-- The underrun of a target whose window holds another overlay (R81). -/
def tagEnd (target ovl found : Nat) : EndInfo :=
  { status := stUnderrun,
    result := BitVec.ofNat 32 (2 ^ 31 + target % 2048 + ovl % 32 * 2 ^ 11 + found % 32 * 2 ^ 16) }

/-- A target is admitted by the tag of its window (R81). -/
def Site.tagOk (x : Site) (target ovl : Nat) : Bool :=
  match winOf target with
  | none => true
  | some w => x.tag w == ovl

end Sys2Proof.Machine
end

