-- ==== Sys2Proof/Machine/Stream.lean ====
section
/-!
DEFINITION. The span schedule, its gates, refill of stream frames and overlays (R154 to R178).
-/

namespace Sys2Proof.Machine

/-! ## Claims and counts -/

/-- The refill slots that a plan claims (R155). -/
def Plan.claimed (p : Plan) : List Nat :=
  (List.range 64).filter fun i => p.templates.any fun t => t.refill.getD i 0xFF != 0xFF

/-- The write slots that a plan claims (R155). -/
def Plan.writeClaimed (p : Plan) : List Nat :=
  (List.range 32).filter fun w => p.templates.any fun t => decide (128 ≤ t.write.getD w 0)

/-- Pecks that a template names. -/
def Template.named (t : Template) : Nat := (t.refill.filter fun r => r != 0xFF).length

/-- Position of a schedule: entry and spans of it done; none after its last entry. -/
abbrev SchedPos := Option (Nat × Nat)

/-- The position one span later, without holds (R156, R161). -/
def Plan.stepPos (p : Plan) : SchedPos → SchedPos
  | none => none
  | some (e, r) =>
    if r < (p.entries.getD e {}).repeatM1 then some (e, r + 1)
    else (p.nextEntry e).map fun x => (x, 0)

/-- Pecks that a schedule names at a position. -/
def Plan.pecksAt (p : Plan) : SchedPos → Nat
  | none => 0
  | some (e, _) => (p.templates.getD (p.entries.getD e {}).template {}).named

/-- Pecks that a schedule names in the next n spans from a position. -/
def Plan.ahead (p : Plan) : Nat → SchedPos → List Nat
  | 0, _ => []
  | n + 1, pos => p.pecksAt pos :: p.ahead n (p.stepPos pos)

/-- The position that a running schedule issues at the next tick. -/
def Plan.nextPos (p : Plan) : SchedPos :=
  if !p.running || p.ended then none
  else if (p.entries.getD p.entry {}).repeatM1 < p.rep then (p.nextEntry p.entry).map fun x => (x, 0)
  else some (p.entry, p.rep)

/-- Sums of lists, place by place. -/
def addLists : List Nat → List Nat → List Nat
  | a :: as, b :: bs => (a + b) :: addLists as bs
  | [], bs => bs
  | as, [] => as

/-- Pecks that running schedules and waiting retries name in the 10 spans after this one (R173). -/
def State.planned (s : State) : List Nat :=
  let fromPlans := s.plans.foldl (fun acc p => addLists acc (p.2.ahead 10 p.2.nextPos)) []
  let retries := (List.range 10).map fun i =>
    (s.vs.refills.filter fun r => match r.retryAt with
      | some (sp, _) => sp == s.time.span + 1 + i
      | none => false).length
  addLists fromPlans retries

/-- Largest sum of 8 consecutive values. -/
def window8 (l : List Nat) : Nat := (l.take 8).foldl (· + ·) 0

/-- One more peck i spans ahead keeps every 8-span window that holds it within 50 (R173). -/
def State.retryFits (s : State) (i : Nat) : Bool :=
  -- spans from 7 before this one, oldest first
  let past := ((List.range 8).map fun j => s.vs.issued.getD (7 - j) 0)
  let all := past ++ ((List.range 10).map fun j => s.planned.getD j 0)
  let at_ := 7 + i
  (List.range 8).all fun b =>
    decide (at_ < 7 - b) || decide (window8 (all.drop (at_ + b - 7)) < 50)

/-- The first retry slot of an engine: span and slot (R173). -/
def State.retrySlot (s : State) (j issuedAt : Nat) : Option (Nat × Nat) :=
  let spans := ((List.range 3).map fun i => issuedAt + 1 + i).filter fun sp => decide (s.time.span < sp)
  (spans.flatMap fun sp => ((List.range 8).map fun i => 8 * i + j).map fun sl => (sp, sl)).find? fun e =>
    s.plans.all (fun p => !p.2.claimed.contains e.2) &&
    s.vs.refills.all (fun r => r.retryAt != some e) && s.retryFits (e.1 - s.time.span)

/-! ## Issue at the tick -/

/-- A peck issued into slot sl in this span. -/
def issuePeck (r : Refill) (sl : Nat) (s : State) : State :=
  let s1 := modVs (fun v => { v with
    refills := v.refills ++ [{ r with id := v.nextRefill, slot := sl, span := s.time.span }],
    nextRefill := v.nextRefill + 1,
    issued := (v.issued.headD 0 + 1) :: v.issued.drop 1 }) s
  perfEvent 0x020 (sl % 8) 1 s1

/-- One refill slot of a template at the tick (the refill algorithm); the slot of a revoked engine issues nothing
(Table 10.16). (DEDUCED, entry 105.) -/
def issueSlot (slot : Nat) (t : Template) (s : State) (sl : Nat) : State :=
  let ri := t.refill.getD sl 0xFF
  match s.plan slot with
  | none => s
  | some p =>
    if ri = 0xFF || s.cal.revoked.get (80 + sl % 8) then s
    else
      let r := p.regions.getD ri {}
      if r.kind = 3 then
        let x := s.site r.site
        let w := r.first
        issuePeck { plan := slot, isOvl := true, site := r.site, window := w, ovl := r.count,
                    src := p.blk8 + 4096 * x.ovlSrc r.count, crc := BitVec.ofNat 32 (x.ovlCrc r.count) } sl
          (modSite r.site (retag w 0) s)
      else
        let cur := p.cursors.get ri
        if cur < r.srcCount then
          let f := 64 * r.first + cur % (64 * r.count)
          let s1 := modPlan slot (fun q => { q with
            frames := q.frames.set f { st := .pending, slot := sl },
            cursors := q.cursors.set ri (cur + 1) }) s
          issuePeck { plan := slot, frame := f, src := p.blk8 + 4096 * (r.src + cur),
                      crcAt := p.blk9 + 4 * (r.crcIndex + cur),
                      crc := BitVec.ofNat 32 (Mem.num s.dram.mem (p.blk9 + 4 * (r.crcIndex + cur)) 4) } sl s1
        else s

/-- A gate is open: each point ready or of an idle site, and no capture hold on its sites (R166); a site whose run has
ended counts as idle (R178). -/
def State.gateOpen (s : State) (p : Plan) (e : Nat) : Bool :=
  (p.gate e).all fun t =>
    let x := s.site t.site
    !s.holdOn t.site &&
    (!x.running || (match x.play with
      | .stall a o _ _ => a == t.addr && o == t.ovl && !x.resume
      | .ended => true
      | _ => false))

/-- A paused site resumes at this tick: at once when parked, else at the first stall-vector boundary at or after it
(R168); not when a stop acts on it there (R133). -/
def resumeSite (n : Nat) (s : State) : State :=
  match (s.site n).play with
  | .stall _ _ parked _ =>
    modSite n (fun x =>
      let t := if parked then s.now else x.nextT
      if t < s.now then { x with resume := true }
      else if (x.stopDue (.paused parked) t).isSome then x
      else { x with play := .run, nextT := t, knownT := t }) s
  | _ => s

/-- A site paused at a stall point of a gate resumes at this tick (R168). -/
def resumeAt (t : Stall) (s : State) : State :=
  match (s.site t.site).play with
  | .stall a o _ _ => if a = t.addr ∧ o = t.ovl then resumeSite t.site s else s
  | _ => s

/-- The current entry of a plan has run its spans, and the schedule moves on: cursors are restored at
the wrap (R156, R161). -/
def advanceEntry (p : Plan) : Plan :=
  if p.running && !p.ended && (p.entries.getD p.entry {}).repeatM1 < p.rep then
    if p.entry + 1 < p.entries.length then { p with entry := p.entry + 1, rep := 0 }
    else if p.loopFrom = 0xFFFF then { p with ended := true }
    else
      { p with entry := p.loopFrom, rep := 0,
               cursors := (List.range p.regions.length).foldl (fun m i =>
                 let r := p.regions.getD i {}
                 if r.kind = 2 then m.set i r.loopCursor else m) p.cursors }
  else p

/-- SCHEDULE_ENTRY_ADVANCE (R156, R161). -/
def execScheduleEntryAdvance (p : PlanSlot) (s : State) : Res := .next (modPlan p.val advanceEntry s)

/-- The issue of one plan's schedule at the tick (R167, R168, the refill algorithm). -/
def schedulePlan (slot : Nat) (s0 : State) : State :=
  let s := modPlan slot advanceEntry s0
  match s.plan slot with
  | none => s
  | some p =>
    if !p.running || p.ended then modPlan slot (fun q => { q with curT := 0, held := false }) s
    else if p.rep = 0 && !s.gateOpen p p.entry then
      modPlan slot (fun q => { q with held := true, curT := 0 }) s
    else
      let e := p.entries.getD p.entry {}
      let s1 := if p.rep = 0 then (p.gate p.entry).foldl (fun t g => resumeAt g t) s else s
      let s2 := (List.range 64).foldl (issueSlot slot (p.templates.getD e.template {})) s1
      modPlan slot (fun q => { q with rep := q.rep + 1, held := false, curT := e.template }) s2

/-- Every site of a plan is idle. -/
def State.planIdle (s : State) (p : Plan) : Bool := p.sites.all fun n => !(s.site n).running

/-- SCHEDULE_STOP: entry 0, cursors 0, stream frames EMPTY; its stream refills in flight are dropped
(R163, DEDUCED, entry 11). -/
def stopSchedule (slot : Nat) (s : State) : State :=
  let s1 := modPlan slot (fun q => { q with
    running := false, startAt := none, entry := 0, rep := 0, held := false, curT := 0, ended := false,
    cursors := [], frames := [] }) s
  modVs (fun v => { v with refills := v.refills.filter fun r => r.plan != slot || r.isOvl }) s1

/-- SCHEDULE_STOP or SCHEDULE_START of a plan at the tick (R159, R163). -/
def scheduleEdge (slot : Nat) (s : State) : State :=
  match s.plan slot with
  | none => s
  | some p =>
    if p.running && s.planIdle p then stopSchedule slot s
    else
      match p.startAt with
      | some a => if !p.running && a ≤ s.time.span then
          modPlan slot (fun q => { q with running := true, startAt := none }) s else s
      | none => s

/-- Claimed refill slots that issued nothing in this span, counted per engine (event 0x023). -/
def countIdleSlots (s : State) : State :=
  s.plans.foldl (fun t p =>
    p.2.claimed.foldl (fun u sl =>
      if s.vs.refills.any fun r => r.span == s.time.span && r.slot == sl then u
      else perfEvent 0x023 (sl % 8) 1 u) t) s

/-- The schedules of every plan at the tick, in plan-slot order. -/
def scheduleTick (s : State) : State :=
  let s0 := modVs (fun v => { v with issued := 0 :: v.issued.take 7 }) s
  let s1 := (List.range 8).foldl (fun t p => scheduleEdge p t) s0
  countIdleSlots ((List.range 8).foldl (fun t p => schedulePlan p t) s1)

/-- The slot and the bushels of a retired plan become free (R46). -/
def freePlan (slot : Nat) (s : State) : State :=
  modVs (fun v => { v with
    plans := v.plans.set slot none,
    bushels := v.bushels.mapAll fun _ b => if b.claimed && b.slot == slot then {} else b,
    refills := v.refills.filter fun r => r.plan != slot }) s

/-- PLAN_SLOTS_FREED at the tick (R46). (DEDUCED, entry 41.) -/
def retireTick (s : State) : State :=
  s.plans.foldl (fun t p => if p.2.retired then freePlan p.1 t else t) s

/-! ## Arrival and retry (R172, R173) -/

/-- The words of a peck as instructions of a window. -/
def loadWindow (w : Nat) (bs : List Byte) (m : SMap W64) : SMap W64 :=
  (List.range 512).foldl (fun acc i =>
    acc.set (0x400 + 0x200 * w + i) (BitVec.ofNat 64 (leNat ((bs.drop (8 * i)).take 8)))) m

/-- A refill taken off the list. (DEDUCED, entry 11.) -/
def dropRefill (id : Nat) (s : State) : State :=
  modVs (fun v => { v with refills := v.refills.filter fun r => r.id != id }) s

/-- A refill whose peck is correct: its frame is VALID, or its window holds the overlay. -/
def acceptPeck (r : Refill) (s : State) : State :=
  let bs := Mem.bytes s.dram.mem r.src 4096
  let s1 := if r.isOvl then
      modSite r.site (fun x => retag r.window r.ovl { x with imem := loadWindow r.window bs x.imem }) s
    else
      match s.plan r.plan with
      | none => s
      | some p =>
        modPlan r.plan (fun q => { q with frames := q.frames.mod r.frame fun f => { f with st := .valid } })
          (modVs (fun v => { v with mem := Mem.store v.mem (p.byteAddr (4096 * r.frame)) bs }) s)
  perfEvent 0x021 (r.slot % 8) 1 (dropRefill r.id s1)

/-- A refill that will not arrive correct: its frame is BAD; a window keeps tag 0. -/
def badPeck (r : Refill) (s : State) : State :=
  let s1 := dropRefill r.id s
  if r.isOvl then s1
  else modVs (fun v => { v with bad := v.bad + 1 })
    (modPlan r.plan (fun q => { q with frames := q.frames.mod r.frame fun f => { f with st := .bad } }) s1)

/-- A failing attempt: counted and raised; retried in a slot that fits, else BAD (R173). -/
def failPeck (r : Refill) (s : State) : State :=
  let s1 := raiseIrq 3 (modVs (fun v => { v with crcFail := v.crcFail + 1, event := true }) s)
  if r.retry then badPeck r s1
  else
    match s1.retrySlot (r.slot % 8) r.span with
    | none => badPeck r s1
    | some at_ =>
      modVs (fun v => { v with refills := v.refills.map fun x =>
        if x.id = r.id then { x with retryAt := some at_ } else x }) s1

/-- Some channel that the lines of a refill touch satisfies a predicate. -/
def State.touches (s : State) (p : DramChan → Bool) (r : Refill) : Bool :=
  (s.peckChans r.src).any fun ch => p (s.dram.chans.get ch)

/-- The peck of a refill comes and is checked (R173). -/
def arrivePeck (linkErr : Bool) (r : Refill) (s : State) : State :=
  if !linkErr && crc32c (Mem.bytes s.dram.mem r.src 4096) == r.crc then acceptPeck r s else failPeck r s

/-- PECK_ARRIVAL: no earlier than the span after its issue, and not while a channel that its lines touch is in FORCED
(R172, R173, Table 3.14). (DEDUCED, entry 125.) -/
def execPeckArrival (id : Nat) (linkErr : Bool) (s : State) : Res :=
  match s.vs.refills.find? fun r => r.id == id with
  | none => .next s
  | some r =>
    if r.retryAt.isSome || decide (s.time.span ≤ r.span) || s.touches (·.forced) r then .next s
    else .next (arrivePeck linkErr r s)

/-- k of R172 after a span: it grows where a channel that the lines of the refill touch was in FORCED in some part of it. -/
def State.countWait (s : State) (r : Refill) : Refill :=
  if r.span < s.time.span && r.retryAt.isNone && s.touches (·.wasForced) r then { r with waits := r.waits + 1 } else r

/-- The pecks that R172 gives until this tick and that have not come: they come now. (DEDUCED, entry 125.) -/
def peckTick (s : State) : State :=
  let s1 := modDram (fun d => { d with chans := d.chans.mapAll fun _ c => { c with wasForced := c.forced } })
    (modVs (fun v => { v with refills := v.refills.map s.countWait }) s)
  (s1.vs.refills.filter fun r =>
    r.retryAt.isNone && decide (r.span + 4 + r.waits ≤ s1.time.span) && !s1.touches (·.forced) r).foldl
      (fun t r => arrivePeck false r t) s1

/-- PECK_RETRY_ISSUE in the span and slot that R173 gave. -/
def execPeckRetryIssue (id : Nat) (s : State) : Res :=
  match s.vs.refills.find? fun r => r.id == id with
  | none => .next s
  | some r =>
    match r.retryAt with
    | none => .next s
    | some (sp, sl) =>
      if sp = s.time.span then
        let s1 := modVs (fun v => { v with
          refills := v.refills.map fun x =>
            if x.id = id then { x with retryAt := none, retry := true, slot := sl, span := sp, waits := 0 } else x,
          issued := (v.issued.headD 0 + 1) :: v.issued.drop 1 }) s
        let s2 := if r.isOvl then s1
          else modPlan r.plan (fun q => { q with frames := q.frames.mod r.frame fun f => { f with slot := sl } }) s1
        .next (perfEvent 0x022 (sl % 8) 1 (perfEvent 0x020 (sl % 8) 1 s2))
      else .next s

end Sys2Proof.Machine
end

