-- ==== Sys2Proof/Machine/Capture.lean ====
section
/-!
DEFINITION. Fail capture: entries, staging, losses, truncation, capture holds and write-back slots
(R289 to R309).
-/

namespace Sys2Proof.Machine

/-- A fail-log entry (Table 6.3). -/
def logEntry (type site : Nat) (untr logM : Bool) (wa : Nat) (p : At) (wb : Nat) : BitVec 256 :=
  BitVec.ofNat 256 (type + site * 2 ^ 8 + (b2n untr + 2 * b2n logM) * 2 ^ 16 + wa % 2 ^ 32 * 2 ^ 32 +
    p.v % 2 ^ 48 * 2 ^ 64 + (p.addr + p.ovl * 2 ^ 11) % 2 ^ 16 * 2 ^ 112 +
    p.t / spanGr % 2 ^ 48 * 2 ^ 128 + p.t % spanGr / cycleGr * 2 ^ 176 + wb % 2 ^ 64 * 2 ^ 192)

/-- Places of staging that all entries share (R305: four are reserved). -/
def sharedPlaces : Nat := 8188

/-- Entries of an engine in the shared part. -/
def CapEng.shared (e : CapEng) : Nat := (e.staging.filter fun x => !x.reserved).length

/-- A site's reserved place is free (R306). -/
def CapEng.placeFree (e : CapEng) (n : Nat) : Bool := e.staging.all fun x => !(x.reserved && x.site == n)

/-- An entry put at the end of staging, with its number in the run. -/
def putStaged (n : Nat) (bits : BitVec 256) (reserved : Bool) (s : State) : State :=
  let e := (s.cap.sites.get n).nextE
  let s1 := modEng (n / 4) (fun x => { x with
    staging := x.staging ++ [{ site := n, bits := bits, e := e, span := s.time.span, reserved := reserved }] }) s
  perfEvent 0x028 (n / 4) 1 (modSiteCap n (fun x => { x with nextE := x.nextE + 1 }) s1)

/-- An entry lost: counted, flagged and raised (R305); in a lease revocation R309 says only that it is lost and reported, and
it is counted and flagged in the same way (DEDUCED, entry 67). -/
def loseEntry (n : Nat) (fail : Bool) (s : State) : State :=
  let rev := (s.cap.engs.get (n / 4)).revoked
  let s1 := modSiteCap n (fun x => { x with
    lostFail := if fail then satAdd (2 ^ 32 - 1) x.lostFail 1 else x.lostFail,
    lostOther := if fail then x.lostOther else satAdd (2 ^ 32 - 1) x.lostOther 1,
    lostRevoked := x.lostRevoked || rev, lostFull := x.lostFull || !rev, truncated := true }) s
  let s2 := modEng (n / 4) (fun x => { x with lost := satAdd (2 ^ 32 - 1) x.lost 1, lostEvent := true }) s1
  raiseIrq 5 (perfEvent 0x029 (n / 4) 1 s2)

/-- A truncation entry: the losses since the previous one (Table 6.4, R306). -/
def truncBits (n : Nat) (cause : Nat) (p : At) (s : State) : BitVec 256 :=
  let c := s.cap.sites.get n
  logEntry 0x06 n s.untraceable false c.lostFail p (c.lostOther + cause * 2 ^ 32)

/-- A truncation entry staged; the counts restart from zero. -/
def putTrunc (n : Nat) (cause : Nat) (p : At) (s : State) : State :=
  let free := (s.cap.engs.get (n / 4)).placeFree n
  modSiteCap n (fun x => { x with lostFail := 0, lostOther := 0, lostRevoked := false })
    (putStaged n (truncBits n cause p s) free s)

/-- A site has losses that no truncation entry has reported. -/
def SiteCap.unreported (c : SiteCap) : Bool := decide (0 < c.lostFail + c.lostOther)

/-- The cause that a truncation entry of reported losses carries (Table 6.4). -/
def SiteCap.truncCause (c : SiteCap) : Nat := if c.lostRevoked then 2 else 0

/-- An entry of a site finds room: with its truncation entry where one precedes it, which takes the site's reserved place
when that is free (R305, R306). -/
def CapEng.room (e : CapEng) (n : Nat) (trunc : Bool) : Bool :=
  decide (e.shared + (if trunc && !e.placeFree n then 2 else 1) ≤ sharedPlaces)

/-- An entry of a run: staged, after a truncation entry when losses wait to be reported, or lost
(R303, R305, R306, R309). -/
def stageEntry (n : Nat) (fail : Bool) (bits : BitVec 256) (p : At) (s : State) : State :=
  let c := s.cap.sites.get n
  let e := s.cap.engs.get (n / 4)
  if !c.logEn then s
  else if e.revoked || !e.room n c.unreported then loseEntry n fail s
  else putStaged n bits false (if c.unreported then putTrunc n c.truncCause p s else s)

/-- A fail entry, up to the run's limit (R302). -/
def stageFail (n : Nat) (bits : BitVec 256) (p : At) (s : State) : State :=
  let c := s.cap.sites.get n
  let lim := c.logLimit.toNat
  if lim ≠ 0 && lim ≤ c.failEntries then modSiteCap n (fun x => { x with limitHit := true }) s
  else
    stageEntry n true bits p (modSiteCap n (fun x => { x with
      failEntries := x.failEntries + 1, limitHit := x.limitHit || decide (lim = x.failEntries + 1) }) s)

/-- The end entry of a run, after a truncation entry of cause 1 for a stop, else of the losses that wait (R299, R306,
R307). The truncation entry takes the reserved place even where the end entry finds no room; a revoked engine reports
what it loses at its first renewal (R309). (DEDUCED, entry 67.) -/
def stageEnd (n : Nat) (stopped : Bool) (bits : BitVec 256) (p : At) (s : State) : State :=
  let c := s.cap.sites.get n
  let e := s.cap.engs.get (n / 4)
  let trunc := stopped || c.unreported
  if !c.logEn then s
  else if e.revoked then modSiteCap n (fun x => { x with endAt := some p }) (loseEntry n false s)
  else
    let s1 := if trunc && (e.placeFree n || e.room n true) then putTrunc n (if stopped then 1 else c.truncCause) p s else s
    if e.room n trunc then putStaged n bits false s1 else loseEntry n false s1

/-- Counts of a site's run cleared at an accepted SITE_START (R292, R294, R303). -/
def clearRun (n : Nat) (s : State) : State :=
  let s1 := modSiteCap n (fun x =>
    { logLimit := x.logLimit, logEn := x.logEn, holdEn := x.holdEn, refused := x.refused, size := x.size,
      base := x.base }) s
  (s.site n).chans.foldl (fun t c => modPin c (fun y => { y with fails := 0 }) t) s1

/-! ## Capture holds (R169, R308) -/

/-- CAPTURE_HOLD_CHANGE of every engine at the tick (R308). -/
def holdTick (s : State) : State :=
  (List.range 16).foldl (fun t m =>
    let e := t.cap.engs.get m
    let occ := e.staging.length
    let hi := e.holdHi.toNat
    let h :=
      if hi = 0 then false
      else if 64 * hi ≤ occ then true
      else if occ ≤ 64 * min e.holdLo.toNat (hi - 1) then false
      else e.hold
    let t1 := if h then perfEvent 0x02B m 256 t else t
    if h = e.hold then t1 else modEng m (fun x => { x with hold := h }) t1) s

/-- A site paused under a hold at a point that is not armed resumes at the tick at which the hold lifts
(R169). -/
def holdResume (s : State) : State :=
  s.running.foldl (fun t n =>
    match (t.site n).play with
    | .stall a o _ _ => if t.holdOn n || t.armed n a o || (t.site n).resume then t else resumeSite n t
    | _ => t) s

/-! ## Write-back (R162, R290, R291) -/

/-- Address in its ring of entry e of a site's run (R303). -/
def SiteCap.entryAddr (c : SiteCap) (e : Nat) : Nat :=
  c.base.toNat * 4096 + 32 * e % (65536 * 2 ^ c.size.toNat)

/-- The closed record whose next line goes first, and that line: those of armings that have ended come before the
present one's (R290, R317, R324). -/
def Group.nextLine (g : Group) : Option (Rec × List Byte) :=
  match g.tails, g.cur, g.lines with
  | x :: _, _, _ => some (x.cur, x.lines.headD [])
  | [], some r, l :: _ => some (r, l)
  | [], _, _ => none

/-- An engine's oldest staged entry may be written in this span (R290). -/
def State.logDue (s : State) (m : Nat) : Bool :=
  (s.cap.engs.get m).staging.head?.elim false fun x => decide (x.span < s.time.span)

/-- A record line of an engine may be written in this span (R290). -/
def State.recDue (s : State) (m : Nat) : Bool :=
  (s.cap.groups.get m).nextLine.elim false fun e => decide (e.1.span < s.time.span)

/-- An engine has write-back pending that this span may take. -/
def State.pendingWb (s : State) (m : Nat) : Bool := !(s.cap.engs.get m).revoked && (s.logDue m || s.recDue m)

/-- The first engine with write-back pending in rotation from an engine. -/
def State.rotPick (s : State) (from_ : Nat) : Option Nat :=
  ((List.range 16).map fun i => (from_ + i) % 16).find? s.pendingWb

/-- The engine that a write slot serves now: the one the claiming plan's template names, or the next in
rotation (R162). -/
def State.slotEngine (s : State) (w : Nat) : Option Nat :=
  match s.plans.find? fun p => p.2.writeClaimed.contains w with
  | some p =>
    let b := (p.2.templates.getD p.2.curT {}).write.getD w 0
    if 128 ≤ b then some (b % 16) else none
  | none => s.rotPick s.cap.rot

/-- A staged entry written into its half of the line (R290, R303). -/
def writeStaged (x : Staged) (s : State) : State :=
  let a := (s.cap.sites.get x.site).entryAddr x.e
  modSiteCap x.site (fun c => { c with wr := c.wr + 1 }) (engineStore a (leBytes 32 x.bits.toNat) s)

/-- The next staged entry shares the 64-B line of the first (R290). -/
def State.sameLine (s : State) (a b : Staged) : Bool :=
  a.site == b.site &&
  (s.cap.sites.get a.site).entryAddr a.e / 64 == (s.cap.sites.get b.site).entryAddr b.e / 64 &&
  decide (b.span < s.time.span)

/-- The oldest staged entry of an engine, with the next when it shares the line (R290). -/
def writeLog (m : Nat) (s : State) : State :=
  match (s.cap.engs.get m).staging with
  | x :: rest =>
    let s1 := modEng m (fun y => { y with staging := rest }) (writeStaged x s)
    match rest with
    | y :: rest2 =>
      if s.sameLine x y then modEng m (fun z => { z with staging := rest2 }) (writeStaged y s1) else s1
    | [] => s1
  | [] => s

/-- The last line of a record of an arming that has ended is written: its TRIG_DISARMs complete, then its TRIG_ARM
(R316, R317, R329). -/
def endTail (m : Nat) (x : Tail) (s : State) : State :=
  let s1 := modGroup m (fun y =>
    let z := { y with tails := y.tails.drop 1 }
    if x.own then { z with past := (x.cur :: y.past).take 256, written := x.written + 1 } else z) s
  completeOpt x.cmd stCancelled (x.written + 1) (x.disarm.foldl (fun t d => completeOpt d stOK 1 t) s1)

/-- The next line of an engine's closed records (R290, R324). -/
def writeRec (m : Nat) (s : State) : State :=
  let g := s.cap.groups.get m
  match g.nextLine with
  | none => s
  | some (r, l) =>
    let s1 := engineStore (r.addr + 64 * r.lines) l s
    let r1 := { r with lines := r.lines + 1 }
    match g.tails with
    | x :: xs =>
      if x.lines.length ≤ 1 then endTail m { x with cur := r1, lines := [] } s1
      else modGroup m (fun y => { y with tails := { x with cur := r1, lines := x.lines.drop 1 } :: xs }) s1
    | [] =>
      if g.lines.length ≤ 1 then
        modGroup m (fun y => { y with cur := none, lines := [], past := (r1 :: y.past).take 256,
                                      written := y.written + 1, lineSpan := s.time.span }) s1
      else modGroup m (fun y => { y with cur := some r1, lines := g.lines.drop 1 }) s1

/-- One line of an engine's write-back: fail-log entries before records, where they may be written in this span (R290,
R291). -/
def writeBack (m : Nat) (s : State) : State := if s.logDue m then writeLog m s else if s.recDue m then writeRec m s else s

/-- A new span's 32 write slots (R33). -/
def slotTick (s : State) : State := modCap (fun c => { c with slotsUsed := 0 }) s

/-- What a write slot writes: a line of the engine that it serves. -/
def serveSlot (w : Nat) (s : State) : State :=
  match s.slotEngine w with
  | none => s
  | some m =>
    if s.pendingWb m then
      let s1 := perfEvent 0x02A m 1 (writeBack m s)
      let claimed := s.plans.any fun p => p.2.writeClaimed.contains w
      if claimed then s1 else modCap (fun c => { c with rot := (m + 1) % 16 }) s1
    else s

/-- SABLE_WRITE_SLOT: each slot comes once in a span, and one that finds nothing to write is lost (R33, R35, R162,
R290). -/
def execSableWriteSlot (w : Fin 32) (s : State) : Res :=
  if bit s.cap.slotsUsed w.val then .next s
  else .next (serveSlot w.val (modCap (fun c => { c with slotsUsed := setBit c.slotsUsed w.val true }) s))

/-! ## Counters (R292 to R294) -/

/-- A 48-bit saturating count with its sat bit. -/
def sat48 (v : Nat) (sat : Bool) (add : Nat) : Nat × Bool :=
  if 2 ^ 48 - 1 < v + add then (2 ^ 48 - 1, true) else (v + add, sat)

/-- Compare instants of a vector added to its site's counters (R292, R293). -/
def countVector (n : Nat) (judged failed supp : Nat) (s : State) : State :=
  modSiteCap n (fun c =>
    let f := sat48 c.fails c.failsSat (if failed = 0 then 0 else 1)
    let j := sat48 c.compares c.comparesSat judged
    let u := sat48 c.supp c.suppSat supp
    { c with fails := f.1, failsSat := f.2, compares := j.1, comparesSat := j.2, supp := u.1, suppSat := u.2 }) s

/-- A Halso fail merge message of a site (R398, Table 8.7). -/
def sendMerge (n : Nat) (ended : Bool) (status : BitVec 8) (t : Nat) (s : State) : State :=
  let x := s.site n
  if x.mergeEn then
    let w := mergeMsg x.mergeGroup s.dev n ended status.toNat
    let s1 := if s.halso.joined then broadcast2 s.now [w, t / spanGr % 2 ^ 48] s else s
    modHalso (fun h => { h with merges := h.merges.mod x.mergeGroup fun g =>
      if ended then { g with ended := setBit g.ended s.dev true }
      else { g with failed := setBit g.failed s.dev true,
                    first := if g.failed = 0 || t / spanGr % 2 ^ 48 < g.first.toNat then
                      BitVec.ofNat 48 (t / spanGr) else g.first } }) s1
  else s

/-- The first vector of a run with a failing compare instant (R294, R398). -/
def firstFail (n : Nat) (p : At) (ch : Nat) (s : State) : State :=
  if (s.cap.sites.get n).firstValid then s
  else
    sendMerge n false 0 p.t (modSiteCap n (fun c => { c with
      firstV := p.v % 2 ^ 48, firstAddr := p.addr, firstOvl := p.ovl,
      firstSpan := BitVec.ofNat 48 (p.t / spanGr), firstCycle := p.t % spanGr / cycleGr, firstCh := ch,
      firstValid := true }) s)

end Sys2Proof.Machine
end

