-- ==== Sys2Proof/Machine/DramCtl.lean ====
section
/-!
DEFINITION. The DRAM controller: refresh, MR4, write timing, address mapping and best-effort requests
(R183 to R196, R463, R464, R579).
-/

namespace Sys2Proof.Machine

/-! ## Refresh (R193 to R196, R579) -/

/-- Debt that accrues per accrual tick in quarters, by MR4 rate code (R579). -/
def rateQuarters (rate : Nat) : Nat := if rate = 0 then 1 else if rate = 1 then 2 else 4

/-- A debt of 9 or more enters FORCED (R196). -/
def enterForced (n : Nat) (s : State) : State :=
  let c := s.dram.chans.get n
  if 9 ≤ c.debt && !c.forced then
    raiseIrq 2 (modChan n (fun x => { x with forced := true, forcedEvent := true, wasForced := true,
                                             forcedCount := satAdd 0xFFFF x.forcedCount 1 }) s)
  else s

/-- The channels are trained and not in self-refresh: their accrual grids and polls run, in the Boot of a soft reset too
(R193, R503, R512, R513, R579). -/
def State.dramLive (s : State) : Bool :=
  s.dram.enabled && !s.dram.selfRef &&
  match s.sys.state with
  | .bringUp | .calibrate | .ready | .standby => true
  | .boot => s.sys.softBoot
  | _ => false

/-- The bank that a channel refreshes (Table 3.14): done, the banks already refreshed in the round; busy,
those with a queued request. -/
def refreshBank (urgent : Bool) (done busy : BitVec 16) : Option Nat :=
  let left := (List.range 16).filter fun b => !bit done b
  match left with
  | [] => none
  | b :: _ => if urgent || !bit busy b then some b else left.find? fun x => !bit busy x

/-- One refresh of a channel by the action of its state (Table 3.14, R195, R196). -/
def refreshOnce (n : Nat) (busy : BitVec 16) (s : State) : State :=
  let c := s.dram.chans.get n
  if c.debt = 0 then s
  else
    match refreshBank (c.forced || 8 ≤ c.debt) c.done busy with
    | none => s
    | some b =>
      let d := setBit c.done b true
      perfEvent 0x033 n 1 (modChan n (fun x => { x with
        debt := x.debt - 1, done := if d = BitVec.allOnes 16 then 0 else d,
        forced := x.forced && decide (4 < x.debt - 1) }) s)

/-- The refresh of cycle 128, at rate 4× only (R195). (DEDUCED, entry 21.) -/
def refreshSecond (n : Nat) (s : State) : State :=
  match (s.dram.chans.get n).second with
  | none => s
  | some busy =>
    let s1 := modChan n (fun x => { x with second := none }) s
    if (s.dram.chans.get n).rate = 2 then refreshOnce n busy s1 else s1

/-- A channel at an instant of the span: past cycle 128 its second refresh has been made. (DEDUCED, entry 21.) -/
def chanAt (n : Nat) (t : Grain) (s : State) : State :=
  if 128 * cycleGr ≤ t.val then refreshSecond n s else s

/-- REFRESH_ACCRUAL_TICK (R579, R194). -/
def execRefreshAccrualTick (ch : ChanAt) (s : State) : Res :=
  if s.dramLive then
    let n := ch.ch.val
    let s1 := chanAt n ch.t (atGrain ch.t s)
    let c := s1.dram.chans.get n
    let q := c.quarter + rateQuarters c.rate
    .next (enterForced n (modChan n (fun x => { x with
      quarter := q % 4, debt := min 32 (x.debt + q / 4) }) s1))
  else .next s

/-- The MR4 code of a readout: below 1× counts as 1× (R193). -/
def mr4Code : Mr4 → Nat
  | .below1 => 0
  | .x1 => 0
  | .x2 => 1
  | .x4 => 2

/-- 1 µs in grains (R15). -/
def usGr : Nat := 4096000

/-- The instant at which channel i is polled: i µs after a tick whose span counter is a multiple of 125 (R193). -/
def State.pollAt (s : State) (i : Nat) (t : Grain) : Bool := s.time.span % 125 * spanGr + t.val == i * usGr

/-- The channels are being retrained: the window of the DRAM step is open (R186, R193). -/
def State.retraining (s : State) : Bool :=
  s.cal.mode == .full && ((s.cal.todo.map Prod.fst).filter fun st => st != 0xB && st != 0xC).head? == some 0xA

/-- MR4_POLL at the channel's instant (R193, R194, R196). (DEDUCED, entry 37.) -/
def execMr4Poll (ch : ChanAt) (rate : Mr4) (s : State) : Res :=
  let n := ch.ch.val
  if s.dramLive && s.pollAt n ch.t && !s.retraining then
    let s0 := chanAt n ch.t (atGrain ch.t s)
    let c := s0.dram.chans.get n
    let r := mr4Code rate
    let debt := if c.rate < r then min 32 (c.debt * (rateQuarters r / rateQuarters c.rate)) else c.debt
    let s1 := modChan n (fun x => { x with rate := r, debt := debt }) s0
    let s2 := if r = 2 ∧ c.rate ≠ 2 then raiseIrq 4 s1 else s1
    .next (enterForced n s2)
  else .next s

/-- The busy banks of a channel. -/
def busyOf (l : List (DramCh × BitVec 16)) (n : Nat) : BitVec 16 :=
  match l.find? fun e => e.1.val == n with
  | some e => e.2
  | none => 0

/-- PER_BANK_REFRESH at cycle 0 on every channel, behind that of cycle 128 of the span before where it is still to come;
that of the new span's cycle 128 awaits its instant (R195). (DEDUCED, entry 21.) -/
def refreshTick (busy busy128 : List (DramCh × BitVec 16)) (s : State) : State :=
  if s.dramLive then
    (List.range 16).foldl (fun t n =>
      let t0 := refreshSecond n t
      let t1 := if (t0.dram.chans.get n).forced then perfEvent 0x034 n 1 t0 else t0
      modChan n (fun x => { x with second := some (busyOf busy128 n) }) (refreshOnce n (busyOf busy n) t1)) s
  else s

/-- WCK2DQ_OSCILLATOR_READ: the write timing that a channel's oscillator asks for (R188). -/
def execWck2dqOscillatorRead (ch : DramCh) (target : Int) (s : State) : Res :=
  if s.sys.state = .ready then .next (modChan ch.val (fun x => { x with wtarget := target }) s)
  else .next s

/-- Each channel's write timing moves by at most one delay step per span (R188). -/
def writeTimingTick (s : State) : State :=
  if s.sys.state = .ready then
    modDram (fun d => { d with chans := d.chans.mapAll fun _ c =>
      { c with wtime := toward 1 c.wtime c.wtarget } }) s
  else s

/-! ## DRAM_CTRL (R190) -/

/-- DRAM contents as the host sees them at another grain: each byte stays in its channel, row and column (R189, R190). -/
def regrain (g g' : Nat) (m : Mem) : Mem :=
  if g = g' then m
  else m.foldl (fun acc e => let x := dramSplit g e.1; SMap.set acc (dramJoin g' x.1 x.2) e.2) []

/-- The DRAM grain changed: contents are seen reordered, and no row is open. -/
def setGrain (g : BitVec 3) (d : Dram) : Dram :=
  if d.grain = g then d
  else { d with grain := g, openRow := [], mem := regrain (2 ^ (8 + d.grain.toNat)) (2 ^ (8 + g.toNat)) d.mem }

/-- DRAM_CTRL as a word (Table 3.18). -/
def Dram.ctrl (d : Dram) : W32 :=
  BitVec.ofNat 32 (d.grain.toNat + d.rate.toNat * 2 ^ 4 + b2n d.refused * 2 ^ 7 +
    d.activeRate.toNat * 2 ^ 8 + d.density.toNat * 2 ^ 11 + b2n d.enabled * 2 ^ 13)

/-- DRAM_CTRL_WRITE (R190, R575, R577). -/
def execDramCtrlWrite (v : W32) (s : State) : Res :=
  onBlock false s fun t =>
    let g := bits v 0 3
    let r := bits v 4 3
    let same := g == t.dram.grain.toNat && r == t.dram.rate.toNat
    if 4 < g || 5 < r || (!same && (!t.plans.isEmpty || t.hqm.spillEn)) then
      modDram (fun d => { d with refused := true }) t
    else modDram (fun d => { setGrain (BitVec.ofNat 3 g) d with
                               rate := BitVec.ofNat 3 r, refused := d.refused && !bit v 7 }) t

/-! ## Copies between host memory and DRAM (R463) -/

/-- A copy command: refused while DRAM is disabled, else a best-effort request. -/
def startCopy (k : Nat) (kind : BeKind) (d : Desc) (s : State) : State :=
  if s.dram.enabled then
    if pay d 0x10 4 = 0 then complete k stOK 0 s
    else begin_ k (queueBe { kind := kind, cmd := some k, dram := pay d 8 8,
                             host := if kind = .memFill then 0 else pay d 0 8, len := pay d 0x10 4,
                             pattern := BitVec.ofNat 64 (pay d 0x18 8) } s)
  else complete k stPrecondition 0 s

/-- MEM_WRITE (R463). -/
def execMemWrite (k : CmdSlot) (s : State) : Res := onCmd k 0x08 s (startCopy k.val .memWrite)
/-- MEM_READ (R463). -/
def execMemRead (k : CmdSlot) (s : State) : Res := onCmd k 0x09 s (startCopy k.val .memRead)
/-- MEM_FILL (R463). -/
def execMemFill (k : CmdSlot) (s : State) : Res := onCmd k 0x0A s (startCopy k.val .memFill)

/-! ## The arbiter (R191, R192) -/

/-- Identities of the requests of the timestamp event ring and of the sample ring in the arbiter's list. -/
def tsReqId : Nat := 4294967296
@[inherit_doc tsReqId] def psReqId : Nat := 4294967297

/-- Bytes of a ring whose size field is n (Tables 8.21, 12.8). -/
def ringBytes (n : Nat) : Nat := 4096 * 2 ^ n

/-- Address of entry e of a 32-B ring register: size in [3:0], base in [47:12]. -/
def ringAddr (r : W64) (e : Nat) : Nat := bits r 12 36 * 4096 + 32 * e % ringBytes (bits r 0 4)

/-- The head of the timestamp event ring as a request. -/
def State.tsReq (s : State) : List BeReq :=
  match s.time.tsPend with
  | [] => []
  | e :: _ => [{ id := tsReqId, kind := .tsRing, dram := ringAddr s.time.tsRing s.time.tsWritten, len := 32,
                 at_ := e.at_, data := leBytes 32 e.bits.toNat }]

/-- The head of the sample buffer as a request (R531). -/
def State.psReq (s : State) : List BeReq :=
  match s.perf.psBuf with
  | [] => []
  | e :: _ => [{ id := psReqId, kind := .psRing, dram := ringAddr s.perf.psRing s.perf.psWritten, len := 32,
                 at_ := e.at_, data := leBytes 32 e.bits.toNat }]

/-- Identities of the reserved requests in the arbiter's list: the refill r at umberId + r, its CRC-table line at crcId + r,
the write-back of capture engine m at sableId + m. -/
def umberId : Nat := 2 ^ 33
@[inherit_doc umberId] def crcId : Nat := 2 ^ 34
@[inherit_doc umberId] def sableId : Nat := 2 ^ 35

/-- Address of the line that an engine writes back next (R290). -/
def State.sableLine (s : State) (m : Nat) : Nat :=
  match (s.cap.engs.get m).staging with
  | x :: _ => (s.cap.sites.get x.site).entryAddr x.e
  | [] => ((s.cap.groups.get m).nextLine.map fun e => e.1.addr + 64 * e.1.lines).getD 0

/-- The reserved requests of a channel: umber reads, which wait while it is in FORCED, CRC-table lines and sable lines
(R191, Table 3.14). -/
def State.reservedOn (s : State) (ch : Nat) : List BeReq :=
  let live := s.vs.refills.filter fun r => r.retryAt.isNone
  let umber := if (s.dram.chans.get ch).forced then []
    else live.filterMap fun r => (s.peckLine r.src ch).map fun a =>
      { id := umberId + r.id, kind := .reserved, dram := a, len := 64, at_ := r.span * spanGr }
  let crc := (live.filter fun r => !r.isOvl).map fun r =>
    { id := crcId + r.id, kind := .reserved, dram := r.crcAt, len := 64, at_ := r.span * spanGr }
  let sable := ((List.range 16).filter s.pendingWb).map fun m =>
    { id := sableId + m, kind := .reserved, dram := s.sableLine m, len := 64, at_ := s.time.span * spanGr }
  umber ++ (crc ++ sable).filter fun r => (s.dramMap r.dram).1 == ch

/-- The best-effort requests of a channel whose timing constraints are met: those whose next line lies in it. -/
def State.reqsOn (s : State) (ch : Nat) (ready : List Nat) : List BeReq :=
  (s.dram.reqs ++ s.tsReq ++ s.psReq).filter fun r =>
    ready.contains r.id && (s.dramMap (r.dram + r.pos)).1 == ch

/-- The next line of a request hits an open row. (DEDUCED, entry 38.) -/
def State.rowHit (s : State) (r : BeReq) : Bool :=
  let m := s.dramMap (r.dram + r.pos)
  s.dram.openRow.get (16 * m.1 + m.2.1) == m.2.2 + 1

/-- The oldest request of a list. -/
def oldest : List BeReq → Option BeReq
  | [] => none
  | r :: rs =>
    match oldest rs with
    | none => some r
    | some x => if x.at_ < r.at_ then some x else some r

/-- The arbiter's choice among the requests of one level, with the mark of the age cap (R191). (DEDUCED, entry 38.) -/
def State.selectReq (s : State) (c : List BeReq) : Option (BeReq × Bool) :=
  match oldest (c.filter fun r => decide (r.at_ + usGr ≤ s.now)) with
  | some r => some (r, true)
  | none =>
    match oldest (c.filter s.rowHit) with
    | some r => some (r, false)
    | none => (oldest c).map fun r => (r, false)

/-- A request taken off the list. -/
def dropReq (id : Nat) (s : State) : State :=
  modDram (fun d => { d with reqs := d.reqs.filter fun r => r.id != id }) s

/-- A request that has moved 64 B more. -/
def moveReq (id : Nat) (s : State) : State :=
  modDram (fun d => { d with reqs := d.reqs.map fun r => if r.id = id then { r with pos := r.pos + 64 } else r }) s

/-- The effect of a served line on memory (R463, R464, R477, R531). -/
def serveData (r : BeReq) (data : Desc) (s : State) : State :=
  match r.kind with
  | .memRead | .acqRead => hostStore (r.host + r.pos) (Mem.bytes s.dram.mem (r.dram + r.pos) 64) s
  | .memWrite => modDram (fun d => { d with mem := Mem.store d.mem (r.dram + r.pos) (leBytes 64 data.toNat) }) s
  | .memFill =>
    modDram (fun d => { d with mem := Mem.store d.mem (r.dram + r.pos) (fillBytes r.pattern r.pos 64) }) s
  | .spill | .tsRing | .psRing => engineStore r.dram r.data s
  | .reserved => s

/-- How a request that has moved its last line ends. (DEDUCED, entry 71.) -/
def endReq (r : BeReq) (s : State) : State :=
  match r.kind with
  | .memRead =>
    let sus := s.dram.reqs.any fun x => x.id == r.id && x.suspect
    completeOpt r.cmd (if sus then stSuspect else stOK) r.len (dropReq r.id s)
  | .memWrite | .memFill => completeOpt r.cmd stOK r.len (dropReq r.id s)
  | .acqRead => completeOpt r.cmd r.status r.res (dropReq r.id s)
  | .spill => dropReq r.id s
  | .tsRing => modTime (fun x => { x with tsPend := x.tsPend.drop 1, tsWritten := x.tsWritten + 1 }) s
  | .psRing => modPerf (fun x => { x with psBuf := x.psBuf.drop 1, psWritten := x.psWritten + 1 }) s
  | .reserved => s

/-- A transfer that fails ends its command with INTEGRITY and the bytes copied before (R463). (DEDUCED, entry 71.) -/
def failReq (r : BeReq) (s : State) : State :=
  match r.kind with
  | .tsRing => modTime (fun x => { x with tsPend := x.tsPend.drop 1, tsLost := satAdd 0xFFFF x.tsLost 1 }) s
  | .psRing => modPerf (fun x => { x with psBuf := x.psBuf.drop 1,
                                          psDropped := satAdd (2 ^ 24 - 1) x.psDropped 1 }) s
  | _ => completeOpt r.cmd stIntegrity r.pos (dropReq r.id s)

/-- A request chosen on a channel: counted as a row hit or miss, and its row is open. -/
def openLine (ch : Nat) (r : BeReq) (aged : Bool) (s : State) : State :=
  let m := s.dramMap (r.dram + r.pos)
  let s1 := perfEvent (if s.rowHit r then 0x030 else 0x031) ch 1 s
  let s2 := if aged then perfEvent 0x032 ch 1 s1 else s1
  modDram (fun d => { d with openRow := d.openRow.set (16 * m.1 + m.2.1) (m.2.2 + 1) }) s2

/-- A line of a best-effort request served. -/
def serveReq (ch : Nat) (r : BeReq) (aged : Bool) (data : Desc) (err : Bool) (s : State) : State :=
  let s4 := perfFrom 0x035 ch 1 r.at_ (openLine ch r aged s)
  if err then failReq r s4
  else
    let s5 := serveData r data s4
    if r.len ≤ r.pos + 64 then endReq r s5 else moveReq r.id s5

/-- BEST_EFFORT_REQUEST_SERVED (R191, R192, R463): the identities in ready are those whose timing constraints are met;
data is the host's 64 B for a MEM_WRITE. A ready request of the reserved level goes first: the channel then serves no
best-effort line. (DESIGN CHOICE, entry 28.) -/
def execBestEffortRequestServed (ch : DramCh) (ready : List Nat) (data : Desc) (err : Bool) (t : Grain)
    (s : State) : Res :=
  let s0 := atGrain t s
  match s0.selectReq ((s0.reservedOn ch.val).filter fun r => ready.contains r.id) with
  | some (r, aged) => .next (openLine ch.val r aged s0)
  | none =>
    match s0.selectReq (s0.reqsOn ch.val ready) with
    | none => .next s0
    | some (r, aged) => .next (restDram (serveReq ch.val r aged data err (wakeDram s0)))

end Sys2Proof.Machine
end

