-- ==== Sys2Proof/Machine/Hqm.lean ====
section
/-!
DEFINITION. The host queue manager: doorbells, fetch, delay lists, chains, dispatch, completion
delivery, the spill ring and the queue contexts (R443 to R488).
-/

namespace Sys2Proof.Machine

/-! ## Queue contexts (Tables 10.3 to 10.7) -/

/-- QCTX_CFG fields (Table 10.5). -/
def Queue.en (q : Queue) : Bool := bit q.cfg 0
@[inherit_doc Queue.en] def Queue.isCq (q : Queue) : Bool := bit q.cfg 1
@[inherit_doc Queue.en] def Queue.log (q : Queue) : Nat := bits q.cfg 2 5
@[inherit_doc Queue.en] def Queue.cq (q : Queue) : Nat := bits q.cfg 8 13
@[inherit_doc Queue.en] def Queue.hwbEn (q : Queue) : Bool := bit q.cfg 24
@[inherit_doc Queue.en] def Queue.vector (q : Queue) : Nat := bits q.cfg 32 11
@[inherit_doc Queue.en] def Queue.modCount (q : Queue) : Nat := bits q.cfg 44 8
@[inherit_doc Queue.en] def Queue.modSpans (q : Queue) : Nat := bits q.cfg 52 12

/-- Ring entries N (R446). -/
def Queue.size (q : Queue) : Nat := 2 ^ q.log

/-- Entries between head and tail. -/
def Queue.fill (q : Queue) : Nat := (q.tail + q.size - q.head) % q.size

/-- The ring is full (R446). -/
def Queue.full (q : Queue) : Bool := (q.tail + 1) % q.size == q.head

/-- The completion queue that the commands of a submission queue complete to. -/
def State.cqOf (s : State) (sq : Nat) : Nat := (s.queue sq).cq

/-- Spilled entries of a completion queue (QCTX_STATUS.spilled). -/
def State.spilled (s : State) (q : Nat) : Nat := (s.hqm.spill.filter fun e => e.cq == q).length

/-- HQM_ERR and HQM_ERROR (Table 10.22). (DEDUCED, entry 35.) -/
def hqmError (q : Nat) (kind : BitVec 3) (irq : Bool) (s : State) : State :=
  let s1 := modHqm (fun h => { h with errQueue := BitVec.ofNat 13 q, errKind := kind, errEvent := true }) s
  if irq then raiseIrq 16 s1 else s1

/-! ## The command store (R466) -/

/-- Slots in use. -/
def State.slotsUsed (s : State) : Nat := s.hqm.cmds.length

/-- Slots that a queue group holds. -/
def State.groupSlots (s : State) (g : Nat) : Nat := (s.hqm.cmds.filter fun e => e.2.sq / 64 == g).length

/-- Shared slots in use: those a group holds beyond its 8 (R466). -/
def State.sharedUsed (s : State) : Nat :=
  ((List.range 128).map fun g => s.groupSlots g - 8).foldl (· + ·) 0

/-- A group may take one more slot: row 1 of Table 10.14 does not hold. -/
def State.slotFree (s : State) (g : Nat) : Bool :=
  decide (s.groupSlots g < 512) && (decide (s.groupSlots g < 8) || decide (s.sharedUsed < 1024))

/-- The first slot not in use. -/
def freeSlot : SMap Cmd → Nat → Nat
  | [], n => n
  | (k, _) :: r, n => if k = n then freeSlot r (n + 1) else n

/-- Active chains (R473). -/
def State.activeChains (s : State) : Nat := (s.hqm.chains.filter fun e => decide (0 < e.2.active)).length

/-- The key of a chain: its submission queue and its identifier. -/
def chainKey (sq : Nat) (d : Desc) : Nat := sq * 65536 + descChain d

/-- The fetch stops of Table 10.14, row 2 as the last fetch found it. -/
def State.fetchStop (s : State) (q : Nat) : Bool :=
  let x := s.queue q
  !s.slotFree (q / 64) ||
  (x.chainStop && decide (4096 ≤ s.activeChains)) ||
  decide (65536 ≤ s.spilled x.cq) ||
  decide (2095104 ≤ s.hqm.spill.length) ||
  (!s.hqm.spillEn && (s.queue x.cq).full) ||
  x.fetchErr || x.halted || !s.hqm.fetchEn

/-- HQM_STATUS.fetch_stopped: the stop of row 4, 5 or 7 holds for an enabled submission queue (R476). -/
def State.fetchStopped (s : State) : Bool :=
  decide (2095104 ≤ s.hqm.spill.length) || !s.hqm.fetchEn ||
  (!s.hqm.spillEn && s.hqm.queues.any fun e => e.2.en && !e.2.isCq && (s.queue e.2.cq).full)

/-! ## Readiness (R456, R461, R468, R470, R471) -/

/-- not_before lies in the future (R456). -/
def inFuture (nb span : Nat) : Bool :=
  let d := (nb + 2 ^ 48 - span % 2 ^ 48) % 2 ^ 48
  decide (1 ≤ d ∧ d < 2 ^ 47)

/-- A slot put in its place by fetch order. -/
def insSeq (e : Nat × Cmd) : List (Nat × Cmd) → List (Nat × Cmd)
  | [] => [e]
  | x :: xs => if e.2.seq < x.2.seq then e :: x :: xs else x :: insSeq e xs

/-- The commands in some phase, in fetch order. -/
def inFetchOrder (m : SMap Cmd) (p : Cmd → Bool) : List (Nat × Cmd) :=
  (m.filter fun e => p e.2).foldr insSeq []

/-- The command fetched with a number, while it is in the store. -/
def findSeq (m : SMap Cmd) (n : Nat) : Option Cmd := (m.find? fun e => e.2.seq == n).map Prod.snd

/-- What its chain and the fences of its queue say of a waiting command. -/
inductive Chance where
  | wait | go | cancel
deriving DecidableEq, Repr

/-- The fences of its queue admit a command (R461). -/
def fenceOk (m : SMap Cmd) (c : Cmd) : Bool :=
  if descOp c.desc == 0x01 then m.all fun e => e.2.sq != c.sq || decide (c.seq ≤ e.2.seq)
  else m.all fun e => e.2.sq != c.sq || descOp e.2.desc != 0x01 || decide (c.seq ≤ e.2.seq)

/-- The chain of a command admits it (R470, R471). (DEDUCED, entry 73.) -/
def chainChance (h : Hqm) (c : Cmd) : Chance :=
  match c.pred with
  | none => .go
  | some p =>
    match findSeq h.cmds p with
    | some x =>
      if descDependent c.desc then .wait
      else if x.ph = .dispatched ∨ x.ph = .done then .go else .wait
    | none =>
      if descDependent c.desc && (h.chains.get (chainKey c.sq c.desc)).relStatus != stOK then .cancel
      else .go

/-- One waiting command looked at: it becomes ready, or completes with CANCELLED without dispatch, or
waits on. The list collects those that become ready. -/
def promoteOne (acc : State × List Nat) (k : Nat) : State × List Nat :=
  let s := acc.1
  let c := s.cmd k
  match chainChance s.hqm c with
  | .cancel => (complete k stCancelled 0 s, acc.2)
  | .wait => acc
  | .go =>
    if fenceOk s.hqm.cmds c then (modCmd k (fun x => { x with ph := .ready }) s, acc.2 ++ [k]) else acc

/-- CANCEL before the commands that become ready in the same cycle (R474). (DEDUCED, entry 34.) -/
def cancelFirst (s : State) (ks : List Nat) : List Nat :=
  (ks.filter fun k => descOp (s.cmd k).desc == 0x02) ++ ks.filter fun k => descOp (s.cmd k).desc != 0x02

/-- The cap of 128 defers a ready command to a later span (R469). -/
def noteLate (h : Hqm) : Hqm := { h with late := h.late || (decide (128 ≤ h.dispatched) && !h.readyQ.isEmpty) }

/-- Every waiting command that may become ready does so, in fetch order, at the end of the ready list or,
for those that a tick released, before it (R469). (DEDUCED, entry 34.) -/
def promoteList (ks : List Nat) (front : Bool) (s : State) : State :=
  let r := ks.foldl promoteOne (s, [])
  let new := cancelFirst r.1 r.2
  modHqm (fun h => noteLate { h with readyQ := if front then new ++ h.readyQ else h.readyQ ++ new }) r.1

/-- The waiting commands in fetch order. -/
def State.waiting (s : State) : List Nat :=
  (inFetchOrder s.hqm.cmds fun c => decide (c.ph = .waiting)).map Prod.fst

/-- The waiting commands looked at again. -/
def promote (s : State) : State := promoteList s.waiting false s

/-! ## Fetch (R448, R453, R466, R467, R473) -/

/-- A submission queue that fetch may serve. -/
def State.fetchable (s : State) (q : Nat) (x : Queue) : Bool :=
  x.en && !x.isCq && x.head != x.tail && !s.fetchStop q

/-- Its place in the rotation over groups and within its group (R467). -/
def State.rotKey (s : State) (q : Nat) : Nat :=
  (q / 64 + 127 - s.hqm.lastGroup) % 128 * 64 + (q % 64 + 64 - s.hqm.lastQ.get (q / 64)) % 64

/-- The queue that fetch serves next. -/
def State.nextFetch (s : State) : Option Nat :=
  ((s.hqm.queues.filter fun e => s.fetchable e.1 e.2).map Prod.fst).foldl (fun a q =>
    match a with
    | none => some q
    | some b => if s.rotKey q < s.rotKey b then some q else some b) none

/-- A descriptor taken into the command store (R455, R466, R468, R470, R473). -/
def takeDesc (q : Nat) (d : Desc) (s : State) : State :=
  let k := freeSlot s.hqm.cmds 0
  let n := s.hqm.nextSeq
  let ck := chainKey q d
  let ch := s.hqm.chains.get ck
  let chained := descChained d
  let c : Cmd := { ph := if inFuture (descNotBefore d) s.time.span then .delayed else .waiting,
                   desc := d, sq := q, seq := n, pred := if chained then ch.last else none }
  let s1 := modHqm (fun h => { h with
    nextSeq := n + 1, cmds := h.cmds.set k c,
    chains := if chained then h.chains.set ck { ch with active := ch.active + 1, last := some n }
              else h.chains }) s
  let s2 := modQueue q (fun x => { x with head := (x.head + 1) % x.size, hwbDue := x.hwbEn }) s1
  let s3 := perfEvent 0x038 (q / 64) 1 s2
  match badDesc s.installed (q / 64) d with
  | some o => complete k stBad o s3
  | none => s3

/-- A descriptor would open a chain while 4,096 are active (R473). -/
def State.opensTooMany (s : State) (q : Nat) (d : Desc) : Bool :=
  descChained d && (s.hqm.chains.get (chainKey q d)).active == 0 && decide (4096 ≤ s.activeChains)

/-- Descriptors read in order; a read error stops fetch from the queue (R453). -/
def takeAll (q : Nat) : List (Option Desc) → Nat → State → State
  | [], _, s => s
  | _, 0, s => s
  | none :: _, _, s =>
    hqmError q 2 true (modQueue q (fun x => { x with fetchErr := true, halted := true }) s)
  | some d :: ds, n + 1, s =>
    if (s.queue q).head == (s.queue q).tail || !s.slotFree (q / 64) then s
    else if s.opensTooMany q d then modQueue q (fun x => { x with chainStop := true }) s
    else takeAll q ds n (takeDesc q d (modQueue q (fun x => { x with chainStop := false }) s))

/-- The head written back, at most once per span (R448). -/
def headWriteback (q : Nat) (s : State) : State :=
  let x := s.queue q
  if x.hwbDue && x.hwbSpan != s.time.span + 1 then
    modQueue q (fun y => { y with hwbDue := false, hwbSpan := s.time.span + 1 })
      (hostStore (x.headwb.toNat) (leBytes 4 x.head) s)
  else s

/-- Fetch runs in these device states (R507, R513). -/
def State.fetching (s : State) : Bool :=
  match s.sys.state with
  | .bringUp | .calibrate | .ready | .standby => true
  | _ => false

/-- DESCRIPTOR_FETCH: the next queue of the rotation, up to 8 descriptors, as the host returns them
(R448, R467). (DESIGN CHOICE, entry 28.) -/
def execDescriptorFetch (data : List (Option Desc)) (s : State) : Res :=
  if s.fetching then
    match s.nextFetch with
    | none => .next s
    | some q =>
      let s1 := modHqm (fun h => { h with lastGroup := q / 64,
                                          lastQ := h.lastQ.set (q / 64) ((q % 64 + 1) % 64) }) s
      .next (promote (headWriteback q (takeAll q data 8 s1)))
  else .next s

/-- The delay-list entries due at this tick, in fetch order (R468). (DEDUCED, entry 104.) -/
def State.dueDelayed (s : State) : List Nat :=
  (inFetchOrder s.hqm.cmds fun c =>
    decide (c.ph = .delayed) && !inFuture (descNotBefore c.desc) s.time.span).map Prod.fst

/-- Every due entry leaves the delay list and becomes ready, subject to its chain. (DEDUCED, entry 104.) -/
def expireDelays (s : State) : State :=
  let due := s.dueDelayed
  promoteList due true
    (due.foldl (fun t k => modCmd k (fun c => { c with ph := .waiting }) t) s)

/-- DELAY_LIST_EXPIRY (R468, R469). -/
def execDelayListExpiry (s : State) : Res := .next (expireDelays s)

/-- A command that CANCEL cancels (R462, R474). -/
def cancels (d : Desc) (c : Cmd) : Bool :=
  c.sq == pay d 0 2 && [Phase.waiting, .delayed, .ready].contains c.ph &&
  descOp c.desc != 0x01 && descOp c.desc != 0x02 &&
  ((descTag c.desc ^^^ pay d 4 4) &&& pay d 8 4) == 0

/-- A dispatched CANCEL that has not acted yet names the command: cancellation wins over its dispatch (R474). -/
def State.cancelDue (s : State) (k : Nat) : Bool :=
  s.hqm.cmds.any fun e =>
    decide (e.2.ph = .dispatched) && descOp e.2.desc == 0x02 && cancels e.2.desc (s.cmd k)

/-- COMMAND_DISPATCH: the first ready command, at most 128 per span; a wake-class command in Standby
wakes the device (R52, R469). -/
def execCommandDispatch (s : State) : Res :=
  match s.hqm.readyQ with
  | [] => .next s
  | k :: rest =>
    if s.fetching && decide (s.hqm.dispatched < 128) && !s.cancelDue k then
      let s1 := modHqm (fun h => { h with readyQ := rest, dispatched := h.dispatched + 1, dispNo := h.dispNo + 1 }) s
      let s2 := modCmd k (fun c => { c with ph := .dispatched, dspan := s.time.span, dord := s.hqm.dispNo + 1 }) s1
      let s3 := perfEvent 0x039 ((s.cmd k).sq / 64) 1 s2
      let s4 := if decide (s.sys.state = .standby) && wakeClass (descOp (s.cmd k).desc) then
          modSys (fun y => { y with waking := true }) s3 else s3
      .next (promote s4)
    else .next s

/-! ## Completion delivery (R450, R459, R472, R477, R478, R481) -/

/-- The entry of a completed command, phase and spilled flags clear (Table 10.9). -/
def entryOf (c : Cmd) : BitVec 128 :=
  BitVec.ofNat 128 (descTag c.desc % 65536 + descChain c.desc * 2 ^ 16 + c.result.toNat * 2 ^ 32 +
    c.cspan % 2 ^ 48 * 2 ^ 64 + c.status.toNat * 2 ^ 112 + b2n c.untraceable * 2 ^ 121)

/-- An MSI-X signal of a completion queue covers every entry posted before it (R481). -/
def signalQueue (q : Nat) (s : State) : State :=
  sendMsix (s.queue q).vector (modQueue q (fun x => { x with unsig := 0 }) s)

/-- An entry posted at the tail of a completion queue (R450, R481). -/
def postEntry (q : Nat) (entry : BitVec 128) (spilled irqNow : Bool) (s : State) : State :=
  let x := s.queue q
  let e := setBit (setBit entry 120 x.phase) 122 spilled
  let s1 := hostStore (x.base.toNat + 16 * x.tail) (leBytes 16 e.toNat) s
  let wraps := x.tail + 1 == x.size
  let n := x.unsig + 1
  let s2 := modQueue q (fun y => { y with
    tail := (y.tail + 1) % y.size, phase := if wraps then !y.phase else y.phase,
    posted := satAdd (2 ^ 32 - 1) y.posted 1, unsig := n,
    unsigSpan := if y.unsig == 0 then s.time.span else y.unsigSpan }) s1
  let s3 := perfEvent 0x03A (q / 64) 1 s2
  if max x.modCount 1 ≤ n || irqNow then signalQueue q s3 else s3

/-- An entry put into the spill ring (R477, Table 10.21). -/
def spillEntry (q : Nat) (entry : BitVec 128) (irqNow : Bool) (s : State) : State :=
  let n := s.hqm.spill.length
  let a := s.hqm.spillBase.toNat * 2 ^ 26 + 32 * (s.hqm.spillWr % 2097152)
  let s1 := modHqm (fun h => { h with
    spill := h.spill ++ [{ cq := q, entry := entry, irqNow := irqNow }], spillWr := h.spillWr + 1,
    spillEvent := h.spillEvent || n == 0, highWater := max h.highWater (n + 1) }) s
  let s2 := queueBe { kind := .spill, dram := a, len := 32, data := leBytes 16 entry.toNat ++ leBytes 16 q } s1
  let s3 := perfEvent 0x03B (q / 64) 1 s2
  if n + 1 == 2095104 then raiseIrq 18 s3 else s3

/-- A completed command may be released: every earlier member of its chain has been (R472). -/
def State.releasable (s : State) (k : Nat) : Bool :=
  let c := s.cmd k
  decide (c.ph = .done) &&
  (!descChained c.desc || s.hqm.cmds.all fun e =>
    !descChained e.2.desc || chainKey e.2.sq e.2.desc != chainKey c.sq c.desc || decide (c.seq ≤ e.2.seq))

/-- The slot of a released command freed, its chain told (R466, R471, R473). -/
def freeCmd (k : Nat) (s : State) : State :=
  let c := s.cmd k
  let ck := chainKey c.sq c.desc
  modHqm (fun h => { h with
    cmds := h.cmds.set k {},
    chains := if descChained c.desc then
        h.chains.mod ck fun x => { x with active := x.active - 1, relStatus := c.status }
      else h.chains }) s

/-- COMPLETION_RELEASE: to the host ring, or to the spill ring when the completion queue is full or has
spilled entries; with neither open it waits in the command store (R472, R477). -/
def execCompletionRelease (k : CmdSlot) (s : State) : Res :=
  let c := s.cmd k.val
  let q := s.cqOf c.sq
  let toSpill := (s.queue q).full || decide (0 < s.spilled q)
  if s.releasable k.val && (!toSpill || s.hqm.spillEn) then
    let s1 := if toSpill then spillEntry q (entryOf c) (descIrqNow c.desc) s
      else postEntry q (entryOf c) false (descIrqNow c.desc) s
    .next (promote (freeCmd k.val s1))
  else .next s

/-- POSTED_CREDIT_TIMEOUT: a completion whose host write made no progress for 16 spans goes to the spill
ring (R477). -/
def execPostedCreditTimeout (k : CmdSlot) (s : State) : Res :=
  let c := s.cmd k.val
  if s.releasable k.val && s.hqm.spillEn then
    .next (promote (freeCmd k.val (spillEntry (s.cqOf c.sq) (entryOf c) (descIrqNow c.desc) s)))
  else .next s

/-- The first entry of a list that satisfies p, and the list without it. -/
def takeFirst {α : Type} (p : α → Bool) : List α → Option (α × List α)
  | [] => none
  | x :: xs => if p x then some (x, xs) else (takeFirst p xs).map fun r => (r.1, x :: r.2)

/-- SPILL_MOVE: the oldest spilled entry of a queue moved into it when there is room (R478). -/
def execSpillMove (q : QueueId) (s : State) : Res :=
  if (s.queue q.val).full then .next s
  else
    match takeFirst (fun e => e.cq == q.val) s.hqm.spill with
    | none => .next s
    | some (e, rest) =>
      .next (postEntry q.val e.entry true e.irqNow (modHqm (fun h => { h with spill := rest }) s))

/-- MSIX_MODERATION_TIMEOUT: the oldest unsignalled entry has waited mod_spans spans (R481). -/
def execMsixModerationTimeout (q : QueueId) (s : State) : Res :=
  let x := s.queue q.val
  if 0 < x.unsig && x.unsigSpan < s.time.span && x.unsigSpan + x.modSpans ≤ s.time.span then
    .next (signalQueue q.val s)
  else .next s

/-! ## Doorbells (R445, R447, R475, R513) -/

/-- A doorbell value that R447 admits. -/
def Queue.dbOk (x : Queue) (v : Nat) : Bool :=
  x.en && decide (v < x.size) &&
  (!x.isCq || decide ((v + x.size - x.head) % x.size ≤ x.fill))

/-- DOORBELL_WRITE (R445, R447). -/
def execDoorbellWrite (off : BitVec 19) (size : Nat) (v : W64) (s : State) : Res :=
  let o := off.toNat
  let q := o / 4096 * 64 + o % 4096 / 8
  if (size == 4 || size == 8) && o % 8 == 0 && o % 4096 < 512 && s.blockOn false then
    let x := s.queue q
    let n := bits v 0 16
    if x.dbOk n then
      .next (modQueue q (fun y =>
        if y.isCq then { y with head := n } else { y with tail := n }) s)
    else .next (hqmError q 1 true (modQueue q (fun y => { y with dbErr := true }) s))
  else .next s

/-! ## Register writes of the HQM -/

/-- RW fields of QCTX_CFG. -/
def qctxCfgRw : W64 :=
  fm 0 1 ||| fm 1 1 ||| fm 2 5 ||| fm 8 13 ||| fm 24 1 ||| fm 32 11 ||| fm 44 8 ||| fm 52 12

/-- A refused context write (R451, Table 10.22). (DEDUCED, entry 35.) -/
def qctxRefuse (q : Nat) (s : State) : State :=
  hqmError q 3 false (modQueue q (fun x => { x with refused := true }) s)

/-- A queue may be enabled with a configuration (R451, Table 10.5). -/
def State.enableOk (s : State) (q : Nat) (cfg : W64) : Bool :=
  let x : Queue := { cfg := cfg }
  let c := s.queue x.cq
  decide (4 ≤ x.log ∧ x.log ≤ 16) && (x.isCq || (c.en && c.isCq && x.cq / 64 == q / 64))

/-- A completion queue may not be disabled (R452). (DEDUCED, entry 36.) -/
def State.disableBad (s : State) (q : Nat) : Bool :=
  (s.queue q).isCq &&
  ((s.hqm.queues.any fun e => e.2.en && !e.2.isCq && e.2.cq == q) || decide (0 < s.spilled q) ||
   s.hqm.cmds.any fun e => s.cqOf e.2.sq == q)

/-- A write of QCTX_CFG (R451, R452, R575). -/
def writeQctxCfg (q : Nat) (w : Wr) (s : State) : State :=
  let x := s.queue q
  let new := rwMerge qctxCfgRw w x.cfg
  if x.en && changes (qctxCfgRw &&& ~~~ (fm 0 1)) qctxCfgRw w x.cfg then qctxRefuse q s
  else if x.en && !bit new 0 && s.disableBad q then qctxRefuse q s
  else if !x.en && bit new 0 then
    if s.enableOk q new then
      modQueue q (fun y => { y with cfg := new, head := 0, tail := 0, phase := true, posted := 0,
                                    unsig := 0, halted := false, chainStop := false, hwbDue := false }) s
    else qctxRefuse q s
  else modQueue q (fun y => { y with cfg := new }) s

/-- A write of register reg of a queue context: 0 QCTX_BASE, 1 QCTX_CFG, 2 QCTX_PTR, 3 QCTX_HEADWB,
4 QCTX_STATUS (Table 10.3). -/
def writeQctx (n reg : Nat) (w : Wr) (s : State) : State :=
  let x := s.queue n
  match reg with
  | 0 =>
    if x.en && changes (fm 12 52) (fm 12 52) w x.base then qctxRefuse n s
    else modQueue n (fun y => { y with base := rwMerge (fm 12 52) w y.base }) s
  | 1 => writeQctxCfg n w s
  | 3 =>
    if x.en && changes (fm 2 62) (fm 2 62) w x.headwb then qctxRefuse n s
    else modQueue n (fun y => { y with headwb := rwMerge (fm 2 62) w y.headwb }) s
  | 4 =>
    let hit := hitBits (fm 0 3) w
    modQueue n (fun y => { y with dbErr := clr y.dbErr hit 0, fetchErr := clr y.fetchErr hit 1,
                                  refused := clr y.refused hit 2 }) s
  | _ => s

/-- QCTX_CFG_WRITE (R451, R452). -/
def execQctxCfgWrite (q : QueueId) (reg : Fin 5) (w : Wr) (s : State) : Res :=
  onBlock false s (writeQctx q.val reg.val w)

/-- HQM_SPILL as a word (Table 10.20). -/
def Hqm.spillReg (h : Hqm) : W64 :=
  BitVec.ofNat 64 (b2n h.spillEn + 2 * b2n h.spillRefused + h.spillBase.toNat * 2 ^ 26)

/-- RW fields of HQM_SPILL. -/
def spillRw : W64 := fm 0 1 ||| fm 26 22

/-- A write of HQM_SPILL (R479, R575). -/
def writeSpill (w : Wr) (s : State) : State :=
  let cur := s.hqm.spillReg
  let new := rwMerge spillRw w cur
  let clearsEn := s.hqm.spillEn && !bit new 0
  if changes spillRw spillRw w cur &&
      (s.anyRunning || (clearsEn && decide (0 < s.hqm.spill.length))) then
    modHqm (fun h => { h with spillRefused := true }) s
  else
    modHqm (fun h => { h with
      spillEn := bit new 0, spillBase := BitVec.ofNat 22 (bits new 26 22),
      spillRefused := clr h.spillRefused (hitBits (fm 1 1) w) 1,
      highWater := if w.lo then h.spill.length else h.highWater }) s

/-- HQM_SPILL_WRITE (R479). -/
def execHqmSpillWrite (w : Wr) (s : State) : Res := onBlock false s (writeSpill w)

/-- HQM_CTRL_WRITE (R476). -/
def execHqmCtrlWrite (v : W32) (s : State) : Res :=
  onBlock false s (modHqm fun h => { h with fetchEn := bit v 0 })

/-! ## Commands of the HQM -/

/-- NOP (R457). -/
def execNop (k : CmdSlot) (s : State) : Res := onCmd k 0x00 s fun _ t => complete k.val stOK 0 t

/-- FENCE (R461): its dispatch is what waits; it completes. -/
def execFence (k : CmdSlot) (s : State) : Res := onCmd k 0x01 s fun _ t => complete k.val stOK 0 t

/-- Undispatched commands completed with CANCELLED, and taken out of the ready list (R474). -/
def cancelAll (ks : List Nat) (s : State) : State :=
  let s1 := ks.foldl (fun t k => complete k stCancelled 0 t) s
  modHqm (fun h => { h with readyQ := h.readyQ.filter fun k => !ks.contains k }) s1

/-- CANCEL (R462). -/
def execCancel (k : CmdSlot) (s : State) : Res :=
  onCmd k 0x02 s fun d t =>
    let ks := (t.hqm.cmds.filter fun e => cancels d e.2).map Prod.fst
    promote (complete k.val stOK ks.length (cancelAll ks t))

end Sys2Proof.Machine
end

