-- ==== Sys2Proof/Machine/Sequencer.lean ====
section
/-!
DEFINITION. The issue side of a site sequencer: each instruction of Table 2.5 as it issues, and the faults
of Table 2.8 (R79 to R102, R576).
-/

namespace Sys2Proof.Machine

/-- Bundles in the bundle queue: a bundle whose read has begun is out of it (R89, R175). (DEDUCED, entry 17.) -/
def Site.queued (x : Site) : Nat :=
  (x.q.filter fun i => match i with
    | .bundle _ _ _ _ _ _ read _ _ _ => !read
    | .wait .. => true
    | _ => false).length

/-- The bundle queue has room (R89). (DEDUCED, entry 17.) -/
def Site.room (x : Site) : Bool := decide (x.queued < 16)

/-- Execution from an address falls out of its region, or past the overlay's last instruction (R98). -/
def Site.fallsOff (x : Site) : Bool :=
  x.pc == 0x3FF || x.pc == 0x5FF || x.pc == 0x7FF ||
  (match winOf x.pc with
    | none => false
    | some w => x.pc + 1 == 0x400 + 0x200 * w + x.ovlCount x.ovl)

/-- Execution goes on at the next address, or falls (R98, Table 2.8). -/
def Site.next (x : Site) : Site :=
  if x.fallsOff then abortAt rFlow x else { x with pc := x.pc + 1, vecDone := 0 }

/-- Execution goes on at an address of the base region or of a window with the given overlay. -/
def Site.goto (x : Site) (a ovl : Nat) : Site := { x with pc := a, ovl := ovl, vecDone := 0 }

/-- The overlay that a position in the current program carries: 0 in the base region (R82). -/
def Site.posOvl (x : Site) (a : Nat) : Nat := if (winOf a).isSome then x.ovl else 0

/-- A return into a window whose tag is not the recorded one aborts (R82). -/
def Site.returnTo (x : Site) (a ovl : Nat) : Site :=
  if x.tagOk a ovl then x.goto a ovl else abortAt rClobbered x

/-- A transfer to a target with the overlay its instruction names (R81). -/
def Site.transfer (x : Site) (a ovl : Nat) : Site :=
  if x.tagOk a ovl then x.goto a (if (winOf a).isSome then ovl else 0)
  else endIssue (tagEnd a ovl (x.tag ((winOf a).getD 0))) x

/-- Current call depth. -/
def Site.depth (x : Site) : Nat := x.calls.length

/-- VEC: its next bundle of up to 32 vectors (R88, Table 2.6). -/
def issueVec (x : Site) : Site :=
  let w := x.word x.pc
  let n := bits w 40 16 + 1
  let c := min 32 (n - x.vecDone)
  let y := { x with q := x.q ++ [QItem.bundle x.pc x.ovl (bits w 0 19) x.vecDone c 0 false false [] none] }
  if x.vecDone + c < n then { y with vecDone := x.vecDone + c }
  else { y.next with foldable := true }

/-- LOOP (R95, Table 2.8). -/
def issueLoop (x : Site) : Site :=
  if 8 ≤ x.loops.length then abortAt rLoopOver x
  else { x with loops := { addr := x.pc + 1, ovl := x.posOvl (x.pc + 1),
                           count := bits (x.word x.pc) 0 32 + 1, depth := x.depth } :: x.loops }.next

/-- ENDLOOP (R95, R82, Table 2.8). -/
def issueEndloop (x : Site) : Site :=
  match x.loops with
  | [] => abortAt rLoopUnder x
  | e :: rest =>
    if e.depth ≠ x.depth then abortAt rLoopUnbal x
    else if e.count = 1 then { x with loops := rest }.next
    else { x with loops := { e with count := e.count - 1 } :: rest }.returnTo e.addr e.ovl

/-- CALL (R96, R81, Table 2.8). -/
def issueCall (x : Site) : Site :=
  let w := x.word x.pc
  if 16 ≤ x.calls.length then abortAt rCallOver x
  else { x with calls := { addr := x.pc + 1, ovl := x.ovl } :: x.calls }.transfer (bits w 0 11) (bits w 11 5)

/-- RET (R96, R82, Table 2.8). -/
def issueRet (x : Site) : Site :=
  match x.calls with
  | [] => abortAt rCallUnder x
  | e :: rest =>
    if x.loops.any fun l => l.depth == x.depth then abortAt rLoopUnbal x
    else { x with calls := rest }.returnTo e.addr (if (winOf e.addr).isSome then e.ovl else 0)

/-- JUMP (R97, R81, Table 2.8). -/
def issueJump (x : Site) : Site :=
  let w := x.word x.pc
  let pops := bits w 16 4
  if x.loops.length < pops then abortAt rLoopUnder x
  else { x with loops := x.loops.drop pops }.transfer (bits w 0 11) (bits w 11 5)

/-- MATCH: it waits at the pins for its boundary; issue waits for its decision (R91). -/
def issueMatch (x : Site) : Site :=
  let w := x.word x.pc
  { x with q := x.q ++ [QItem.matchI x.pc x.ovl (bits w 53 5) (bits w 43 10) (bits w 33 10)], matchWait := true }

/-- WAIT_TRIG (R91). -/
def issueWait (x : Site) : Site :=
  let w := x.word x.pc
  { x with q := x.q ++ [QItem.wait x.pc x.ovl (bits w 51 6) (bits w 32 19) (bits w 0 19) (bit w 57)] }.next

/-- SIGNAL (R101). -/
def issueSignal (x : Site) : Site := { x with q := x.q ++ [QItem.signal (bits (x.word x.pc) 0 6)] }.next

/-- SYNC (R91). -/
def issueSync (x : Site) : Site :=
  let w := x.word x.pc
  { x with q := x.q ++ [QItem.sync x.pc x.ovl (bits w 53 5) (bits w 32 20) (bits w 0 8)] }.next

/-- SET_TS (R99). -/
def issueSetTs (x : Site) : Site := { x with q := x.q ++ [QItem.setTs (bits (x.word x.pc) 0 6)] }.next

/-- MARK (R100). -/
def issueMark (x : Site) : Site :=
  { x with q := x.q ++ [QItem.mark x.pc x.ovl (bits (x.word x.pc) 0 24)] }.next

/-- PARK (R127). -/
def issuePark (x : Site) : Site :=
  { x with q := x.q ++ [QItem.park x.pc x.ovl (bits (x.word x.pc) 0 32 + 1)] }.next

/-- HALT: nothing issues after it (R128). -/
def issueHalt (x : Site) : Site := { x with q := x.q ++ [QItem.halt x.pc x.ovl], issuing := false }

/-- An instruction whose opcode is not in Table 2.5 (R85, Table 2.16). -/
def issueIllegal (x : Site) : Site := abortAt rIllegal x

/-- The instruction at the current position issues: a VEC places one bundle. -/
def issueAny (x : Site) : Site :=
  match wOp (x.word x.pc) with
  | 0x01 => issueVec x
  | 0x02 => issueLoop x
  | 0x03 => issueEndloop x
  | 0x04 => issueCall x
  | 0x05 => issueRet x
  | 0x06 => issueJump x
  | 0x08 => issueMatch x
  | 0x0A => issueWait x
  | 0x0B => issueSignal x
  | 0x0C => issueSync x
  | 0x0D => issueSetTs x
  | 0x0E => issueMark x
  | 0x0F => issuePark x
  | 0x3F => issueHalt x
  | _ => issueIllegal x

/-- Instructions that can stand in a MATCH target's prefix (R576). -/
def prefixOp (op : Nat) : Bool := [0x02, 0x03, 0x04, 0x05, 0x06, 0x0B, 0x0D, 0x0E].contains op

/-- A stall point at the current position stands before its instruction (R164). -/
def markStall (p : Option Plan) (n : Nat) (x : Site) : Site :=
  match p with
  | none => x
  | some q =>
    if x.vecDone = 0 && (q.stallAt n x.pc x.ovl).isSome then { x with q := x.q ++ [QItem.stall x.pc x.ovl] } else x

/-- A MATCH target taken: its prefix acts in order, and its first bundle or holding instruction is placed
(R576). (DEDUCED, entry 63.) -/
def runTarget (p : Option Plan) (n : Nat) : Nat → Site → Site
  | 0, x => x
  | f + 1, x =>
    if !x.issuing then x
    else
      let y := markStall p n x
      if prefixOp (wOp (y.word y.pc)) then runTarget p n f (issueAny y) else issueAny y

end Sys2Proof.Machine
end

