-- ==== Sys2Proof/Machine/Dds.lean ====
section
/-!
DEFINITION. The DDS generators: lists, sequence program, output, start, jump and stop (R332 to R353).
-/

namespace Sys2Proof.Machine

/-! ## Lists (Tables 7.1 to 7.4) -/

/-- Entry size of a record kind (Table 7.1). -/
def ddsSize (kind : Nat) : Nat :=
  match kind with
  | 1 => 8
  | 2 => 4
  | 3 => 4
  | 4 => 16
  | _ => 8

/-- Entries of the list of a record kind (Table 7.1). -/
def ddsEntries (kind : Nat) : Nat := if kind = 4 || kind = 5 then 2048 else 1024

/-- A DDS_LOAD record as read from DRAM (Table 7.4). -/
structure DdsRec where
  kind : Nat
  first : Nat
  count : Nat
  len : Nat
  /-- Reserved fields and padding are zero. -/
  clean : Bool
  body : List Nat
deriving DecidableEq, Repr

/-- No byte of a range is other than zero. -/
def zeroRange (m : Mem) (lo hi : Nat) : Bool := m.all fun e => decide (e.1 < lo ∨ hi ≤ e.1) || e.2 == 0

/-- The record at a DRAM address: its reserved bytes and the padding of its body are zero (R343, R344). -/
def readDdsRec (m : Mem) (a : Nat) : DdsRec :=
  let kind := Mem.num m a 1
  let count := Mem.num m (a + 4) 2
  let sz := ddsSize kind
  { kind := kind, first := Mem.num m (a + 2) 2, count := count, len := Mem.num m (a + 8) 4,
    clean := Mem.num m (a + 1) 1 == 0 && Mem.num m (a + 6) 2 == 0 && Mem.num m (a + 12) 4 == 0 &&
      (kind == 0 || zeroRange m (a + 16 + sz * count) (a + Mem.num m (a + 8) 4)),
    body := if kind = 0 ∨ 5 < kind then []
      else (List.range (min count (ddsEntries kind))).map fun i => Mem.num m (a + 16 + sz * i) sz }

/-- A sequence word is well formed: a listed opcode, reserved bits zero (Table 7.3). -/
def seqWordOk (w : Nat) : Bool :=
  let op := w / 2 ^ 60
  let f := w % 2 ^ 60
  match op with
  | 0 => f == 0
  | 1 => decide (f < 2 ^ 11)
  | 2 => decide (f < 2 ^ 32)
  | 3 => f == 0
  | 4 => decide (f < 2 ^ 11)
  | 5 => f == 0
  | 6 => decide (f < 2 ^ 11)
  | _ => false

/-- A list entry of a kind is well formed (R343, Tables 7.1, 7.2). -/
def ddsEntryOk (kind v : Nat) : Bool :=
  match kind with
  | 1 => decide (v ≤ 2 ^ 47)
  | 2 => true
  | 3 => decide (v < 2 ^ 16)
  | 4 => decide (15 ≤ v % 2 ^ 32) && decide (v / 2 ^ 62 % 4 < 3) && v / 2 ^ 64 == 0
  | _ => seqWordOk v

/-- A record is well formed (R343, Table 7.4). -/
def DdsRec.ok (r : DdsRec) : Bool :=
  r.clean && decide (1 ≤ r.kind) && decide (r.kind ≤ 5) && decide (1 ≤ r.count) &&
  decide (r.first + r.count ≤ ddsEntries r.kind) && r.len % 16 == 0 &&
  decide (16 + ddsSize r.kind * r.count ≤ r.len) && r.body.all (ddsEntryOk r.kind)

/-- The records from an address up to kind 0; none of them read past the end of DRAM. The flag tells that
the sequence was closed. -/
def readDdsSeq (m : Mem) (inst : Nat) : Nat → Nat → List DdsRec × Bool
  | 0, _ => ([], false)
  | f + 1, a =>
    if inst < a + 16 then ([], false)
    else
      let r := readDdsRec m a
      if r.kind = 0 ∧ r.clean then ([], true)
      else if r.ok && decide (a + r.len ≤ inst) then
        let rest := readDdsSeq m inst f (a + r.len)
        (r :: rest.1, rest.2)
      else ([r], false)

/-- A record written into the lists. -/
def applyDdsRec (g : Gen) (r : DdsRec) : Gen :=
  let put {w : Nat} (m : SMap (BitVec w)) : SMap (BitVec w) :=
    (r.body.foldl (fun acc v => (acc.1 + 1, acc.2.set acc.1 (BitVec.ofNat w v))) (r.first, m)).2
  match r.kind with
  | 1 => { g with freq := put g.freq }
  | 2 => { g with phase := put g.phase }
  | 3 => { g with amp := put g.amp }
  | 4 => { g with seg := put g.seg }
  | 5 => { g with seq := put g.seq }
  | _ => g

/-! ## The sequence program (R341, R343, Table 7.3) -/

/-- Opcode of a sequence word. -/
def seqOp (w : W64) : Nat := bits w 60 4

/-- A point of a static path: address, open loops (address and call depth), return addresses, control words
since the last SEG. -/
abbrev SeqPoint := Nat × List (Nat × Nat) × List Nat × Nat

/-- The points that follow a point; none when a limit of R343 is broken. -/
def seqNext (seq : SMap W64) (p : SeqPoint) : Option (List SeqPoint) :=
  let (a, loops, calls, n) := p
  let w := seq.get a
  let t := bits w 0 11
  if 2048 ≤ a then some []
  else
    match seqOp w with
    | 0 => some []
    | 1 => some [(a + 1, loops, calls, 0)]
    | 2 => if 4 ≤ loops.length || 16 ≤ n then none
      else some [(a + 1, (a + 1, calls.length) :: loops, calls, n + 1)]
    | 3 =>
      match loops with
      | [] => none
      | (la, d) :: rest =>
        if d ≠ calls.length || 16 ≤ n then none
        else some [(la, loops, calls, n + 1), (a + 1, rest, calls, n + 1)]
    | 4 => if 4 ≤ calls.length || 16 ≤ n then none else some [(t, loops, (a + 1) :: calls, n + 1)]
    | 5 =>
      match calls with
      | [] => none
      | r :: rest =>
        if loops.any (fun l => l.2 == calls.length) || 16 ≤ n then none else some [(r, loops, rest, n + 1)]
    | 6 => if 16 ≤ n then none else some [(t, loops, calls, n + 1)]
    | _ => none

/-- Every static path from the points to do keeps the limits of R343. -/
def seqPathsOk (seq : SMap W64) : Nat → List SeqPoint → List SeqPoint → Bool
  | 0, _, _ => false
  | _, [], _ => true
  | f + 1, p :: work, seen =>
    if seen.contains p then seqPathsOk seq f work seen
    else
      match seqNext seq p with
      | none => false
      | some l => seqPathsOk seq f (l ++ work) (p :: seen)

/-- More points than the static paths of a program have: addresses, open loops, return addresses and counts of control
words. -/
def seqFuel : Nat := 2 ^ 200

/-- The index of the first offending record of a DDS_LOAD; of a program that breaks a limit as a whole, one that writes
sequence words (R343, DESIGN CHOICE, entry 12). -/
def ddsBadIndex (g : Gen) (rs : List DdsRec) (closed : Bool) : Option Nat :=
  match rs.findIdx? fun r => !r.ok with
  | some i => some i
  | none =>
    if !closed then some (rs.length - 1)
    else if seqPathsOk (rs.foldl applyDdsRec g).seq seqFuel [(0, [], [], 0)] [] then none
    else
      let l := (List.range rs.length).filter fun i => (rs.map (·.kind)).getD i 0 == 5
      some (l.getD (Config.ddsFaultRecord (rs.map (·.body)) % l.length) 0)

/-- The records of a DDS_LOAD checked, then written in order (R343). -/
def loadLists (k n a : Nat) (linkErr : Bool) (s : State) : State :=
  if linkErr then complete k stIntegrity 0 s
  else
    let r := readDdsSeq s.dram.mem s.installed (s.installed / 32 + 1) a
    match ddsBadIndex (s.gen n) r.1 r.2 with
    | some i => complete k stBad (0xFF + i % 65536 * 2 ^ 16) s
    | none => complete k stOK 0 (modGen n (fun x => r.1.foldl applyDdsRec x) s)

/-- DDS_LOAD (R343, R463, R512). -/
def execDdsLoad (k : CmdSlot) (linkErr : Bool) (s : State) : Res :=
  onCmd k 0x30 s fun d t =>
    let n := pay d 0 1
    let g := t.gen n
    if !t.dram.enabled || g.running || g.startSpan.isSome then complete k.val stPrecondition 0 t
    else restDram (loadLists k.val n (pay d 8 8) linkErr (wakeDram t))

/-! ## Output (R335, R337, R339) -/

/-- Accumulator of a segment at sample n (R337). -/
def GenSeg.accAt (x : GenSeg) (n : Nat) : Nat := (x.acc.toNat + x.w.toNat * (n - x.n0)) % 2 ^ 48

/-- The sine of x / 2^46 quarter turns, in units of 2^−64: twelve terms of its series, which err by less than 2^−50. -/
def quarterSine (x : Nat) : Int :=
  let y := 28976077832308491370 * x / 2 ^ 46
  let q := y * y / 2 ^ 64
  ((List.range 12).foldl (fun (acc : Int × Nat) k =>
    (if k % 2 = 0 then acc.1 + acc.2 else acc.1 - acc.2, acc.2 * q / 2 ^ 64 / ((2 * k + 2) * (2 * k + 3)))) (0, y)).1

/-- s(θ) of R339: the sine of 2πθ / 2^48 times 32,767. Where that is no integer the spec states no rounding, and it is
either integer beside it (DESIGN CHOICE, entry 1). -/
def sineAt (th : Nat) : Int :=
  let r := th % 2 ^ 46
  let x := if th / 2 ^ 46 % 2 = 0 then r else 2 ^ 46 - r
  let mag : Int := if x = 0 then 0 else if x = 2 ^ 46 then 32767
    else quarterSine x * 32767 / 2 ^ 64 + (b2n (Config.ddsSineUp th) : Nat)
  if th / 2 ^ 47 % 2 = 0 then mag else -mag

/-- x_n of R339. -/
def GenSeg.density (x : GenSeg) (n : Nat) : Nat :=
  (32768 + (x.a.toNat : Int) * sineAt ((x.accAt n + x.p.toNat * 2 ^ 16) % 2 ^ 48) / 65536).toNat

/-- Error register and output of density mode after sample n (R339). -/
def GenSeg.errAt (x : GenSeg) (n : Nat) : Nat × Bool :=
  (List.range (n + 1 - x.n0)).foldl (fun acc i =>
    let v := acc.1 + x.density (x.n0 + i)
    (v % 65536, decide (65536 ≤ v))) (x.err, false)

/-- The output of a segment at an instant (R339). -/
def GenSeg.bitAt (x : GenSeg) (t : Int) : Bool :=
  let n := ((t - x.t0) / 4096).toNat
  if x.val then (x.errAt n).2
  else
    let psi := (x.accAt n + x.w.toNat * ((t - x.t0) % 4096).toNat / 4096 + x.p.toNat * 2 ^ 16) % 2 ^ 48
    decide (2 ^ 47 ≤ psi)

/-- The bit that a generator feeds at an instant; idle is 0 until it is written (R335). (DEDUCED, entry 72.) -/
def Gen.bitAt (g : Gen) (t : Int) : Bool :=
  match g.segs.find? fun x => decide (x.from_ ≤ t) with
  | some x => if x.on then x.bitAt t else x.val
  | none => false

/-- The idle value from an instant on (R335). -/
def Gen.idleFrom (g : Gen) (t : Int) : Gen :=
  { g with segs := ({ from_ := t, on := false, val := bit g.cfg 1 } :: g.segs).take 300 }

/-- The bit that a dds drive event of a channel plays at an instant (R335). (DEDUCED, entry 72.) -/
def State.ddsBit (s : State) (c : Nat) (t : Int) : Bool :=
  let p := s.pin c
  p.ddsEn && (s.gen p.ddsGen).bitAt t

/-! ## Running (R336 to R338, R341, R347 to R350) -/

/-- The control words from an address up to the next SEG or END: the sequence address of the SEG, with the
stacks then. A word that finds no loop or return entry ends the run as END does (DESIGN CHOICE, entry 12). -/
def seekSeg (seq : SMap W64) : Nat → Nat → List (Nat × Nat × Nat) → List Nat →
    Option (Nat × List (Nat × Nat × Nat) × List Nat)
  | 0, _, _, _ => none
  | f + 1, a, loops, calls =>
    let w := seq.get a
    if 2048 ≤ a then none
    else
      match seqOp w with
      | 1 => some (a, loops, calls)
      | 2 => seekSeg seq f (a + 1) ((a + 1, bits w 0 32 + 1, calls.length) :: loops) calls
      | 3 =>
        match loops with
        | [] => none
        | (la, c, d) :: rest =>
          if 1 < c then seekSeg seq f la ((la, c - 1, d) :: rest) calls else seekSeg seq f (a + 1) rest calls
      | 4 => seekSeg seq f (bits w 0 11) loops ((a + 1) :: calls)
      | 5 =>
        match calls with
        | [] => none
        | r :: rest => seekSeg seq f r loops rest
      | 6 => seekSeg seq f (bits w 0 11) loops calls
      | _ => none

/-- A segment put on at sample n (R338). -/
def Gen.putSeg (g : Gen) (n : Nat) (acc : Nat) (err : Nat) (t0 : Int) (a : Nat)
    (loops : List (Nat × Nat × Nat)) (calls : List Nat) : Gen :=
  let e := g.seg.get (bits (g.seq.get a) 0 11)
  let w : BitVec 48 := BitVec.ofNat 48 (bits (g.freq.get (bits e 32 10)) 0 48)
  let acc' := match bits e 62 2 with
    | 0 => acc
    | 1 => w.toNat * n % 2 ^ 48
    | _ => 0
  let sg : GenSeg := { from_ := t0 + 4096 * n, t0 := t0, on := true, val := bit g.cfg 0, n0 := n, w := w,
                       p := g.phase.get (bits e 42 10), a := BitVec.ofNat 16 (bits (g.amp.get (bits e 52 10)) 0 16),
                       acc := BitVec.ofNat 48 acc', err := err }
  { g with pc := a + 1, loops := loops, calls := calls, len := bits e 0 32 + 1,
           segs := (sg :: g.segs).take 300 }

/-- The instant of the boundary that ends the current segment, its sample, accumulator and error. -/
def Gen.boundary (g : Gen) : Int × Nat × Nat × Nat :=
  let x := g.segs.headD {}
  let n := x.n0 + g.len
  (x.t0 + 4096 * n, n, x.accAt n, if x.val then (x.errAt (n - 1)).1 else x.err)

/-- The request instant of a stop that holds from a span: the first sample at or after its tick (R350). -/
def Gen.stopAt (g : Gen) (span : Nat) : Int :=
  let t0 := (g.segs.headD {}).t0
  let d := ((span * spanGr : Nat) : Int) - t0
  if d ≤ 0 then t0 else t0 + (d + 4095) / 4096 * 4096

/-- A generator stops or parks: the output is idle from an instant. -/
def Gen.park (g : Gen) (t : Int) : Gen :=
  { g with running := false, startSpan := none, jump := none, due := none, cmd := none, stops := [], loops := [],
           calls := [] }.idleFrom t

/-- The stops that a generator's end leaves undecided complete with result 0. -/
def endStops (l : List (Nat × Bool × Option Nat)) (s : State) : State :=
  l.foldl (fun t x => completeOpt x.2.2 stOK 0 t) s

/-- A generator parks at END: DDS_START completes with OK (R345). -/
def parkGen (n : Nat) (t : Int) (s : State) : State :=
  let g := s.gen n
  completeOpt g.cmd stOK g.boundaries (endStops g.stops (modGen n (fun x => x.park t) s))

/-- A stop takes effect at an instant: it completes with result 1, DDS_START with CANCELLED (R345, R350). -/
def stopGen (n : Nat) (t : Int) (st : Nat × Bool × Option Nat) (s : State) : State :=
  let g := s.gen n
  let s1 := modGen n (fun x => x.park t) s
  let s2 := completeOpt st.2.2 stOK 1 s1
  completeOpt g.cmd stCancelled g.boundaries (endStops (g.stops.filter fun x => x != st) s2)

/-- DDS_START (R345, R435). -/
def execDdsStart (k : CmdSlot) (s : State) : Res :=
  onCmd k 0x31 s fun d t =>
    let n := pay d 0 1
    let g := t.gen n
    if t.sys.state = .standby then t
    else if t.sys.state = .ready ∧ !g.running ∧ g.startSpan = none ∧ seqOp (g.seq.get 0) ≠ 0 ∧ !t.cal.trip then
      begin_ k.val (modGen n (fun x => { x with startSpan := some (t.time.span + 2), cmd := some k.val,
                                                boundaries := 0 }) t)
    else complete k.val stPrecondition 0 t

/-- An immediate stop whose span has come takes effect at its sample (R350). -/
def stopDue (n : Nat) (s : State) : State :=
  let g := s.gen n
  match g.stops.find? fun x => x.2.1 && decide (x.1 ≤ s.time.span) with
  | some st => if g.running then stopGen n (g.stopAt st.1) st s else s
  | none => s

/-- DDS_RUN_BEGIN: sample 0 at cycle 0 of the start span, offset by the skew (R336, R338). -/
def execDdsRunBegin (n : GenId) (s : State) : Res :=
  let g := s.gen n.val
  match g.startSpan with
  | none => .next s
  | some sp =>
    if sp ≤ s.time.span then
      let t0 : Int := (sp * spanGr : Nat) + g.skew
      match seekSeg g.seq 4096 0 [] [] with
      | none => .next (parkGen n.val t0 s)
      | some (a, loops, calls) =>
        .next (stopDue n.val (modGen n.val (fun x =>
          { x with running := true, startSpan := none }.putSeg 0 0 0 t0 a loops calls) s))
    else .next s

/-- A jump request lies at least 16 samples before an instant (R347). -/
def inTime (req : Int) (t : Int) : Bool := decide (req + 16 * 4096 ≤ t)

/-- The jump that takes effect at a boundary: the one resolved for it, else one requested in time (R342, R347). -/
def Gen.jumpAt (g : Gen) (b : Int) : Option Nat :=
  match g.due, g.jump with
  | some a, _ => some a
  | none, some (t, a) => if inTime t b then some a else none
  | none, none => none

/-- DDS_SEGMENT_BOUNDARY: a stop wins over a jump, a jump over END (R341, R347 to R350). -/
def execDdsSegmentBoundary (n : GenId) (s : State) : Res :=
  let g := s.gen n.val
  if !g.running then .next s
  else
    let b := g.boundary
    let s1 := modGen n.val (fun x => { x with boundaries := x.boundaries + 1 }) s
    match g.stops.find? fun x => inTime (g.stopAt x.1) b.1 with
    | some st => .next (stopGen n.val b.1 st s1)
    | none =>
      match g.jumpAt b.1 with
      | some a =>
        let s2 := modGen n.val (fun x => { x with
          jump := if g.due.isSome then x.jump else none, due := none, jumpDone := true, jumpBoundary := x.boundaries }) s1
        match seekSeg g.seq 4096 a [] [] with
        | none => .next (parkGen n.val b.1 s2)
        | some (a', loops, calls) =>
          .next (modGen n.val (fun x => x.putSeg b.2.1 b.2.2.1 b.2.2.2 (x.segs.headD {}).t0 a' loops calls) s2)
      | none =>
        match seekSeg g.seq 4096 g.pc g.loops g.calls with
        | none => .next (parkGen n.val b.1 s1)
        | some (a', loops, calls) =>
          .next (modGen n.val (fun x => x.putSeg b.2.1 b.2.2.1 b.2.2.2 (x.segs.headD {}).t0 a' loops calls) s1)

/-- A jump request of an instant to a target: it replaces a pending one, but one that was in time for the next boundary
is resolved once that boundary is less than 16 samples away (R342, R346, R348). (DEDUCED, entry 137.) -/
def requestJump (n : Nat) (t target : Nat) (s : State) : State :=
  modGen n (fun g =>
    let b := g.boundary.1
    if !g.running then g
    else
      match g.jump with
      | none => { g with jump := some (t, target) }
      | some (t0, a) =>
        if inTime t0 b && !inTime t b && g.due.isNone then { g with due := some a, jump := some (t, target) }
        else { g with jump := some (t, target), replaced := satAdd 4095 g.replaced 1 }) s

/-- The firing of a jump source: kind 1 a trigger unit, kind 2 a Halso event (R346). -/
def jumpSource (kind idx t : Nat) (s : State) : State :=
  (List.range 8).foldl (fun u n =>
    let g := u.gen n
    if bits g.cfg 2 3 == kind && bits g.cfg 5 5 == idx then requestJump n t g.target.toNat u else u) s

/-- DDS_JUMP_WRITE (R346, Table 7.11). -/
def execDdsJumpWrite (n : GenId) (v : W32) (t : Grain) (s : State) : Res :=
  onBlock false (atGrain t s) fun u =>
    let u1 := modGen n.val (fun g => { g with target := BitVec.ofNat 11 (bits v 0 11) }) u
    if bit v 31 then requestJump n.val u.now (bits v 0 11) u1 else u1

/-- DDS_STOP (R350, R474). -/
def execDdsStop (k : CmdSlot) (s : State) : Res :=
  onCmd k 0x32 s fun d t =>
    let n := pay d 0 1
    let g := t.gen n
    if g.running || g.startSpan.isSome then
      begin_ k.val (modGen n (fun x => { x with
        stops := x.stops ++ [((t.cmd k.val).dspan + 1, pay d 1 1 == 1, some k.val)] }) t)
    else complete k.val stOK 0 t

/-- Immediate stops take effect from the first sample at or after the tick of their span (R350). -/
def ddsTick (s : State) : State :=
  (List.range 8).foldl (fun t n => stopDue n t) s

/-- Every generator stopped: none runs and none is accepted to start (Table 1.7, R511). -/
def State.gensStopped (s : State) : Bool :=
  s.dds.gens.all fun e => !e.2.running && e.2.startSpan.isNone

end Sys2Proof.Machine
end

