-- ==== Sys2Proof/Machine/Wave.lean ====
section
/-!
DEFINITION. Wave entries, timing sets and the instants of a vector at the balls (R197 to R207, R222, R223,
R230, R231, R237, R240, R259, R264, R276).
-/

namespace Sys2Proof.Machine

/-! ## Wave entries (Tables 4.1 to 4.3) -/

/-- Time and code of event slot i. -/
def slotT (w : BitVec 256) (i : Nat) : Nat := bits w (28 * i) 24
@[inherit_doc slotT] def slotCode (w : BitVec 256) (i : Nat) : Nat := bits w (28 * i + 24) 4

/-- Flags of a wave entry. -/
def drvBurst (w : BitVec 256) : Nat := bits w 224 4 + 1
@[inherit_doc drvBurst] def cmpBurst (w : BitVec 256) : Nat := bits w 228 4 + 1
@[inherit_doc drvBurst] def strobeExp (w : BitVec 256) : Nat := bits w 232 2
@[inherit_doc drvBurst] def windowExp (w : BitVec 256) : Nat := bits w 234 2
@[inherit_doc drvBurst] def waveMask (w : BitVec 256) : Bool := bit w 236
@[inherit_doc drvBurst] def waveDds (w : BitVec 256) : Bool := bit w 237
@[inherit_doc drvBurst] def waveReuse (w : BitVec 256) (i : Nat) : Bool := bit w (240 + i)
@[inherit_doc drvBurst] def waveMark (w : BitVec 256) : Nat := bits w 248 8

/-- Burst length of a slot (R203). -/
def slotBurst (w : BitVec 256) (i : Nat) : Nat :=
  match slotCode w i with
  | 0x3 | 0x4 => drvBurst w
  | 0x9 => cmpBurst w
  | _ => 1

/-- A data event (Table 4.2). -/
def slotData (w : BitVec 256) (i : Nat) : Bool := [3, 4, 9].contains (slotCode w i)

/-- Advancing data events, in slot order, with the pointer that each starts from (R198). -/
def advancing (w : BitVec 256) : List (Nat × Nat) :=
  ((List.range 8).foldl (fun acc i =>
    if slotData w i && !waveReuse w i then (acc.1 + slotBurst w i, acc.2 ++ [(i, acc.1)]) else acc) (0, [])).2

/-- The first data bit that a data event uses (R198, R199). -/
def dataBase (w : BitVec 256) (i : Nat) : Nat :=
  let a := advancing w
  match (a.filter fun e => decide (e.1 ≤ i)).getLast?, a.head? with
  | some e, _ => e.2
  | none, some e => e.2
  | none, none => 0

/-- What happens at an instant of a vector. -/
inductive Act where
  /-- Driver to HiZ, low or high. -/
  | drive (lvl : Nat)
  /-- A bit from the generator that feeds the pin, complemented or not (R335). -/
  | driveDds (inv : Bool)
  | strobe (exp : Nat)
  | wopen
  | wclose (exp : Nat)
deriving DecidableEq, Repr

/-- Drive acts. -/
def Act.isDrive : Act → Bool
  | .drive _ => true
  | .driveDds _ => true
  | _ => false

/-- The instants of one slot: offsets in the vector and acts (R202, R204). -/
def slotActs (w : BitVec 256) (ui : Nat) (synth : Bool) (data : Nat → Bool) (i : Nat) : List (Nat × Act) :=
  let t := slotT w i
  let b := dataBase w i
  match slotCode w i with
  | 0x1 => [(t, .drive 1)]
  | 0x2 => [(t, .drive 2)]
  | 0x3 => (List.range (drvBurst w)).map fun k =>
      (t + k * ui, if synth && waveDds w then .driveDds false else .drive (if data (b + k) then 2 else 1))
  | 0x4 => (List.range (drvBurst w)).map fun k =>
      (t + k * ui, if synth && waveDds w then .driveDds true else .drive (if data (b + k) then 1 else 2))
  | 0x5 => [(t, .drive 0)]
  | 0x6 => [(t, .strobe (strobeExp w))]
  | 0x7 => [(t, .wopen)]
  | 0x8 => [(t, .wclose (windowExp w))]
  | 0x9 => (List.range (cmpBurst w)).map fun k => (t + k * ui, .strobe (if data (b + k) then 1 else 0))
  | _ => []

/-- An instant put in time order; a drive comes before a compare at the same instant. -/
def insAct (e : Nat × Act) : List (Nat × Act) → List (Nat × Act)
  | [] => [e]
  | x :: xs =>
    if e.1 < x.1 ∨ (e.1 = x.1 ∧ e.2.isDrive ∧ !x.2.isDrive) then e :: x :: xs else x :: insAct e xs

/-- All instants of an entry in time order. -/
def waveActs (w : BitVec 256) (ui : Nat) (synth : Bool) (data : Nat → Bool) : List (Nat × Act) :=
  ((List.range 8).flatMap fun i => slotActs w ui synth data i).foldl (fun acc e => insAct e acc) []

/-- The acts of an entry, whatever its data. -/
def formActs (w : BitVec 256) (ui : Nat) : List (Nat × Act) := waveActs w ui true fun _ => false

/-- Drive instants of an entry, ascending. -/
def drvTimes (w : BitVec 256) (ui : Nat) : List Nat := ((formActs w ui).filter fun e => e.2.isDrive).map Prod.fst

/-- Compare instants of an entry, window opens included, ascending (R222). -/
def cmpTimes (w : BitVec 256) (ui : Nat) : List Nat := ((formActs w ui).filter fun e => !e.2.isDrive).map Prod.fst

/-- Marks that an entry plays: one mark_id per mark event (R203). -/
def waveMarks (w : BitVec 256) : List Nat :=
  ((List.range 8).filter fun i => slotCode w i == 0xA).map fun _ => waveMark w

/-! ## Timing sets (Tables 4.6, 4.7) -/

/-- Period, UI and level set of a parameter word. -/
def tsPeriod (w : W64) : Nat := bits w 0 24 + 1
@[inherit_doc tsPeriod] def tsUi (w : W64) : Nat := bits w 24 16
@[inherit_doc tsPeriod] def tsLevel (w : W64) : Nat := bits w 40 4

/-- The period of a site under its active timing set (R76). -/
def State.periodOf (s : State) (x : Site) : Nat := tsPeriod ((s.pin (x.chans.headD 0)).tset.get x.ts)
@[inherit_doc State.periodOf] def State.period (s : State) (n : Nat) : Nat := s.periodOf (s.site n)

/-- Octet UI of a rate in Mbit/s (R225); an octet without a declared rate admits no UI. -/
def octetUi (r : Nat) : Nat := if r = 0 then 2 ^ 24 else ceilDiv 4096000 r

/-- Lane rates (Table 4.10). -/
def laneRates : List Nat := [16000, 12800, 10000, 8000, 6400, 5000, 4000, 3200, 2000, 1000, 500, 100]

/-- Index of the highest lane rate that does not exceed a rate (R227). -/
def laneIndex (r : Nat) : Nat := (laneRates.findIdx? fun x => decide (x ≤ r)).getD 11

/-- Link spacing U_L of a lane rate (R279). -/
def linkUi (r : Nat) : Nat := ceilDiv 337920000 r

/-- Least gap of a channel's instants: the octet UI of its plan, or the link spacing (R222, R223, R279). -/
def State.gap (s : State) (n c : Nat) : Nat :=
  let o := octOf c
  let r := match s.planOf n with
    | some p => p.rates.getD o 0
    | none => 0
  if (s.octet o).linkEn then linkUi (laneRates.getD (laneIndex r) 16000) else octetUi r

/-! ## Levels, DAC codes and balls (R239 to R244) -/

/-- PIN_CFG fields. -/
def Pin.tracked (p : Pin) : Bool := bit p.cfg 0
@[inherit_doc Pin.tracked] def Pin.loop (p : Pin) : Nat := bits p.cfg 4 3

/-- Fields of a level word, by DAC: drive high, drive low, threshold high, threshold low. -/
def levelField (w : W64) (d : Nat) : Int := sbits w (16 * d) 16

/-- Nominal code of DAC d for a level, and its largest code (Table 5.1). -/
def nomCode (d : Nat) (v : Int) : Int := if d = 2 ∨ d = 3 then (v + 10001) / 2 else (v + 8001) / 2
@[inherit_doc nomCode] def maxCode (d : Nat) : Int := if d = 2 ∨ d = 3 then 15000 else 13000

/-- The code of R240 before its limit. -/
def rawCode (a : Dac) (nom : Int) : Int := (nom * (65536 + a.gain) * 2 + 65536) / 131072 + a.off

/-- The code set at DAC d for a level (R240). -/
def dacCode (a : Dac) (d : Nat) (v : Int) : Int := clampI 0 (maxCode d) (rawCode a (nomCode d v))

/-- The code at DAC d for a level is held at a limit (R240). -/
def codeHeld (a : Dac) (d : Nat) (v : Int) : Bool :=
  dacCode a d v != rawCode a (nomCode d v)

/-- A DAC of the channel is held at a limit under a level set (R240). -/
def Pin.dacHeld (p : Pin) (lev : Nat) : Bool :=
  (List.range 4).any fun d => codeHeld (p.dacs.get d) d (levelField (p.level.get lev) d)

/-! ## Locked and suppressed (R229, R256, R259, R284) -/

/-- A DAC of the channel is held at a limit: the termination's, or one of the level set in force (R240). -/
def Pin.satNow (p : Pin) (lev : Option Nat) : Bool :=
  codeHeld (p.dacs.get 4) 4 (sbits p.aux 0 16) || lev.elim false p.dacHeld

/-- The CDR phase at an instant (R237). -/
def Pin.phaseAt (p : Pin) (t : Int) : Int :=
  match p.phs.find? fun e => decide ((e.1 : Int) ≤ t), p.phs.getLast? with
  | some e, _ => e.2
  | none, some e => e.2
  | none, none => p.phase

/-- What the ball shows: 0 the open input, 1 low, 2 high, 3 the termination (R205, R243, R244, Table 5.5). -/
def ballOf (p : Pin) : Nat :=
  if p.loop = 1 ∨ p.loop = 2 then 0
  else if p.drv ≠ 0 then p.drv
  else if bit p.cfg 3 && !p.openIn then 3 else 0

/-- The transition at a ball as its channel changes at an instant. -/
def ballOut (c : Nat) (t : Int) (a b : Pin) : List Out := if ballOf a = ballOf b then [] else [.drive c t (ballOf b)]

/-- A channel in direct drive changes at an instant, and its ball with it. -/
def movePin (c : Nat) (t : Int) (f : Pin → Pin) (s : State) : State :=
  emitAll (if (s.octet (octOf c)).linkEn then [] else ballOut c t (s.pin c) (f (s.pin c))) (modPin c f s)

/-- A state that was off at some instant of [a, b]: changes newest first, both instants of a change count
as off (R259). -/
def offIn : List (Nat × Bool) → Bool → Int → Int → Bool
  | [], cur, _, _ => !cur
  | (t, _) :: rest, cur, a, b =>
    if (t : Int) < a then !cur
    else (!cur && decide ((t : Int) ≤ b)) || offIn rest (!cur) a (min b t)

/-- A change of state noted: the 32 newest are kept. -/
def noteChg (t : Nat) (b : Bool) (l : List (Nat × Bool)) : List (Nat × Bool) := ((t, b) :: l).take 32

/-- A logical pin's lane and device report no fault (R284). -/
def Octet.pinGood (x : Octet) (c : Nat) : Bool :=
  !bit x.rxLol (c % 8 / 2) && !bit x.txFault (c % 8 / 2) && !bit x.faults (c % 8)

/-- A compare of a channel over an interval is suppressed (R229, R259, R284). -/
def State.unlockedIn (s : State) (c : Nat) (a b : Int) : Bool :=
  let p := s.pin c
  let o := s.octet (octOf c)
  offIn o.chg o.locked a b ||
  (if o.linkEn then offIn p.lchg (o.pinGood c) a b else p.tracked && offIn p.chg p.locked a b)

/-- The pin runs the CDR: tracked mode in direct drive, or an RX lane (R237, R274). -/
def State.cdrOn (s : State) (c : Nat) : Bool :=
  if (s.octet (octOf c)).linkEn then decide (4 ≤ c % 8) else (s.pin c).tracked

/-- Compares of a channel are suppressed at present (R229, R259, R284). -/
def State.pinDown (s : State) (c : Nat) : Bool :=
  let o := s.octet (octOf c)
  !o.locked || (if o.linkEn then !o.pinGood c else (s.pin c).tracked && !(s.pin c).locked)

/-! ## Ownership -/

/-- The site of a loaded plan that owns a channel. -/
def State.ownerOf (s : State) (c : Nat) : Option Nat :=
  (s.sites.find? fun e => e.2.mode != 7 && bit e.2.pinMap c).map Prod.fst

/-- A running site owns a channel. -/
def State.ownedRunning (s : State) (c : Nat) : Bool :=
  match s.ownerOf c with
  | some n => (s.site n).running
  | none => false

/-- The level set in force on a channel: that of its owner's active timing set (R221). -/
def State.levOf (s : State) (c : Nat) : Option Nat :=
  (s.ownerOf c).map fun n => tsLevel ((s.pin c).tset.get (s.site n).ts)

/-- The far-end loop of a pair: its receiving channel, which is in tracked mode, and its driving one; the even one
receives where both are in tracked mode (R265). (DEDUCED, entry 49.) -/
def State.farPair (s : State) (c : Nat) : Option (Nat × Nat) :=
  let a := c / 2 * 2
  if (s.pin a).loop != 3 || (s.pin (a + 1)).loop != 3 || (s.octet (octOf a)).linkEn ||
      s.ownedRunning a || s.ownedRunning (a + 1) then none
  else if (s.pin a).tracked then some (a, a + 1)
  else if (s.pin (a + 1)).tracked then some (a + 1, a)
  else none

/-- A channel drives its ball for a far-end loop (R244, R265). -/
def State.farDriver (s : State) (c : Nat) : Bool := (s.farPair c).any fun e => e.2 == c

/-! ## One pin of a vector -/

/-- What a pin's vector has done so far. -/
structure PinRun where
  pin : Pin
  outs : List Out := []
  cmps : List CmpRes := []
  obs : List Cls
  /-- Ball instant of the open window, and the drive states met since. -/
  winT : Option Int := none
  winLv : List Nat := []
  moved : Nat := 0
  trim : Bool := false
  free : Nat
  /-- Data blocks of the pin's TX lane, newest first; words not sent; the word of the open window was not sent. -/
  blks : List LinkBlk := []
  late : Nat := 0
  winLate : Bool := false

/-- Offset of an instant, limited (R230, R231). -/
def offsetOf (d : Int) : Int × Bool :=
  let o := clampI (-16384) 16383 d
  (o, o != d)

/-- An instant placed no less than a gap after the previous one of its class (R223). (DEDUCED, entry 57.) -/
def spaced (prev : Option Int) (gap : Nat) (t : Int) : Int × Bool :=
  match prev with
  | some p => if t < p + gap then (p + gap, true) else (t, false)
  | none => (t, false)

/-! ### Words on a TX lane (R275, R276, R280) -/

/-- A TX event word (Table 5.9). (DEDUCED, entry 57.) -/
def eventWord (code lev : Nat) (t : Int) : Nat :=
  (t % spanGr).toNat + code * 2 ^ 19 + lev * 2 ^ 23 + (t / spanGr % 16).toNat * 2 ^ 27

/-- Grains of a 66-bit block at a lane rate in Mbit/s. -/
def blockGr (rate : Nat) : Nat := ceilDiv (66 * 4096000) rate

/-- The slot of a block that a logical pin uses: A the even pin, B the odd one (R275). -/
def LinkBlk.slot (x : LinkBlk) (odd : Bool) : Nat := if odd then x.b else x.a

/-- A word put into its slot. -/
def LinkBlk.put (x : LinkBlk) (odd : Bool) (w : Nat) : LinkBlk := if odd then { x with b := w } else { x with a := w }

/-- The blocks of a lane with a word in the earliest block that may carry it, and that block's instant; none where it
cannot leave 32 ns before the word's instant (R280). (DEDUCED, entry 57.) -/
def placeWord (odd : Bool) (gr : Nat) (known : Int) (sent : Option Int) (t : Int) (w : Nat) (bs : List LinkBlk) :
    Option (Int × List LinkBlk) :=
  let e := sent.elim known fun u => max known (u + gr)
  match (bs.filter fun x => x.slot odd == 0 && decide (e ≤ x.t)).getLast? with
  | some x => if x.t + 131072 ≤ t then some (x.t, bs.map fun y => if y.t = x.t then y.put odd w else y) else none
  | none =>
    let u := (bs.head?).elim e fun h => max e (h.t + gr)
    if u + 131072 ≤ t then some (u, ({ t := u } : LinkBlk).put odd w :: bs) else none

/-- A data block as it leaves (R275). -/
def dataBlock (x : LinkBlk) : BitVec 66 := BitVec.ofNat 66 (1 + (x.a % 2 ^ 32 + x.b % 2 ^ 32 * 2 ^ 32) * 4)

/-- A control block: its type and the rest of its payload (Table 5.8). -/
def ctrlBlock (ty rest : Nat) : BitVec 66 := BitVec.ofNat 66 (2 + (ty + rest * 2 ^ 8) % 2 ^ 64 * 4)

/-! ### Classes that the device itself decides (R106, R245, R263, R264) -/

/-- The class that near-end parallel gives for a drive state (R264). (DEDUCED, entry 68.) -/
def drvCls (lvl : Nat) : Cls := if lvl = 2 then .high else if lvl = 1 then .low else .between

/-- The class of a window over the drive states met in it (R264). -/
def winCls (l : List Nat) : Cls :=
  match l with
  | [] => .other
  | x :: xs => if xs.all (· == x) then drvCls x else .other

/-- Largest difference of a driven level from a threshold, as the receiver of near-end serial sees both, in units of
100 µV (R263, Table 5.21). (DEDUCED, entry 132.) -/
def loopTol : Int := 180

/-- The class that near-end serial gives for a settled drive state under a level word; none where the levels leave it
open (R106, R263). (DEDUCED, entry 132.) -/
def serialCls (w : W64) (lvl : Nat) : Option Cls :=
  let v := if lvl = 2 then levelField w 0 else levelField w 1
  let hi := levelField w 2
  let lo := levelField w 3
  if lvl = 0 then none
  else if hi + loopTol < v then some .high
  else if v + loopTol < lo then some .low
  else if v + loopTol < hi ∧ lo + loopTol < v then some .between
  else none

/-- Distance in grains from a drive instant within which near-end serial may still see an edge, and the DAC settling time
(Table 5.21). (DEDUCED, entry 132.) -/
def edgeGr : Int := 2048
@[inherit_doc edgeGr] def settleGr : Int := 81920

/-- What the run of a pin is told: channel, start and end of the vector, gap, level set, link configuration. -/
structure PinCtx where
  ch : Nat
  t0 : Int
  tEnd : Int
  gap : Nat
  lev : Nat
  link : Bool
  /-- Compares of the entry are judged. -/
  judge : Bool
  supp : Int → Int → Bool
  dds : Int → Bool
  /-- Nominal drive instants of the vector (R230). -/
  drvs : List Int
  /-- Instant at which the vector was known, and grains of a block of the lane (R280). -/
  known : Int
  gr : Nat

/-- Near-end serial shows a settled drive state from an instant to another (R263). -/
def PinCtx.settled (x : PinCtx) (p : Pin) (a b : Int) : Bool :=
  p.loop == 1 && bits p.cfg 1 2 == 0 && decide (p.levT + settleGr ≤ a) && decide (b + edgeGr ≤ x.tEnd) &&
  p.lastDrv.all (fun d => decide (d + edgeGr ≤ a)) &&
  x.drvs.all fun d => decide (d + edgeGr ≤ a) || decide (b + edgeGr ≤ d)

/-- The class of a strobe or of a window from a to b, where the device's own drive state decides it. -/
def ownCls (x : PinCtx) (p : Pin) (lvls : List Nat) (window : Bool) (a b : Int) : Option Cls :=
  if p.loop = 2 then some (if window then winCls lvls else drvCls p.drv)
  else if x.settled p a b then serialCls (p.level.get x.lev) p.drv
  else none

/-- An event word of a logical pin goes out, or is not sent. -/
def sendEvent (x : PinCtx) (code : Nat) (t : Int) (r : PinRun) : Bool × PinRun :=
  match placeWord (x.ch % 2 == 1) x.gr x.known r.pin.sentT t (eventWord code x.lev t) r.blks with
  | some (u, bs) => (true, { r with blks := bs, pin := { r.pin with sentT := some u } })
  | none => (false, { r with late := r.late + 1 })

/-- The code of a drive event in a TX event word (Table 5.9). -/
def driveCode (lvl : Nat) : Nat := if lvl = 0 then 5 else if lvl = 1 then 1 else 2

/-- A drive instant (R205, R223, R230, R280). -/
def driveAct (x : PinCtx) (n : Int) (lvl : Nat) (r : PinRun) : PinRun :=
  let p := r.pin
  let o := offsetOf (p.dDrv + p.vDrv + (if p.drv = 2 ∧ lvl = 1 then p.fall else 0))
  let t := spaced p.lastDrv x.gap (n + o.1)
  let r1 := { r with moved := r.moved + b2n t.2, trim := r.trim || o.2, winLv := lvl :: r.winLv }
  if x.link then
    let y := sendEvent x (driveCode lvl) t.1 r1
    if y.1 then { y.2 with pin := { y.2.pin with drv := lvl, lastDrv := some t.1 } } else y.2
  else
    let q := { p with drv := lvl, lastDrv := some t.1 }
    { r1 with pin := q, outs := ballOut x.ch t.1 p q ++ r.outs }

/-- The instant of a compare, window open or window close at the ball (R223, R230, R237, R264). -/
def cmpInstant (x : PinCtx) (n : Int) (r : PinRun) : Int × PinRun :=
  let p := r.pin
  if p.loop = 2 then (n, r)
  else
    let o := offsetOf (p.dCmp + p.vCmp)
    let t := spaced (if x.link then p.lastDrv else p.lastCmp) x.gap (n + o.1)
    let p' := if x.link then { p with lastDrv := some t.1 } else { p with lastCmp := some t.1 }
    (t.1 + (if p.tracked && !x.link then p.phaseAt t.1 else 0),
     { r with pin := p', moved := r.moved + b2n t.2, trim := r.trim || o.2 })

/-- The comparator's result: the device's own in a loop, else what the environment gives; a free value where it gives
none (DESIGN CHOICE, entry 1). -/
def takeCls (own : Option Cls) (r : PinRun) : Cls × PinRun :=
  match own, r.obs with
  | some c, _ => (c, r)
  | none, c :: cs => (c, { r with obs := cs })
  | none, [] => (Config.sampleCls r.free, { r with free := r.free + 1 })

/-- A compare result: sent to the external device, suppressed, or classed (R206, R259, R280, R281). -/
def addCmp (x : PinCtx) (a b : Int) (exp : Nat) (window : Bool) (own : Option Cls) (r : PinRun) : PinRun :=
  if x.link then
    let y := sendEvent x (if window then 8 else 6) b r
    let sp := x.supp a b || !y.1 || (window && r.winLate)
    { y.2 with cmps := y.2.cmps ++ [{ t := b, exp := exp, judged := x.judge && !sp, supp := sp, sent := !sp,
                                      window := window }] }
  else
    let c := takeCls own r
    let sp := x.supp a b
    { c.2 with cmps := c.2.cmps ++ [{ t := b, cls := if sp then none else some c.1, exp := exp,
                                      judged := x.judge && !sp, supp := sp, window := window }] }

/-- One instant of a pin's vector. (DEDUCED, entry 68.) (DEDUCED, entry 113.) -/
def doAct (x : PinCtx) (r : PinRun) (e : Nat × Act) : PinRun :=
  let n : Int := x.t0 + e.1
  match e.2 with
  | .drive lvl => driveAct x n lvl r
  | .driveDds inv => driveAct x n (if x.dds n != inv then 2 else 1) r
  | .strobe exp =>
    let y := cmpInstant x n r
    addCmp x y.1 y.1 exp false (ownCls x r.pin [] false y.1 y.1) y.2
  | .wopen =>
    let y := cmpInstant x n r
    let z := if x.link then sendEvent x 7 y.1 y.2 else (true, y.2)
    { z.2 with winT := some y.1, winLv := [r.pin.drv], winLate := !z.1 }
  | .wclose exp =>
    let y := cmpInstant x n r
    let a := r.winT.getD y.1
    let z := addCmp x a y.1 exp true (ownCls x r.pin r.winLv true a y.1) y.2
    { z with winT := none, winLate := false }

/-- The context of a channel in a vector of a site. -/
def State.pinCtx (s : State) (n c : Nat) (t0 : Nat) (w : BitVec 256) (judge : Bool) : PinCtx :=
  let o := octOf c
  let p := s.pin c
  let par := p.tset.get (s.site n).ts
  { ch := c, t0 := t0, tEnd := ((t0 + tsPeriod par : Nat) : Int), gap := s.gap n c, lev := tsLevel par,
    link := (s.octet o).linkEn, judge := judge && !waveMask w, supp := s.unlockedIn c, dds := s.ddsBit c,
    drvs := (drvTimes w (tsUi par)).map fun e => ((t0 + e : Nat) : Int) + p.dDrv + p.vDrv,
    known := max ((t0 : Int) - 262144) ((s.site n).cueT : Int),
    gr := blockGr (laneRates.getD (s.octet o).linkRate 16000) }

/-- Instants moved by the spacing rule, and offsets held at a limit, in TIMING_STATUS (R223, R231). -/
def noteTiming (c moved : Nat) (trim : Bool) (s : State) : State :=
  let s1 := if moved = 0 then s
    else perfEvent 0x045 c moved (modTiming (fun x =>
      { x with spacing := satAdd (2 ^ 32 - 1) x.spacing moved, spacingEvent := true }) s)
  if trim then modTiming (fun x => { x with trimSat := true }) s1 else s1

/-- The TX lane of a logical pin after it has used it: its blocks, and the words not sent (R280). -/
def putLane (c : Nat) (bs : List LinkBlk) (late : Nat) (s : State) : State :=
  if (s.octet (octOf c)).linkEn then
    modOctet (octOf c) (fun x => { x with blks := x.blks.set (c % 8 / 2) bs, late := satAdd 0xFFFF x.late late }) s
  else s

/-- The blocks of the TX lane of a logical pin. -/
def State.laneBlks (s : State) (c : Nat) : List LinkBlk := (s.octet (octOf c)).blks.get (c % 8 / 2)

/-- A pin as a vector begins: no longer parked, under the vector's level set (R221, R240, R243). -/
def beginPin (t0 : Int) (lev : Nat) (link : Bool) (p : Pin) : Pin :=
  { p with openIn := false, dacSat := p.dacSat || (!link && p.satNow (some lev)),
           levT := if p.lastLev = lev then p.levT else t0, lastLev := lev }

/-- One channel plays its entry of a vector: its symbol, its data bits, the comparator results (R197, R334).
The result gives its compares and marks. (DEDUCED, entry 113.) -/
def playPin (n c : Nat) (t0 sym : Nat) (data : Nat → Bool) (judge : Bool) (obs : List Cls) (s : State) :
    PinRes × State :=
  let x := s.site n
  let p := s.pin c
  let synth := x.mode = 5
  let w := p.waves.get (16 * x.ts + sym)
  let par := p.tset.get x.ts
  let ctx := s.pinCtx n c t0 w judge
  let q := beginPin t0 ctx.lev ctx.link p
  let r0 : PinRun := { pin := q, outs := if ctx.link then [] else ballOut c t0 p q, obs := obs, free := s.free,
                       blks := s.laneBlks c }
  let r := (waveActs w (tsUi par) synth data).foldl (doAct ctx) r0
  let s1 := putLane c r.blks r.late (setFree r.free (emitAll r.outs (modPin c (fun _ => r.pin) s)))
  ({ ch := c, cmps := r.cmps, marks := waveMarks w, late := r.late != 0 }, noteTiming c r.moved r.trim s1)

end Sys2Proof.Machine
end

