-- ==== Sys2Proof/Machine/Trigger.lean ====
section
/-!
DEFINITION. Trigger units, groups and acquisition records (R310 to R331).
-/

namespace Sys2Proof.Machine

/-! ## Registers of a unit (Tables 6.19 to 6.23) -/

/-- CAP_TRIG_CFG fields. -/
def TrigUnit.site (u : TrigUnit) : Nat := bits u.cfg 0 6
@[inherit_doc TrigUnit.site] def TrigUnit.src (u : TrigUnit) : Nat := bits u.cfg 6 3
@[inherit_doc TrigUnit.site] def TrigUnit.edge (u : TrigUnit) : Bool := bit u.cfg 9
@[inherit_doc TrigUnit.site] def TrigUnit.sel (u : TrigUnit) : Nat := bits u.cfg 10 5
@[inherit_doc TrigUnit.site] def TrigUnit.markId (u : TrigUnit) : Nat := bits u.cfg 15 8
@[inherit_doc TrigUnit.site] def TrigUnit.outEn (u : TrigUnit) : Bool := bit u.cfg 23
@[inherit_doc TrigUnit.site] def TrigUnit.outSel (u : TrigUnit) : Nat := bits u.cfg 24 2
@[inherit_doc TrigUnit.site] def TrigUnit.nch (u : TrigUnit) : Nat := bits u.cfg 32 4 + 1

/-- Listed channel i. -/
def TrigUnit.chan (u : TrigUnit) (i : Nat) : Nat :=
  if i < 8 then bits u.chanLo (8 * i) 7 else bits u.chanHi (8 * (i - 8)) 7

/-- The listed channels. -/
def TrigUnit.chans (u : TrigUnit) : List Nat := (List.range u.nch).map u.chan

/-- CAP_TRIG_HOLDOFF and CAP_TRIG_ACQ fields. -/
def TrigUnit.holdMode (u : TrigUnit) : Nat := bits u.holdoff 0 2
@[inherit_doc TrigUnit.holdMode] def TrigUnit.holdCount (u : TrigUnit) : Nat := bits u.holdoff 32 32
@[inherit_doc TrigUnit.holdMode] def TrigUnit.pre (u : TrigUnit) : Nat := bits u.acq 0 16
@[inherit_doc TrigUnit.holdMode] def TrigUnit.post (u : TrigUnit) : Nat := bits u.acq 16 16 + 1
@[inherit_doc TrigUnit.holdMode] def TrigUnit.avgN (u : TrigUnit) : Nat := bits u.acq 32 5
@[inherit_doc TrigUnit.holdMode] def TrigUnit.avgEn (u : TrigUnit) : Bool := bit u.acq 37
@[inherit_doc TrigUnit.holdMode] def TrigUnit.autoEn (u : TrigUnit) : Bool := bit u.acq 38
@[inherit_doc TrigUnit.holdMode] def TrigUnit.autoPeriod (u : TrigUnit) : Nat := bits u.acq 40 20

/-- Words of one entry (R322). -/
def TrigUnit.entryWords (u : TrigUnit) : Nat := if u.avgEn then u.nch else 1

/-- Capacity C of the acquisition buffer in entries (R322). -/
def TrigUnit.capacity (u : TrigUnit) : Nat := 65536 / u.entryWords

/-- A record's length with n entries (R328). -/
def recLen (u : TrigUnit) (n : Nat) : Nat := ceilDiv (64 + 4 * u.entryWords * n) 64 * 64

/-- Trigger unit u. -/
def State.unit (s : State) (u : Nat) : TrigUnit := s.cap.units.get u

/-- The group of master u. -/
def State.group (s : State) (u : Nat) : Group := s.cap.groups.get u

/-! ## Samples (R310, R311, R319, R322, R323) -/

/-- The 2-bit code of a class at a channel's last compare instant; none is 0b11, a window with any other
result counts as between. -/
def clsCode : Option Cls → Nat
  | none => 3
  | some .low => 1
  | some .high => 2
  | some _ => 0

/-- A raw entry of the listed channels (R322). -/
def rawEntry (codes : List Nat) : Nat :=
  (List.range 16).foldl (fun acc i => acc + codes.getD i 3 * 4 ^ i) 0

/-- The pattern holds in a sample (R311). -/
def TrigUnit.pattern_ (u : TrigUnit) (codes : List Nat) : Bool :=
  (List.range u.nch).all fun i => !bit u.pattern (32 + i) || codes.getD i 3 == bits u.pattern (2 * i) 2

/-- A running interval takes one more sample (R322). -/
def accInterval (g : Group) (codes : List Nat) : Group :=
  let hs := if g.nPart = 0 then codes.map fun _ => 0 else g.highs
  let ns := if g.nPart = 0 then codes.map fun _ => false else g.nones
  { g with nPart := g.nPart + 1,
           highs := List.zipWith (fun h c => h + b2n (c == 2)) hs codes,
           nones := List.zipWith (fun n c => n || c == 3) ns codes }

/-- The words of the open interval (R322). -/
def intervalEntry (g : Group) : List Nat := List.zipWith (fun h n => h + b2n n * 2 ^ 17) g.highs g.nones

/-- Number of entries completed since arming or re-arming. -/
def Group.done (g : Group) : Nat := g.first + g.entries.length

/-- An entry completed. -/
def pushEntry (e : List Nat) (g : Group) : Group := { g with entries := g.entries ++ [e], nPart := 0 }

/-- Entries that need no longer be held: more than pre before the oldest sample that a firing may map to (R323).
(DEDUCED, entry 139.) -/
def trimEntries (u : TrigUnit) (g : Group) : Group :=
  if g.trig.isSome then g
  else
    let old := (g.hist.getLast?.elim g.done (·.idx)) - u.pre - g.first
    { g with entries := g.entries.drop old, first := g.first + old }

/-- A sample put before those that a firing may still map to: a firing is detected no later than the end of the longest
vector, so all of the last 2^24 gr are held and the one before them. (DEDUCED, entry 139.) -/
def addHist (sm : Sample) (l : List Sample) : List Sample :=
  let r := l.takeWhile fun x => decide (sm.t ≤ x.t + 2 ^ 24)
  sm :: r ++ (l.drop r.length).take 1

/-- A sample enters the group of a master: an entry, or part of one; it becomes the latest sample (R319,
R322). -/
def addSample (u : TrigUnit) (codes : List Nat) (t v : Nat) (g : Group) : Group :=
  if u.avgEn then
    let sm : Sample := { t := t, v := v, idx := g.done, pos := g.nPart }
    let g1 := accInterval g codes
    let g2 := if 2 ^ u.avgN ≤ g1.nPart then pushEntry (intervalEntry g1) g1 else g1
    { g2 with hist := addHist sm g.hist }
  else
    { pushEntry [rawEntry codes] g with hist := addHist { t := t, v := v, idx := g.done, pos := 0 } g.hist }

/-! ## Records (R316, R324, R325, R328) -/

/-- The record's cause (R319, R321, R327). -/
def Trig.cause (x : Trig) : Nat :=
  match bitList x.causeMap with
  | b :: _ => b
  | [] => if x.forced then 17 else 16

/-- An entry holds class none. -/
def entryNone (u : TrigUnit) (e : List Nat) : Bool :=
  if u.avgEn then e.any fun w => decide (2 ^ 17 ≤ w)
  else (List.range u.nch).any fun i => (e.headD 0) / 4 ^ i % 4 == 3

/-- The header of a record (Table 6.7). -/
def recHeader (m dev : Nat) (u : TrigUnit) (len seq flags : Nat) (x : Trig) (sm : Sample) (pre post : Nat) :
    List Byte :=
  leBytes 4 0x52514341 ++ leBytes 4 len ++ leBytes 4 seq ++ leBytes 1 (m + 16 * dev) ++ leBytes 1 x.cause ++
  leBytes 2 x.causeMap.toNat ++ leBytes 2 x.remoteMap.toNat ++ leBytes 2 flags ++ leBytes 1 u.site ++
  leBytes 1 (if u.avgEn then u.avgN else 0) ++ leBytes 1 u.nch ++ leBytes 1 (min 255 x.missed) ++
  ((List.range 16).flatMap fun i => leBytes 1 (if i < u.nch then u.chan i else 0xFF)) ++
  leBytes 2 pre ++ leBytes 2 sm.pos ++ leBytes 4 post ++ leBytes 6 sm.v ++ leBytes 2 0 ++
  leBytes 6 (sm.t / spanGr) ++ leBytes 1 (sm.t % spanGr / cycleGr) ++ leBytes 1 0

/-- A byte string in lines of 64 B, the last zero-padded. -/
def inLines : Nat → List Byte → List (List Byte)
  | 0, _ => []
  | n + 1, bs => ((bs ++ List.replicate 64 0).take 64) :: inLines n (bs.drop 64)

/-- The collecting group closes its record with flags beyond those its data set (R317, R324, R325). -/
def closeRecord (m : Nat) (extra : Nat) (s : State) : State :=
  let g := s.group m
  let u := s.unit m
  match g.trig with
  | none => s
  | some x =>
    match x.sample with
    | none => s
    | some sm =>
      let es := if g.done ≤ sm.idx && g.nPart ≠ 0 then g.entries ++ [intervalEntry g] else g.entries
      let pre := min u.pre (sm.idx - g.first)
      let after := min u.post (g.first + es.length - sm.idx)
      let body := (es.drop (sm.idx - pre - g.first)).take (pre + after)
      let len := recLen u body.length
      let flags := b2n x.forced + extra + 8 * b2n u.avgEn + 16 * b2n s.untraceable +
        32 * b2n (body.any (entryNone u))
      let pos := if g.size < g.wrPos + len then 0 else g.wrPos
      let bs := recHeader m s.dev u len g.closed flags x sm pre after ++
        body.flatMap fun e => e.flatMap (leBytes 4)
      modGroup m (fun y => { y with
        st := .rearming, trig := none, closed := y.closed + 1, wrPos := pos + len,
        cur := some { seq := y.closed, addr := y.base + pos, len := len, flags := BitVec.ofNat 16 flags,
                      span := s.time.span },
        lines := inLines (len / 64) bs, entries := [], first := 0, nPart := 0, hist := [], shut := none }) s

/-- The last post entry of the record being collected is complete (R324). -/
def Group.full (g : Group) (post : Nat) : Bool :=
  g.shut.isNone && (g.trig.bind (·.sample)).elim false fun sm => decide (sm.idx + post ≤ g.done)

/-- RECORD_CLOSE once the last post entry is complete (R324). -/
def closeIfDone (m : Nat) (s : State) : State :=
  if (s.group m).full (s.unit m).post then closeRecord m 0 s else s

/-! ## Firing (R312, R313, R318 to R321, R326) -/

/-- A unit is in hold-off at an instant (R326). -/
def TrigUnit.holding (u : TrigUnit) (t : Nat) : Bool :=
  u.inHold && !(u.holdMode == 1 && decide (u.holdT + u.holdCount * cycleGr ≤ t))

/-- Hold-off starts at an instant (R326). -/
def TrigUnit.startHold (u : TrigUnit) (t : Nat) : TrigUnit :=
  if (u.holdMode = 1 || u.holdMode = 2) && u.holdCount ≠ 0 then { u with inHold := true, holdT := t, holdN := 0 }
  else { u with inHold := false }

/-- A firing sets a latch that is clear; one at or before the latch's last clear, or the SITE_START that cleared it, came
before the clear (R118 to R120). -/
def Latch.fire (started t : Nat) (l : Latch) : Latch :=
  if l.set || t < l.clr || t < started then l else { l with set := true, t := t }

/-- A latch of every site set by a firing at an instant; one already set keeps its instant (R118, R120). -/
def setLatches (i t : Nat) (s : State) : State :=
  (List.range 64).foldl (fun x n => modSite n (fun y => { y with latches := y.latches.mod i (·.fire y.latchT t) }) x) s

/-- A firing's message to the other devices (R320, Table 8.7). -/
def sendFiring (g : Group) (u t : Nat) (s : State) : State :=
  if g.devices ≠ 0 && s.halso.joined then
    broadcast0 s.now [firingMsg s.dev g.gid.toNat (2 ^ u) (t / spanGr) (t % spanGr / cycleGr)] s
  else s

/-- A site's pins play vectors. -/
def Site.playing (x : Site) : Bool :=
  x.running &&
  (match x.play with
    | .run | .probe .. | .wait .. => true
    | .stall _ _ parked _ => !parked
    | _ => false)

/-- Starts of vectors that the master's site has played and whose results are still to come, and of the one that plays at
an instant, or starts next, under the active period. -/
def State.unseen (s : State) (m t : Nat) : List Nat :=
  let x := s.site (s.unit m).site
  let per := max 1 (s.periodOf x)
  let a := x.nextT + per * ((t - x.nextT) / per)
  (x.held.filterMap fun h => match h with
    | .vec p .. => some p.t
    | _ => none) ++
  if !x.playing then [] else if x.nextT ≤ t then [x.nextT, a, a + per] else [x.nextT]

/-- The sample of a group that an instant maps to, by its start: the latest at or before it since arming or re-arming, else
the first that follows (R319). (DEDUCED, entry 139.) -/
def State.sampleStart (s : State) (m t : Nat) : Option Nat :=
  let g := s.group m
  let l := (g.hist.map (·.t) ++ s.unseen m t).filter fun v => decide (g.armAt * spanGr ≤ v)
  match (l.filter fun v => decide (v ≤ t)).max?, l.min? with
  | some v, _ => some v
  | none, v => v

/-- A vector of the master's site that starts before an instant is still to be sampled. -/
def State.sampleAhead (s : State) (m t : Nat) : Bool :=
  (s.unseen m t).any fun v => decide ((s.group m).armAt * spanGr ≤ v ∧ v < t)

/-- The trigger sample of a firing instant, when it has been taken already (R319). -/
def State.sampleFor (s : State) (m t : Nat) : Option Sample :=
  (s.sampleStart m t).bind fun v => (s.group m).hist.find? fun x => x.t == v

/-- A unit's hold-off for the trigger of its group (R319). -/
def holdFor (u t : Nat) (sm : Option Sample) (s : State) : State :=
  modUnit u (fun x => x.startHold (match sm with | some y => y.t | none => t)) s

/-- The effects of a unit that fires, but for its group (R313). (DEDUCED, entry 114.) -/
def fireEffects (m u t : Nat) (s : State) : State :=
  let x := s.unit u
  let s1 := setLatches u t (perfEvent 0x048 u 1 s)
  let s2 := if x.outEn then emit (.trigOut x.outSel t) s1 else s1
  sendFiring (s.group m) u t (jumpSource 1 u t s2)

/-- A group is triggered at an instant by a unit, a device, or neither (R319, R320, R327). -/
def trigger (m t : Nat) (causes remotes : BitVec 16) (forced : Bool) (s : State) : State :=
  let g := s.group m
  let sm := s.sampleFor m t
  closeIfDone m (modGroup m (fun y => { y with
    st := .collecting, missedAcc := 0,
    trig := some { ft := t, sample := sm, causeMap := causes, remoteMap := remotes, forced := forced,
                   missed := g.missedAcc } }) s)

/-- A firing instant maps to the trigger sample of the collecting group, even if it is detected after the first (R319). -/
def State.joins (s : State) (m t : Nat) : Bool :=
  (s.group m).trig.elim false fun x => s.sampleStart m t == s.sampleStart m x.ft

/-- A missed trigger of a unit (R312, R326). (DEDUCED, entry 82.) -/
def missTrigger (m u : Nat) (s : State) : State :=
  let s1 := modUnit u (fun x =>
    let n := x.holdN + 1
    if x.inHold && x.holdMode == 2 then
      { x with missed := satAdd (2 ^ 32 - 1) x.missed 1, holdN := n, inHold := decide (n < x.holdCount) }
    else { x with missed := satAdd (2 ^ 32 - 1) x.missed 1 }) s
  modGroup m (fun g => { g with missedAcc := g.missedAcc + 1 }) (perfEvent 0x049 u 1 s1)

/-- A group is armed, and was at an instant (R312, R324). -/
def Group.armedFor (g : Group) (t : Nat) : Bool := g.st == .armed && decide (g.armAt * spanGr ≤ t)

/-- An armed unit's condition is met at an instant: it fires, joins the trigger of that sample, or misses
(R312, R313, R318, R319). -/
def conditionMet (u t : Nat) (s : State) : State :=
  let x := s.unit u
  let m := x.master
  let g := s.group m
  if !x.armed || t < g.armedAt * spanGr then s
  else
    if x.holding t then missTrigger m u s
    else if !g.recs then
      if g.st = .armed then fireEffects m u t (modUnit u (fun y => y.startHold t) s) else missTrigger m u s
    else if g.armedFor t then
      trigger m t (setBit 0 u true) 0 false (fireEffects m u t (holdFor u t (s.sampleFor m t) s))
    else if g.st = .collecting && s.joins m t && !(match g.trig with | some y => bit y.causeMap u | none => false)
    then
      let sm := match g.trig with | some y => y.sample | none => none
      modGroup m (fun y => { y with trig := y.trig.map fun z => { z with causeMap := setBit z.causeMap u true } })
        (fireEffects m u t (holdFor u t sm s))
    else missTrigger m u s

/-- Every unit with a source meets its condition at an instant (Table 6.6). -/
def sourceEvent (src sel t : Nat) (s : State) : State :=
  (List.range 16).foldl (fun x u =>
    let y := x.unit u
    if y.src = src ∧ (src = 2 ∨ y.sel = sel) ∧ (src ≠ 2 ∨ u = sel) then conditionMet u t x else x) s

/-- A trigger that waits for its sample takes it once it has been taken (R319); its units' hold-offs then count from
it. -/
def settleTrigger (m : Nat) (s : State) : State :=
  match (s.group m).trig with
  | some x =>
    match x.sample, s.sampleFor m x.ft with
    | none, some sm =>
      (bitList x.causeMap).foldl (fun t u => modUnit u (fun y =>
          if y.inHold then { y with holdT := sm.t } else y) t)
        (modGroup m (fun y => { y with trig := some { x with sample := some sm } }) s)
    | _, _ => s
  | none => s

/-! ## The end of an arming (R316, R317) -/

/-- A disarmed group: what it has closed is written as it stands, else its TRIG_DISARMs complete, then its TRIG_ARM
(R316, R317). -/
def endArming (m : Nat) (s : State) : State :=
  let g := s.group m
  let off := modGroup m fun y =>
    { y with st := .disarmed, trig := none, shut := none, disarm := [], cmd := none, cur := none, lines := [] }
  match g.cur with
  | some r =>
    let x : Tail := { cur := r, lines := g.lines, written := g.written, cmd := g.cmd, disarm := g.disarm.map Prod.snd }
    modGroup m (fun y => { y with tails := y.tails ++ [x] }) (off s)
  | none => completeOpt g.cmd stCancelled g.written (g.disarm.foldl (fun t x => completeOpt x.2 stOK 1 t) (off s))

/-- A record that closes at the last sample before an instant closes once that sample has been taken (R309, R317). -/
def resolveShut (m : Nat) (s : State) : State :=
  match (s.group m).shut with
  | none => s
  | some (T, flags, dis) =>
    if s.sampleAhead m T then s
    else
      let s1 := modGroup m (fun y => { y with shut := none }) (closeRecord m flags (settleTrigger m s))
      if dis then endArming m s1 else s1

/-- A record being collected closes at the last sample before now with flags; the group is disarmed or not (R309, R317). A
group that has triggered and taken no sample yet collects none. -/
def shutGroup (m flags : Nat) (dis : Bool) (s : State) : State :=
  let g := s.group m
  if g.st = .collecting then
    let e := g.shut.getD (s.now, flags, false)
    resolveShut m (modGroup m (fun y => { y with shut := some (e.1, e.2.1, e.2.2 || dis) }) s)
  else if dis then endArming m s
  else s

/-! ## Samples of a vector (R310, R311, R315, R322) -/

/-- A group takes a sample that begins at an instant. -/
def Group.samples (g : Group) (t : Nat) : Bool :=
  g.recs && (g.st == .armed || g.st == .collecting) && decide (g.armAt * spanGr ≤ t) &&
  g.shut.elim true fun e => decide (t < e.1)

/-- The sample of a vector that a site has played (R310, R311, R315, R319, R322, R324): cls gives a
channel's class at its last compare instant, marks the channels with their mark_id. -/
def sampleVector (n t v : Nat) (cls : Nat → Option Cls) (marks : List (Nat × Nat)) (s : State) : State :=
  let s1 := (List.range 16).foldl (fun x m =>
    let u := x.unit m
    if u.site == n && (x.group m).samples t then
      settleTrigger m (modGroup m (fun h =>
        trimEntries u (addSample u (u.chans.map fun c => clsCode (cls c)) t v h)) x)
    else x) s
  let s2 := (List.range 16).foldl (fun x k =>
    let u := x.unit k
    if u.armed && u.site == n && (u.src == 0 || u.src == 1) && decide ((x.group u.master).armedAt * spanGr ≤ t) then
      let h := u.pattern_ (u.chans.map fun c => clsCode (cls c))
      let marked := u.src == 0 || u.chans.any fun c => marks.contains (c, u.markId)
      let y := modUnit k (fun z => { z with held := h }) x
      if h && marked && !(u.edge && u.held) then conditionMet k t y else y
    else x) s1
  (List.range 16).foldl (fun x m => if (x.unit m).site = n then resolveShut m (closeIfDone m x) else x) s2

/-! ## Arming and disarming (R314 to R317) -/

/-- A unit is armed, or belongs to a group whose arming waits for its span. -/
def State.unitBusy (s : State) (u : Nat) : Bool :=
  (s.unit u).armed || s.cap.groups.any fun e => e.2.st == .arming && bit e.2.units u

/-- The conditions of R314 that a TRIG_ARM breaks: number and unit of the first. (DEDUCED, entry 65.) -/
def armFault (m : Nat) (units : BitVec 16) (recs : Bool) (size : Nat) (s : State) : Option (Nat × Nat) :=
  let us := bitList units
  let u := s.unit m
  if s.sys.state ≠ .ready then some (1, 0)
  else
    match us.find? s.unitBusy with
    | some b => some (2, b)
    | none =>
      match us.find? fun k =>
          (k == m || (s.unit k).src == 0 || (s.unit k).src == 1) &&
          !((s.unit k).chans.all fun c => (s.site (s.unit k).site).mode != 7 && bit (s.site (s.unit k).site).pinMap c)
        with
      | some b => some (3, b)
      | none =>
        if recs && (s.site u.site).mode ≠ 3 then some (4, m)
        else if recs && decide (u.capacity < u.pre + u.post) then some (5, m)
        else if recs && decide (size < recLen u (u.pre + u.post)) then some (6, m)
        else none

/-- TRIG_ARM (R314 to R316); of a master whose last record waits for the vector in progress, once that has ended. -/
def execTrigArm (k : CmdSlot) (s : State) : Res :=
  onCmd k 0x28 s fun d t =>
    let m := pay d 0 1
    let units := setBit (BitVec.ofNat 16 (pay d 2 2)) m true
    let recs := pay d 8 1 == 1
    let size := 65536 * 2 ^ pay d 0x18 1
    if t.sys.state = .standby ∨ (t.group m).shut.isSome then t
    else
      match armFault m units recs size t with
      | some (c, u) => complete k.val stPrecondition (16 * c + u) t
      | none =>
        let t1 := (bitList units).foldl (fun x u => modUnit u (fun y => { y with missed := 0, remote := 0 }) x) t
        begin_ k.val (modGroup m (fun g =>
          { tails := g.tails.map fun x => { x with own := false }, st := .arming, units := units, recs := recs, count := pay d 4 4, gid := BitVec.ofNat 8 (pay d 9 1),
            devices := BitVec.ofNat 16 (pay d 0x0A 2), base := pay d 0x10 8, size := size, cmd := some k.val,
            armAt := (t.cmd k.val).dspan + 1, armedAt := (t.cmd k.val).dspan + 1 }) t1)

/-- The units of a group released. -/
def releaseUnits (units : BitVec 16) (s : State) : State :=
  (bitList units).foldl (fun t u => modUnit u (fun x => { x with armed := false, inHold := false, held := false }) t) s

/-- A group has written its record count (R316, R324). -/
def Group.counted (g : Group) : Bool := g.st == .rearming && g.cur.isNone && g.count != 0 && decide (g.count ≤ g.written)

/-- A group that has written its record count disarms: its TRIG_ARM completes, and a TRIG_DISARM finds no armed master
(R316, R317, R324). -/
def endCount (m : Nat) (s : State) : State :=
  let g := s.group m
  let s1 := releaseUnits g.units (modGroup m (fun y => { y with st := .disarmed, cmd := none, disarm := [] }) s)
  g.disarm.foldl (fun t x => completeOpt x.2 stOK 0 t) (completeOpt g.cmd stOK g.written s1)

/-- A group disarmed at the tick: its open record is closed with the aborted flag and written (R317). -/
def disarmGroup (m : Nat) (s : State) : State :=
  if (s.group m).counted then endCount m s else shutGroup m 4 true (releaseUnits (s.group m).units s)

/-- TRIG_DISARM (R317): of a unit that is no armed master it changes nothing. -/
def execTrigDisarm (k : CmdSlot) (s : State) : Res :=
  onCmd k 0x29 s fun d t =>
    let m := pay d 0 1
    if (t.group m).st = .disarmed ∨ (t.group m).shut.elim false (·.2.2) then complete k.val stOK 0 t
    else begin_ k.val (modGroup m (fun g => { g with
      disarm := g.disarm ++ [((t.cmd k.val).dspan + 1, some k.val)] }) t)

/-- Arming and disarming of every group at the tick (R315, R317, R327). -/
def groupTick (s : State) : State :=
  (List.range 16).foldl (fun t m =>
    let g := t.group m
    let t1 :=
      if g.st = .arming ∧ g.armAt ≤ t.time.span then
        let t0 := (bitList g.units).foldl (fun x u => modUnit u (fun y =>
          { y with armed := true, master := m, inHold := false, held := false }) x) t
        modGroup m (fun y => { y with st := .armed, autoFrom := t.time.span }) t0
      else t
    resolveShut m (if g.disarm.any fun x => decide (x.1 ≤ t.time.span) then disarmGroup m t1 else t1)) s

/-- GROUP_REARM: armed again, or through with its record count (R316, R324). -/
def execGroupRearm (m : UnitId) (s : State) : Res :=
  let g := s.group m.val
  if g.counted then .next (endCount m.val s)
  else if g.st = .rearming ∧ g.cur = none ∧ g.lineSpan < s.time.span then
    .next (modGroup m.val (fun y => { y with
      st := .armed, armAt := s.time.span, autoFrom := s.time.span, entries := [], first := 0,
      nPart := 0, hist := [], trig := none }) s)
  else .next s

/-- HOLDOFF_EXPIRY of a time hold-off (R326). -/
def execHoldoffExpiry (u : UnitId) (s : State) : Res :=
  let x := s.unit u.val
  if x.inHold && !x.holding (s.now + spanGr) then .next (modUnit u.val (fun y => { y with inHold := false }) s)
  else .next s

/-- AUTO_TRIGGER (R327). -/
def execAutoTrigger (m : UnitId) (s : State) : Res :=
  let g := s.group m.val
  let u := s.unit m.val
  if m.val < 4 && u.autoEn && u.autoPeriod != 0 && g.recs && g.st == .armed &&
      decide (g.autoFrom + u.autoPeriod ≤ s.time.span) then
    .next (trigger m.val ((g.autoFrom + u.autoPeriod) * spanGr) 0 0 true s)
  else .next s

/-- TRIG_IN_EDGE (R310, R312). -/
def execTrigInEdge (i : Fin 4) (t : Grain) (s : State) : Res :=
  let s1 := atGrain t s
  .next (sourceEvent 3 i.val s1.now s1)

/-- ACQ_READ (R329, R464). -/
def execAcqRead (k : CmdSlot) (s : State) : Res :=
  onCmd k 0x2A s fun d t =>
    let g := t.group (pay d 0 1)
    let seq := pay d 4 4
    let tails := (g.tails.filter (·.own)).map (·.cur)
    let later := (g.past ++ g.cur.toList ++ tails).filter fun r => decide (seq < r.seq)
    match g.past.find? fun r => r.seq == seq with
    | none => complete k.val stPrecondition 0 t
    | some r =>
      if !t.dram.enabled || decide (255 < g.closed - 1 - seq) ||
          later.any (fun q => decide (q.addr < r.addr + r.len ∧ r.addr < q.addr + 64 * q.lines)) then
        complete k.val stPrecondition 0 t
      else
        let st := if bit r.flags 2 then stAborted else if bit r.flags 1 then stTruncated else stOK
        let n := min r.len (pay d 0x10 4)
        if n = 0 then complete k.val st r.len t
        else begin_ k.val (queueBe { kind := .acqRead, cmd := some k.val, dram := r.addr, host := pay d 8 8,
                                     len := n, status := st, res := r.len } t)

/-- The master's site of a group returns to idle (R325): the samples that an armed group has taken go with its entries
(DEDUCED, entry 139). -/
def siteIdleGroups (n : Nat) (s : State) : State :=
  (List.range 16).foldl (fun t m =>
    let g := t.group m
    if g.recs && (t.unit m).site == n then
      if g.st = .collecting then
        if g.shut.isSome then resolveShut m t else closeRecord m 2 (settleTrigger m t)
      else if g.st = .armed then modGroup m (fun y => { y with entries := [], first := 0, nPart := 0, hist := [] }) t
      else t
    else t) s

/-- No trigger unit is armed or being armed (Table 1.7, R511). (DEDUCED, entry 65.) -/
def State.unitsDisarmed (s : State) : Bool := s.cap.groups.all fun e => e.2.st == .disarmed

end Sys2Proof.Machine
end

