-- ==== Sys2Proof/Machine/Player.lean ====
section
/-!
DEFINITION. The timing generator of a site: vectors, boundary items, MATCH, waits, barriers, stall points,
stops and the end of a run (R88 to R138, R164 to R177, R197 to R208, R294 to R301).
-/

namespace Sys2Proof.Machine

/-! ## The fail log of a vector (R292 to R301) -/

/-- A judged instant passes (R206). -/
def passes (exp : Nat) (c : Option Cls) : Bool :=
  match exp, c with
  | 0, some .low => true
  | 1, some .high => true
  | 2, some .between => true
  | 3, some .low => true
  | 3, some .high => true
  | _, _ => false

/-- A judged instant fails. -/
def CmpRes.fails (c : CmpRes) : Bool := c.judged && !passes c.exp c.cls

/-- Result code of a fail entry (Table 6.4). -/
def resCode : Option Cls → Nat
  | some .low => 1
  | some .high => 2
  | some .other => 3
  | _ => 0

/-- Byte of word_b for a pin: its first failing instant (Table 6.4). -/
def failByte (r : PinRes) : Nat :=
  match r.cmps.findIdx? CmpRes.fails with
  | none => 0
  | some i =>
    let c := r.cmps.getD i {}
    min 15 i + resCode c.cls * 16 + c.exp * 64

/-- The pin results of an octet. -/
def ofOctet (rs : List PinRes) (o : Nat) : List PinRes := rs.filter fun r => octOf r.ch == o

/-- word_a of a fail entry (Table 6.4). -/
def failWordA (rs : List PinRes) (o ts : Nat) : Nat :=
  (ofOctet rs o).foldl (fun acc r =>
    acc + b2n (r.cmps.any CmpRes.fails) * 2 ^ (8 + r.ch % 8) + b2n (r.cmps.any (·.supp)) * 2 ^ (16 + r.ch % 8))
    (o + ts % 64 * 2 ^ 24)

/-- word_b of a fail entry. -/
def failWordB (rs : List PinRes) (o : Nat) : Nat :=
  (ofOctet rs o).foldl (fun acc r => acc + failByte r * 2 ^ (8 * (r.ch % 8))) 0

/-- The class that a pin's last compare instant gives (R106). -/
def lastCls (rs : List PinRes) (c : Nat) : Option Cls :=
  match rs.find? fun r => r.ch == c with
  | none => none
  | some r => (r.cmps.getLast?.map (·.cls)).join

/-- The local condition of a MATCH (R107). -/
def localHit (d : MatchDesc) (rs : List PinRes) : Bool :=
  (bitList d.mask).all fun c => lastCls rs c == some (if bit d.value c then .high else .low)

/-- A masked-in pin was unlocked at some instant of an interval (R137, R138). -/
def State.maskDown (s : State) (d : MatchDesc) (a b : Int) : Bool :=
  (bitList d.mask).any fun c => s.unlockedIn c a b

/-- A suspect entry of a vector: open is type 0x04, close type 0x05 (Table 6.4). (DEDUCED, entry 18.) -/
def susEntry (n type : Nat) (untr : Bool) (p : At) (s : State) (e : SusEnt) : State :=
  stageEntry n false (logEntry type n untr false (e.1 + e.2.1 * 2 ^ 8) p e.2.2) p s

/-- Counters of the channels of a vector (R292, Table 12.1). -/
def countPin (s : State) (r : PinRes) : State :=
  let j := (r.cmps.filter (·.judged)).length
  let f := (r.cmps.filter CmpRes.fails).length
  let u := (r.cmps.filter (·.supp)).length
  perfEvent 0x042 r.ch u (perfEvent 0x041 r.ch f (perfEvent 0x040 r.ch j
    (if f = 0 then s else modPin r.ch (fun p => { p with fails := satAdd (2 ^ 32 - 1) p.fails f }) s)))

/-- The broadcast of a local hit (R116, Table 8.7). -/
def sendHit (d : MatchDesc) (hit : Bool) (cycle : Nat) (s : State) : State :=
  if d.xdev && s.halso.joined then
    broadcast0 s.now [hitMsg s.dev d.group hit cycle] s
  else s

/-- The result of a match vector reaches the probe in progress (R107, R116, R138). -/
def noteProbe (n di : Nat) (rs : List PinRes) (s : State) : State :=
  let d := (s.site n).matchDesc di
  match (s.site n).play with
  | .probe desc a b addr ovl cyc hits pos _ unl =>
    let hit := localHit d rs
    sendHit d hit cyc (modSite n (fun x => { x with play := .probe desc a b addr ovl cyc hits pos hit unl }) s)
  | _ => s

/-- A vector whose results are complete enters the log, the counters, the samples and the MATCH (R292 to
R301, R310). -/
def finishVec (n : Nat) (p : At) (ts : Nat) (untr : Bool) (probe : Option Nat) (logM : Bool)
    (rs : List PinRes) (opens closes : List SusEnt) (s : State) : State :=
  let all := rs.flatMap (·.cmps)
  let failing := rs.filter fun r => r.cmps.any CmpRes.fails
  let s1 := rs.foldl countPin (countVector n (all.filter (·.judged)).length failing.length
    (all.filter (·.supp)).length s)
  let s2 := opens.foldl (susEntry n 0x04 untr p) s1
  let s3 := match failing with
    | [] => s2
    | r :: _ => firstFail n p r.ch s2
  let s4 := ((List.range 16).filter fun o => failing.any fun r => octOf r.ch == o).foldl (fun t o =>
    stageFail n (logEntry 0x01 n untr logM (failWordA rs o ts) p (failWordB rs o)) p t) s3
  let s5 := closes.foldl (susEntry n 0x05 untr p) s4
  let s6 := match probe with
    | some d => noteProbe n d rs s5
    | none => s5
  sampleVector n p.t p.v (lastCls rs) (rs.flatMap fun r => r.marks.map fun m => (r.ch, m)) s6

/-- The end of a run in the log: its truncation entry and its end entry (R299, R303, R306). (DEDUCED, entry 20.) -/
def finishRun (n : Nat) (p : At) (stopped : Bool) (status reason : BitVec 8) (untr : Bool) (s : State) : State :=
  let s1 := siteIdleGroups n s
  stageEnd n stopped (logEntry 0x08 n untr false (status.toNat + reason.toNat * 2 ^ 8) p
    (s1.cap.sites.get n).fails) p s1

/-- A vector waits for a result from an external device. -/
def unanswered (rs : List PinRes) : Bool := rs.any fun r => r.cmps.any (·.sent)

/-- Something held belongs to a boundary that no later vector has passed, and a range of the site is open that may still
close before it: it waits, so that the log ascends (R298, R299). (DEDUCED, entry 133.) -/
def State.mayClose (s : State) (n : Nat) (p : At) : Bool :=
  let x := s.site n
  x.play != .ended && decide (x.vcount ≤ p.v) &&
  x.chans.any fun c => (s.pin c).suspect.any fun u => u.site == n && u.opened

/-- The fail log takes what waits for it, in order, up to a vector with unanswered compares. -/
def flush (n : Nat) : Nat → State → State
  | 0, s => s
  | f + 1, s =>
    match (s.site n).held with
    | [] => s
    | h :: rest =>
      let s1 := modSite n (fun x => { x with held := rest }) s
      match h with
      | .vec p ts untr probe logM rs opens closes =>
        if unanswered rs then s else flush n f (finishVec n p ts untr probe logM rs opens closes s1)
      | .entry p ty wa wb untr =>
        if s.mayClose n p then s else flush n f (stageEntry n false (logEntry ty n untr false wa p wb) p s1)
      | .fin p st status reason untr => flush n f (finishRun n p st status reason untr s1)

/-- The vcount that something held carries. -/
def Held.v : Held → Nat
  | .vec p .. => p.v
  | .entry p .. => p.v
  | .fin p .. => p.v

/-- Something put behind what is held of its own vcount or a lower one (R299). -/
def putHeld (h : Held) (l : List Held) : List Held :=
  l.takeWhile (fun x => decide (x.v ≤ h.v)) ++ h :: l.dropWhile fun x => decide (x.v ≤ h.v)

/-- Something more for the fail log, taken at once when nothing waits. -/
def hold (n : Nat) (h : Held) (s : State) : State :=
  let s1 := modSite n (fun x => { x with held := putHeld h x.held }) s
  flush n (s1.site n).held.length s1

/-! ## Parking (R77, R78, R244) -/

/-- The event word of a logical pin's park state, known with the end of the run, or 64 ns before the park (R276, R280).
(DEDUCED, entry 57.) -/
def parkWord (n c : Nat) (t : Int) (lvl : Nat) (s : State) : State :=
  let x := s.site n
  let p := s.pin c
  let lev := tsLevel (p.tset.get x.ts)
  let gr := blockGr (laneRates.getD (s.octet (octOf c)).linkRate 16000)
  match placeWord (c % 2 == 1) gr (max (t - 262144) x.cueT) p.sentT t (eventWord (driveCode lvl) lev t) (s.laneBlks c) with
  | some (u, bs) => putLane c bs 0 (modPin c (fun y => { y with drv := lvl, lastDrv := some t, sentT := some u }) s)
  | none => putLane c (s.laneBlks c) 1 s

/-- A channel takes its park state at an instant (Table 2.1); the driving channel of a far-end loop goes on driving
(R265). -/
def parkPin (n c : Nat) (t : Int) (s : State) : State :=
  let x := s.site n
  let p := s.pin c
  let code := x.parkCode c
  let lvl := if code = 1 then 1 else if code = 2 then 2 else if code = 3 && x.vcount != 0 then p.drv else 0
  if (s.octet (octOf c)).linkEn then if p.drv = lvl then s else parkWord n c t lvl s
  else if s.farDriver c then s
  else movePin c t (fun y => { y with drv := lvl, openIn := decide (lvl = 0 ∧ code ≠ 3), lastDrv := some t }) s

/-- A channel that presents the open input from an instant (R77, R244). -/
def openBall (t : Int) (c : Nat) (s : State) : State :=
  movePin c t (fun y => { y with drv := 0, openIn := true, lastDrv := if y.drv = 0 then y.lastDrv else some t }) s

/-- A channel that no loaded plan owns presents the open input, but for the driving channel of a far-end loop (R77,
R244). -/
def releasePin (t : Int) (c : Nat) (s : State) : State := if s.farDriver c then s else openBall t c s

/-- A channel of no running site as it rests: parked by its owner, or released (R77). -/
def restPin (c : Nat) (s : State) : State :=
  match s.ownerOf c with
  | some n => parkPin n c s.now s
  | none => releasePin s.now c s

/-- The driving channel of a far-end loop that was, rests again where it drives no longer (R77, R265). -/
def endFar (was : Option (Nat × Nat)) (s : State) : State :=
  match was with
  | some (_, d) => if s.farDriver d then s else restPin d s
  | none => s

/-- The pins of a site take the park state at an instant. -/
def parkPins (n : Nat) (t : Int) (s : State) : State :=
  (s.site n).chans.foldl (fun u c => parkPin n c t u) s

/-! ## The end of a run (R128 to R136, R176, R298) -/

/-- The close entries of the ranges still open at the end of a run, at the last vector played (R298). -/
def runCloses (n : Nat) (s : State) : List Held :=
  let x := s.site n
  x.chans.filterMap fun c =>
    match (s.pin c).suspect with
    | some u => if u.site = n ∧ u.opened then
        some (.entry x.lastV 0x05 (c + u.cause * 2 ^ 8) u.lockWin s.untraceable) else none
    | none => none

/-- The run of a site ends at an instant: pins parked, ranges closed, end entry made, issue over. -/
def endRun (n : Nat) (e : EndInfo) (stopped : Bool) (t : Nat) (addr ovl : Nat) (s : State) : State :=
  let x := s.site n
  let cl := runCloses n s
  let fin : Held := .fin { v := x.vcount, addr := addr, ovl := ovl, t := t } stopped e.status e.reason s.untraceable
  let s1 := parkPins n t s
  let s2 := x.chans.foldl (fun u c => modPin c (fun p =>
    { p.disturb with suspect := p.suspect.filter fun v => v.site != n }) u) s1
  let s3 := modSite n (fun y => { y with
    play := .ended, fin := some e, q := [], issuing := false, matchWait := false, resume := false,
    parkSpan := t / spanGr,
    lastReason := if e.status = stAborted ∨ e.status = stTimeout then e.reason else y.lastReason,
    held := (cl.foldl (fun l h => putHeld h l) x.held) ++ [fin] }) s2
  flush n (s3.site n).held.length s3

/-! ## Latches, barriers and decisions (R109, R116 to R120, R122, R124) -/

/-- The latch of a WAIT_TRIG source (Table 2.6, Table 2.20). -/
def latchOf (src : Nat) : Nat := if src < 16 then src else 16 + (src - 32)

/-- A latch was set at least 32 ns before a boundary (R120). -/
def Site.satisfied (x : Site) (src t : Nat) : Bool :=
  let l := x.latches.get (latchOf src)
  l.set && decide (l.t + 131072 ≤ t)

/-- The latch of a source cleared at an instant (R118, R119). -/
def Site.clearLatch (x : Site) (src t : Nat) : Site := { x with latches := x.latches.set (latchOf src) { clr := t + 1 } }

/-- The lowest site of the group that the entry of site n for barrier b names: it numbers the group's barrier (R122,
R124). -/
def Site.leader (x : Site) (n b : Nat) : Nat := (bitList (x.barSites b)).headD n

/-- The barrier b of the group of sites whose lowest site is n. -/
def State.barrier (s : State) (n b : Nat) : Barrier := s.barriers.get (32 * n + b)

/-- The barrier b of a group changed by a function. -/
def modBarrier (n b : Nat) (f : Barrier → Barrier) (s : State) : State :=
  { s with barriers := s.barriers.mod (32 * n + b) f }

/-- The release span of the barrier that a site waits for, once it is known. -/
def State.relOf (s : State) (n b : Nat) : Option Nat := (s.barrier ((s.site n).leader n b) b).rel

/-- The hits of the other participants in a cycle: none while one is missing (R116). -/
def State.peerHits (s : State) (d : MatchDesc) (cycle : Nat) : Option (List Bool) :=
  let devs := (bitList d.devices).filter fun x => x != s.dev
  let got := devs.map fun x =>
    (s.halso.hits.find? fun h => h.dev == x && h.group == d.group && h.cycle == cycle).map (·.hit)
  if got.all Option.isSome then some (got.filterMap id) else none

/-- The combined hit of a cycle (R116); none when it cannot be formed (R117). -/
def State.combined (s : State) (d : MatchDesc) (hit : Bool) (cycle : Nat) : Option Bool :=
  if !d.xdev then some hit
  else (s.peerHits d cycle).map fun l => if d.orMode then hit || l.any id else hit && l.all id

/-- What a MATCH has at the end of a guard run: the consecutive hits so far, and the target with its outcome bit unless
another cycle follows; none when the combined hit cannot be formed (R109, R116, R117). -/
def State.pick (s : State) (d : MatchDesc) (a b cyc hits : Nat) (hit : Bool) : Option (Nat × Option (Nat × Bool)) :=
  (s.combined d hit cyc).map fun h =>
    let run := if h then hits + 1 else 0
    (run, if run = d.need then some (a, false) else if cyc = d.cycles then some (b, true) else none)

/-- A site whose MATCH takes a target: its prefix has acted and its first instruction is placed (R576). -/
def Site.taken (x : Site) (p : Option Plan) (n tgt : Nat) : Site :=
  runTarget p n 4096 { x with play := .run, matchWait := false, foldable := false, pc := tgt, ovl := 0, vecDone := 0 }

/-! ## HALT before a stop (R130) -/

/-- A stall point holds its site: its gate is armed, or a capture hold applies (R164, R307). -/
def State.stalls (s : State) (n addr ovl : Nat) : Bool := s.armed n addr ovl || s.holdOn n

/-- From a boundary, the items of a queue lead to HALT in no time. (DEDUCED, entry 60.) -/
def State.haltsAt (s : State) (n t : Nat) : Site → List QItem → Bool
  | _, [] => false
  | _, .halt .. :: _ => true
  | x, .setTs _ :: q => s.haltsAt n t x q
  | x, .mark .. :: q => s.haltsAt n t x q
  | x, .signal _ :: q => s.haltsAt n t x q
  | x, .stall addr ovl :: q => !s.stalls n addr ovl && s.haltsAt n t x q
  | x, .wait _ _ src _ _ clr :: q =>
    let y := if clr then x.clearLatch src t else x
    y.satisfied src t && s.haltsAt n t (y.clearLatch src t) q
  | _, _ => false

/-- A site at the end of a guard run takes a target that leads to HALT at once. -/
def State.haltsTaken (s : State) (n : Nat) : Bool :=
  let x := s.site n
  match x.play with
  | .probe di a b _ _ cyc hits pos hit _ =>
    let d := x.matchDesc di
    match s.pick d a b cyc hits hit with
    | some (_, some (tgt, _)) =>
      let y := x.taken (s.planOf n) n tgt
      decide (d.guard < pos) && s.haltsAt n x.nextT y y.q
    | _ => false
  | _ => false

/-- A site that a stop could stop at an instant parks there for HALT, or goes on before it: the stop does not act
(R130, R131). (DEDUCED, entry 60.) -/
def State.outruns (s : State) (n m : Nat) : Bool :=
  let x := s.site n
  let free (u : Nat) : Bool := decide (u < m) || (u == m && s.haltsAt n u x x.q)
  match x.play with
  | .run => s.haltsAt n m x x.q
  | .wait _ _ src _ _ _ => x.satisfied src m && s.haltsAt n m (x.clearLatch src m) x.q
  | .probe .. => s.haltsTaken n
  | .park _ _ u => free u
  | .sync _ _ b _ rel _ => (s.relOf n b).elim false fun r => free (r * spanGr + rel * cycleGr)
  | _ => false

/-! ## Stops (R129 to R133, R581) -/

/-- Commands of a site that are not dispatched are cancelled by its stop, in fetch order (R129, R474).
(DEDUCED, entry 61.) -/
def cancelSite (n : Nat) (s : State) : State :=
  let ks := (inFetchOrder s.hqm.cmds fun c =>
    [Phase.waiting, .delayed, .ready].contains c.ph && [0x20, 0x21, 0x22, 0x23].contains (descOp c.desc) &&
    pay c.desc 0 1 == n).map Prod.fst
  promote (cancelAll ks s)

/-- A site stops at an instant by a request (R129, R133). (DEDUCED, entry 61.) -/
def stopRun (n : Nat) (r : StopReq) (k : StopAt) (t addr ovl : Nat) (s : State) : State :=
  let trunc := (r.at_ k t).getD true
  let s1 := modSite n (fun x => { x with decider := r.cmd, stops := x.stops.filter fun y => y != r }) s
  cancelSite n (endRun n { status := stCancelled } trunc t addr ovl s1)

/-- The current position of a site at the pins: the address that the next item carries. (DEDUCED, entry 20.) -/
def Site.posn (x : Site) : Nat × Nat :=
  match x.play with
  | .probe _ _ _ addr ovl .. => (addr, ovl)
  | .wait addr ovl .. => (addr, ovl)
  | .sync addr ovl .. => (addr, ovl)
  | .stall addr ovl .. => (addr, ovl)
  | .park addr ovl _ => (addr, ovl)
  | _ =>
    match x.q with
    | .bundle addr ovl .. :: _ => (addr, ovl)
    | .wait addr ovl .. :: _ => (addr, ovl)
    | .sync addr ovl .. :: _ => (addr, ovl)
    | .park addr ovl _ :: _ => (addr, ovl)
    | .stall addr ovl :: _ => (addr, ovl)
    | .stop addr ovl _ :: _ => (addr, ovl)
    | _ => (x.pc, x.ovl)

/-- Where a stop may act now: at bundle boundaries, at stall points, and while held (R129, R131, R132, R133). -/
def Site.stopPoint (x : Site) (g : Nat) : Option StopAt :=
  match x.play with
  | .run =>
    match x.q with
    | .bundle _ _ _ _ _ played _ _ _ _ :: _ => if played = 0 then some .boundary else none
    | .stall _ _ :: _ => some .stallPoint
    | _ => some .boundary
  | .probe _ _ _ _ _ _ _ pos _ _ => if pos = 0 ∨ pos % 32 = 1 ∨ pos = g + 1 then some .boundary else none
  | .wait .. => some .held
  | .stall _ _ parked _ => some (.paused parked)
  | .sync .. => some .held
  | .park .. => some .held
  | _ => none

/-- The site is held with parked pins: a stop then acts at its own instant (R131). -/
def Site.heldParked (x : Site) : Bool :=
  match x.play with
  | .stall _ _ parked _ => parked
  | .sync .. => true
  | .park .. => true
  | _ => false

/-- Guard vectors of the MATCH in progress. -/
def Site.guardLen (x : Site) : Nat :=
  match x.play with
  | .probe d .. => (x.matchDesc d).guard
  | _ => 0

/-- The instant at which a stop may act now: the boundary reached, or, on a site held with parked pins, the earliest
instant of a request. -/
def State.stopTime (s : State) (n : Nat) (k : StopAt) : Option Nat :=
  let x := s.site n
  if x.heldParked then
    match (x.stops.filterMap fun r => (r.from_ k).map fun e => max x.nextT e).filter fun i =>
        decide (i / spanGr ≤ s.time.span) with
    | [] => none
    | i :: is => some (is.foldl min i)
  else if x.nextT / spanGr ≤ s.time.span then some x.nextT
  else none

/-- The request that stops a site at an instant; a SITE_PARK that reaches a stall point there stops before a HALT that
follows it (R130, R133, R581). -/
def State.dueAt (s : State) (n : Nat) (k : StopAt) (t : Nat) : Option StopReq :=
  let x := s.site n
  if s.outruns n t && !x.stops.any (fun r => r.at_ k t == some false) then none else x.stopDue k t

/-- The stop that may act now, with its instant and place. -/
def State.stopNow (s : State) (n : Nat) : Option (StopReq × Nat × StopAt) :=
  let x := s.site n
  match x.stopPoint x.guardLen with
  | none => none
  | some k => (s.stopTime n k).bind fun t => (s.dueAt n k t).map fun r => (r, t, k)

/-- A stop acts at the point where the site is, when the request meets a condition. -/
def stopEffect (n : Nat) (p : StopReq → Bool) (s : State) : State :=
  match s.stopNow n with
  | some (r, t, k) =>
    if p r then
      let a := (s.site n).posn
      stopRun n r k t a.1 a.2 s
    else s
  | none => s

/-- SITE_STOP_EFFECT (R129, R131 to R133, R581). -/
def execSiteStopEffect (n : SiteId) (s : State) : Res := .next (stopEffect n.val (fun _ => true) s)

/-- SITE_PARK_LIMIT (R133): the limit of the deciding SITE_PARK has run out. -/
def execSiteParkLimit (n : SiteId) (s : State) : Res :=
  .next (stopEffect n.val (fun r => r.isPark && r.limit != 0 && decide (r.p + r.limit ≤ s.time.span)) s)

/-! ## Boundary items (R99 to R104, R119, R120, R127, R128) -/

/-- A Halso event at this device: latches, trigger units, jumps (R392). -/
def halsoEvent (m t : Nat) (s : State) : State :=
  jumpSource 2 m t (sourceEvent 4 m t (setLatches (16 + m) t s))

/-- A SIGNAL at a boundary: one event for each destination (R101, R102, R392). -/
def signalAt (n dst t : Nat) (s : State) : State :=
  let x := s.site n
  if x.sigT = t ∧ dst ∈ x.sigs then s
  else
    let s1 := modSite n (fun y => { y with sigT := t, sigs := if y.sigT = t then dst :: y.sigs else [dst] }) s
    if dst < 16 then sourceEvent 2 dst t s1
    else if dst < 20 then emit (.trigOut (dst - 16) t) s1
    else
      let m := dst - 32
      let s2 := if s1.halso.joined then
          broadcast0 s1.now [eventMsg s1.dev m (t / spanGr) (t % spanGr / cycleGr)] s1
        else s1
      halsoEvent m t s2

/-- The head of a site's queue taken off. -/
def popQ (n : Nat) (s : State) : State := modSite n (fun x => { x with q := x.q.drop 1 }) s

/-- A timing set put in force; the channels' state and DAC codes change where it is another than the active one (R99, R224,
R240, R402). -/
def newSet (n ts : Nat) (s : State) : State :=
  if (s.site n).ts = ts then s
  else
    let s1 := disturbSite n (modSite n (fun y => { y with ts := ts }) s)
    (s1.site n).chans.foldl (fun t c =>
      if (t.octet (octOf c)).linkEn then t
      else modPin c (fun p => { p with dacSat := p.dacSat || p.satNow (some (tsLevel (p.tset.get ts))) }) t) s1

/-- The hits of an earlier MATCH of the same group serve none of a MATCH that begins (R116, R117). -/
def dropHits (d : MatchDesc) (s : State) : State :=
  if d.xdev then modHalso (fun h => { h with hits := h.hits.filter fun z => z.group != d.group }) s else s

/-- An item that acts in no time at the boundary the site has reached, with the state after it; none when
the next item plays, holds, waits for its own event, or gives way to a stop. (DEDUCED, entry 60.)
(DEDUCED, entry 64.) -/
def settleOne (n : Nat) (s : State) : Option State :=
  let x := s.site n
  if x.play ≠ .run then none
  else
    let t := x.nextT
    let due := (s.dueAt n .boundary t).isSome
    match x.q with
    | .setTs ts :: _ => some (newSet n ts (popQ n s))
    | .mark addr ovl m :: _ =>
      some (hold n (.entry { v := x.vcount, addr := addr, ovl := ovl, t := t } 0x02 m 0 s.untraceable) (popQ n s))
    | .signal dst :: _ => some (signalAt n dst t (popQ n s))
    | .matchI addr ovl d a b :: _ =>
      if x.leaseLeft = some 0 ∧ due = false then some (endRun n (endOf stAborted rLease addr ovl) false t addr ovl (popQ n s))
      else
        let c := x.matchDesc d
        some (dropHits c (newSet n c.ts (modSite n (fun y =>
          { y with play := .probe d a b addr ovl 1 0 0 false false }) (popQ n s))))
    | .halt addr ovl :: _ => some (endRun n { status := stOK } false t addr ovl (popQ n s))
    | .wait addr ovl src timeout line clr :: _ =>
      if due then none
      else
        some (modSite n (fun y =>
          let z := if clr then y.clearLatch src t else y
          if z.satisfied src t then { z.clearLatch src t with knownT := t, cueT := (z.latches.get (latchOf src)).t }
          else { z with play := .wait addr ovl src timeout line 0 }) (popQ n s))
    | .park addr ovl dur :: _ =>
      if due then none
      else some (parkPins n t (modSite n (fun y => { y with play := .park addr ovl (t + dur * cycleGr) }) (popQ n s)))
    | .stop addr ovl e :: _ =>
      if due then none
      else some (endRun n e false t addr ovl (popQ n s))
    | .bundle addr ovl _ _ _ played _ _ _ (some e) :: _ =>
      if due || played != 0 then none else some (endRun n e false t addr ovl s)
    | _ => none

/-- Every item that acts at the boundary a site has reached. -/
def settleN (n : Nat) : Nat → State → State
  | 0, s => s
  | f + 1, s =>
    match settleOne n s with
    | none => s
    | some t => settleN n f t

/-- Every item that acts at the boundary a site has reached. -/
def settle (n : Nat) (s : State) : State := settleN n ((s.site n).q.length + 1) s

/-! ## Records and reads (R141, R142, R175 to R177, R334) -/

/-- The site reads no records (R334). -/
def Site.synth (x : Site) : Bool := x.mode == 5

/-- The record of a site at plan byte address a. -/
def State.record (s : State) (p : Plan) (x : Site) (a : Nat) : Nat :=
  leNat ((List.range (x.stride / 8)).map fun i => Mem.byte s.vs.mem (p.byteAddr (a + i)))

/-- Plan byte address of record j of a run at a line (R142). -/
def Site.recAddr (x : Site) (line j : Nat) : Nat := 64 * line + j * (x.stride / 8)

/-- Record j of a run at a line. -/
def State.recordAt (s : State) (n line j : Nat) : Nat :=
  let x := s.site n
  if x.synth then 0
  else
    match s.planOf n with
    | none => 0
    | some p => s.record p x (x.recAddr line j)

/-- The underrun of a bundle, when a frame that holds one of its records is not VALID (R176, R177). -/
def underrunOf (p : Plan) (x : Site) (line j count : Nat) : Option EndInfo :=
  let a := x.recAddr line j
  let b := x.recAddr line (j + count) - 1
  match ((List.range (b / 4096 - a / 4096 + 1)).map fun i => a / 4096 + i).find? fun f => p.frameSt f != .valid with
  | none => none
  | some f =>
    let st := p.frameSt f
    some { status := stUnderrun, result := BitVec.ofNat 32 (a / 64 % 2 ^ 19 + b2n (st == .bad) * 2 ^ 19 +
      (if st = .empty then 0 else (p.frames.get f).slot % 64) * 2 ^ 20) }

/-- The first unread bundle of a queue, read by a function. -/
def readFirst (f : Nat → Nat → Nat → List Nat × Option EndInfo) : List QItem → List QItem
  | [] => []
  | .bundle addr ovl line j count played rd st recs under :: rest =>
    if rd then .bundle addr ovl line j count played rd st recs under :: readFirst f rest
    else
      let r := f line j count
      .bundle addr ovl line j count played true st r.1 r.2 :: rest
  | i :: rest => i :: readFirst f rest

/-- The records of a bundle as its read finds them, or the underrun it meets (R175, R176). -/
def State.fetchRun (s : State) (n line j count : Nat) : List Nat × Option EndInfo :=
  let x := s.site n
  match s.planOf n with
  | none => ([], none)
  | some p =>
    if x.synth then ([], none)
    else
      match underrunOf p x line j count with
      | some e => ([], some e)
      | none => ((List.range count).map fun i => s.record p x (x.recAddr line (j + i)), none)

/-- The instant at which the first unread bundle behind the items of a queue starts, from the instant at which the first
item acts; none while it is not known. -/
def State.startOf (s : State) (n : Nat) : Nat → Site → List QItem → Option Nat
  | _, _, [] => none
  | t, x, .bundle _ _ _ _ count played rd _ _ _ :: q =>
    if rd then s.startOf n (t + (count - played) * s.periodOf x) x q else some t
  | t, x, .setTs ts :: q => s.startOf n t { x with ts := ts } q
  | t, x, .mark .. :: q => s.startOf n t x q
  | t, x, .signal _ :: q => s.startOf n t x q
  | t, x, .park _ _ dur :: q => s.startOf n (t + dur * cycleGr) x q
  | t, x, .stall addr ovl :: q => if s.stalls n addr ovl then none else s.startOf n t x q
  | _, _, _ => none

/-- The start of the first unread bundle of a site, once it is known. -/
def State.nextStart (s : State) (n : Nat) : Option Nat :=
  let x := s.site n
  match x.play with
  | .starting | .run => s.startOf n x.nextT x x.q
  | .park _ _ u => s.startOf n u x x.q
  | .sync _ _ b _ rel _ => (s.relOf n b).bind fun r => s.startOf n (r * spanGr + rel * cycleGr) x x.q
  | _ => none

/-- A read may begin now: 64 ns before the bundle's first vector; where that vector was not known so early, at any
instant from then until it starts (R175). (DEDUCED, entry 17.) -/
def State.readDue (s : State) (n : Nat) : Bool :=
  match s.nextStart n with
  | none => false
  | some b =>
    let k := (s.site n).knownT
    if k + 64 * 4096 ≤ b then s.now + 64 * 4096 == b
    else decide (max k (b - 64 * 4096) ≤ s.now) && decide (s.now ≤ b)

/-- BUNDLE_READ: the records of the next unread bundle are read, 64 ns ahead of its first vector (R175,
R176). -/
def execBundleRead (n : SiteAt) (s : State) : Res :=
  let s1 := atGrain n.t s
  let m := n.site.val
  if s1.readDue m then
    .next (settle m (modSite m (fun y => { y with q := readFirst (s1.fetchRun m) y.q }) s1))
  else .next s

/-! ## Playing vectors (R197 to R208, R220, R221, R260) -/

/-- The symbol and the data bits of pin number i in a record (R141). -/
def recSym (k rec i : Nat) : Nat := rec / 2 ^ (i * (4 + k)) % 16
@[inherit_doc recSym] def recData (k rec i j : Nat) : Bool := decide (j < k) && (rec / 2 ^ (i * (4 + k) + 4 + j)).testBit 0

/-- t_d of a descriptor: the latest compare event of its masked-in pins in the match vector rec, from the wave
entries of its timing set; 0 with none (R112, R113). -/
def decisionOff (d : MatchDesc) (cs : List Nat) (mux rec : Nat) (pins : SMap Pin) : Nat :=
  (List.range cs.length).foldl (fun t i =>
    let c := cs.getD i 0
    if bit d.mask c then
      let p := pins.get c
      (cmpTimes (p.waves.get (16 * d.ts + recSym mux rec i)) (tsUi (p.tset.get d.ts))).foldl max t
    else t) 0

/-- Suspect ranges that open at a vector of a site: pin, cause, lock window (R260). -/
def opensAt (n : Nat) (s : State) : List SusEnt :=
  (s.site n).chans.filterMap fun c => match (s.pin c).suspect with
    | some u => if u.site = n ∧ !u.opened then some (c, u.cause, u.lockWin) else none
    | none => none

/-- Suspect ranges that close after a vector of a site. (DEDUCED, entry 51.) -/
def closesAt (n : Nat) (s : State) : List SusEnt :=
  (s.site n).chans.filterMap fun c => match (s.pin c).suspect with
    | some u => if u.site = n ∧ u.closing then some (c, u.cause, u.lockWin) else none
    | none => none

/-- A channel is in an open range of the site, or in one that opens at the vector in progress. -/
def State.inRange (s : State) (n c : Nat) : Bool := (s.pin c).suspect.any fun u => u.site == n

/-- The results of a vector with what is known of the ranges that it lies in (R298). -/
def markRanges (n : Nat) (rs : List PinRes) (s : State) : List PinRes :=
  rs.map fun r => { r with ranged := s.inRange n r.ch }

/-- Ranges of one vector, cause 7: an event word of the pin was not sent (R280, R298). -/
def lateRanges (rs : List PinRes) : List SusEnt :=
  (rs.filter fun r => r.late && !r.ranged).map fun r => (r.ch, 7, 0)

/-- The ranges after a vector: opened ones marked, closing ones gone. -/
def passRanges (n : Nat) (s : State) : State :=
  (s.site n).chans.foldl (fun t c => modPin c (fun p => { p with suspect :=
    match p.suspect with
    | some u => if u.site = n then (if u.closing then none else some { u with opened := true }) else some u
    | none => none }) t) s

/-- The comparator results that the environment gives for a channel. -/
def obsOf (obs : List Obs) (c : Nat) : List Cls :=
  match obs.find? fun o => o.ch.val == c with
  | some o => o.cls
  | none => []

/-- The channels of a site play a record. -/
def playPins (n t0 rec : Nat) (judge : Bool) (obs : List Obs) (s : State) : List PinRes × State :=
  let x := s.site n
  x.chans.foldl (fun acc c =>
    let i := acc.1.length
    let sym := if x.synth then 0 else recSym x.mux rec i
    let data := if x.synth then (fun _ => false) else recData x.mux rec i
    let r := playPin n c t0 sym data judge (obsOf obs c) acc.2
    (acc.1 ++ [r.1], r.2)) ([], s)

/-- A site plays one vector from its next start: every pin, then its place in the fail log (R197, R220). -/
def playVector (n addr ovl rec : Nat) (probe : Option Nat) (judge logM : Bool) (obs : List Obs) (s : State) :
    State :=
  let x := s.site n
  let p : At := { v := x.vcount, addr := addr, ovl := ovl, t := x.nextT }
  let nextT := x.nextT + s.period n
  let r := playPins n x.nextT rec judge obs s
  let rs := markRanges n r.1 r.2
  let opens := opensAt n r.2 ++ lateRanges rs
  let closes := closesAt n r.2 ++ lateRanges rs
  let s1 := passRanges n r.2
  let s2 := modSite n (fun y => { y with nextT := nextT, vcount := y.vcount + 1, lastV := p }) s1
  hold n (.vec p x.ts s.untraceable probe logM rs opens closes) (perfEvent 0x011 n 1 s2)

/-- The vector that starts at the next boundary of a site ends in this span, or where this span ends.
(DESIGN CHOICE, entry 14.) -/
def State.vectorOver (s : State) (n : Nat) : Bool :=
  decide ((s.site n).nextT + s.period n ≤ (s.time.span + 1) * spanGr)

/-- A vector of the VEC bundle at the head of the queue. -/
def playBundle (n : Nat) (obs : List Obs) (s : State) : State :=
  let x := s.site n
  match x.q with
  | .bundle addr ovl line j count played rd st recs under :: rest =>
    if !rd || under.isSome || (played == 0 && (s.dueAt n .boundary x.nextT).isSome) then s
    else
      let q := if played + 1 < count then .bundle addr ovl line j count (played + 1) rd st recs under :: rest else rest
      settle n (playVector n addr ovl (recs.getD played 0) none true false obs
        (modSite n (fun y => { y with q := q }) s))
  | _ => s

/-- The end of the last bundle that a revocation lets a MATCH play: the run ends there (R135). -/
def leaseEnd (n addr ovl pos guard : Nat) (s : State) : State :=
  let x := s.site n
  if x.leaseLeft = some 0 ∧ (pos % 32 = 1 ∨ pos = guard + 1) ∧ s.dueAt n .boundary x.nextT = none then
    endRun n (endOf stAborted rLease addr ovl) false x.nextT addr ovl s
  else s

/-- A vector of a probe cycle: the match vector, then the guard vectors (R105, R108). -/
def playProbe (n : Nat) (obs : List Obs) (s : State) : State :=
  let x := s.site n
  match x.play with
  | .probe di a b addr ovl cyc hits pos hit unl =>
    let d := x.matchDesc di
    let first := pos == 0 || pos % 32 == 1
    if d.guard < pos || (first && (s.dueAt n .boundary x.nextT).isSome) then s
    else
      let down := s.maskDown d x.nextT (x.nextT + s.period n : Nat)
      let s1 := modSite n (fun y => { y with
        play := .probe di a b addr ovl cyc hits (pos + 1) (if pos = 0 then false else hit) (unl || down),
        leaseLeft := if first then y.leaseLeft.map (· - 1) else y.leaseLeft }) s
      leaseEnd n addr ovl (pos + 1) d.guard
        (if pos = 0 then
          playVector n addr ovl (s.recordAt n d.line 0) (some di) d.logMatch d.logMatch obs (perfEvent 0x014 n 1 s1)
        else playVector n addr ovl (s.recordAt n d.guardLine (pos - 1)) none true false obs s1)
  | _ => s

/-- A wait vector (R120, R121). -/
def playWait (n : Nat) (obs : List Obs) (s : State) : State :=
  let x := s.site n
  match x.play with
  | .wait addr ovl src timeout line played =>
    if x.satisfied src x.nextT || (timeout != 0 && decide (timeout ≤ played)) ||
        (s.dueAt n .held x.nextT).isSome then s
    else
      playVector n addr ovl (s.recordAt n line 0) none true false obs
        (modSite n (fun y => { y with play := .wait addr ovl src timeout line (played + 1) }) s)
  | _ => s

/-- A stall vector; the site resumes at its end when its gate has opened, unless it stops there (R133, R165, R168). -/
def playStall (n : Nat) (obs : List Obs) (s : State) : State :=
  let x := s.site n
  match x.play with
  | .stall addr ovl false line =>
    if (s.dueAt n (.paused false) x.nextT).isSome then s
    else
      let s1 := playVector n addr ovl (s.recordAt n line 0) none true false obs s
      if (s1.site n).resume && (s1.dueAt n (.paused false) (s1.site n).nextT).isNone then
        settle n (modSite n (fun y => { y with play := .run, resume := false, knownT := y.nextT }) s1)
      else s1
  | _ => s

/-- VECTOR_PLAYED: the vector in progress has ended (R197). (DESIGN CHOICE, entry 14.) -/
def execVectorPlayed (n : SiteId) (obs : List Obs) (s : State) : Res :=
  if !s.vectorOver n.val then .next s
  else
    match (s.site n.val).play with
    | .run => .next (playBundle n.val obs s)
    | .probe .. => .next (playProbe n.val obs s)
    | .wait .. => .next (playWait n.val obs s)
    | .stall .. => .next (playStall n.val obs s)
    | _ => .next s

/-! ## The run's other events -/

/-- Cause 9 of Table 6.5: a pin that is unlocked as its site's first vector starts (R260). (DEDUCED, entry 52.) -/
def openNine (n : Nat) (s : State) : State :=
  (s.site n).chans.foldl (fun t c => modPin c (fun p =>
    if t.pinDown c && p.suspect.isNone then { p with suspect := some { site := n, cause := 9 } } else p) t) s

/-- SITE_RUN_BEGIN (R94, R297). -/
def execSiteRunBegin (n : SiteId) (s : State) : Res :=
  let x := s.site n.val
  if x.play = .starting ∧ x.nextT / spanGr ≤ s.time.span then
    let pid := (s.planOf n.val).elim 0 fun p => p.planId.toNat
    let p : At := { v := 0, addr := x.entry % 2048, ovl := x.entry / 2048, t := x.nextT }
    let s1 := openNine n.val (modSite n.val (fun y => { y with play := .run }) s)
    .next (settle n.val (hold n.val (.entry p 0x07 (x.plan + x.mode * 8) pid s.untraceable) s1))
  else .next s

/-- The timing generator needs a bundle beyond those queued: every queued bundle is being read or played and
nothing else is to come first; not while it plays a staged continuation bundle (R91, R92). -/
def Site.drained (x : Site) : Bool :=
  (x.play == .starting || x.play == .run) && x.issuing && !x.matchWait && x.q.all fun i => match i with
    | .bundle _ _ _ _ _ _ read staged _ under => read && !staged && under.isNone
    | .setTs _ => true
    | .mark .. => true
    | .signal _ => true
    | _ => false

/-- The instant at which the queued bundles of a site have been played. -/
def State.queueEnd (s : State) (n : Nat) : Nat :=
  let x := s.site n
  (x.q.foldl (fun (a : Nat × Site) i => match i with
    | .bundle _ _ _ _ count played _ _ _ _ => (a.1 + (count - played) * s.periodOf a.2, a.2)
    | .setTs ts => (a.1, { a.2 with ts := ts })
    | _ => a) (x.nextT, x)).1

/-- ISSUE_STARVED where a read falls due, 64 ns before the end of the queued bundles, and the bundle queue is
empty: the run ends at the end of those bundles (R92, R136, R175). (DEDUCED, entry 16.) -/
def execIssueStarved (n : SiteId) (s : State) : Res :=
  let x := s.site n
  if x.drained && decide ((s.queueEnd n - 64 * 4096) / spanGr ≤ s.time.span) then
    .next (settle n.val (modSite n (abortAt rStarved) s))
  else .next s

/-- STALL_POINT_REACHED (R133, R164, R165, R168). -/
def execStallPointReached (n : SiteId) (s : State) : Res :=
  let x := s.site n.val
  match x.play, x.q with
  | .run, .stall addr ovl :: _ =>
    if x.nextT / spanGr ≤ s.time.span then
      match s.dueAt n.val .stallPoint x.nextT with
      | some r => .next (stopRun n.val r .stallPoint x.nextT addr ovl s)
      | none =>
        if s.stalls n.val addr ovl then
          let st := (s.planOf n.val).elim none fun p => p.pauseAt n.val addr ovl
          let parked := st.elim true fun t => t.park
          let line := st.elim 0 fun t => t.vaddr
          let s1 := perfEvent 0x016 n.val 1 (modSite n.val (fun y => { y with
            q := y.q.drop 1, play := .stall addr ovl parked line, resume := false }) s)
          .next (if parked then parkPins n.val x.nextT s1 else s1)
        else .next (settle n.val (popQ n.val s))
    else .next s
  | _, _ => .next s

/-- The first bundle of a target is staged: its records are there (R91, R576). (DEDUCED, entry 63.) -/
def stageBundle (f : Nat → Nat → Nat → List Nat × Option EndInfo) : QItem → QItem
  | .bundle addr ovl line j count played _ _ _ _ =>
    let r := f line j count
    .bundle addr ovl line j count played true true r.1 r.2
  | i => i

/-- A MATCH is over: its registers, its outcome entry, its target (R109 to R111, R137, R576). (DEDUCED, entry 63.) -/
def matchDone (n di addr ovl cyc tgt : Nat) (outB unl : Bool) (s : State) : State :=
  let x := s.site n
  let d := x.matchDesc di
  let s1 := if d.record then
      hold n (.entry { v := x.vcount, addr := addr, ovl := ovl, t := x.nextT } 0x03
        (cyc + b2n outB * 2 ^ 25 + di * 2 ^ 26 + b2n unl * 2 ^ 31) 0 s.untraceable) s
    else s
  let p := s1.planOf n
  settle n (modSite n (fun y =>
    let z := { y with mCycles := cyc, mOutcome := outB, mSuspect := unl, mDesc := di, knownT := y.nextT, cueT := y.nextT - 131072,
                      mSpan := BitVec.ofNat 32 (x.nextT / spanGr) }.taken p n tgt
    { z with q := z.q.map (stageBundle (s1.fetchRun n)) }) s1)

/-- MATCH_DECISION: at the end of a guard run, target A, another cycle, target B, or the abort of R117
(R109, R114, R116). -/
def execMatchDecision (n : SiteId) (s : State) : Res :=
  let x := s.site n.val
  match x.play with
  | .probe di a b addr ovl cyc hits pos hit unl =>
    let d := x.matchDesc di
    let waits := x.held.any fun h => match h with
      | .vec _ _ _ (some _) _ _ _ _ => true
      | _ => false
    if pos ≤ d.guard || waits || (s.dueAt n.val .boundary x.nextT).isSome then .next s
    else
      let s1 := modHalso (fun y => { y with hits := y.hits.filter fun z =>
        !(d.xdev && z.group == d.group && decide (z.cycle ≤ cyc)) }) s
      match s.pick d a b cyc hits hit with
      | none => .next (endRun n.val (endOf stAborted rPeerLate addr ovl) false x.nextT addr ovl s)
      | some (_, some (tgt, outB)) => .next (matchDone n.val di addr ovl cyc tgt outB unl s1)
      | some (run, none) =>
        .next (modSite n.val (fun y => { y with play := .probe di a b addr ovl (cyc + 1) run 0 false unl }) s1)
  | _ => .next s

/-- WAIT_TRIG_SATISFIED (R118, R120). -/
def execWaitTrigSatisfied (n : SiteId) (s : State) : Res :=
  let x := s.site n.val
  match x.play with
  | .wait _ _ src _ _ played =>
    if x.satisfied src x.nextT && (s.dueAt n.val .held x.nextT).isNone then
      .next (settle n.val (perfEvent 0x015 n.val (played * s.period n.val / cycleGr)
        (modSite n.val (fun y => { y.clearLatch src y.nextT with
          play := .run, knownT := y.nextT, cueT := (y.latches.get (latchOf src)).t }) s)))
    else .next s
  | _ => .next s

/-- WAIT_TIMEOUT (R121). -/
def execWaitTimeout (n : SiteId) (s : State) : Res :=
  let x := s.site n.val
  match x.play with
  | .wait addr ovl src timeout _ played =>
    if timeout != 0 && decide (timeout ≤ played) && !x.satisfied src x.nextT && (s.dueAt n.val .held x.nextT).isNone then
      .next (endRun n.val (endOf stTimeout rWaitTo addr ovl) false x.nextT addr ovl
        (perfEvent 0x015 n.val (played * s.period n.val / cycleGr) s))
    else .next s
  | _ => .next s

/-- PARK_EXPIRY (R127). -/
def execParkExpiry (n : SiteId) (s : State) : Res :=
  let x := s.site n.val
  match x.play with
  | .park _ _ u =>
    if u / spanGr ≤ s.time.span ∧ s.stopNow n.val = none then
      .next (settle n.val (perfEvent 0x015 n.val ((u - x.nextT) / cycleGr)
        (modSite n.val (fun y => { y with play := .run, nextT := u }) s)))
    else .next s
  | _ => .next s

/-! ## Barriers (R122 to R126) -/

/-- Every local participant of a barrier has arrived; sites and devices come from the entry of site n. -/
def State.localDone (s : State) (n b : Nat) : Bool :=
  (bitList ((s.site n).barSites b)).all fun i => bit (s.barrier ((s.site n).leader n b) b).arrived i

/-- A of R124 formed: every arrival that the entry of site n names is there; its release span. -/
def State.formRel (s : State) (n b : Nat) : Option Nat :=
  let x := s.site n
  let y := s.barrier (x.leader n b) b
  let devs := bitList (x.barDevices b)
  if !s.localDone n b then none
  else if devs.isEmpty then some (y.a + 2)
  else
    let got := (devs.filter fun d => d != s.dev).map fun d => y.remote.get d
    if got.all Option.isSome then some ((got.filterMap id).foldl max y.a + 3) else none

/-- The release span of a barrier noted once A is formed, and the arrival of this device sent once all its
participants have arrived (R124, R392). -/
def updateBarrier (n b : Nat) (s : State) : State :=
  let l := (s.site n).leader n b
  let y := s.barrier l b
  let s1 :=
    if s.localDone n b && !y.sent then
      let s0 := modBarrier l b (fun z => { z with sent := true }) s
      if (s.site n).barDevices b != 0 && s.halso.joined then
        broadcast0 s0.now [armMsg s.dev b y.a] s0
      else s0
    else s
  if (s1.barrier l b).rel.isNone then modBarrier l b (fun z => { z with rel := s1.formRel n b }) s1 else s1

/-- SYNC_ARRIVAL at the boundary the site has reached (R123 to R125); behind a PARK with no vector between, that is the
end of the PARK. (DEDUCED, entry 119.) -/
def execSyncArrival (n : SiteId) (s : State) : Res :=
  let x := s.site n.val
  match x.play, x.q with
  | .run, .sync addr ovl b timeout rel :: _ =>
    if x.nextT / spanGr ≤ s.time.span ∧ (s.dueAt n.val .boundary x.nextT).isNone then
      let a := x.nextT / spanGr
      let l := x.leader n.val b
      let s1 := parkPins n.val x.nextT (modSite n.val (fun y => { y with
        q := y.q.drop 1, play := .sync addr ovl b timeout rel a }) s)
      let s2 := if bit (s1.barrier l b).arrived n.val then s1
        else modBarrier l b (fun z => { z with arrived := setBit z.arrived n.val true, a := max z.a a }) s1
      .next (updateBarrier n.val b s2)
    else .next s
  | _, _ => .next s

/-- A participant held at a barrier is released, unless a stop acts on it at or before its release (R124, R131). -/
def releaseSite (b r n : Nat) (s : State) : State :=
  let x := s.site n
  match x.play with
  | .sync _ _ b' _ rel _ =>
    if b' = b ∧ s.stopNow n = none then
      let t := r * spanGr + rel * cycleGr
      settle n (perfEvent 0x015 n ((t - x.nextT) / cycleGr) (modSite n (fun y => { y with play := .run, nextT := t }) s))
    else s
  | _ => s

/-- The barrier of one group of sites, whose lowest is l, releases in span R; it is empty again (R124, R125). -/
def releaseGroup (ns : List Nat) (b l : Nat) (s : State) : State :=
  match (s.barrier l b).rel with
  | some r =>
    if r ≤ s.time.span then
      modBarrier l b (fun _ => {})
        (ns.foldl (fun t n => if (t.site n).leader n b = l then releaseSite b r n t else t) s)
    else s
  | none => s

/-- SYNC_RELEASE in span R: every group of the plan's sites whose barrier b has its release span (R124, R125). -/
def execSyncRelease (p : PlanSlot) (b : Fin 32) (s : State) : Res :=
  match s.plan p.val with
  | some q => .next (q.sites.foldl (fun t l => releaseGroup q.sites b.val l t) s)
  | none => .next s

/-- SYNC_TIMEOUT (R126). (DEDUCED, entry 59.) -/
def execSyncTimeout (n : SiteId) (s : State) : Res :=
  let x := s.site n.val
  match x.play with
  | .sync addr ovl b timeout _ a =>
    if timeout ≠ 0 ∧ s.relOf n.val b = none ∧ a + timeout < s.time.span ∧ s.stopNow n.val = none then
      .next (endRun n.val (endOf stTimeout rSyncTo addr ovl) false x.nextT addr ovl
        (perfEvent 0x015 n.val (((a + timeout + 1) * spanGr - x.nextT) / cycleGr) s))
    else .next s
  | _ => .next s

/-! ## Completion (R60, R128, R130, R136, R295, R309, R398, R581) -/

/-- Every entry of a run is in DRAM. -/
def State.logDone (s : State) (n : Nat) : Bool :=
  let e := s.cap.engs.get (n / 4)
  (s.site n).held.isEmpty && e.staging.all (fun x => x.site != n) &&
  !(e.revoked && (s.cap.sites.get n).unreported)

/-- A site whose run has ended becomes idle and completes its commands. -/
def completeRun (n : Nat) (e : EndInfo) (s : State) : State :=
  let x := s.site n
  let res := if e.status = stOK then b2n (s.cap.sites.get n).lostFull else e.result.toNat
  let s1 := sendMerge n true e.status (x.parkSpan * spanGr) s
  let s2 := modSite n (fun y => { y with
    running := false, play := .idle, cmd := none, fin := none, stops := [], losers := [], decider := none }) s1
  let s3 := completeOpt x.cmd e.status res s2
  let s4 := match x.cmd with
    | some k => if e.status = stOK ∨ e.status = stCancelled then s3
        else modCmd k (fun c => { c with cspan := x.parkSpan }) s3
    | none => s3
  let s5 := completeOpt x.decider stOK 1 s4
  (x.stops.filterMap (·.cmd) ++ x.losers).foldl (fun t k => complete k stOK 0 t) s5

/-- SITE_COMPLETION (R128). -/
def execSiteCompletion (n : SiteId) (s : State) : Res :=
  let x := s.site n.val
  match x.play, x.fin with
  | .ended, some e => if s.logDone n.val then .next (completeRun n.val e s) else .next s
  | _, _ => .next s

/-! ## The vernier (R233, R418) -/

/-- A site has a vector boundary in this span: it plays vectors and its next one starts in it. -/
def State.boundaryNow (s : State) (n : Nat) : Bool :=
  let x := s.site n
  (match x.play with
    | .run => !x.q.isEmpty
    | .probe .. => true
    | .wait .. => true
    | .stall _ _ parked _ => !parked
    | _ => false) && x.nextT / spanGr == s.time.span

/-- The target that holds in this span: one written in it holds from the next (R418). -/
def Pin.goalDrv (p : Pin) (span : Nat) : Int := if p.tSpan = span + 1 then p.pDrv else p.tDrv
@[inherit_doc Pin.goalDrv] def Pin.goalCmp (p : Pin) (span : Nat) : Int :=
  if p.tSpan = span + 1 then p.pCmp else p.tCmp

/-- VERNIER_MOVE at the first vector boundary of a pin in a span: each applied vernier moves by at most one
grain (R233). -/
def execVernierMove (c : Chan) (s : State) : Res :=
  let p := s.pin c.val
  match s.ownerOf c.val with
  | none => .next s
  | some n =>
    if s.boundaryNow n && p.vSpan != s.time.span + 1 then
      let d := toward 1 p.vDrv (p.goalDrv s.time.span)
      let m := toward 1 p.vCmp (p.goalCmp s.time.span)
      .next (perfEvent 0x044 c.val (b2n (d != p.vDrv) + b2n (m != p.vCmp))
        (modPin c.val (fun y => { y with vDrv := d, vCmp := m, vSpan := s.time.span + 1 }) s))
    else .next s

end Sys2Proof.Machine
end

