-- ==== Sys2Proof/Machine/SiteCmd.lean ====
section
/-!
DEFINITION. The site commands: SITE_START, SITE_STOP, SITE_PARK, SITE_RESET (R57 to R62, R93, R94, R129 to
R134, R159, R160).
-/

namespace Sys2Proof.Machine

/-! ## Window monitors as conditions (Tables 9.16 to 9.18, R429, R431) -/

/-- CAL_MON_CFG fields. -/
def Mon.lo (m : Mon) : Nat := bits m.cfg 0 10
@[inherit_doc Mon.lo] def Mon.hi (m : Mon) : Nat := bits m.cfg 10 10
@[inherit_doc Mon.lo] def Mon.en (m : Mon) : Bool := bit m.cfg 20
@[inherit_doc Mon.lo] def Mon.n (m : Mon) : Nat := 2 * bits m.cfg 21 4 + 1
@[inherit_doc Mon.lo] def Mon.faultAbove (m : Mon) : Bool := bit m.cfg 25
@[inherit_doc Mon.lo] def Mon.action (m : Mon) : Nat := bits m.cfg 26 2

/-- CAL_MON_STATUS.fault (R429). -/
def Mon.fault (m : Mon) : Bool := m.out == m.faultAbove

/-- A monitor with action 2 keeps a site from starting (R431). -/
def State.monBlocks (s : State) (n : Nat) : Bool :=
  (List.range 32).any fun i =>
    let m := s.cal.mons.get i
    m.en && m.action == 2 && m.fault && bit m.sites n

/-! ## SITE_START -/

/-- An octet is in a loop state: loop 1 or 2 on every enabled channel (R262). -/
def State.loopState (s : State) (o : Nat) : Bool :=
  (List.range 8).all fun i => let l := (s.pin (8 * o + i)).loop; l == 1 || l == 2

/-- The site owns a region of kind 2 or 3 or is named by a stall point (R160). -/
def Plan.streams (p : Plan) (n : Nat) : Bool :=
  (p.regions.any fun r => (r.kind == 2 || r.kind == 3) && r.site == n) || p.stalls.any fun t => t.site == n

/-- The conditions of SITE_START with status PRECONDITION (R57, R58). (DEDUCED, entry 62.) -/
def State.startOk (s : State) (n : Nat) (p : Plan) : Bool :=
  let x := s.site n
  let os := x.octs
  (s.sys.state == .ready || (s.sys.state == .bringUp && (x.mode == 1 || x.mode == 4) && os.all s.loopState)) &&
  !x.running &&
  os.all (fun o => !bit s.sys.disTest o && !bit s.sys.disabled o && !(s.octet o).relock) &&
  !(p.running && p.streams n) &&
  os.all (fun o => !(s.octet o).linkEn || (s.octet o).linkReady) &&
  !s.monBlocks n && !s.cal.trip && s.hqm.spillEn

/-- The lowest octet of a site whose ceiling lies below the declared rate (R57, R59). -/
def State.lowOctet (s : State) (n : Nat) (p : Plan) : Option Nat :=
  (s.site n).octs.find? fun o => decide ((s.octet o).ceiling < p.rates.getD o 0)

/-- The sequencer on an accepted SITE_START (R93, R94). -/
def beginSite (k span now : Nat) (mergeEn : Bool) (merge : Nat) (x : Site) : Site :=
  let a := x.entry % 2048
  let y : Site := { x with
    running := true, lastReason := 0, loops := [], calls := [], issuing := true, vecDone := 0, foldable := false,
    matchWait := false, q := [], play := .starting, nextT := (span + 2) * spanGr, ts := x.initTs, vcount := 0,
    latches := [], latchT := now + 1, knownT := 0, cueT := 0, leaseLeft := none, cmd := some k, fin := none, stops := [], losers := [], decider := none,
    mergeEn := mergeEn, mergeGroup := merge, sigs := [], held := [], lastV := {}, resume := false, pc := a, ovl := 0 }
  y.transfer a (x.entry / 2048)

/-- The schedule of a plan starts in the span after one in which a site is accepted while every site of the
plan is idle (R159). A site accepted after the last one went idle and before the tick that would stop the running schedule
joins that schedule, which goes on. (DESIGN CHOICE, entry 134.) -/
def scheduleStart (slot n : Nat) (s : State) : State :=
  match s.plan slot with
  | none => s
  | some p =>
    if !p.running && p.startAt.isNone && p.sites.all (fun m => m == n || !(s.site m).running) then
      modPlan slot (fun q => { q with startAt := some (s.time.span + 1) }) s
    else s

/-- A SITE_START accepted (R60, R93, R94, R159, R292). (DEDUCED, entry 103.) -/
def acceptSite (k n : Nat) (d : Desc) (s : State) : State :=
  let s1 := scheduleStart (s.site n).plan n (clearRun n s)
  let b := pay d 1 1
  let s2 := parkPins n s1.now (modSite n (beginSite k s1.time.span s1.now (decide (128 ≤ b)) (b % 64)) s1)
  begin_ k (disturbSite n ((s2.site n).chans.foldl (fun t c => endFar (s1.farPair c) t) s2))

/-- SITE_START, checked at cycle 0 of the span after its dispatch (R57 to R60, R72). -/
def execSiteStart (k : CmdSlot) (s : State) : Res :=
  onCmd k 0x20 s fun d t =>
    let n := pay d 0 1
    if t.sys.state = .standby ∨ t.time.span ≤ (t.cmd k.val).dspan then t
    else
      match t.planOf n with
      | none => complete k.val stPrecondition 0 t
      | some p =>
        if (t.site n).mode = 7 || !t.startOk n p then complete k.val stPrecondition 0 t
        else
          match t.lowOctet n p with
          | some o => complete k.val stRejected (0x20 + o * 2 ^ 16) t
          | none => acceptSite k.val n d t

/-! ## Stops -/

/-- A stop request put on a running site; one whose run has ended waits for it to be idle (R130, R581). -/
def requestStop (n : Nat) (cmd : Option Nat) (isPark : Bool) (p limit : Nat) (s : State) : State :=
  modSite n (fun x =>
    match x.play with
    | .ended => { x with losers := x.losers ++ cmd.toList }
    | _ => { x with stops := x.stops ++ [{ cmd := cmd, isPark := isPark, p := p, limit := limit,
                                           ord := x.stops.length }] }) s

/-- SITE_STOP (R129, R130). -/
def execSiteStop (k : CmdSlot) (s : State) : Res :=
  onCmd k 0x21 s fun d t =>
    let n := pay d 0 1
    if !(t.site n).running then complete k.val stOK 0 t
    else begin_ k.val (requestStop n (some k.val) false ((t.cmd k.val).dspan + 1) 0 t)

/-- SITE_PARK (R133). -/
def execSitePark (k : CmdSlot) (s : State) : Res :=
  onCmd k 0x22 s fun d t =>
    let n := pay d 0 1
    if !(t.site n).running then complete k.val stOK 0 t
    else begin_ k.val (requestStop n (some k.val) true ((t.cmd k.val).dspan + 1) (pay d 4 4) t)

/-- The state of R93 restored, with both window tags 0 (R134). (DEDUCED, entry 23.) -/
def resetSite (x : Site) : Site :=
  let a := x.entry % 2048
  { x with lastReason := 0, win0 := 0, win1 := 0, pc := a, ovl := if (winOf a).isSome then x.entry / 2048 else 0,
           loops := [], calls := [], vecDone := 0, foldable := false, matchWait := false, q := [],
           ts := x.initTs, vcount := 0, latches := [] }

/-- SITE_RESET (R134). -/
def execSiteReset (k : CmdSlot) (s : State) : Res :=
  onCmd k 0x23 s fun d t =>
    let n := pay d 0 1
    if (t.site n).running || (t.site n).mode == 7 then complete k.val stPrecondition 0 t
    else complete k.val stOK 0 (modSite n resetSite t)

/-- Every running site stops as for a SITE_STOP dispatched in this span (R430, R435, R510). -/
def stopSites (p : Nat → Bool) (s : State) : State :=
  s.running.foldl (fun t n => if p n then requestStop n none false (t.time.span + 1) 0 t else t) s

end Sys2Proof.Machine
end

