-- ==== Sys2Proof/Machine/Tables.lean ====
section
/-!
DEFINITION. Table records, the rules of wave entries and timing sets, and TABLE_LOAD (R209 to R219, R222,
R239, R279, R283).
-/

namespace Sys2Proof.Machine

/-! ## Table records (Table 4.8, R215, R216) -/

/-- A table record: its fields and its entries as numbers. -/
structure TabRec where
  kind : Nat
  index : Nat
  first : Nat
  count : Nat
  len : Nat
  pins : BitVec 128
  body : List Nat
deriving DecidableEq, Repr

/-- Entry size of a record kind. -/
def tabSize (kind : Nat) : Nat := if kind = 1 then 32 else 8

/-- The record at an address of a memory. -/
def readTabRec (m : Mem) (a : Nat) : TabRec :=
  let kind := Mem.num m a 1
  let count := Mem.num m (a + 3) 1
  let sz := tabSize kind
  { kind := kind, index := Mem.num m (a + 1) 1, first := Mem.num m (a + 2) 1, count := count,
    len := Mem.num m (a + 4) 4, pins := BitVec.ofNat 128 (Mem.num m (a + 16) 16),
    body := (List.range (min count 16)).map fun i => Mem.num m (a + 32 + sz * i) sz }

/-- The form of a record: kind, index, first, count, length (R216, R217). -/
def TabRec.ok (r : TabRec) : Bool :=
  (match r.kind with
    | 1 => decide (r.index < 64 ∧ 1 ≤ r.count ∧ r.first + r.count ≤ 16)
    | 2 => decide (r.index < 64 ∧ r.first = 0 ∧ r.count = 1)
    | 3 => decide (r.index < 16 ∧ r.first = 0 ∧ 1 ≤ r.count ∧ r.index + r.count ≤ 16)
    | _ => false) &&
  r.len % 32 == 0 && decide (32 + tabSize r.kind * r.count ≤ r.len)

/-- The records from an address up to kind 0, within a limit: the well-formed ones, and the address past the
closing record, or none where a record is malformed. (DEDUCED, entry 44.) -/
def readTabSeq (m : Mem) (limit : Nat) (okPins : BitVec 128 → Bool) : Nat → Nat → List TabRec × Option Nat
  | 0, _ => ([], none)
  | f + 1, a =>
    if limit < a + 32 then ([], none)
    else
      let r := readTabRec m a
      if r.kind = 0 then ([], some (a + 32))
      else if r.ok && okPins r.pins && decide (a + r.len ≤ limit) then
        let rest := readTabSeq m limit okPins f (a + r.len)
        (r :: rest.1, rest.2)
      else ([], none)

/-- A record written into one channel. -/
def applyTab (r : TabRec) (p : Pin) : Pin :=
  match r.kind with
  | 1 => { p with waves := (r.body.foldl (fun acc v =>
      (acc.1 + 1, acc.2.set acc.1 (BitVec.ofNat 256 v))) (16 * r.index + r.first, p.waves)).2 }
  | 2 => { p with tset := p.tset.set r.index (BitVec.ofNat 64 (r.body.headD 0)),
                  loaded := setBit p.loaded r.index true }
  | 3 => { p with level := (r.body.foldl (fun acc v =>
      (acc.1 + 1, acc.2.set acc.1 (BitVec.ofNat 64 v))) (r.index, p.level)).2 }
  | _ => p

/-- Records written, in order, into the channels that they name and a set admits. -/
def applyTabs (rs : List TabRec) (only : BitVec 128) (pins : SMap Pin) : SMap Pin :=
  rs.foldl (fun acc r => (bitList (r.pins &&& only)).foldl (fun m c => m.mod c (applyTab r)) acc) pins

/-! ## The rules of Table 4.4, R214 and R222 -/

/-- No value of an ascending list lies less than a gap after the one before it. -/
def apart (gap : Nat) : List Nat → Bool
  | a :: b :: l => decide (a + gap ≤ b) && apart gap (b :: l)
  | _ => true

/-- Window opens and closes alternate (Table 4.4, Windows). -/
def windowsOk : Bool → List Nat → Bool
  | o, [] => !o
  | o, c :: cs =>
    if c = 0x7 then !o && windowsOk true cs
    else if c = 0x8 then o && windowsOk false cs
    else windowsOk o cs

/-- Slots of an entry that are no no-op. -/
def liveSlots (w : BitVec 256) : List Nat := (List.range 8).filter fun i => slotCode w i != 0

/-- Instants that must not coincide: strobes, compare data bits and window closes (Table 4.4). -/
def judgeTimes (w : BitVec 256) (ui : Nat) : List Nat :=
  ((formActs w ui).filter fun e => !e.2.isDrive && e.2 != .wopen).map Prod.fst

/-- An entry meets every rule of Table 4.4 in a set of period P and UI U, with mux factor k (R209). -/
def entryOk (w : BitVec 256) (period ui k : Nat) : Bool :=
  let live := liveSlots w
  let adv := advancing w
  live.all (fun i => decide (slotCode w i ≤ 0xA)) &&
  apart 0 (live.map (slotT w)) &&
  (formActs w ui).all (fun e => decide (e.1 < period)) && live.all (fun i => decide (slotT w i < period)) &&
  apart 1 (drvTimes w ui) && apart 1 (judgeTimes w ui) &&
  windowsOk false (live.map (slotCode w)) &&
  live.all (fun i => !waveReuse w i || slotData w i) &&
  (live.all (fun i => !waveReuse w i) || !adv.isEmpty) &&
  decide (adv.foldl (fun n e => n + slotBurst w e.1) 0 ≤ k)

/-- A level word is valid: ordered, and in the ranges of Table 5.1 unless for a logical pin (R211, R239, R283). -/
def levelOk (w : W64) (logical : Bool) : Bool :=
  let f := levelField w
  decide (f 1 ≤ f 0 ∧ f 3 ≤ f 2) &&
  (logical || decide (-8000 ≤ f 1 ∧ f 0 ≤ 18000 ∧ -10000 ≤ f 3 ∧ f 2 ≤ 20000))

/-- A timing set of a channel is valid but for its spacing (R214). -/
def tsetOk (p : Pin) (ts k : Nat) (logical : Bool) : Bool :=
  let w := p.tset.get ts
  decide (tsUi w ≤ tsPeriod w) &&
  levelOk (p.level.get (tsLevel w)) logical &&
  (List.range 16).all fun e => entryOk (p.waves.get (16 * ts + e)) (tsPeriod w) (tsUi w) k

/-- The spacing of one class of instants: within every entry, and over the boundary from every entry to every
entry (R222). -/
def classSpaced (gap period : Nat) (ls : List (List Nat)) : Bool :=
  ls.all (apart gap) &&
  ls.all fun a => ls.all fun b =>
    match a.getLast?, b.head? with
    | some x, some y => decide (x + gap ≤ period + y)
    | _, _ => true

/-- The spacing rule on a timing set of a channel; drive and compare instants are one class on a logical pin
(R222, R279). -/
def spacingOk (p : Pin) (ts gap : Nat) (logical : Bool) : Bool :=
  let w := p.tset.get ts
  let es := (List.range 16).map fun e => p.waves.get (16 * ts + e)
  decide (gap ≤ tsUi w) &&
  (if logical then classSpaced gap (tsPeriod w) (es.map fun x => (formActs x (tsUi w)).map Prod.fst)
   else classSpaced gap (tsPeriod w) (es.map fun x => drvTimes x (tsUi w)) &&
     classSpaced gap (tsPeriod w) (es.map fun x => cmpTimes x (tsUi w)))

/-- Least gap on a channel of a plan with these rates and link mask (R225, R227, R279). -/
def planGap (rates : List Nat) (link : BitVec 16) (c : Nat) : Nat :=
  let r := rates.getD (octOf c) 0
  if bit link (octOf c) then linkUi (laneRates.getD (laneIndex r) 100) else octetUi r

/-- The timing sets that a site names keep the rules of reason 0x1C: loaded on every pin, one period, valid
(R76, R214, R219). -/
def setsOk (pins : SMap Pin) (chans : List Nat) (sets : List Nat) (k : Nat) (link : BitVec 16) : Bool :=
  sets.all fun ts =>
    let p0 := tsPeriod ((pins.get (chans.headD 0)).tset.get ts)
    chans.all fun c =>
      let p := pins.get c
      bit p.loaded ts && tsPeriod (p.tset.get ts) == p0 && tsetOk p ts k (bit link (octOf c))

/-- The octets on which a site's timing sets break the spacing rule: reason 0x21 (R222). -/
def spacingFaults (pins : SMap Pin) (chans : List Nat) (sets : List Nat) (rates : List Nat) (link : BitVec 16) :
    List Nat :=
  (chans.filter fun c => sets.any fun ts =>
    !spacingOk (pins.get c) ts (planGap rates link c) (bit link (octOf c))).map octOf

/-! ## TABLE_LOAD (R217, R218) -/

/-- The smallest of a list. -/
def leastOf : List Nat → Option Nat
  | [] => none
  | x :: xs => some (xs.foldl min x)

/-- Sites of loaded plans that are idle and own a channel of a set. -/
def State.idleOwners (s : State) (touched : BitVec 128) : List Nat :=
  (s.sites.filter fun e => e.2.mode != 7 && !e.2.running && (e.2.pinMap &&& touched) != 0).map Prod.fst

/-- What the tables after a TABLE_LOAD would breach: reason code and index (R217). -/
def tableBreach (pins : SMap Pin) (touched : BitVec 128) (s : State) : Option (Nat × Nat) :=
  let sites := s.idleOwners touched
  let bad := sites.filter fun n =>
    let x := s.site n
    !setsOk pins x.chans (bitList x.named) x.mux ((s.planOf n).elim 0 (·.linkMask))
  match leastOf bad with
  | some n => some (0x1C, n)
  | none =>
    (leastOf (sites.flatMap fun n =>
      let x := s.site n
      match s.planOf n with
      | some p => spacingFaults pins x.chans (bitList x.named) p.rates p.linkMask
      | none => [])).map fun o => (0x21, o)

/-- A running site owns a channel of an octet. -/
def State.octRunning (s : State) (o : Nat) : Bool := (List.range 8).any fun i => s.ownedRunning (8 * o + i)

/-- A management write leaves on a TX lane (R275, Table 5.8). -/
def emitMgmt (o lane addr w : Nat) (s : State) : State :=
  emit (.link s.now o lane (ctrlBlock 0x66 (addr % 2 ^ 24 + w % 2 ^ 32 * 2 ^ 24))) s

/-- A management word for the external device of an octet: sent while no running site owns a logical pin of it, else
kept until then; the newest word of a lane and address replaces an older one (R283). (DEDUCED, entry 45.)
(DEDUCED, entry 55.) -/
def sendMgmt (o lane addr w : Nat) (s : State) : State :=
  if s.octRunning o then
    modOctet o (fun x => { x with
      mgmt := (x.mgmt.filter fun e => e.1 != lane || e.2.1 != addr) ++ [(lane, addr, w)] }) s
  else emitMgmt o lane addr w s

/-- The level words of the logical pins of a set, sent to their external devices (R283, Table 5.10). -/
def sendLevels (touched : BitVec 128) (s : State) : State :=
  (bitList touched).foldl (fun t c =>
    let o := octOf c
    if (t.octet o).linkEn then
      (List.range 16).foldl (fun u l =>
        let w := ((t.pin c).level.get l).toNat
        let a := 32 * (c % 8) + 2 * l
        sendMgmt o (c % 8 / 2) (0x101 + a) (w / 2 ^ 32) (sendMgmt o (c % 8 / 2) (0x100 + a) (w % 2 ^ 32) u)) t
    else t) s

/-- Engine 88 runs one command at a time (R43). -/
def State.engine88Free (s : State) : Bool := s.vs.loadWait.isNone

/-- The refill slots claimed by the plans that hold a plan slot, up to the tick of R46. -/
def State.slotsClaimed (s : State) : List Nat := (s.plans.flatMap fun p => p.2.claimed).eraseDups

/-- Engine 88 takes its commands in dispatch order (R43); a PLAN_RETIRE passes the PLAN_LOADs that wait for it to free a
refill slot (R179). (DEDUCED, entry 124.) -/
def State.turn88 (s : State) (k : Nat) : Bool :=
  let x := s.cmd k
  let frees := descOp x.desc == 0x11 && decide (64 ≤ s.slotsClaimed.length)
  s.hqm.cmds.all fun e =>
    !(decide (e.2.ph = .dispatched) && decide (e.2.dord < x.dord) &&
      (descOp e.2.desc == 0x11 || ((descOp e.2.desc == 0x10 || descOp e.2.desc == 0x18) && !frees)))

/-- The records of a TABLE_LOAD read, checked and written (R217, R463). (DEDUCED, entry 44.) -/
def loadTables (k : Nat) (linkErr : Bool) (d : Desc) (t : State) : State :=
  if linkErr then complete k stIntegrity 0 t
  else
    let enabled : BitVec 128 := BitVec.ofNat 128 (2 ^ t.nCh - 1)
    let r := readTabSeq t.dram.mem t.installed (fun m => (m &&& ~~~ enabled) == 0) (t.installed / 32) (pay d 8 8)
    match r.2 with
    | none => complete k stBad (0xFF + r.1.length % 65536 * 2 ^ 16) t
    | some _ =>
      let touched := r.1.foldl (fun m x => m ||| x.pins) (0 : BitVec 128)
      match (bitList touched).find? t.ownedRunning with
      | some c => complete k stPrecondition (c * 2 ^ 16) t
      | none =>
        let pins := applyTabs r.1 touched t.pins
        match tableBreach pins touched t with
        | some (code, i) => complete k stRejected (code + i * 2 ^ 16) t
        | none =>
          complete k stOK r.1.length (sendLevels touched
            (mapPins (fun c p => if bit touched c then p.disturb else p) (setPins pins t)))

/-- TABLE_LOAD (R43, R217, R463, R512). -/
def execTableLoad (k : CmdSlot) (linkErr : Bool) (s : State) : Res :=
  onCmd k 0x18 s fun d t =>
    if !t.engine88Free || !t.turn88 k.val then t
    else if !t.dram.enabled then complete k.val stPrecondition 0 t
    else restDram (loadTables k.val linkErr d (wakeDram t))

end Sys2Proof.Machine
end

