-- ==== Sys2Proof/Machine/PlanImage.lean ====
section
/-!
DEFINITION. The plan image in DRAM: header, directory, blocks (R145 to R158), and check 1 of PLAN_LOAD
(R578).
-/

namespace Sys2Proof.Machine

/-! ## Layout (Tables 3.2 to 3.10) -/

/-- Bytes of a peck and of a bushel. -/
def peckB : Nat := 4096
@[inherit_doc peckB] def bushelB : Nat := 262144

/-- Header fields (Table 3.2). -/
structure Header where
  a : Nat
  magic : Nat
  major : Nat
  size : Nat
  length : Nat
  planId : Nat
  sites : Nat
  regions : Nat
  templates : Nat
  entries : Nat
  loopFrom : Nat
  stalls : Nat
  linkMask : BitVec 16
  rates : List Nat
  crc : Nat
deriving DecidableEq, Repr

/-- The header of the image at an address. -/
def readHeader (m : Mem) (a : Nat) : Header :=
  { a := a, magic := Mem.num m a 4, major := Mem.num m (a + 5) 1, size := Mem.num m (a + 6) 2,
    length := Mem.num m (a + 8) 8, planId := Mem.num m (a + 16) 8, sites := Mem.num m (a + 0x18) 1,
    regions := Mem.num m (a + 0x1A) 2, templates := Mem.num m (a + 0x1C) 2, entries := Mem.num m (a + 0x1E) 2,
    loopFrom := Mem.num m (a + 0x20) 2, stalls := Mem.num m (a + 0x22) 2,
    linkMask := BitVec.ofNat 16 (Mem.num m (a + 0x24) 2),
    rates := (List.range 16).map fun n => Mem.num m (a + 0x28 + 2 * n) 2, crc := Mem.num m (a + 0xFC) 4 }

/-- A directory entry: start in the image, CRC, length (Table 3.3). -/
abbrev DirEnt := Nat × Nat × Nat

/-- The directory entry of a block type. -/
def dirEnt (m : Mem) (a t : Nat) : DirEnt :=
  let b := a + 0x50 + 16 * (t - 1)
  (4096 * Mem.num m b 4, Mem.num m (b + 4) 4, Mem.num m (b + 8) 8)

/-- DRAM address of a block. -/
def blkAddr (m : Mem) (a t : Nat) : Nat := a + (dirEnt m a t).1

/-- Length of a block. -/
def blkLen (m : Mem) (a t : Nat) : Nat := (dirEnt m a t).2.2

/-- Unit of blocks 1 to 5 (Table 3.4). -/
def blkUnit (t : Nat) : Nat := [0, 16384, 32, 128, 8, 16].getD t 1

/-- Header count of blocks 1 to 5 (R149). -/
def Header.count (h : Header) (t : Nat) : Nat := [0, h.sites, h.regions, h.templates, h.entries, h.stalls].getD t 0

/-- A site record (Table 3.5). -/
structure SiteRec where
  pos : Nat
  site : Nat
  pre0 : Nat
  pre1 : Nat
  /-- Bytes 3 to 0xFFF are zero. -/
  clean : Bool
  /-- DRAM address of the record. -/
  a : Nat
deriving DecidableEq, Repr

/-- Site record i of an image. -/
def readSiteRec (m : Mem) (b1 i : Nat) : SiteRec :=
  let a := b1 + 16384 * i
  { pos := i, site := Mem.num m a 1, pre0 := Mem.num m (a + 1) 1, pre1 := Mem.num m (a + 2) 1,
    clean := (m.filter fun e => decide (a + 3 ≤ e.1 ∧ e.1 < a + 0x1000)).all (fun e => e.2 == 0), a := a }

/-- A site of the image as its sequencer will hold it: data memory and base region. -/
def siteOfRec (m : Mem) (r : SiteRec) : Site :=
  { dmem := Mem.copyTo m (r.a + 0x1000) 4096 [] 0,
    imem := (List.range 1024).foldl (fun acc i =>
      acc.set i (BitVec.ofNat 64 (Mem.num m (r.a + 0x2000 + 8 * i) 8))) [] }

/-- Region descriptor i (Table 3.7). -/
def readRegion (m : Mem) (b2 i : Nat) : Region :=
  let a := b2 + 32 * i
  { kind := Mem.num m a 1, site := Mem.num m (a + 1) 1, first := Mem.num m (a + 2) 1,
    count := Mem.num m (a + 3) 1, src := Mem.num m (a + 4) 4, srcCount := Mem.num m (a + 8) 4,
    crcIndex := Mem.num m (a + 12) 4, loopCursor := Mem.num m (a + 16) 4,
    crc := BitVec.ofNat 32 (Mem.num m (a + 20) 4) }

/-- Span template i (Table 3.8), and whether its reserved bits are zero. -/
def readTemplate (m : Mem) (b3 i : Nat) : Template × Bool :=
  let a := b3 + 128 * i
  let t : Template := { refill := (List.range 64).map fun j => Mem.num m (a + j) 1,
                        write := (List.range 32).map fun j => Mem.num m (a + 0x40 + j) 1 }
  (t, Mem.num m (a + 0x60) 32 == 0 && t.write.all fun w => w / 16 % 8 == 0)

/-- Schedule entry i (Table 3.9). -/
def readEntry (m : Mem) (b4 i : Nat) : SchedEntry :=
  let w : W64 := BitVec.ofNat 64 (Mem.num m (b4 + 8 * i) 8)
  { template := bits w 0 10, repeatM1 := bits w 10 16, stallFirst := bits w 32 12, stallCount := bits w 44 8 }

/-- Stall-point entry i (Table 3.10). -/
def readStall (m : Mem) (b5 i : Nat) : Stall :=
  let a := b5 + 16 * i
  let at_ := Mem.num m (a + 2) 2
  { site := Mem.num m a 1, park := Mem.num m (a + 1) 1 % 2 == 1, addr := at_ % 2048, ovl := at_ / 2048,
    vaddr := Mem.num m (a + 4) 4 % 2 ^ 19 }

/-- What PLAN_LOAD has read of an image that passes check 1. -/
structure Image where
  h : Header
  recs : List SiteRec
  sites : List Site
  regions : List Region
  templates : List (Template × Bool)
  entries : List SchedEntry
  stalls : List Stall
  tabs : List TabRec
  b7 : Nat
  b8 : Nat
  len8 : Nat
  b9 : Nat

/-- The tables of an image. -/
def readImage (m : Mem) (a : Nat) : Image :=
  let h := readHeader m a
  let recs := (List.range h.sites).map (readSiteRec m (blkAddr m a 1))
  { h := h, recs := recs, sites := recs.map (siteOfRec m),
    regions := (List.range h.regions).map (readRegion m (blkAddr m a 2)),
    templates := (List.range h.templates).map (readTemplate m (blkAddr m a 3)),
    entries := (List.range h.entries).map (readEntry m (blkAddr m a 4)),
    stalls := (List.range h.stalls).map (readStall m (blkAddr m a 5)),
    tabs := if blkLen m a 6 = 0 then []
      else (readTabSeq m (blkAddr m a 6 + blkLen m a 6) (fun _ => true) (blkLen m a 6) (blkAddr m a 6)).1,
    b7 := blkAddr m a 7, b8 := blkAddr m a 8, len8 := blkLen m a 8, b9 := blkAddr m a 9 }

/-! ## Check 1 (R578) -/

/-- A reason code and its index. -/
abbrev Reason := Nat × Nat

/-- Header faults of step 3: magic, version, CRC. -/
def headerFault (m : Mem) (h : Header) : Option Reason :=
  if h.magic ≠ 0x4C504B5A then some (0x01, 0)
  else if h.major ≠ 1 then some (0x02, 0)
  else if h.crc ≠ (crc32c (Mem.bytes m h.a 0xFC)).toNat then some (0x03, 0)
  else none

/-- Header counts in their ranges, header_size, length, reserved fields (step 6, Table 3.2). -/
def Header.fieldsOk (h : Header) : Bool :=
  h.size == 256 && h.length % 4096 == 0 &&
  decide (4096 * 2 + (List.range 6).foldl (fun n t => n + ceilDiv (blkUnit t * h.count t) 4096 * 4096) 0 ≤
    h.length) &&
  decide (1 ≤ h.sites ∧ h.sites ≤ 64) && decide (1 ≤ h.regions ∧ h.regions ≤ 255) &&
  decide (1 ≤ h.templates ∧ h.templates ≤ 1024) && decide (1 ≤ h.entries ∧ h.entries ≤ 4096) &&
  decide (h.stalls ≤ 4096)

/-- A block breaks R148 or R149 (step 6). A block over the bytes of the header is refused as one that overlaps: the rules
name other blocks only. (DEDUCED, entry 123.) -/
def blockFault (m : Mem) (h : Header) (t : Nat) : Bool :=
  let e := dirEnt m h.a t
  let live := e.2.2 ≠ 0
  (live && (decide (e.1 < 256) || decide (h.length < e.1 + e.2.2))) ||
  (live && (List.range 9).any fun i =>
    let u := i + 1
    let g := dirEnt m h.a u
    u != t && g.2.2 != 0 && decide (e.1 < g.1 + g.2.2 ∧ g.1 < e.1 + e.2.2)) ||
  (if t ≤ 5 then e.2.2 != blkUnit t * h.count t
   else if t = 7 then e.2.2 == 0 || e.2.2 % 4096 != 0
   else if t = 8 then e.2.2 % 4096 != 0
   else if t = 9 then e.2.2 != 4 * (blkLen m h.a 8 / 4096)
   else false)

/-- A block that check 1 verifies breaks its CRC (step 7). -/
def crcFault (m : Mem) (h : Header) (t : Nat) : Bool :=
  let e := dirEnt m h.a t
  t != 8 && e.2.2 != 0 && (crc32c (Mem.bytes m (h.a + e.1) e.2.2)).toNat != e.2.1

/-- Blocks 8 and 9 do not match the region table (step 8). -/
def presenceFault (m : Mem) (h : Header) (t : Nat) : Bool :=
  let streamed := (List.range h.regions).any fun i =>
    let k := (readRegion m (blkAddr m h.a 2) i).kind
    k == 2 || k == 3
  (blkLen m h.a t != 0) != streamed

/-- Block 6 is malformed: its records, its closing record, or what follows (step 9). -/
def block6Fault (m : Mem) (h : Header) : Bool :=
  let a := blkAddr m h.a 6
  let n := blkLen m h.a 6
  n != 0 &&
  (match (readTabSeq m (a + n) (fun _ => true) n a).2 with
    | none => true
    | some e => (m.filter fun c => decide (e ≤ c.1 ∧ c.1 < a + n)).any fun c => c.2 != 0)

/-- A resident region breaks its CRC (step 10). -/
def residentFault (m : Mem) (h : Header) (i : Nat) : Bool :=
  let r := readRegion m (blkAddr m h.a 2) i
  r.kind == 1 && decide (1 ≤ r.count ∧ r.count ≤ 128) &&
  (decide (blkLen m h.a 7 < 4096 * (r.src + 64 * r.count)) ||
   crc32c (Mem.bytes m (blkAddr m h.a 7 + 4096 * r.src) (bushelB * r.count)) != r.crc)

/-- A preloaded overlay of a site record breaks its CRC (step 10). -/
def preloadFault (m : Mem) (h : Header) (i : Nat) : Bool :=
  let r := readSiteRec m (blkAddr m h.a 1) i
  let x := siteOfRec m r
  [r.pre0, r.pre1].any fun n =>
    decide (1 ≤ n ∧ n ≤ 31) &&
    (decide (blkLen m h.a 8 < 4096 * (x.ovlSrc n + 1)) ||
     (crc32c (Mem.bytes m (blkAddr m h.a 8 + 4096 * x.ovlSrc n) 4096)).toNat != x.ovlCrc n)

/-- The reason of the first block type of a list that a fault holds for. -/
def firstBlock (code : Nat) (p : Nat → Bool) (ts : List Nat) : Option Reason := (ts.find? p).map fun t => (code, t)

/-- Step 7: the blocks are read and checked in ascending type; the read of block bad meets an error (R578). -/
def blockReads (m : Mem) (h : Header) (bad : Option Nat) : Option Reason :=
  ((List.range 9).map (· + 1)).findSome? fun t =>
    if bad = some t ∧ t ≠ 8 ∧ (dirEnt m h.a t).2.2 ≠ 0 then some (0x07, 0)
    else if crcFault m h t then some (0x05, t)
    else none

/-- Some preloaded overlay is read from block 8 (step 10). -/
def preloads (m : Mem) (h : Header) : Bool :=
  (List.range h.sites).any fun i =>
    let r := readSiteRec m (blkAddr m h.a 1) i
    r.pre0 != 0 || r.pre1 != 0

/-- Check 1 from step 5 on: the first outcome that holds; bad is the block whose read meets an error (R578). -/
def check1 (m : Mem) (inst : Nat) (bad : Option Nat) (h : Header) : Option Reason :=
  let blocks := (List.range 9).map (· + 1)
  if inst < h.a + h.length then some (0x07, 0)
  else if !h.fieldsOk then some (0x04, 0)
  else if let some r := firstBlock 0x04 (blockFault m h) blocks then some r
  else if let some r := blockReads m h bad then some r
  else if let some r := firstBlock 0x04 (presenceFault m h) [8, 9] then some r
  else if block6Fault m h then some (0x04, 6)
  else if let some i := (List.range h.regions).find? (residentFault m h) then some (0x06, i)
  else if bad = some 8 ∧ preloads m h = true then some (0x07, 0)
  else
    (leastOf (((List.range h.sites).filter (preloadFault m h)).map fun i =>
      (readSiteRec m (blkAddr m h.a 1) i).site)).map fun n => (0x06, 0x8000 + n)

end Sys2Proof.Machine
end

