-- ==== Sys2Proof/Machine/ProgCheck.lean ====
section
/-!
DEFINITION. The checks of a plan's site programs, regions, schedule, barriers and stall points (R87, R113,
R153, R170, R180, R282, R334, R576, Tables 2.7 and 3.11).
-/

namespace Sys2Proof.Machine

/-- What the analysis of a site program reads: the site, its record, its overlays as lists of words with their
windows, the regions, the link mask. -/
structure ProgEnv where
  x : Site
  site : Nat
  ovls : List (Option (List W64))
  regions : List Region
  link : BitVec 16

/-- The words of overlay n of a site, when it can be used: 1 to 512 instructions from a peck of block 8, its
reserved bytes zero (R151). -/
def overlayWords (m : Mem) (b8 len8 : Nat) (x : Site) (n : Nat) : Option (List W64) :=
  let c := x.ovlCount n
  if 1 ≤ c ∧ c ≤ 512 ∧ 4096 * (x.ovlSrc n + 1) ≤ len8 ∧ x.d (0xA0B + 16 * n) 5 = 0 then
    some ((List.range c).map fun i => BitVec.ofNat 64 (Mem.num m (b8 + 4096 * x.ovlSrc n + 8 * i) 8))
  else none

/-- The words of an overlay. -/
def ProgEnv.ovl (e : ProgEnv) (n : Nat) : Option (List W64) := if n = 0 then none else (e.ovls.getD n none)

/-- First address of a window. -/
def winBase (w : Nat) : Nat := 0x400 + 0x200 * w

/-- A target names its overlay rightly (Table 2.7, Overlay naming). One that names an overlay of the other window, or one
that cannot be used, or an address past the overlay's instructions (ProgEnv.leads), is refused under the same code 0x16:
Table 2.7 lists neither. (DEDUCED, entry 120.) -/
def ProgEnv.namesOk (e : ProgEnv) (a o : Nat) : Bool :=
  match winOf a with
  | none => o == 0
  | some w => (e.ovl o).isSome && e.x.ovlWin o == w

/-- The word at a position, when it lies in the base region or in its overlay. -/
def ProgEnv.fetch (e : ProgEnv) (a o : Nat) : Option W64 :=
  match winOf a with
  | none => some (e.x.imem.get a)
  | some w => (e.ovl o).bind fun l => l[a - winBase w]?

/-- The position after one, when execution does not fall (Table 2.7, Region flow). -/
def ProgEnv.after (e : ProgEnv) (a o : Nat) : Option Nat :=
  match winOf a with
  | none => if a + 1 < 0x400 then some (a + 1) else none
  | some w =>
    match e.ovl o with
    | some l => if a + 1 - winBase w < l.length then some (a + 1) else none
    | none => none

/-! ## Static paths -/

/-- A point of a static path: position, open loops (body, call depth), return positions. -/
structure Point where
  a : Nat
  o : Nat
  loops : List (Nat × Nat × Nat)
  calls : List (Nat × Nat)
deriving DecidableEq, Repr

/-- What a point leads to: reason codes, and the points that follow. -/
abbrev Leads := List Nat × List Point

/-- The next instruction, or a fall (0x15). -/
def ProgEnv.fall (e : ProgEnv) (p : Point) : Leads :=
  match e.after p.a p.o with
  | some a => ([], [{ p with a := a }])
  | none => ([0x15], [])

/-- A target, or a naming fault (0x16). -/
def ProgEnv.goTo (e : ProgEnv) (p : Point) (t o : Nat) : Leads :=
  if e.namesOk t o then ([], [{ p with a := t, o := o }]) else ([0x16], [])

/-- The overlay that a position carries. -/
def ovlAt (a o : Nat) : Nat := if (winOf a).isSome then o else 0

/-- What a point of a static path leads to (Table 2.7); a return past the end of the region or overlay of its CALL is a
fault of flow, 0x15. (DEDUCED, entry 46.) -/
def ProgEnv.leads (e : ProgEnv) (p : Point) : Leads :=
  match e.fetch p.a p.o with
  | none => ([0x16], [])
  | some w =>
    if !wLegal w then ([0x14], [])
    else
      match wOp w with
      | 0x02 =>
        if 8 ≤ p.loops.length then ([0x17], [])
        else
          match e.after p.a p.o with
          | some a => ([], [{ p with a := a, loops := (a, ovlAt a p.o, p.calls.length) :: p.loops }])
          | none => ([0x15], [])
      | 0x03 =>
        match p.loops with
        | [] => ([0x18], [])
        | (la, lo, d) :: rest =>
          if d ≠ p.calls.length then ([0x18], [])
          else
            let f := e.fall { p with loops := rest }
            (f.1, { p with a := la, o := lo } :: f.2)
      | 0x04 =>
        if 16 ≤ p.calls.length then ([0x17], [])
        else e.goTo { p with calls := (p.a + 1, ovlAt (p.a + 1) p.o) :: p.calls } (bits w 0 11) (bits w 11 5)
      | 0x05 =>
        match p.calls with
        | [] => ([0x18], [])
        | (ra, ro) :: rest =>
          if p.loops.any fun l => l.2.2 == p.calls.length then ([0x18], [])
          else if (e.fetch ra ro).isNone then ([0x15], [])
          else ([], [{ p with a := ra, o := ro, calls := rest }])
      | 0x06 =>
        let n := bits w 16 4
        if p.loops.length < n || (p.loops.take n).any (fun l => l.2.2 != p.calls.length) then ([0x18], [])
        else e.goTo { p with loops := p.loops.drop n } (bits w 0 11) (bits w 11 5)
      | 0x08 => ([], [{ p with a := bits w 43 10, o := 0 }, { p with a := bits w 33 10, o := 0 }])
      | 0x3F => ([], [])
      | _ => e.fall p

/-- Every point that static paths reach from the points to do, and the reason codes met. (DEDUCED, entry 46.) -/
def ProgEnv.explore (e : ProgEnv) : Nat → List Point → List Point → List Nat → List Point × List Nat
  | 0, _, seen, codes => (seen, 0x17 :: codes)
  | _, [], seen, codes => (seen, codes)
  | f + 1, p :: work, seen, codes =>
    if seen.contains p then e.explore f work seen codes
    else
      let l := e.leads p
      e.explore f (l.2 ++ work) (p :: seen) (l.1 ++ codes)

/-- The points of a program from its entry, and the reason codes of its flow. (DEDUCED, entry 46.) -/
def ProgEnv.flow (e : ProgEnv) : List Point × List Nat :=
  let a := e.x.entry % 2048
  let o := e.x.entry / 2048
  if e.namesOk a o then e.explore (2 ^ 40) [{ a := a, o := o, loops := [], calls := [] }] [] []
  else ([], [0x16])

/-! ## Vector reads (R86, R142, R153) -/

/-- The region that a run of n records at a line lies in, when the site may read it: within the plan vector
space and one region. -/
def ProgEnv.runRegion (e : ProgEnv) (line n : Nat) : Option Region :=
  let b0 := 64 * line
  let b1 := b0 + n * (e.x.stride / 8)
  if 2 ^ 25 < b1 then none
  else
    (e.regions.find? fun r => (r.kind == 1 || r.kind == 2) && decide (r.first ≤ b0 / bushelB ∧ b0 / bushelB < r.first + r.count)).bind
      fun r =>
        if (r.site = e.site ∨ (r.kind = 1 ∧ r.site = 0xFF)) ∧ b1 ≤ (r.first + r.count) * bushelB then some r else none

/-- Reason codes of a read of n records at a line, which must be resident or not. -/
def ProgEnv.readCodes (e : ProgEnv) (line n : Nat) (resident : Bool) : List Nat :=
  if n = 0 then []
  else
    match e.runRegion line n with
    | none => [0x19]
    | some r => if resident && r.kind != 1 then [0x1A] else []

/-! ## MATCH (R113, R282, R576) -/

/-- The prefix of a MATCH target followed on its static paths: reason codes, with 0x1B where it returns to an
instruction already in it, and the first bundles met. -/
def ProgEnv.prefixes (e : ProgEnv) : Nat → List (Nat × Nat) → Point → List Nat × List (Nat × Nat)
  | 0, _, _ => ([0x1B], [])
  | f + 1, path, p =>
    if path.contains (p.a, p.o) then ([0x1B], [])
    else
      match e.fetch p.a p.o with
      | none => ([], [])
      | some w =>
        match wOp w with
        | 0x01 => ([], [(bits w 0 19, min 32 (bits w 40 16 + 1))])
        | 0x0A => ([], [(bits w 0 19, 1)])
        | 0x08 => ([], [((e.x.matchDesc (bits w 53 5)).line, 1)])
        | op =>
          if prefixOp op then
            (e.leads p).2.foldl (fun acc q =>
              let r := e.prefixes f ((p.a, p.o) :: path) q
              (acc.1 ++ r.1, acc.2 ++ r.2)) ([], [])
          else ([], [])

/-- A descriptor's reserved bits are zero (Table 2.11). -/
def Site.descClean (x : Site) (d : Nat) : Bool :=
  let b := 64 * d
  decide (x.d (b + 0x20) 4 < 2 ^ 19) && decide (x.d (b + 0x24) 4 < 2 ^ 19) && decide (x.d (b + 0x28) 4 < 2 ^ 24) &&
  decide (x.d (b + 0x2C) 4 < 2 ^ 30) && decide (x.d (b + 0x30) 4 < 2 ^ 12) && decide (x.d (b + 0x34) 4 < 2 ^ 16) &&
  x.d (b + 0x38) 8 == 0

/-- The record at a line of a resident region, from block 7. -/
def ProgEnv.residentRec (e : ProgEnv) (m : Mem) (b7 line : Nat) : Option Nat :=
  match e.runRegion line 1 with
  | some r =>
    if r.kind = 1 then
      some (Mem.num m (b7 + 4096 * r.src + (64 * line - bushelB * r.first)) (e.x.stride / 8))
    else none
  | none => none

/-- L of a descriptor in grains (R112, R282). -/
def ProgEnv.latency (e : ProgEnv) (d : MatchDesc) : Nat :=
  (32 + (if d.xdev then 12 * d.hops else 0) +
    (if (bitList d.mask).any (fun c => bit e.link (octOf c)) then 64 else 0)) * 4096

/-- Reason codes of a descriptor that a MATCH names: reads, mask, guard rule (R113, Table 2.7). -/
def ProgEnv.descCodes (e : ProgEnv) (m : Mem) (b7 : Nat) (pins : SMap Pin) (di : Nat) : List Nat :=
  let d := e.x.matchDesc di
  let period := tsPeriod ((pins.get (e.x.chans.headD 0)).tset.get d.ts)
  (if e.x.descClean di then [] else [0x14]) ++ e.readCodes d.line 1 true ++ e.readCodes d.guardLine d.guard true ++
  (if (d.mask &&& ~~~ e.x.pinMap) != 0 then [0x1B] else []) ++
  (match e.residentRec m b7 d.line with
    | none => []
    | some rec => if (d.guard + 1) * period < e.latency d + decisionOff d e.x.chans e.x.mux rec pins then [0x1B] else [])

/-- Reason codes of a MATCH at a point: its descriptor and both its targets' prefixes and first bundles. -/
def ProgEnv.matchCodes (e : ProgEnv) (m : Mem) (b7 : Nat) (pins : SMap Pin) (p : Point) (w : W64) : List Nat :=
  e.descCodes m b7 pins (bits w 53 5) ++
  [bits w 43 10, bits w 33 10].flatMap fun t =>
    let r := e.prefixes 4096 [] { p with a := t, o := 0 }
    r.1 ++ r.2.flatMap fun b => e.readCodes b.1 b.2 true

/-! ## One site -/

/-- The instructions that a program reaches. -/
def ProgEnv.words (e : ProgEnv) (pts : List Point) : List (Point × W64) :=
  pts.filterMap fun p => (e.fetch p.a p.o).bind fun w => if wLegal w then some (p, w) else none

/-- Reason codes of an instruction that the program reaches (R86, R334). -/
def ProgEnv.wordCodes (e : ProgEnv) (m : Mem) (b7 : Nat) (pins : SMap Pin) (pw : Point × W64) : List Nat :=
  let w := pw.2
  match wOp w with
  | 0x01 =>
    if e.x.hdrMode = 5 then (if bits w 0 19 = 0 then [] else [0x14])
    else e.readCodes (bits w 0 19) (bits w 40 16 + 1) false
  | 0x0A => if e.x.hdrMode = 5 then [] else e.readCodes (bits w 0 19) 1 true
  | 0x08 => if e.x.hdrMode = 5 then [0x14] else e.matchCodes m b7 pins pw.1 w
  | _ => []

/-- Timing sets that a program names: the header's, and those of SET_TS and of MATCH descriptors. The one-period check of
R76 covers these and no other index. (DEDUCED, entry 121.) -/
def ProgEnv.sets (e : ProgEnv) (ws : List (Point × W64)) : List Nat :=
  (e.x.initTs :: ws.filterMap fun pw =>
    match wOp pw.2 with
    | 0x0D => some (bits pw.2 0 6)
    | 0x08 => some (e.x.matchDesc (bits pw.2 53 5)).ts
    | _ => none).eraseDups

/-- The stride that R141 and R334 ask for. -/
def ProgEnv.strideWanted (e : ProgEnv) : Nat :=
  if e.x.hdrMode = 5 then 0 else ceilDiv (e.x.chans.length * (4 + e.x.mux)) 8 * 8

/-- Reserved bytes of the site header and of data memory are zero (Tables 2.3, 2.4). -/
def Site.headerClean (x : Site) : Bool :=
  decide (x.d 0xC32 1 < 64) && x.d 0xC35 3 == 0 && x.d 0xC3A 70 == 0 && x.d 0xC80 896 == 0

/-- Reason codes of a site's header and preloads (R74, R80, R84, R141, R180). -/
def ProgEnv.headerCodes (e : ProgEnv) (r : SiteRec) (streams2 : Bool) : List Nat :=
  let x := e.x
  (if x.hdrMode < 1 ∨ 5 < x.hdrMode ∨ (streams2 ∧ (x.hdrMode = 1 ∨ x.hdrMode = 4 ∨ x.hdrMode = 5)) then [0x13] else []) ++
  (if r.clean && x.headerClean && x.pinMap != 0 && decide (1 ≤ x.mux ∧ x.mux ≤ 16) && x.stride == e.strideWanted
    then [] else [0x14]) ++
  (if [(0, r.pre0), (1, r.pre1)].all (fun q => q.2 == 0 ||
      (decide (q.2 < 32) && (e.ovl q.2).isSome && x.ovlWin q.2 == q.1)) &&
      (List.range 31).all (fun i => decide (x.ovlCount (i + 1) ≤ 512)) then [] else [0x16])

/-- What check 2 finds of one site: reason codes, the timing sets it names, the barriers of its SYNCs, its
reached instructions. -/
structure SiteFindings where
  site : Nat
  x : Site
  codes : List Nat
  sets : List Nat
  syncs : List Nat
  words : List (Point × W64)

/-- The findings of a site. -/
def findSite (m : Mem) (g : Image) (pins : SMap Pin) (i : Nat) : SiteFindings :=
  let r := g.recs.getD i { pos := 0, site := 0, pre0 := 0, pre1 := 0, clean := false, a := 0 }
  let x := g.sites.getD i {}
  let regions := g.regions
  let e : ProgEnv :=
    { x := x, site := r.site, ovls := (List.range 32).map (overlayWords m g.b8 g.len8 x), regions := regions,
      link := g.h.linkMask }
  let fl := e.flow
  let ws := e.words fl.1
  let sets := e.sets ws
  let tsCodes := if setsOk pins x.chans sets x.mux g.h.linkMask then [] else [0x1C]
  { site := r.site, x := x,
    codes := fl.2 ++ e.headerCodes r (regions.any fun q => q.kind == 2 && q.site == r.site) ++
      ws.flatMap (e.wordCodes m g.b7 pins) ++ tsCodes,
    sets := sets, syncs := ws.filterMap fun pw => if wOp pw.2 = 0x0C then some (bits pw.2 53 5) else none,
    words := ws }

/-! ## The whole plan -/

/-- A region descriptor is malformed: kind, bushel range, owner, overlay (R152, R153). Table 3.11 names kind and bushel
range; an owner without a site record and an overlay load that names no usable overlay of its window are the model's.
(DEDUCED, entry 122.) -/
def regionBad (g : Image) (i : Nat) : Bool :=
  let rs := g.regions
  let r := rs.getD i {}
  let owned := g.recs.any fun q => q.site == r.site
  (match r.kind with
    | 1 | 2 =>
      !(decide (1 ≤ r.count ∧ r.count ≤ 128 ∧ r.first + r.count ≤ 128)) || !(owned || (r.kind == 1 && r.site == 0xFF)) ||
      ((List.range i).any fun j =>
        let q := rs.getD j {}
        (q.kind == 1 || q.kind == 2) && decide (q.first < r.first + r.count ∧ r.first < q.first + q.count))
    | 3 =>
      let x := ((List.range g.recs.length).find? fun j =>
        (g.recs.getD j { pos := 0, site := 0, pre0 := 0, pre1 := 0, clean := false, a := 0 }).site == r.site).map
          fun j => g.sites.getD j {}
      !owned || decide (1 < r.first) || !(decide (1 ≤ r.count ∧ r.count ≤ 31)) ||
      (match x with
        | some y => !(decide (1 ≤ y.ovlCount r.count ∧ y.ovlCount r.count ≤ 512)) || y.ovlWin r.count != r.first
        | none => true)
    | _ => true)

/-- A span template is malformed: a reserved bit, or a refill entry of a kind-1 or absent region. -/
def templateBad (g : Image) (t : Template × Bool) : Bool :=
  !t.2 || t.1.refill.any fun b =>
    b != 0xFF && !(decide (b < g.regions.length) && ((g.regions.getD b {}).kind != 1))

/-- A schedule entry is malformed: its template, or a gate that reaches past the stall points, which Table 3.11 does not
list. (DEDUCED, entry 122.) -/
def entryBad (g : Image) (e : SchedEntry) : Bool :=
  decide (g.templates.length ≤ e.template) ||
  (e.stallCount != 0 && decide (g.stalls.length < e.stallFirst + e.stallCount))

/-- The indices of reason 0x1F (Table 3.11). -/
def formFaults (g : Image) : List Nat :=
  ((List.range g.regions.length).filter (regionBad g)) ++
  ((List.range g.templates.length).filter fun i => templateBad g (g.templates.getD i ({}, false))).map (0x4000 + ·) ++
  ((List.range g.entries.length).filter fun i => entryBad g (g.entries.getD i {})).map (0x8000 + ·) ++
  (if g.h.loopFrom != 0xFFFF && decide (g.entries.length ≤ g.h.loopFrom) then [0xC000] else [])

/-- Sites that break the barrier rule: reason 0x1D (R122, Table 2.7). -/
def barrierFaults (fs : List SiteFindings) : List Nat :=
  (fs.filter fun f =>
    (f.syncs.any fun b => !f.x.barValid b || !bit (f.x.barSites b) f.site) ||
    (List.range 32).any fun b =>
      f.x.barValid b &&
      (!(decide (f.x.d (0x80A + 16 * b) 2 < 2) && f.x.d (0x80C + 16 * b) 4 == 0) ||
       (bitList (f.x.barSites b)).any fun q =>
         match fs.find? fun h => h.site == q with
         | none => true
         | some h => h.x.d (0x800 + 16 * b) 16 != f.x.d (0x800 + 16 * b) 16 || !h.syncs.contains b)).map (·.site)

/-- Sites that break the stall rule: reason 0x1E (R157, R170); a stall point of a site that the plan does not hold is
refused under it too. (DEDUCED, entry 122.) -/
def stallFaults (g : Image) (fs : List SiteFindings) : List Nat :=
  let gated := g.entries.flatMap fun e => (List.range e.stallCount).filterMap fun i => g.stalls[e.stallFirst + i]?
  let named (n a o : Nat) : Bool := gated.any fun t => t.site == n && t.addr == a && t.ovl == o
  (g.stalls.filter fun t =>
    match fs.find? fun f => f.site == t.site with
    | none => true
    | some f =>
      let e : ProgEnv := { x := f.x, site := f.site, ovls := [], regions := g.regions, link := 0 }
      !t.park && (match e.runRegion t.vaddr 1 with
        | some r => r.kind != 1
        | none => true)).map (·.site) ++
  (fs.filter fun f => (f.x.hdrMode == 2 || f.x.hdrMode == 3) &&
    f.words.any fun pw =>
      let w := pw.2
      match wOp w with
      | 0x08 => !(named f.site (bits w 43 10) 0 && named f.site (bits w 33 10) 0)
      | 0x0A | 0x0C => !named f.site (pw.1.a + 1) (ovlAt (pw.1.a + 1) pw.1.o)
      | _ => false).map (·.site)

end Sys2Proof.Machine
end

