-- ==== Sys2Proof/Machine/PlanLoad.lean ====
section
/-!
DEFINITION. PLAN_LOAD and PLAN_RETIRE (R37 to R47, R139, R140, R179 to R182, R219, R228, R580).
-/

namespace Sys2Proof.Machine

/-! ## UI PLLs -/

/-- An octet's lock state changes at an instant. -/
def setLock (o t : Nat) (b : Bool) (s : State) : State :=
  modOctet o (fun x => if x.locked = b then x else { x with locked := b, chg := noteChg t b x.chg }) s

/-- UI PLLs powered down now. -/
def pllDown (mask : BitVec 16) (s : State) : State :=
  (bitList mask).foldl (fun t o => setLock o t.now false (modOctet o (fun x => { x with pllOff := true }) t)) s

/-- UI PLLs powered up. -/
def pllUp (mask : BitVec 16) (s : State) : State :=
  (bitList mask).foldl (fun t o => modOctet o (fun x => { x with pllOff := false }) t) s

/-- The octets that a PLAN_LOAD powers up: declared, powered down, present and not disabled (R228, R517). -/
def State.toPower (s : State) (rates : List Nat) : BitVec 16 :=
  ((List.range s.nOct).filter fun o =>
    rates.getD o 0 != 0 && (s.octet o).pllOff && !bit s.sys.disabled o).foldl (fun m o => setBit m o true) 0

/-- Every octet of a set is locked. -/
def State.allLocked (s : State) (mask : BitVec 16) : Bool := (bitList mask).all fun o => (s.octet o).locked

/-! ## Ownership -/

/-- The plans that are loaded and not retired. -/
def State.owning (s : State) : List Plan := (s.plans.filter fun p => !p.2.retired).map Prod.snd

/-- The write slots claimed likewise. -/
def State.writesClaimed (s : State) : List Nat := (s.plans.flatMap fun p => p.2.writeClaimed).eraseDups

/-- The channels owned by the sites of loaded plans. -/
def State.owned (s : State) : BitVec 128 :=
  (s.sites.filter fun e => e.2.mode != 7).foldl (fun m e => m ||| e.2.pinMap) 0

/-! ## Check 2 (Table 3.11) -/

/-- A site mode that check 2 permits now (R580). -/
def State.modeOk (s : State) (mode : Nat) : Bool := s.sys.state != .bringUp || mode == 1 || mode == 4

/-- Faults of the site records among themselves and against the loaded plans: 0x10, 0x11, 0x13, 0x14.
(DEDUCED, entry 43.) -/
def recFaults (g : Image) (s : State) : List Reason :=
  (List.range g.recs.length).flatMap fun i =>
    let site := (g.recs.getD i { pos := 0, site := 0, pre0 := 0, pre1 := 0, clean := false, a := 0 }).site
    let x := g.sites.getD i {}
    let before := (g.sites.take i).foldl (fun m y => m ||| y.pinMap) s.owned
    let again := (g.recs.take i).any fun r => r.site == site
    (x.chans.filter fun c => decide (s.nCh ≤ c) || bit s.sys.disabled (octOf c) || bit before c).map (fun c => (0x10, c)) ++
    (if 63 < site ∨ again then [(0x14, 0x8000 + i)]
      else if (s.site site).mode ≠ 7 then [(0x11, site)] else []) ++
    (if s.modeOk x.hdrMode then [] else [(0x13, site)])

/-- Faults of the stores: 0x12 (R37, R158). -/
def storeFaults (g : Image) (s : State) : List Reason :=
  (if (List.range 8).all (fun i => (s.plan i).isSome) then [(0x12, 0)] else []) ++
  (if 2048 < g.templates.length + (s.plans.map fun p => p.2.templates.length).foldl (· + ·) 0 then [(0x12, 1)] else []) ++
  (if 8192 < g.entries.length + (s.plans.map fun p => p.2.entries.length).foldl (· + ·) 0 then [(0x12, 2)] else [])

/-- The least reason of a list: lowest code, then lowest index (R180). -/
def leastReason : List Reason → Option Reason
  | [] => none
  | x :: xs => some (xs.foldl (fun a b => if b.1 < a.1 ∨ (b.1 = a.1 ∧ b.2 < a.2) then b else a) x)

/-- Check 2. -/
def check2 (g : Image) (fs : List SiteFindings) (s : State) : Option Reason :=
  leastReason (recFaults g s ++ storeFaults g s ++
    ((fs.filter fun f => decide (f.site ≤ 63)).flatMap fun f => f.codes.map fun c => (c, f.site)) ++
    (formFaults g).map (fun i => (0x1F, i)) ++ (barrierFaults fs).map (fun n => (0x1D, n)) ++
    (stallFaults g fs).map fun n => (0x1E, n))

/-! ## Checks 3 to 5 -/

/-- The octets of the pin maps of an image. -/
def Image.octs (g : Image) : List Nat := (g.sites.flatMap Site.octs).eraseDups

/-- Check 3 (R44, R219, R222, R271, R273). -/
def check3 (g : Image) (fs : List SiteFindings) (pins : SMap Pin) (s : State) : Option Reason :=
  leastReason (
    ((List.range 16).filter fun o => decide ((s.octet o).ceiling < g.h.rates.getD o 0)).map (fun o => (0x20, o)) ++
    (fs.flatMap fun f => spacingFaults pins f.x.chans f.sets g.h.rates g.h.linkMask).map (fun o => (0x21, o)) ++
    ((List.range 16).filter fun o =>
      (g.octs.contains o && bit g.h.linkMask o != (s.octet o).linkEn) ||
      (bit g.h.linkMask o && decide (g.h.rates.getD o 0 < 12800))).map fun o => (0x22, o))

/-- Pecks of the 8 spans from a position. -/
def Plan.window (p : Plan) (pos : SchedPos) : Nat := (p.ahead 8 pos).foldl (· + ·) 0

/-- The largest 8-span peck count whose first span lies in an entry: its first span, or one of its last 8. -/
def Plan.entryPeak (p : Plan) (e : Nat) : Nat :=
  let n := (p.entries.getD e {}).repeatM1 + 1
  ((0 :: (List.range 8).map fun i => n - 1 - i).map fun r => p.window (some (e, r))).foldl max 0

/-- The peak of a schedule and the first entry that holds a window of it (R181). -/
def Plan.peak (p : Plan) : Nat × Nat :=
  (List.range p.entries.length).foldl (fun a e => let v := p.entryPeak e; if a.1 < v then (v, e) else a) (0, 0)

/-- Check 4 (R36, R155, R181). -/
def check4 (p : Plan) (s : State) : Option Reason :=
  let others := (s.owning.map fun q => q.peak.1).foldl (· + ·) 0
  if 50 < p.peak.1 + others then some (0x30, p.peak.2)
  else
    match p.claimed.find? fun i => s.slotsClaimed.contains i with
    | some i => some (0x31, i)
    | none => (p.writeClaimed.find? fun w => s.writesClaimed.contains w).map fun w => (0x32, w)

/-- The physical bushels that are free, ascending. (DESIGN CHOICE, entry 40.) -/
def State.freeBushels (s : State) : List Nat := (List.range 128).filter fun b => !(s.vs.bushels.get b).claimed

/-- The plan bushels of kinds 1 and 2 in region order, each with its region (R182). -/
def Plan.wanted (p : Plan) : List (Nat × Nat) :=
  (List.range p.regions.length).flatMap fun i =>
    let r := p.regions.getD i {}
    if r.kind = 1 ∨ r.kind = 2 then (List.range r.count).map fun j => (r.first + j, i) else []

/-- Check 5: the mapping of plan bushels to free physical bushels, lowest first, or the first region without
one (R140). -/
def check5 (p : Plan) (s : State) : SMap Nat × Option Reason :=
  let free := s.freeBushels
  let want := p.wanted
  match want[free.length]? with
  | some w => ([], some (0x40, w.2))
  | none => ((want.zip free).foldl (fun m e => m.set e.1.1 e.2) [], none)

/-! ## The plan loaded (R179) -/

/-- The plan of an image. -/
def planOfImage (g : Image) (bushels : SMap Nat) : Plan :=
  { planId := BitVec.ofNat 64 g.h.planId, rates := g.h.rates, linkMask := g.h.linkMask,
    sites := g.recs.map (·.site), regions := g.regions, templates := g.templates.map Prod.fst,
    entries := g.entries, loopFrom := g.h.loopFrom, stalls := g.stalls,
    blk8 := g.b8, blk9 := g.b9, bushels := bushels }

/-- The resident contents of a plan copied into their bushels. -/
def copyResident (p : Plan) (b7 : Nat) (s : State) : State :=
  p.regions.foldl (fun t r =>
    if r.kind = 1 then
      (List.range r.count).foldl (fun u j => modVs (fun v => { v with
        mem := Mem.copyTo u.dram.mem (b7 + 4096 * r.src + bushelB * j) bushelB v.mem
          (bushelB * p.bushels.get (r.first + j)) }) u) t
    else t) s

/-- A window of a site preloaded: its peck and its tag (R80). -/
def preload (m : Mem) (b8 w n : Nat) (x : Site) : Site :=
  let y := if n = 0 then x else { x with imem := loadWindow w (Mem.bytes m (b8 + 4096 * x.ovlSrc n) 4096) x.imem }
  y.setTag w n

/-- A site of the loaded plan: unassigned until now, idle from now. (DEDUCED, entry 42.) -/
def installSite (m : Mem) (b8 slot : Nat) (r : SiteRec) (f : SiteFindings) (x : Site) : Site :=
  let y : Site := { x with
    mode := f.x.hdrMode, plan := slot, dmem := f.x.dmem, ts := f.x.initTs, vcount := 0,
    named := f.sets.foldl (fun b i => setBit b i true) 0,
    imem := (x.imem.filter fun e => decide (e.1 < 1024)).foldl (fun a e => a.set e.1 0) x.imem }
  let z : Site := { y with imem := f.x.imem.foldl (fun a e => a.set e.1 e.2) y.imem }
  preload m b8 1 r.pre1 (preload m b8 0 r.pre0 z)

/-- The channels of an image as a set. -/
def Image.chans (g : Image) : BitVec 128 := g.sites.foldl (fun m x => m ||| x.pinMap) 0

/-- A plan written after check 5: claims, windows, resident data, site memories, tables, lane rates, pins (R77, R179, R227).
(DEDUCED, entry 42.) (DEDUCED, entry 56.) -/
def installPlan (slot : Nat) (p : Plan) (g : Image) (fs : List SiteFindings) (pins : SMap Pin) (s : State) : State :=
  let s1 := modVs (fun v => { v with
    plans := v.plans.set slot (some p),
    bushels := p.wanted.foldl (fun m e =>
      m.set (p.bushels.get e.1) { claimed := true, slot := slot, pb := e.1 }) v.bushels }) s
  let s2 := (g.recs.zip fs).foldl (fun t rf => modSite rf.1.site (installSite t.dram.mem g.b8 slot rf.1 rf.2) t) s1
  let s3 := ((bitList p.linkMask).filter fun o => bits g.chans (8 * o) 8 != 0).foldl (fun t o =>
    modOctet o (fun x => { x with linkRate := laneIndex (p.rates.getD o 0) }) t)
    (setPins pins (copyResident p g.b7 s2))
  sendLevels g.chans (p.sites.foldl (fun t n => parkPins n t.now t) s3)

/-! ## PLAN_LOAD -/

/-- A PLAN_LOAD rejected: the PLLs that it powered up go down again (R40, R228). -/
def rejectPlan (k : Nat) (cleared : BitVec 16) (r : Reason) (s : State) : State :=
  complete k stRejected (r.1 + r.2 % 65536 * 2 ^ 16)
    (pllDown cleared (modVs (fun v => { v with loadWait := none }) s))

/-- The tables formed for check 3 and written at the end (R219). -/
def planPins (g : Image) (s : State) : SMap Pin := applyTabs g.tabs g.chans s.pins

/-- Checks 2 to 5: the plan, the findings of its sites and its tables, or the reason. (DEDUCED, entry 43.) -/
def checks2to5 (g : Image) (s : State) : Sum Reason (Plan × List SiteFindings × SMap Pin) :=
  let pins := planPins g s
  let fs := (List.range g.recs.length).map (findSite s.dram.mem g pins)
  match check2 g fs s with
  | some r => .inl r
  | none =>
    match check3 g fs pins s with
    | some r => .inl r
    | none =>
      let p := planOfImage g []
      match check4 p s with
      | some r => .inl r
      | none =>
        match check5 p s with
        | (_, some r) => .inl r
        | (m, none) => .inr ({ p with bushels := m }, fs, pins)

/-- The first plan slot that is free. (DESIGN CHOICE, entry 40.) -/
def State.freeSlot (s : State) : Nat := ((List.range 8).find? fun i => (s.plan i).isNone).getD 0

/-- The block of check 1 whose read meets an error. -/
def badBlock : ReadOutcome → Option Nat
  | .errBlock t => some (t.val + 1)
  | _ => none

/-- The remaining checks and the writes of a PLAN_LOAD whose PLLs are locked. -/
def finishLoad (k : Nat) (rd : ReadOutcome) (cleared : BitVec 16) (h : Header) (s : State) : State :=
  match check1 s.dram.mem s.installed (badBlock rd) h with
  | some r => rejectPlan k cleared r s
  | none =>
    let g := readImage s.dram.mem h.a
    match checks2to5 g s with
    | .inl r => rejectPlan k cleared r s
    | .inr (p, fs, pins) =>
      if rd = .errCopy then
        rejectPlan k cleared (0x07, 0)
          (p.sites.foldl (fun t n => modSite n (fun x => { x with win0 := 0, win1 := 0 }) t) s)
      else
        let slot := s.freeSlot
        complete k stOK slot (installPlan slot p g fs pins (modVs (fun v => { v with loadWait := none }) s))

/-- A PLAN_LOAD from its header read up to the wait for the PLLs that it powers up (R578 steps 3 and 4).
(DEDUCED, entry 39.) -/
def readStart (k : Nat) (rd : ReadOutcome) (a : Nat) (s : State) : State :=
  let h := readHeader s.dram.mem a
  match if rd = .errHeader then some (0x07, 0) else headerFault s.dram.mem h with
  | some r => rejectPlan k 0 r s
  | none =>
    let up := s.toPower h.rates
    if up = 0 then finishLoad k rd 0 h s
    else pllUp up (modVs (fun v => { v with loadWait := some (k, up), loadErr := rd }) s)

/-- A PLAN_LOAD up to the wait for the PLLs that it powers up (R578 steps 2 to 4, R512). (DEDUCED, entry 39.) -/
def startLoad (k : Nat) (rd : ReadOutcome) (a : Nat) (s : State) : State :=
  if !s.dram.enabled then complete k stPrecondition 0 s
  else if 64 ≤ s.slotsClaimed.length then s
  else restDram (readStart k rd a (wakeDram s))

/-- PLAN_LOAD: it waits for the PLLs that it powered up, then goes on when it is given again (R39 to R44, R179,
R228, R578). (DEDUCED, entry 39.) -/
def execPlanLoad (k : CmdSlot) (rd : ReadOutcome) (s : State) : Res :=
  onCmd k 0x10 s fun d t =>
    if !t.turn88 k.val then t
    else
      match t.vs.loadWait with
      | none => startLoad k.val rd (pay d 8 8) t
      | some (j, mask) =>
        if j = k.val && t.allLocked mask && decide (t.slotsClaimed.length < 64) then
          restDram (finishLoad k.val (if rd = .ok then t.vs.loadErr else rd) mask
            (readHeader t.dram.mem (pay d 8 8)) (wakeDram t))
        else t

/-- PLL_LOCK_TIMEOUT: a PLL that a PLAN_LOAD powered up has not locked within 50 µs (R228). -/
def execPllLockTimeout (s : State) : Res :=
  match s.vs.loadWait with
  | some (k, mask) =>
    match (bitList mask).find? fun o => !(s.octet o).locked with
    | some o => .next (rejectPlan k mask (0x08, o) s)
    | none => .next s
  | none => .next s

/-! ## PLAN_RETIRE -/

/-- The sites of a plan become unassigned and their pins are released (R24, R77). -/
def releaseSites (p : Plan) (s : State) : State :=
  p.sites.foldl (fun t n =>
    (t.site n).chans.foldl (fun u c => releasePin u.now c u) (modSite n (fun x => { x with mode := 7 }) t)) s

/-- The barriers of a plan's sites go with their plan. -/
def dropBarriers (ns : List Nat) (s : State) : State :=
  { s with barriers := s.barriers.filter fun e => !ns.contains (e.1 / 32) }

/-- PLAN_RETIRE (R45 to R47). (DEDUCED, entry 41.) -/
def execPlanRetire (k : CmdSlot) (s : State) : Res :=
  onCmd k 0x11 s fun d t =>
    if !t.engine88Free || !t.turn88 k.val then t
    else
      let slot := pay d 0 1
      match t.plan slot with
      | none => complete k.val stPrecondition 1 t
      | some p =>
        if p.retired then complete k.val stPrecondition 1 t
        else if !t.planIdle p then complete k.val stPrecondition 0 t
        else
          let t1 := modPlan slot (fun q => { q with retired := true }) (releaseSites p t)
          complete k.val stOK 0 (dropBarriers p.sites t1)

end Sys2Proof.Machine
end

