-- ==== Sys2Proof/Machine/Pins.lean ====
section
/-!
DEFINITION. Pin channels, UI PLLs and link lanes: their configuration writes, loss and return of lock, loss
of signal, link results and status, and the eye scan (R228, R229, R234, R236 to R287).
-/

namespace Sys2Proof.Machine

/-! ## Ownership -/

/-- A loaded plan has a channel in an octet. -/
def State.octOwned (s : State) (o : Nat) : Bool := bits s.owned (8 * o) 8 != 0

/-- U_o of a channel: of its lane in link configuration, else of its plan (R225, R227); none where no plan
declares it. -/
def State.uiOf (s : State) (c : Nat) : Option Nat :=
  let o := octOf c
  if (s.octet o).linkEn then some (octetUi (laneRates.getD (s.octet o).linkRate 16000))
  else
    match (s.ownerOf c).bind fun n => s.planOf n with
    | some p => if p.rates.getD o 0 = 0 then none else some (octetUi (p.rates.getD o 0))
    | none => (s.owning.find? fun p => p.rates.getD o 0 != 0).map fun p => octetUi (p.rates.getD o 0)

/-! ## Suspect ranges (R260, R298) -/

/-- A range opens on a channel whose site runs; one that was to close with the vector in progress stays open, and an open
one takes no second (R260, R298). (DEDUCED, entry 18.) -/
def openSuspect (c cause lockWin : Nat) (s : State) : State :=
  match s.ownerOf c with
  | none => s
  | some n =>
    if (s.site n).running && (s.site n).play != .starting && (s.site n).play != .ended then
      modPin c (fun p => { p with suspect :=
        match p.suspect with
        | some z => some { z with closing := false }
        | none => some { site := n, cause := cause, lockWin := lockWin } }) s
    else s

/-- A vector of the site is in progress now: it has begun, and the site is not held with parked pins. -/
def Site.inVector (x : Site) (now : Nat) : Bool :=
  decide (x.nextT < now) && !x.heldParked &&
  (match x.play, x.q with
    | .run, .bundle .. :: _ => true
    | .run, _ => false
    | .probe .., _ => true
    | .wait .., _ => true
    | .stall .., _ => true
    | _, _ => false)

/-- The range of a channel closes after the last vector that began before now, once nothing suppresses its
compares. (DEDUCED, entry 51.) -/
def closeSuspect (c : Nat) (s : State) : State :=
  if s.pinDown c then s
  else
    match (s.pin c).suspect with
    | none => s
    | some z =>
      let x := s.site z.site
      if x.inVector s.now then modPin c (fun p => { p with suspect := some { z with closing := true } }) s
      else
        let s1 := modPin c (fun p => { p with suspect := none }) s
        if z.opened then hold z.site (.entry x.lastV 0x05 (c + z.cause * 2 ^ 8) z.lockWin s.untraceable) s1 else s1

/-! ## Link lanes (R271 to R287) -/

/-- PIN_LINK.ready is set once every lane is locked and every play_delay is written (R277). (DEDUCED, entry 53.) -/
def tryReady (o : Nat) (s : State) : State :=
  modOctet o (fun x => { x with linkReady := x.linkReady || (x.linkEn && x.locked && x.rxLol == 0 && x.txFault == 0 &&
    ((List.range 4).all fun j => x.rtts.get j != 0) && x.mgmt.all fun e => e.2.1 != 0) }) s

/-- The lanes of an octet change state now: what each logical pin sees of it (R284). -/
def setLanes (o : Nat) (f : Octet → Octet) (s : State) : State :=
  let a := s.octet o
  let s1 := modOctet o (fun x =>
    let y := f x
    { y with laneEvent := y.laneEvent || (y.rxLol &&& ~~~ x.rxLol) != 0 || (y.txFault &&& ~~~ x.txFault) != 0 }) s
  let b := s1.octet o
  tryReady o ((List.range 8).foldl (fun t i =>
    let c := 8 * o + i
    if a.pinGood c = b.pinGood c then t
    else
      let t1 := modPin c (fun p => { p with lchg := noteChg t.now (b.pinGood c) p.lchg }) t
      if b.pinGood c then closeSuspect c t1
      else
        let lane := bit b.rxLol (i / 2) || bit b.txFault (i / 2)
        openSuspect c (if lane then 5 else 6) 0 t1) s1)

/-- An RX lane loses or regains lock. -/
def setRxLane (c : Nat) (locked : Bool) (s : State) : State :=
  let o := octOf c
  if (s.octet o).linkEn && 4 ≤ c % 8 then
    setLanes o (fun x => { x with rxLol := setBit x.rxLol (c % 8 - 4) !locked }) s
  else s

/-! ## Loss and return of lock (R256 to R260) -/

/-- A channel that runs the CDR and is locked becomes unlocked now (R256). -/
def unlockPin (c cause : Nat) (s : State) : State :=
  let p := s.pin c
  if s.cdrOn c && p.locked then
    let s1 := modPin c (fun y => { y with
      locked := false, lolEvent := true, lolCount := satAdd 0xFFFF y.lolCount 1, goodWin := 0,
      chg := noteChg s.now false y.chg, scan := y.scan.map fun z => { z with unl := true } }) s
    if (s.octet (octOf c)).linkEn then setRxLane c false s1
    else openSuspect c cause (if cause = 1 then 4096 else 0) s1
  else s

/-- An unlocked channel becomes locked now (R257). -/
def relockPin (c : Nat) (s : State) : State :=
  let s1 := modPin c (fun y => { y with locked := true, goodWin := 0, chg := noteChg s.now true y.chg }) s
  if (s.octet (octOf c)).linkEn then setRxLane c true s1 else closeSuspect c s1

/-- A channel enters tracked mode now: phase 0, unlocked, lock windows from here (R252, R254). -/
def enterTracked (now : Nat) (p : Pin) : Pin :=
  { p with phase := 0, phs := [(now, 0)], locked := false, goodWin := 0, winT := now, chg := [(now, false)] }

/-- A channel's phase from an instant on (R237). -/
def setPhase (t : Nat) (v : Int) (p : Pin) : Pin := { p with phase := v, phs := ((t, v) :: p.phs).take 32 }

/-- The end of the lock window of a channel in this span: aligned to its entry into tracked mode (R254).
(DEDUCED, entry 54.) -/
def State.windowEnd (s : State) (c : Nat) : Option Nat :=
  let p := s.pin c
  match s.uiOf c with
  | none => some s.now
  | some u =>
    let w := 4096 * u
    let e := p.winT + max 1 (ceilDiv (s.time.span * spanGr - p.winT) w) * w
    if e / spanGr = s.time.span then some e else none

/-- The phase after a lock window: what the CDR has tracked to while locked, by at most 1 gr in each of its 4,096 UI; the
measured DUT phase reduced into one UI while it acquires (R252, R254, R257). -/
def windowPhase (locked : Bool) (ui : Option Nat) (old m : Int) : Int :=
  let v := match locked, ui with
    | false, some u => (m + ((u / 2 : Nat) : Int)) % (u : Int) - ((u / 2 : Nat) : Int)
    | false, none => m
    | true, _ => clampI (old - 4096) (old + 4096) m
  clampI (-32767) 32767 v

/-- The bits of a lock window that the driving channel of a far-end loop sends: each 12 ns after its sampling instant, the
last one held while the receiving channel is unlocked (R265). (DEDUCED, entry 49.) -/
def sendFar (rx dx : Nat) (start : Nat) (u : Nat) (sliced : List Bool) (s : State) : State :=
  let p := s.pin rx
  (sliced.foldl (fun (acc : Nat × State) b =>
    let i : Int := ((start + acc.1 * u : Nat) : Int) + p.phaseAt ((start + acc.1 * u : Nat) : Int)
    let lvl := if b then 2 else 1
    (acc.1 + 1,
      if offIn p.chg p.locked i i || (acc.2.pin dx).drv == lvl then acc.2
      else movePin dx (i + 49152) (fun y => { y with drv := lvl, openIn := false, lastDrv := some (i + 49152) }) acc.2))
    (0, s)).2

/-- A far-end loop's driving channel sends what its receiving channel has sliced in a lock window (R265). -/
def farWindow (c : Nat) (e : Nat) (sliced : List Bool) (s : State) : State :=
  match s.farPair c, s.uiOf c with
  | some (rx, dx), some u => if rx = c then sendFar rx dx (e - 4096 * u) u (sliced.take 4096) s else s
  | _, _ => s

/-- LOCK_WINDOW_END: frequency error in units of 0.1 ppm, and what the data slicer decided in the window (R254 to R257,
R265). -/
def execLockWindowEnd (c : Chan) (ferr : Int) (w : CdrWindow) (s : State) : Res :=
  if !s.cdrOn c.val then .next s
  else
    match s.windowEnd c.val with
    | none => .next s
    | some e =>
      let p := s.pin c.val
      let good := decide (-2500 ≤ ferr ∧ ferr ≤ 2500)
      let n := if p.locked then 0 else if good then min 2 (p.goodWin + 1) else 0
      let s0 := farWindow c.val e w.sliced (modTime (fun x => { x with grain := e % spanGr }) s)
      let s1 := modPin c.val (fun y => setPhase e (windowPhase p.locked (s.uiOf c.val) p.phase w.phase) { y with
        ferr := clampI (-32768) 32767 ferr, winT := e, goodWin := n }) s0
      .next (
        if p.locked then (if ferr < -10000 ∨ 10000 < ferr then unlockPin c.val 1 s1 else s1)
        else if n = 2 ∧ (s.octet (octOf c.val)).locked ∧ ¬p.los ∧ (s1.pin c.val).phase.natAbs < 32767 then relockPin c.val s1
        else s1)

/-- PHASE_LIMIT: the CDR phase reaches a limit (R252, R256). -/
def execPhaseLimit (c : Chan) (upper : Bool) (t : Grain) (s : State) : Res :=
  if s.cdrOn c.val then
    let s1 := atGrain t s
    .next (unlockPin c.val 2 (modPin c.val (fun p =>
      setPhase s1.now (if upper then 32767 else -32767) { p with phaseLimit := true }) s1))
  else .next s

/-- LOS_ASSERT (R255, R256, R258). -/
def execLosAssert (c : Chan) (t : Grain) (s : State) : Res :=
  let p := s.pin c.val
  if bit p.cfg 7 && !p.los then
    .next (unlockPin c.val 3 (modPin c.val (fun y => { y with los := true, losEvent := true }) (atGrain t s)))
  else .next s

/-- LOS_DEASSERT (R255). -/
def execLosDeassert (c : Chan) (t : Grain) (s : State) : Res :=
  .next (modPin c.val (fun y => { y with los := false }) (atGrain t s))

/-! ## UI PLLs (R228, R229, R517) -/

/-- A rate ceiling takes a value; a fall is recorded and raises CEILING_DROP (R70). -/
def setCeiling (o v : Nat) (s : State) : State :=
  let s1 := modOctet o (fun x => { x with ceiling := v }) s
  if v < (s.octet o).ceiling then
    raiseIrq 1 (modSys (fun y => { y with ceilOctet := BitVec.ofNat 4 o, ceilDropped := setBit y.ceilDropped o true })
      (modOctet o (fun x => { x with drop := true }) s1))
  else s1

/-- UI_PLL_UNLOCK (R229, R256). -/
def execUiPllUnlock (o : OctetId) (t : Grain) (s : State) : Res :=
  if (s.octet o.val).locked then
    let s0 := atGrain t s
    let s1 := modOctet o.val (fun x => { x with
      unlockEvent := true, unlockCount := satAdd 0xFFFF x.unlockCount 1 }) (setLock o.val s0.now false s0)
    .next ((List.range 8).foldl (fun u i =>
      let c := 8 * o.val + i
      openSuspect c 4 0 (unlockPin c 4 u)) (setCeiling o.val 0 s1))
  else .next s

/-- UI_PLL_LOCK (R228, R229). -/
def execUiPllLock (o : OctetId) (t : Grain) (s : State) : Res :=
  let x := s.octet o.val
  if x.locked || x.pllOff || s.sys.state == .reset || s.sys.state == .boot || decide (s.nOct ≤ o.val) then .next s
  else
    let s0 := atGrain t s
    let s1 := modOctet o.val (fun y => { y with relock := false }) (setLock o.val s0.now true s0)
    .next (tryReady o.val ((List.range 8).foldl (fun u i => closeSuspect (8 * o.val + i) u) s1))

/-- TIMING_OCTET_CFG_WRITE: pll_off is guarded (R228, R575); it reads 1 while the octet is disabled (R517).
(DEDUCED, entry 50.) -/
def execTimingOctetCfgWrite (o : OctetId) (v : W32) (s : State) : Res :=
  onBlock false s fun t =>
    let x := t.octet o.val
    if t.nOct ≤ o.val then t
    else
      let want := bit v 0 || bit t.sys.disabled o.val
      if want != x.pllOff && (t.octOwned o.val || x.linkEn) then modTiming (fun y => { y with refused := true }) t
      else
        let t1 := modOctet o.val (fun y => { y with unlockEvent := y.unlockEvent && !bit v 2, pllOff := want }) t
        if want then setLock o.val t.now false t1 else t1

/-- A deskew value lies in the range of Table 4.11. -/
def deskewOk (d : Int) : Bool := decide (-16384 ≤ d ∧ d ≤ 16383)

/-- TIMING_PIN_DESKEW_WRITE (R230, R234, R577). -/
def execTimingPinDeskewWrite (c : Chan) (v : W32) (s : State) : Res :=
  onBlock false s fun t =>
    let p := t.pin c.val
    let d := sbits v 0 16
    let m := sbits v 16 16
    if t.nCh ≤ c.val then t
    else if !deskewOk d || !deskewOk m || ((d != p.dDrv || m != p.dCmp) && t.ownedRunning c.val) then modTiming (fun y => { y with refused := true }) t
    else modPin c.val (fun y => { y with dDrv := d, dCmp := m }) t

/-! ## Pin configuration (R236 to R265, R575, R577) -/

/-- A configuration write of a channel is ignored. -/
def refusePin (c : Nat) (s : State) : State := modPin c (fun p => { p with refused := true }) s

/-- A far-end loop on a channel is complete: set on both of its pair, its receiving channel tracked, no running site
(R265). (DEDUCED, entry 49.) -/
def State.farEnd (s : State) (c : Nat) : Bool := (s.farPair c).isSome

/-- A write of PIN_CFG (R238, R246, R252, R265, R577). (DEDUCED, entry 49.) -/
def writePinCfg (c : Nat) (v : W32) (s : State) : State :=
  let p := s.pin c
  let v' := v &&& 0xFFF
  let reserved := bits v' 1 2 == 3 || decide (4 ≤ bits v' 4 3) || decide (5 ≤ bits v' 9 3) ||
    (bits v' 1 2 == 2 && !bit v' 0)
  if reserved || ((v' ^^^ p.cfg) &&& 0xE7F != 0 && s.ownedRunning c) then refusePin c s
  else
    let lane := (s.octet (octOf c)).linkEn
    let s1 := movePin c s.now (fun y =>
      let z := { y.disturb with cfg := v', los := y.los && bit v' 7 }
      if lane || bit v' 0 = y.tracked then z
      else if bit v' 0 then enterTracked s.now z else { z with locked := false }) s
    let s2 := endFar (s.farPair c) s1
    if bits v' 4 3 = 3 ∧ ¬s2.farEnd c then refusePin c s2 else s2

/-- A write of PIN_AUX (Table 5.13, R240, R241). (DEDUCED, entry 48.) -/
def writePinAux (c : Nat) (v : W32) (s : State) : State :=
  let p := s.pin c
  let vtt := sbits v 0 16
  let mv := clampN 20 400 (bits v 16 10)
  if vtt < -8000 ∨ 18000 < vtt then refusePin c s
  else if bits v 0 16 ≠ bits p.aux 0 16 ∧ s.ownedRunning c then refusePin c s
  else modPin c (fun y => { y.disturb with
    aux := BitVec.ofNat 32 (bits v 0 16 + mv * 2 ^ 16), dacSat := y.dacSat || codeHeld (y.dacs.get 4) 4 vtt }) s

/-- A write of PIN_CTLE (Table 5.14). -/
def writePinCtle (c : Nat) (v : W32) (s : State) : State :=
  if bits v 0 4 ≠ bits (s.pin c).ctle 0 4 ∧ s.ownedRunning c then refusePin c s
  else modPin c (fun y => { y.disturb with ctle := v &&& 0x10F }) s

/-- PIN_CFG_WRITE: writes of PIN_CFG, PIN_AUX and PIN_CTLE. -/
def execPinCfgWrite (c : Chan) (cfg aux ctle : Option W32) (s : State) : Res :=
  onBlock false s fun t =>
    if t.nCh ≤ c.val then t
    else
      let t1 := cfg.elim t fun v => writePinCfg c.val v t
      let t2 := aux.elim t1 fun v => writePinAux c.val v t1
      ctle.elim t2 fun v => writePinCtle c.val v t2

/-! ## Link configuration -/

/-- The data blocks of an octet's TX lanes that a test picks are complete: they are recorded as sent (R275). -/
def laneSend (pick : LinkBlk → Bool) (o : Nat) (s : State) : State :=
  (List.range 4).foldl (fun t j =>
    let l := (t.octet o).blks.get j
    modOctet o (fun x => { x with blks := x.blks.set j (l.filter fun b => !pick b) })
      (emitAll ((l.filter pick).map fun b => .link b.t o j (dataBlock b)) t)) s

/-- Every data block of an octet's lanes recorded. -/
def laneFlush (o : Nat) (s : State) : State := laneSend (fun _ => true) o s

/-- An octet enters or leaves link configuration: its RX lanes begin to acquire, and its TX lanes send idle blocks wherever
nothing else is sent, of which the first is recorded (R252, R274, R275, R277). (DEDUCED, entry 53.) -/
def setLinkEn (o : Nat) (en : Bool) (s : State) : State :=
  let s1 := (List.range 8).foldl (fun t i => modPin (8 * o + i) (fun p =>
    let q := if en then { enterTracked t.now p with lchg := [(t.now, false)] } else { enterTracked t.now p with lchg := [] }
    { q with drv := 0, openIn := true, sentT := none }) (openBall t.now (8 * o + i) t)) (laneFlush o s)
  let s2 := modOctet o (fun x => { x with
    linkEn := en, linkReady := false, rxLol := if en then 0xF else 0, laneEvent := x.laneEvent || en, txFault := 0,
    faults := 0, rtts := [], mgmt := [], linkRate := 0, blks := [] }) s1
  if en then (List.range 4).foldl (fun t j => emit (.link t.now o j (ctrlBlock 0x33 0)) t) s2 else s2

/-- PIN_LINK_WRITE (R271, R283, R575). -/
def execPinLinkWrite (o : OctetId) (w : Wr) (s : State) : Res :=
  onBlock false s fun t =>
    let x := t.octet o.val
    if t.nOct ≤ o.val then t
    else
      let cur : W64 := BitVec.ofNat 64 (b2n x.linkEn + x.scale.toNat * 2)
      let v := rwMerge (fm 0 3) w cur
      if bit v 0 != x.linkEn && t.octOwned o.val then refusePin (8 * o.val) t
      else
        let t1 := modOctet o.val (fun y => { y with
          scale := BitVec.ofNat 2 (bits v 1 2), laneEvent := clr y.laneEvent (hitBits (fm 12 1) w) 12 }) t
        let t2 := if bit v 0 = x.linkEn then t1 else setLinkEn o.val (bit v 0) t1
        if bit v 0 then sendMgmt o.val 0 1 (bits v 1 2) t2 else t2

/-- LINK_MARK_ECHO: the round trip of a lane in grains; its play_delay is written (R277). (DEDUCED, entry 55.) -/
def execLinkMarkEcho (o : OctetId) (lane : Fin 4) (rtt : Nat) (s : State) : Res :=
  if (s.octet o.val).linkEn then
    .next (tryReady o.val (sendMgmt o.val lane.val 0 (131072 - (rtt - 65536) / 2)
      (modOctet o.val (fun x => { x with rtts := x.rtts.set lane.val (rtt + 1) }) s)))
  else .next s

/-- LINK_STATUS_BLOCK: TX-lane lock and the fault bits of the lane's logical pins (Table 5.8, R284). -/
def execLinkStatusBlock (o : OctetId) (lane : Fin 4) (txLocked : Bool) (faults : BitVec 2) (t : Grain) (s : State) :
    Res :=
  if (s.octet o.val).linkEn then
    .next (setLanes o.val (fun x => { x with
      txFault := setBit x.txFault lane.val !txLocked,
      faults := setBit (setBit x.faults (2 * lane.val) (bit faults 0)) (2 * lane.val + 1) (bit faults 1) }) (atGrain t s))
  else .next s

/-- The class that a result word carries (Table 5.9); none for no result. -/
def wordCls (w : W32) : Option Cls :=
  match bits w 19 2 with
  | 0 => some .between
  | 1 => some .low
  | 2 => some .high
  | _ => none

/-- A result word answers a compare: by its instant and span (R281). -/
def answers (w : W32) (r : CmpRes) : Bool :=
  (r.t % spanGr).toNat == bits w 0 19 && (r.t / spanGr % 16).toNat == bits w 23 4

/-- The first compare of a list that a test picks takes its answer; none where no compare was picked. -/
def answerCmps (pick : CmpRes → Bool) (a : Option Cls) : List CmpRes → Option (List CmpRes)
  | [] => none
  | r :: rs =>
    if r.sent && pick r then
      some ({ r with sent := false, cls := a, supp := a.isNone, judged := r.judged && a.isSome } :: rs)
    else (answerCmps pick a rs).map (r :: ·)

/-- The same in the pins of a vector. -/
def answerPins (c : Nat) (pick : CmpRes → Bool) (a : Option Cls) : List PinRes → Option (List PinRes)
  | [] => none
  | r :: rs =>
    match (if r.ch = c then answerCmps pick a r.cmps else none) with
    | some l => some ({ r with cmps := l } :: rs)
    | none => (answerPins c pick a rs).map (r :: ·)

/-- The same in what a site holds: a compare without result also makes a suspect range of one vector, cause 8,
where the channel had none open in that vector (R281, R298, R301). -/
def answerHeld (c : Nat) (pick : CmpRes → Bool) (a : Option Cls) : List Held → List Held
  | [] => []
  | .vec p ts u pr lm rs os cs :: l =>
    match answerPins c pick a rs with
    | some rs' =>
      let add := a.isNone && rs.all (fun r => r.ch != c || !r.ranged) && os.all fun e => e.1 != c
      .vec p ts u pr lm rs' (if add then os ++ [(c, 8, 0)] else os) (if add then cs ++ [(c, 8, 0)] else cs) :: l
    | none => .vec p ts u pr lm rs os cs :: answerHeld c pick a l
  | h :: l => h :: answerHeld c pick a l

/-- An answer for a channel's compare reaches its site; what no longer waits enters the log. -/
def answerSite (c : Nat) (pick : CmpRes → Bool) (a : Option Cls) (s : State) : State :=
  match s.sites.find? fun e => bit e.2.pinMap c && !e.2.held.isEmpty with
  | none => s
  | some (n, x) =>
    settle n (flush n x.held.length (modSite n (fun y => { y with held := answerHeld c pick a y.held }) s))

/-- LINK_RESULT_WORD (R281, Table 5.9). -/
def execLinkResultWord (o : OctetId) (lane : Fin 4) (slotB : Bool) (w : W32) (s : State) : Res :=
  if (s.octet o.val).linkEn && bit w 22 then
    .next (answerSite (8 * o.val + 2 * lane.val + b2n slotB) (answers w) (wordCls w) s)
  else .next s

/-- LINK_RESULT_TIMEOUT: no result 64 ns after the instant (R281). -/
def execLinkResultTimeout (c : Chan) (s : State) : Res :=
  .next (answerSite c.val (fun r => decide ((r.t + 262144) / (spanGr : Int) ≤ s.time.span)) none s)

/-! ## Eye scan (R266 to R270) -/

/-- The offset sampler of a channel is in use by an eye scan, or was in this span (R270). -/
def State.scanHeld (s : State) (c : Nat) : Bool := (s.pin c).scan.isSome || decide (s.time.span < (s.pin c).scanEnd)

/-- EYE_SCAN (R266). -/
def execEyeScan (k : CmdSlot) (s : State) : Res :=
  onCmd k 0x3A s fun d t =>
    let c := pay d 0 1
    let p := t.pin c
    if t.sys.state = .standby then t
    else if !t.dram.enabled || !(t.cdrOn c || p.loop == 1) || !p.locked || p.scan.isSome then
      complete k.val stPrecondition 0 t
    else
      begin_ k.val (modPin c (fun y => { y with scan := some {
        cmd := k.val, d := pay d 1 1, pMin := payS d 2, pStep := pay d 4 1,
        pCount := scanCount (payS d 2) (payS d 3) (pay d 4 1), vMin := payS d 5, vStep := pay d 7 1,
        vCount := scanCount (payS d 5) (payS d 6) (pay d 7 1), dest := pay d 8 8, unl := !y.locked } }) t)

/-- A result entry (Table 5.6): of the 2^d UI of the point, those in error, and what happened to the pin during it. -/
def scanEntry (z : Scan) (given : Nat) : Nat :=
  let errors := min given (2 ^ z.d)
  let ph := z.pMin + (z.pStep : Int) * ((z.done % z.pCount : Nat) : Int)
  let ve := z.vMin + (z.vStep : Int) * ((z.done / z.pCount : Nat) : Int)
  min errors 0xFFFFFFFF + (ph % 256).toNat * 2 ^ 32 + (ve % 256).toNat * 2 ^ 40 + b2n (decide (0xFFFFFFFF < errors)) * 2 ^ 48 +
    b2n z.unl * 2 ^ 49 + b2n z.moved * 2 ^ 50

/-- EYE_SCAN_POINT at its last UI: the offset sampler's decision was 1 and the data slicer's 0 in high UI, and the other
way round in low UI; phases run within a vertical offset (R268, R269). -/
def execEyeScanPoint (c : Chan) (high low : Nat) (t : Grain) (s : State) : Res :=
  match (s.pin c.val).scan with
  | none => .next s
  | some z =>
    let s1 := engineStore (z.dest + 8 * z.done) (leBytes 8 (scanEntry z (high + low))) (atGrain t s)
    if z.done + 1 < z.pCount * z.vCount then
      .next (modPin c.val (fun p => { p with scan := some { z with done := z.done + 1, unl := !p.locked, moved := false } }) s1)
    else .next (complete z.cmd stOK (z.done + 1)
      (modPin c.val (fun p => { p with scan := none, scanEnd := s.time.span + 1 }) s1))

end Sys2Proof.Machine
end

