-- ==== Sys2Proof/Machine/TimeBase.lean ====
section
/-!
DEFINITION. The time base: device time, the servo, steps and slews, PPS and REF_IN, the timestamp event ring
and the PTP port (R354 to R382, R465).
-/

namespace Sys2Proof.Machine

/-! ## Units and limits -/

/-- The limit of ρ, i and u: 200 ppm in units of 2⁻⁴⁸ (R360, R366). -/
def rateLim : Int := 56294995342

/-- sat of R366. -/
def satRate (v : Int) : Int := clampI (-rateLim) rateLim v

/-- TIME_LIMITS fields in grains; slew_gr at the nearer limit (Table 8.17). -/
def State.stepThr (s : State) : Int := 4096 * bits s.time.limits 0 24
@[inherit_doc State.stepThr] def State.jumpThr (s : State) : Int := 4096 * bits s.time.limits 24 24
@[inherit_doc State.stepThr] def State.holdS (s : State) : Nat := bits s.time.limits 48 8
@[inherit_doc State.stepThr] def State.slewGr (s : State) : Nat := clampN 1 5 (bits s.time.limits 56 3)

/-- The spans of hold_s seconds (R374). -/
def State.holdLimit (s : State) : Nat := s.holdS * 7812500

/-- Half of a value; where it is odd the spec states no rounding, and a free value decides (DESIGN CHOICE, entry 1). -/
def halfOf (v : Int) (s : State) : Int × State :=
  if v % 2 = 0 then (v / 2, s)
  else
    let d := drawFree s
    (v / 2 + ((Config.freeNat d.1 % 2 : Nat) : Int), d.2)

/-- Servo state codes (Table 8.3). -/
def servoCode : Servo → Nat
  | .free => 0
  | .acquire => 1
  | .locked => 2
  | .holdover => 3
  | .slew => 4

/-- The time base measures: outside Reset and Boot (Table 8.3), and outside Deep standby (R375). -/
def State.timeOn (s : State) : Bool :=
  match s.sys.state with
  | .reset | .boot | .deepStandby => false
  | _ => true

/-- A source steers the time base: in Bring-up the device is free-running (R63, Table 1.9). (DEDUCED, entry 126.) -/
def State.steered (s : State) : Bool := s.timeOn && !decide (s.sys.state = .bringUp)

/-! ## The timestamp event ring (R380, Table 8.6) -/

/-- An entry for the ring, when it is enabled. -/
def tsPut (kind msg seq : Nat) (time : Int) (value : Nat) (s : State) : State :=
  if bit s.time.tsRing 4 then
    let w := kind + msg * 2 ^ 8 + seq * 2 ^ 16 + (timeValue time s.time.epoch).toNat * 2 ^ 32 +
      s.stamp.toNat * 2 ^ 128 + s.cycle * 2 ^ 176 + value * 2 ^ 192
    modTime (fun x => { x with tsPend := x.tsPend ++ [{ bits := BitVec.ofNat 256 w, at_ := s.now }] }) s
  else s

/-- An entry for an event of the time base itself, at the device time now. -/
def tsNote (kind value : Nat) (s : State) : State := tsPut kind 0 0 (s.devTime s.now) value s

/-- TS_RING_ENTRY_DROP: an entry not written within 1 ms of its event (R380). -/
def execTsRingEntryDrop (s : State) : Res :=
  match s.time.tsPend with
  | [] => .next s
  | e :: rest =>
    if e.at_ + 4096000000 ≤ s.now then
      .next (modTime (fun x => { x with tsPend := rest, tsLost := satAdd 0xFFFF x.tsLost 1 }) s)
    else .next s

/-! ## Servo states (R368, R372) -/

/-- A slew ends, cut short or done (R380). -/
def endSlew (s : State) : State :=
  if s.time.slewLeft = 0 then s else tsNote 7 0 (modTime (fun x => { x with slewLeft := 0 }) s)

/-- The servo enters a state; cause 0 for none. A slew of SLEW does not outlast it (Table 8.3), and HOLDOVER entered
again goes on for R374. (DEDUCED, entry 127.) -/
def enterServo (v : Servo) (cause : Nat) (s0 : State) : State :=
  let old := servoCode s0.time.servo
  let s := if s0.time.servo = .slew ∧ v ≠ .slew then endSlew s0 else s0
  let again := decide (s.time.servo = .holdover) && decide (v = .holdover)
  let s1 := modTime (fun x => { x with
    servo := v, holdCause := BitVec.ofNat 3 cause, holdSpans := if again then x.holdSpans else 0,
    holdExpired := decide (v = .holdover) && (s.holdS == 0 || (again && x.holdExpired)),
    meas := none }) s
  if old = servoCode v then s1 else tsNote 5 (old + servoCode v * 2 ^ 8 + cause * 2 ^ 12) s1

/-- ACQUIRE, with the measurements taken so far and whether e1 may step (R369); FREE with src 0.
(DEDUCED, entry 77.) -/
def enterAcquire (n : Nat) (step : Bool) (s : State) : State :=
  if s.src = 0 then enterServo .free 0 s
  else enterServo .acquire 0 (modTime (fun x => { x with acqN := n, acqStep := step }) s)

/-- HOLDOVER with a cause. -/
def enterHold (cause : Nat) (s : State) : State := enterServo .holdover cause s

/-! ## Steps and slews (R356, R357, R370, R371) -/

/-- The time offset changes by a step: a change of more than −5 gr backward begins a new epoch (R356, R357). -/
def moveOffset (d : Int) (s : State) : State :=
  tsNote 4 (codeOf 64 d) (modTime (fun x => { x with
    offset := x.offset + d, epoch := if d < -5 then x.epoch + 1 else x.epoch }) s)

/-- HOLDOVER for a cause that no step ends: only a jump's ends so (Table 8.4). -/
def State.heldElse (s : State) : Bool := decide (s.time.servo = .holdover) && s.time.holdCause != 1

/-- A step that is due at this tick is applied, unless it is a backward one and sites run (R370, R371, R373). -/
def applyStep (s : State) : State :=
  match s.time.step with
  | none => s
  | some (v, sp, isSet, cmd) =>
    if s.time.span < sp then s
    else
      let d := if isSet then v - s.time.offset else v
      let s1 := modTime (fun x => { x with step := none }) s
      if d < 0 ∧ s.stepBlocked then completeOpt cmd stPrecondition 0 s1
      else
        let n := if decide (s.time.servo = .acquire) && !isSet then 1 else 0
        let s2 := moveOffset d (endSlew (modTime (fun x => { x with jump := none }) s1))
        completeOpt cmd stOK 0 (if s.heldElse && !isSet then s2 else enterAcquire n false s2)

/-- TIME_STEP_APPLY (R371). -/
def execTimeStepApply (s : State) : Res := .next (applyStep s)

/-- A step decided now, for the next span. -/
def decideStep (v : Int) (isSet : Bool) (cmd : Option Nat) (s : State) : State :=
  modTime (fun x => { x with step := some (v, x.span + 1, isSet, cmd) }) s

/-- A pending jump is resolved by the first case of R370 that applies, TIME_ADJUST aside. -/
def resolveJump (s : State) : State :=
  match s.time.jump with
  | none => s
  | some e =>
    if s.time.step.isSome then s
    else if e < 0 ∨ (bit s.time.cfg 6 ∧ ¬s.stepBlocked) then decideStep (-e) false none s
    else if bit s.time.cfg 5 then
      let s1 := endSlew (modTime (fun x => { x with jump := none }) s)
      tsNote 6 0 (modTime (fun x => { x with slewLeft := e }) (if s.heldElse then s1 else enterServo .slew 0 s1))
    else s

/-- A jump: held, flagged and raised, and resolved where R370 lets it be at once. -/
def newJump (hold : Bool) (e : Int) (s : State) : State :=
  let s1 := modTime (fun x => { x with jump := some e, timeJump := true }) s
  resolveJump (raiseIrq 6 (if hold then enterHold 1 s1 else s1))

/-- One span of a slew (R370, R393): the offset moves toward −e by at most its rate. -/
def slewStep (s : State) : State :=
  let left := s.time.slewLeft
  if left = 0 then s
  else
    let r := if s.time.servo = .slew then s.slewGr else 5
    let m := clampI (-r) r left
    let s1 := modTime (fun x => { x with offset := x.offset - m, slewLeft := left - m }) s
    if s.time.servo = .slew ∧ 2 * ((left - m).natAbs : Int) < s.jumpThr then
      enterServo .locked 0 (tsNote 7 0 (modTime (fun x => { x with slewLeft := 0 }) s1))
    else if left - m = 0 then tsNote 7 0 s1 else s1

/-! ## Measurements (R366 to R372) -/

/-- A measurement accepted for the next evaluation. -/
def acceptMeas (e : Int) (s : State) : State := modTime (fun x => { x with meas := some (e, s.now) }) s

/-- A measurement in ACQUIRE (R369). (DEDUCED, entry 77.) -/
def acquireMeas (e : Int) (s : State) : State :=
  let x := s.time
  if x.jump.isSome || x.step.isSome then s
  else
    match x.acqN with
    | 0 =>
      if x.acqStep && decide (s.stepThr ≤ (e.natAbs : Int)) then resolveJump (modTime (fun y => { y with jump := some e }) s)
      else modTime (fun y => { y with acqN := 1, lastT := s.now }) s
    | 1 => modTime (fun y => { y with acqN := 2, acqE := e, acqT := s.now, lastT := s.now }) s
    | _ =>
      let i := satRate ((-(e - x.acqE) * 2 ^ 48).tdiv ((s.now : Int) - x.acqT))
      enterServo .locked 0 (modTime (fun y => { y with integ := i, u := i, lastT := s.now }) s)

/-- A measurement of the source (R366 to R372). -/
def measure (e : Int) (s : State) : State :=
  let s1 := modTime (fun x => { x with lastE := e }) s
  if !s.steered then s1
  else
    let big := decide (s.jumpThr ≤ (e.natAbs : Int))
    match s.time.servo with
    | .free | .slew => s1
    | .acquire => acquireMeas e s1
    | .locked => if big then newJump true e s1 else acceptMeas e s1
    | .holdover =>
      if s.time.holdCause = 3 then (if big then newJump true e s1 else enterAcquire 0 false s1) else s1

/-- i of R366 in units of 2⁻⁴⁸, rounded toward zero: e and τ in grains. -/
def nextInteg (ki : Nat) (i e tau : Int) : Int :=
  satRate ((i * ((secGr * secGr : Nat) : Int) - ki * 2 ^ 16 * tau * e).tdiv ((secGr * secGr : Nat) : Int))

/-- u of R366. -/
def nextU (kp : Nat) (i e : Int) : Int := satRate ((i * (secGr : Int) - kp * 2 ^ 24 * e).tdiv (secGr : Int))

/-- SERVO_UPDATE at cycle 0 of a span (R63, R360, R366, R367). -/
def servoTick (s : State) : State :=
  let s1 := match s.time.servo, (if s.steered then s.time.meas else none) with
    | .locked, some (e, t) =>
      let i := nextInteg (bits s.time.gain 32 32) s.time.integ e ((t : Int) - s.time.lastT)
      modTime (fun x => { x with integ := i, u := nextU (bits x.gain 0 32) i e, lastT := t, meas := none }) s
    | _, _ => modTime (fun x => { x with meas := none }) s
  modTime (fun x => { x with
    rho := satRate (toward (2 ^ 18) x.rho (if x.servo = .locked ∧ s.steered then x.u else x.integ)) }) s1

/-- A span of holdover counted; the traceable hold ends with hold_s (R374, Table 8.13). -/
def holdoverTick (s : State) : State :=
  if s.time.servo = .holdover then
    modTime (fun x =>
      let n := satAdd (2 ^ 32 - 1) x.holdSpans 1
      { x with holdSpans := n, holdExpired := x.holdExpired || decide (s.holdLimit ≤ n) }) s
  else s

/-- TRACEABLE_HOLD_EXPIRY (R374). -/
def execTraceableHoldExpiry (s : State) : Res :=
  if s.time.servo = .holdover ∧ s.holdLimit ≤ s.time.holdSpans then
    .next (modTime (fun x => { x with holdExpired := true }) s)
  else .next s

/-- A new source takes effect (R365). -/
def sourceTick (s : State) : State :=
  match s.time.srcNext with
  | none => s
  | some v =>
    enterAcquire 0 true (endSlew (modTime (fun x => { x with
      srcNext := none, cfg := setBits x.cfg 0 2 v.toNat, jump := none }) s))

/-- PPS_OUT is driven: enabled, and traceable or allowed without (R364). -/
def State.ppsOn (s : State) : Bool := bit s.time.cfg 7 && (s.traceable || bit s.time.cfg 8)

/-- PPS_OUT brought up to this instant: the pulse ends, and the output is driven or released (R364).
(DESIGN CHOICE, entry 128.) -/
def ppsLevel (s : State) : State :=
  let s1 := match s.time.ppsFall with
    | some t => if t ≤ s.now then emit (.ppsOut t (some false)) (modTime (fun x => { x with ppsFall := none }) s) else s
    | none => s
  if s1.time.ppsDriven = s1.ppsOn then s1
  else emit (.ppsOut s1.now (if s1.ppsOn then some false else none))
    (modTime (fun x => { x with ppsDriven := s1.ppsOn, ppsFall := none }) s1)

/-- The periods of REF_OUT in a span (R362). -/
def State.refPeriods (s : State) : Nat :=
  match bits s.time.cfg 3 2 with
  | 1 => 20
  | 2 => 16
  | _ => 0

/-- REF_OUT over the span that begins (R362). -/
def refOutTick (s : State) : State := if s.refPeriods = 0 then s else emit (.refOut s.now s.refPeriods) s

/-- The time base at the tick. -/
def timeTick (s : State) : State :=
  refOutTick (ppsLevel (holdoverTick (slewStep (resolveJump (servoTick (sourceTick s))))))

/-- SOURCE_LOST (R372). (DESIGN CHOICE, entry 76.) -/
def execSourceLost (s : State) : Res :=
  if s.src ≠ 0 ∧ (s.time.servo = .acquire ∨ s.time.servo = .locked ∨ s.time.servo = .slew) then
    .next (enterHold 3 (endSlew (modTime (fun x => { x with ptp := { x.ptp with parent := none } }) s)))
  else .next s

/-! ## TIME_SET and TIME_ADJUST (R371, R373, R465) -/

/-- TIME_SET: engine 93 has no other step pending. -/
def execTimeSet (k : CmdSlot) (s : State) : Res :=
  onCmd k 0x40 s fun d t =>
    if t.time.step.isSome then t
    else if t.src = 3 then complete k.val stPrecondition 0 t
    else begin_ k.val (decideStep ((timeGr (pay d 0 12) : Int) - ((t.time.span + 1) * spanGr : Nat)) true (some k.val) t)

/-- TIME_ADJUST (R370, R382, R394, R465). -/
def execTimeAdjust (k : CmdSlot) (s : State) : Res :=
  onCmd k 0x41 s fun d t =>
    match pay d 0 1 with
    | 1 =>
      if t.time.step.isSome then t
      else
        match t.time.jump with
        | some e => begin_ k.val (decideStep (-e) false (some k.val) t)
        | none => complete k.val stPrecondition 0 t
    | 2 =>
      if t.time.servo = .holdover ∧ t.time.holdCause = 2 then
        complete k.val stOK 0 (enterAcquire 0 false
          (modTime (fun x => { x with ptp := { x.ptp with delays := [], fresh := false } }) t))
      else complete k.val stPrecondition 0 t
    | _ =>
      if t.time.servo = .holdover ∧ t.time.holdCause = 4 then complete k.val stOK 0 (enterAcquire 0 false t)
      else complete k.val stPrecondition 0 t

/-! ## Registers with rows of their own -/

/-- RW bits of TIME_CFG besides src. -/
def timeCfgRw : W64 := fm 2 7 ||| fm 16 32 ||| fm 48 9

/-- A source that a device may take (R365): 3 for a joined device that is not the master, else 0 to 2. -/
def State.srcOk (s : State) (v : Nat) : Bool :=
  if v = 3 then s.halso.joined && !s.isMaster else s.isMaster || !s.halso.joined

/-- TIME_CFG as software reads it: src as last written. -/
def State.timeCfg (s : State) : W64 := s.time.srcNext.elim s.time.cfg fun v => setBits s.time.cfg 0 2 v.toNat

/-- TIME_CFG_WRITE (R365, R399, R575, R577). -/
def execTimeCfgWrite (w : Wr) (s : State) : Res :=
  onBlock true s fun t =>
    let cur := t.timeCfg
    let v := rwMerge (timeCfgRw ||| fm 0 2) w cur
    let newSrc := bits v 0 2 != bits cur 0 2
    if bits v 3 2 == 3 || decide (bits v 48 9 < 1) || decide (500 < bits v 48 9) ||
        ((newSrc || bit v 2 != bit cur 2) && t.anyRunning) || (newSrc && !t.srcOk (bits v 0 2)) then
      modTime (fun x => { x with refused := true }) t
    else modTime (fun x => { x with
      cfg := setBits v 0 2 (bits x.cfg 0 2),
      srcNext := if newSrc then (if bits v 0 2 = bits x.cfg 0 2 then none else some (BitVec.ofNat 2 (bits v 0 2)))
        else x.srcNext }) t

/-- TIME_PTP_ASYM_WRITE: a write of asym ends a hold of cause 2, and d̄ restarts (R382). -/
def execTimePtpAsymWrite (w : Wr) (s : State) : Res :=
  onBlock true s fun t =>
    let t1 := modTime (fun x => { x with
      ptpAsym := BitVec.ofNat 40 (rwMerge (fm 0 40) w (BitVec.ofNat 64 x.ptpAsym.toNat)).toNat }) t
    if w.lo ∧ t.time.servo = .holdover ∧ t.time.holdCause = 2 then
      enterAcquire 0 false (modTime (fun x => { x with ptp := { x.ptp with delays := [], fresh := false } }) t1)
    else t1

/-- TIME_NOW_READ: the device time and the span counter latched (R359). -/
def execTimeNowRead (t : Grain) (s : State) : Res :=
  onBlock true (atGrain t s) fun u =>
    let v := timeValue (u.devTime u.now) u.time.epoch
    modTime (fun x => { x with
      nowHi := BitVec.ofNat 32 (v.toNat / 2 ^ 64), nowSpan := BitVec.ofNat 64 x.span }) u

/-! ## PPS and REF_IN (R361 to R364) -/

/-- PPS_IN_EDGE (R363). -/
def execPpsInEdge (t : Grain) (s : State) : Res :=
  if s.sys.state = .reset then .next s
  else
    let s1 := atGrain t s
    let ts := s1.devTime s1.now - sbits s.time.cfg 16 16
    let x := ts % (secGr : Int)
    let s2 := tsPut 3 0 0 ts 0 s1
    .next (if s.src = 1 then measure (if 2 * x < (secGr : Int) then x else x - (secGr : Int)) s2 else s2)

/-- Grains of pps_out_ms. -/
def State.ppsWidth (s : State) : Nat := bits s.time.cfg 48 9 * 4096000000

/-- PPS_OUT_EDGE: at each whole second of device time, earlier by pps_out_delay, PPS_OUT rises for pps_out_ms; given at
the end of the pulse, PPS_OUT falls (R364). (DESIGN CHOICE, entry 128.) -/
def execPpsOutEdge (t : Grain) (s : State) : Res :=
  let s1 := ppsLevel (atGrain t s)
  let whole := (s1.devTime s1.now + sbits s.time.cfg 32 16) % (secGr : Int) == 0
  let near := s.time.lastPps != 0 && decide (2 * (s1.now + 1 - s.time.lastPps) < secGr)
  if s1.ppsOn && whole && !near then
    .next (emit (.ppsOut s1.now (some true)) (modTime (fun x => { x with
      lastPps := s1.now + 1, ppsFall := some (s1.now + s1.ppsWidth) }) s1))
  else .next s1

/-- REF_LOST (R361); in Reset no flag is raised. -/
def execRefLost (s : State) : Res :=
  if s.sys.state = .reset then .next (modTime (fun x => { x with refPresent := false, refLostNow := true }) s)
  else if s.time.refPresent then
    .next (raiseIrq 9 (modTime (fun x => { x with refPresent := false, refLostNow := true, refLost := true, refT := s.now + 1 }) s))
  else .next s

/-- Boot begins from Reset, once power-on reset has ended, RESET_N is high, the rails are good and REF_IN is
present (Table 1.7, R503, R561). -/
def tryBoot (s : State) : State :=
  if s.sys.state = .reset ∧ ¬s.sys.por ∧ ¬s.sys.resetN ∧ s.sys.railsGood ∧ s.time.refPresent then enterState .boot s else s

/-- REF_IN_RETURN (R361); a device that waits for it in Reset begins Boot (R561). -/
def execRefInReturn (s : State) : Res :=
  .next (tryBoot (modTime (fun x => { x with
    refPresent := true, refLostNow := false, refT := if s.time.refLostNow then s.now + 1 else x.refT }) s))

/-! ## PTP (R376 to R382) -/

/-- TIME_PTP_CFG fields. -/
def State.ptpRole (s : State) : Nat := bits s.time.ptpCfg 0 2
@[inherit_doc State.ptpRole] def State.ptpP2p (s : State) : Bool := bit s.time.ptpCfg 2

/-- The port is up: the role is on and the device's state lets the port run (R375). -/
def State.ptpOn (s : State) : Bool := s.timeOn && s.ptpRole != 0

/-- The order of two Announce data sets of different grandmasters (IEEE 1588 data set comparison). -/
def annRank (a : Announce) : List Nat := [a.priority1, a.clockClass, a.accuracy, a.variance, a.priority2, a.identity]

/-- A list before another, number by number. -/
def lexLt : List Nat → List Nat → Bool
  | a :: as, b :: bs => decide (a < b) || (a == b && lexLt as bs)
  | _, _ => false

/-- An Announce is better than another: by rank, and of one grandmaster by the fewer steps. -/
def annBetter (a b : Announce) : Bool :=
  if a.identity = b.identity then decide (a.steps < b.steps) else lexLt (annRank a) (annRank b)

/-- The device's own data set (PRESUMED: the default values of IEEE 1588 for an ordinary clock). -/
def State.ownClock (s : State) : Announce :=
  { priority1 := bits s.time.ptpCfg 24 8, clockClass := 248, accuracy := 0xFE, variance := 0xFFFF,
    priority2 := bits s.time.ptpCfg 32 8, identity := Config.clockIdentity, steps := 0 }

/-- The port is a slave: slave-only with a master heard, or BMCA with a better one (Table 8.5). -/
def State.ptpSlave (s : State) : Bool :=
  match s.time.ptp.parent with
  | none => false
  | some p => s.ptpOn && (s.ptpRole == 1 || annBetter p s.ownClock)

/-- The port is a master: BMCA found no better clock (Table 8.5). -/
def State.ptpMaster (s : State) : Bool := s.ptpOn && s.ptpRole == 2 && !s.ptpSlave

/-- domainNumber of the port. -/
def State.ptpDomain (s : State) : Nat := bits s.time.ptpCfg 5 7

/-- The port sends a message that carries a timestamp (R376). -/
def sendPtp (msg seq : Nat) (stamp : Int) (s : State) : State :=
  emit (.ptp msg (bit s.time.ptpCfg 3) s.ptpDomain seq stamp) s

/-- The PTP part changed. -/
def modPtp (f : Ptp → Ptp) (s : State) : State := modTime (fun x => { x with ptp := f x.ptp }) s

/-- A measurement with this path delay is asymmetry suspect (R381). -/
def State.asymSuspect (s : State) (o m : Int) : Bool :=
  let l := s.time.ptp.delays
  let n : Int := l.length
  let d := ((m * n - l.foldl (· + ·) 0).natAbs : Int)
  !l.isEmpty && decide (4096 * (bits s.time.ptpAsym 32 8 : Int) * n < d) &&
  (match s.time.ptp.lastOff with
    | some p => decide (d < 2 * n * ((o - p).natAbs : Int))
    | none => false)

/-- A completed exchange: offsetFromMaster and meanPathDelay (R378); on the time master a suspect one is not applied, on
another device it sets status only (R381, R382). (PRESUMED, entry 74.) -/
def ptpMeasure (o m : Int) (s : State) : State :=
  let bad := s.asymSuspect o m
  let s0 := if bad then modTime (fun x => { x with asymSuspect := true }) s else s
  if bad && s.isMaster then enterHold 2 (raiseIrq 7 (modPtp (fun p => { p with fresh := false }) s0))
  else
    let s1 := modPtp (fun p => { p with
      delays := if p.fresh then (m :: p.delays).take 8 else p.delays, fresh := false, lastOff := some o }) s0
    if s.src = 2 then measure o s1 else s1

/-- A Sync and a path delay are at hand: the exchange is complete. (DEDUCED, entry 75.) -/
def ptpTry (s : State) : State :=
  match s.time.ptp.t12, s.time.ptp.mpd with
  | some (t1, t2), some m =>
    ptpMeasure (t2 - t1 - m - sbits s.time.ptpAsym 0 32) m (modPtp (fun p => { p with t12 := none }) s)
  | _, _ => s

/-- A path delay twice over is measured (R378). (PRESUMED, entry 74.) -/
def ptpDelay (twice : Int) (s : State) : State :=
  let h := halfOf twice s
  modPtp (fun p => { p with mpd := some h.1, fresh := true }) h.2

/-- A transmit timestamp enters its queue; one that finds it full is dropped (R379). -/
def txStamp (seq : BitVec 16) (msg : Nat) (t : Int) (keep : Bool) (s : State) : State :=
  if 16 ≤ s.time.ptp.txq.length then raiseIrq 8 (modTime (fun x => { x with txTsOvf := true }) s)
  else if keep then modPtp (fun p => { p with txq := p.txq ++ [(seq, msg, t)] }) s
  else s

/-- A transmit timestamp taken from its queue. -/
def takeTx (seq : BitVec 16) (msg : Nat) (s : State) : Option Int × State :=
  match s.time.ptp.txq.find? fun e => e.1 == seq && e.2.1 == msg with
  | some e => (some e.2.2, modPtp (fun p => { p with txq := p.txq.filter fun z => !(z.1 == seq && z.2.1 == msg) }) s)
  | none => (none, s)

/-- A two-step message leaves with its transmit timestamp in the queue; the Follow_Up that takes it goes with it, unless
the queue was full (R379). -/
def sendTwoStep (msg follow : Nat) (seq : BitVec 16) (receipt tx : Int) (s : State) : State :=
  let s1 := txStamp seq msg tx false (sendPtp msg seq.toNat receipt s)
  if 16 ≤ s.time.ptp.txq.length then s1 else sendPtp follow seq.toNat tx s1

/-- The t2 of a Sync and its origin, with its corrections: kept until the path delay needs it. -/
def syncDone (origin t2 : Int) (s : State) : State := ptpTry (modPtp (fun p => { p with t12 := some (origin, t2), lastSync := some (origin, t2), sync := none }) s)

/-- The delay exchange of a Pdelay_Resp is complete: receipt and origin of the responder, if it was two-step. -/
def pdelayDone (t1 t4 turn corr : Int) (s : State) : State := ptpTry (ptpDelay (t4 - t1 - turn - corr) s)

/-- An event message that the port receives in its own domain (R376 to R381). (DEDUCED, entry 129.) -/
def ptpReceive (m : PtpEvent) (rx : Int) (s : State) : State :=
  match m with
  | .syncRx seq origin corr =>
    if !s.ptpSlave then s
    else
      match origin with
      | some o => syncDone (o + corr) rx s
      | none => modPtp (fun p => { p with sync := some (seq, rx, corr) }) s
  | .pdelayRespRx seq receipt twoStep corr =>
    if !s.ptpP2p then s
    else
      let q := takeTx seq 2 s
      match q.1 with
      | none => q.2
      | some t1 =>
        if twoStep then modPtp (fun p => { p with pd := some (seq, t1, receipt, rx, corr) }) q.2
        else pdelayDone t1 rx 0 corr q.2
  | .delayReqRx seq => if s.ptpMaster && !s.ptpP2p then sendPtp 9 seq.toNat rx s else s
  | .pdelayReqRx seq => if s.ptpP2p then modPtp (fun p => { p with preq := some (seq, rx) }) s else s
  | _ => s

/-- An event message that the port sends: it leaves at its timestamp, if the port's role and delay mechanism have it sent
(R376 to R379). (DEDUCED, entry 129.) -/
def ptpTransmit (m : PtpEvent) (tx : Int) (s : State) : State :=
  match m with
  | .syncTx seq => if s.ptpMaster then sendTwoStep 0 8 seq 0 tx (tsPut 1 0 seq.toNat tx 0 s) else s
  | .delayReqTx seq =>
    if s.ptpSlave && !s.ptpP2p then txStamp seq 1 tx true (sendPtp 1 seq.toNat 0 (tsPut 1 1 seq.toNat tx 0 s)) else s
  | .pdelayReqTx seq =>
    if s.ptpP2p then txStamp seq 2 tx true (sendPtp 2 seq.toNat 0 (tsPut 1 2 seq.toNat tx 0 s)) else s
  | .pdelayRespTx seq =>
    match s.time.ptp.preq with
    | some (q, rx) =>
      if s.ptpP2p && q == seq then
        sendTwoStep 3 0xA seq rx tx (tsPut 1 3 seq.toNat tx 0 (modPtp (fun p => { p with preq := none }) s))
      else s
    | none => s
  | _ => s

/-- The messageType and sequenceId of an event message received; none for one sent. -/
def eventKey : PtpEvent → Option (Nat × Nat)
  | .syncRx seq _ _ => some (0, seq.toNat)
  | .delayReqRx seq => some (1, seq.toNat)
  | .pdelayReqRx seq => some (2, seq.toNat)
  | .pdelayRespRx seq _ _ _ => some (3, seq.toNat)
  | _ => none

/-- PTP_EVENT_MESSAGE at the instant of its PCS timestamp; one of another domain leaves its timestamp only (R376 to
R381). -/
def execPtpEventMessage (m : PtpEvent) (p : PtpAt) (s : State) : Res :=
  if !s.ptpOn then .next s
  else
    let s1 := atGrain p.t s
    let now := s1.devTime s1.now
    let rx := now - bits s.time.ptpLat 16 16
    .next (match eventKey m with
      | some k =>
        let s2 := tsPut 2 k.1 k.2 rx 0 s1
        if p.dom.toNat = s.ptpDomain then ptpReceive m rx s2 else s2
      | none => ptpTransmit m (now + bits s.time.ptpLat 0 16) s1)

/-- The delay of an E2E exchange twice over: t2 − t3 + t4 − t1 less its corrections (R378). -/
def State.e2eTwice (s : State) (t3 t4 corr : Int) : Option Int :=
  s.time.ptp.lastSync.map fun e => e.2 - t3 + t4 - e.1 - corr

/-- PTP_GENERAL_MESSAGE, sent or received in the port's domain (R376, R378). (DEDUCED, entry 129.) -/
def execPtpGeneralMessage (m : PtpGeneral) (p : PtpAt) (s : State) : Res :=
  if !s.ptpOn || p.dom.toNat ≠ s.ptpDomain then .next s
  else
    let s1 := atGrain p.t s
    .next (match m with
      | .announceTx seq =>
        if s.ptpMaster then emit (.ptpAnnounce (bit s.time.ptpCfg 3) s.ptpDomain seq.toNat s.ownClock) s1 else s1
      | .announce a => modPtp (fun p => { p with parent :=
          match p.parent with
          | none => some a
          | some q => if q.identity = a.identity ∨ annBetter a q then some a else some q }) s1
      | .followUp seq origin corr =>
        match s.time.ptp.sync with
        | some (q, t2, c) => if q = seq then syncDone (origin + c + corr) t2 s1 else s1
        | none => s1
      | .delayResp seq receipt corr =>
        let q := if s.ptpP2p then (none, s1) else takeTx seq 1 s1
        match q.1 with
        | none => s1
        | some t3 =>
          match s1.e2eTwice t3 receipt corr with
          | some v => ptpTry (ptpDelay v q.2)
          | none => q.2
      | .pdelayRespFollowUp seq origin corr =>
        match s.time.ptp.pd with
        | some (q, t1, receipt, t4, c) =>
          if q = seq ∧ s.ptpP2p then pdelayDone t1 t4 (origin - receipt) (c + corr) (modPtp (fun p => { p with pd := none }) s1)
          else s1
        | none => s1)

end Sys2Proof.Machine
end

