-- ==== Sys2Proof/Machine/Cal.lean ====
section
/-!
DEFINITION. Calibration: the steps and their windows, Calibrate, CAL_RUN, CAL_COMMIT, continuous
calibration in Ready, ageing and the rate ceiling (R400 to R422, R437 to R440).
-/

namespace Sys2Proof.Machine

/-! ## Units and requirements -/

/-- A channel that calibration serves: enabled, its octet not disabled (R411, R517). -/
def State.calChan (s : State) (c : Nat) : Bool := decide (c < s.nCh) && !bit s.sys.disabled (octOf c)

/-- An octet that calibration serves. -/
def State.calOct (s : State) (o : Nat) : Bool := decide (o < s.nOct) && !bit s.sys.disabled o

/-- The channels that calibration serves. -/
def State.calChans (s : State) : List Nat := (List.range 128).filter s.calChan

/-- The octets that calibration serves. -/
def State.calOcts (s : State) : List Nat := (List.range 16).filter s.calOct

/-- Steps whose units are channels (Table 9.2). (DEDUCED, entry 84.) -/
def chanStep (st : Nat) : Bool := [2, 3, 4, 5, 7, 8].contains st

/-- Steps whose units are octets (Table 9.2). -/
def octStep (st : Nat) : Bool := [6, 9, 0xD].contains st

/-- The engine that runs a step on a unit (Table 9.2). -/
def stepEngine (st u : Nat) : Nat :=
  if chanStep st then 89 + u / 32
  else if st = 6 ∨ st = 0xD then 89 + u / 4
  else if st = 1 then 94 else 93

/-- DRIVE_TIMING takes its loop form on a channel: loop 1 and no running site owns it (Table 9.3). -/
def State.loopForm (s : State) (c : Nat) : Bool := (s.pin c).loop == 1 && !s.ownedRunning c

/-- What CAL_RUN requires of a unit (Table 9.3). (DEDUCED, entry 86.) -/
def State.calReq (s : State) (st u : Nat) : Bool :=
  (if chanStep st then s.calChan u else if octStep st then s.calOct u else true) &&
  match st with
  | 2 => (s.pin u).loop == 1 || (s.pin u).loop == 2 || (s.pin u).openIn
  | 5 => s.loopForm u
  | 6 => (s.octet u).locked
  | 9 => !s.octOwned u
  | 0xC => !(s.gen u).running && (s.gen u).startSpan.isNone && s.calChan s.cal.ddsRef.toNat && s.loopForm s.cal.ddsRef.toNat
  | 0xD => (s.octet u).linkReady && (List.range 8).all fun i => !s.ownedRunning (8 * u + i)
  | _ => true

/-- A window opens on a unit: nothing has disturbed it yet, and the octet's temperature is what it is now (R402,
Table 9.1). -/
def openWindow (st u : Nat) (s : State) : State :=
  if chanStep st then
    let v := (s.cal.sensors.get (octOf u)).temp.toInt
    modPin u (fun p => { p with disturbed := false, temps := some (v, v) }) s
  else if st = 0xC then modPin s.cal.ddsRef.toNat (fun p => { p with refDist := false }) s
  else s

/-! ## Preconditions and their failures (R401, R402, Table 9.1) -/

/-- The spread of a list of readings. -/
def spread (l : List Int) : Int := l.foldl max (l.headD 0) - l.foldl min (l.headD 0)

/-- The UI PLL of an octet was unlocked in the last n spans (R401, code 3). -/
def State.octOff (s : State) (o n : Nat) : Bool :=
  offIn (s.octet o).chg (s.octet o).locked ((s.now : Int) - ((n * spanGr : Nat) : Int)) s.now

/-- Spans of a window in which the UI PLL of the unit's octet has to stay locked: 64 readings, one per span; 1 ms and 64
readings; 64 span marks, one in 64 spans (Table 9.2). (DEDUCED, entry 136.) -/
def lockSpans (st : Nat) : Nat := if st = 9 then 7813 + 64 else if st = 0xD then 4096 else 64

/-- The largest spread that a step admits; DAC_OFFSET's is read as that of DAC_GAIN (Table 9.2). (DEDUCED, entry 136.) -/
def spreadLimit (st : Nat) : Nat :=
  match st with
  | 6 | 0xC => 8
  | 9 => 4
  | 0xD => 16
  | _ => 3

/-- REF_IN was absent at some instant of the last 1 s (R401, code 9). -/
def State.refGone (s : State) : Bool := s.time.refLostNow || (s.time.refT != 0 && decide (s.now < s.time.refT + 7812500 * spanGr))

/-- The octet's sensor moved by more than 2 °C in the window of a channel (code 7). -/
def Pin.warmed (p : Pin) : Bool := p.temps.elim false fun e => decide (16 < e.2 - e.1)

/-- State changed in the window, or a unit that CAL_RUN names is no longer in the state that Table 9.3 requires
(R402, code 6). -/
def State.unitMoved (s : State) (r : StepIn) : Bool :=
  let st := r.step.toNat
  (decide (2 ≤ st ∧ st ≤ 5) && (s.pin r.unit).disturbed) ||
  (st == 0xC && ((s.pin s.cal.ddsRef.toNat).refDist || !s.calReq 0xC r.unit)) ||
  (decide (s.cal.mode = .single) && !r.live && !s.calReq st r.unit)

/-- The preconditions of a step over its window, by code, and whether each failed (Tables 9.1, 9.2). -/
def State.preFails (s : State) (r : StepIn) : List (Nat × Bool) :=
  let st := r.step.toNat
  let timing := st == 4 || st == 5
  [(3, [6, 9, 0xD].contains st && s.octOff r.unit (lockSpans st)),
   (4, timing && decide (r.rise < 4096 ∨ r.fall < 4096)),
   (5, if st = 6 then decide (8 < spread r.vals)
       else [1, 2, 3, 9, 0xC, 0xD].contains st && decide (spreadLimit st < r.spread)),
   (6, s.unitMoved r),
   (7, timing && (s.pin r.unit).warmed),
   (8, if st = 1 then decide (8 < (r.vals.getD 0 0).natAbs) else (st == 2 || st == 3) && r.bad),
   (9, st == 0xB && s.refGone),
   (10, st == 0xA && r.bad)]

/-- The precondition code of a window that has ended, 0 when all held; the lowest where several failed (R401).
(DESIGN CHOICE, entry 141.) -/
def State.calPre (s : State) (r : StepIn) : Nat :=
  (((s.preFails r).find? fun e => e.2).map Prod.fst).getD 0

/-- An event of the service engine that runs a step, 0 to 7 for 88 to 95 (Table 12.1); DFE and CTLE run in the
pin. -/
def stepEvent (code st u : Nat) (s : State) : State :=
  if st = 7 ∨ st = 8 then s else perfEvent code (stepEngine st u - 88) 1 s

/-- A precondition failure counted and recorded (R401, R413, Tables 9.9 and 9.15); cont marks a continuous
channel step. -/
def recordFail (st u pre : Nat) (cont : Bool) (s : State) : State :=
  let s0 := stepEvent 0x051 st u s
  let s1 :=
    if chanStep st then
      if u < s.nCh then
        modPin u (fun p => { p with
          lastStep := BitVec.ofNat 8 st, lastPre := BitVec.ofNat 4 pre, preFail := satAdd 0xFFFF p.preFail 1 }) s0
      else s0
    else modCal (fun c => { c with preFail := satAdd 0xFFFF c.preFail 1 }) s0
  if cont then s1
  else modCal (fun c => { c with
    failStep := BitVec.ofNat 8 st, failUnit := BitVec.ofNat 7 u, failPre := BitVec.ofNat 4 pre, failEvent := true }) s1

/-! ## Results (Table 9.2) -/

/-- A vernier target takes a value, held at its limits (R417, R418). -/
def putTarget (c : Nat) (drv : Bool) (v : Int) (s : State) : State :=
  modPin c (fun p =>
    let q := if p.tSpan = s.time.span + 1 then p
      else { p with pDrv := p.tDrv, pCmp := p.tCmp, tSpan := s.time.span + 1 }
    let w := clampI (-2048) 2047 v
    let q := { q with vernSat := q.vernSat || w != v }
    if drv then { q with tDrv := w } else { q with tCmp := w }) s

/-- The step of the live timing score: +1 for s > 1/8, −1 for s < −1/8 (R405). -/
def scoreStep (e l : Int) : Int :=
  if 8 * (e - l) > e + l then 1 else if 8 * (e - l) < -(e + l) then -1 else 0

/-- A deskew value in its field (R422, DESIGN CHOICE, entry 85). -/
def clampD (v : Int) : Int := fieldI (-16384) 16383 v

/-- OCTET_DRIFT applied to the channels of an octet (R407). -/
def applyDrift (o : Nat) (readings : List Int) (s : State) : State :=
  let m := medianI readings
  let s1 := match (s.octet o).baseline with
    | none => s
    | some b => (List.range 8).foldl (fun t i =>
        let c := 8 * o + i
        let p := t.pin c
        let t1 := putTarget c false (p.tCmp - (m - b)) t
        let t2 := if p.driveTimed then t1 else putTarget c true (p.tDrv - (m - b)) t1
        modPin c (fun q => { q with driveTimed := false }) t2) s
  modOctet o (fun x => { x with baseline := some m }) s1

/-- The readings of a drive window, E less L over their sum, move the vernier (R405), or the crossings set D and F (R406):
they are measured from the commanded instant, without D, V and F. (DEDUCED, entry 135.) -/
def driveResult (full live : Bool) (u : Nat) (a b : Int) (s : State) : State :=
  if live then modPin u (fun p => { p with driveTimed := true }) (putTarget u true ((s.pin u).tDrv + scoreStep a b) s)
  else
    let h := halfOf (a + b) s
    modPin u (fun p =>
      let q := if full then { p with tDrv := 0, pDrv := 0, vDrv := 0 } else p
      { q with dDrv := clampD (-h.1 - q.vDrv), fall := clampI (-128) 127 (a - b), driveTimed := true }) h.2

/-- The comparator's crossings against the driver's set D for compares (R406). (DEDUCED, entry 135.) -/
def compareResult (full : Bool) (u : Nat) (a b : Int) (s : State) : State :=
  let h := halfOf (a + b) s
  modPin u (fun p =>
    let q := if full then { p with tCmp := 0, pCmp := 0, vCmp := 0 } else p
    { q with dCmp := clampD (h.1 - q.vCmp) }) h.2

/-- DAC corrections written as targets, in their fields (R400, Table 5.19, DESIGN CHOICE, entry 85). -/
def putDac (c d : Nat) (gain off : Int) (s : State) : State :=
  modPin c (fun p => { p with dacs := p.dacs.mod d fun x =>
    { x with tGain := fieldI (-2048) 2047 gain, tOff := fieldI (-512) 511 off } }) s

/-- The result of a step written on a unit; full marks Calibrate (Table 9.2, R412). (DEDUCED, entry 89.) -/
def applyStepResult (full live : Bool) (st u : Nat) (vals : List Int) (s : State) : State :=
  let v (i : Nat) : Int := vals.getD i 0
  match st with
  | 1 => modCal (fun c => { c with convOff := v 0 }) s
  | 2 => (List.range 5).foldl (fun t d => putDac u d (v (2 * d)) (v (2 * d + 1)) t) s
  | 3 => (List.range 5).foldl (fun t d =>
      let x := (t.pin u).dacs.get d
      putDac u d x.tGain (x.tOff + v d) t) s
  | 4 => driveResult full live u (v 0) (v 1) s
  | 5 => compareResult full u (v 0) (v 1) s
  | 6 => if full then modOctet u (fun x => { x with baseline := some (medianI vals) }) s else applyDrift u vals s
  | 9 => modOctet u (fun x => { x with band := (v 0).toNat, trim := v 1 }) s
  | 0xA => restartRefresh (modDram (fun d => { d with
      activeRate := d.rate
      chans := (List.range 16).foldl (fun m n => m.mod n fun x => { x with trained := true }) d.chans }) s)
  | 0xB => modCal (fun c => { c with oscFreq := v 0 }) s
  | 0xC => modGen u (fun g => { g with skew := clampI (-2048) 2047 (g.skew - v 0) }) s
  | 0xD => (List.range 4).foldl (fun t j =>
      let h := halfOf ((t.octet u).asym.getD j 0) t
      [2 * j, 2 * j + 1].foldl (fun w i => modPin (8 * u + i) (fun p =>
        { p with dDrv := clampD (p.dDrv - h.1), dCmp := clampD (p.dCmp - h.1) }) w) h.2) s
  | _ => s

/-! ## Ageing and the rate ceiling (R437 to R440) -/

/-- d_o: the median of the last 16 readings; the factory baseline where there is none. -/
def Octet.dNow (x : Octet) : Int :=
  if x.readings.isEmpty then x.base0 else medianI (x.readings.map Int.ofNat)

/-- m_o (R438). -/
def Octet.mNow (x : Octet) : Int := x.margin0 - (x.dNow - x.base0)

/-- The computed ceiling C_o at a margin (R438). -/
def ceilingAt (cFab : Nat) (m : Int) : Nat :=
  if 0 ≤ m then cFab else 500 * (cFab * 10000 / (500 * (10000 - m).toNat))

/-- The largest margin below m at which C_o would be lower (R440), in closed form; a free value where its field has
none (DEDUCED, entry 88). -/
def nextMargin (cFab : Nat) (m : Int) : Int :=
  let v := ceilingAt cFab m / 500
  let x := min (m - 1) (min (-1) (10000 - ((20 * cFab / v : Nat) : Int) - 1))
  if v = 0 ∨ x < -32768 then Config.noLowerMargin cFab m else x

/-- AGEING_READING (R437 to R439). -/
def execAgeingReading (o : OctetId) (bp : Nat) (s : State) : Res :=
  if s.sys.state = .reset ∨ s.sys.state = .boot ∨ s.sys.state = .deepStandby ∨ s.nOct ≤ o.val then .next s
  else
    let s1 := modOctet o.val (fun x =>
      let y := { x with readings := (bp :: x.readings).take 16, nReadings := satAdd 0xFFFF x.nReadings 1 }
      { y with d := y.dNow.toNat, m := y.mNow }) s
    let x := s1.octet o.val
    .next (if s.sys.state = .ready then setCeiling o.val (min x.ceiling (ceilingAt x.cFab x.m)) s1 else s1)

/-! ## Calibrate (R412, R413, R420) -/

/-- PIN_CFG.loop of a channel set by the engines. -/
def setLoop (c v : Nat) (s : State) : State :=
  endFar (s.farPair c) (movePin c s.now (fun p => { p.disturb with cfg := setBits p.cfg 4 3 v }) s)

/-- CAL_CTRL names a free channel for DDS_SKEW (Table 9.3). -/
def State.ddsRefFree (s : State) : Bool :=
  s.cal.ddsRefEn && s.calChan s.cal.ddsRef.toNat && (s.ownerOf s.cal.ddsRef.toNat).isNone

/-- The windows of Calibrate, in order (R412). -/
def State.fullTodo (s : State) : List (Nat × Nat) :=
  [(1, 0)] ++ s.calOcts.map (fun o => (9, o)) ++ [(0xA, 0), (0xB, 0)] ++
  (if s.ddsRefFree then (List.range 8).map fun g => (0xC, g) else []) ++
  ([2, 3, 4, 5].flatMap fun st => s.calChans.map fun c => (st, c)) ++ s.calOcts.map (fun o => (6, o)) ++
  (s.calOcts.filter fun o => (s.octet o).linkEn).map fun o => (0xD, o)

/-- CALIBRATE_ENTRY: loops saved and set to 1, the sequence begins (R412). -/
def enterCalibrate (cmd : Option Nat) (s : State) : State :=
  let todo := s.fullTodo
  let cs := List.range s.nCh
  let saved := cs.foldl (fun m c => SMap.set m c (BitVec.ofNat 3 (s.pin c).loop)) []
  let s1 := (List.range 128).foldl (fun t c => openWindow 0xC 0 (openWindow 2 c t)) (cs.foldl (fun t c => setLoop c 1 t) s)
  enterState .calibrate (modCal (fun x => { x with mode := .full, cmd := cmd, todo := todo, savedLoop := saved }) s1)

/-- The saved loop paths restored. -/
def restoreLoops (s : State) : State :=
  modCal (fun x => { x with savedLoop := [] })
    ((List.range s.nCh).foldl (fun t c => setLoop c (t.cal.savedLoop.get c).toNat t) s)

/-- The run is over. -/
def calIdle (s : State) : State :=
  modCal (fun x => { x with mode := .none, cmd := none, todo := [], written := 0, refusedN := 0, lowUnit := 0, lowPre := 0 }) s

/-- The first drift evaluation after Calibrate sets the baseline (R407). (DEDUCED, entry 84.) -/
def clearBaselines (s : State) : State :=
  (List.range 16).foldl (fun t o => modOctet o (fun x => { x with baseline := none }) t) s

/-- Calibrate ends well: temperatures recorded, ceilings published, Ready (R412, R420, R439). -/
def calReady (s : State) : State :=
  let s1 := clearBaselines (s.calOcts.foldl (fun t o =>
    let x := t.octet o
    setCeiling o (ceilingAt x.cFab x.mNow) (modOctet o (fun y => { y with tCal := (t.cal.sensors.get o).temp }) t)) s)
  calIdle (completeOpt s.cal.cmd stOK 0 (enterState .ready s1))

/-- A mandatory step fails: back to Bring-up (R413, R420, R439; Table 1.9). The DRAM step leaves the rate of
Boot (R186). (DEDUCED, entry 88.) -/
def calBringUp (st u pre : Nat) (s : State) : State :=
  let s1 := if s.cal.todo.all (fun e => e.1 == 0xD) then s else restoreLoops s
  let s2 := if st = 0xA then
      restartRefresh (modDram (fun d => { d with activeRate := 0, chans := d.chans.mapAll fun n x =>
        { x with trained := d.rate == 0 && n != u } }) s1)
    else s1
  let s3 := clearBaselines ((List.range s.nOct).foldl (fun t o =>
    let x := t.octet o
    if x.ceiling = 0 then t else setCeiling o (min x.bootCeil 2000) t) s2)
  calIdle (completeOpt s.cal.cmd stPrecondition (st + u % 128 * 2 ^ 8 + pre * 2 ^ 16) (enterState .bringUp s3))

/-- Engine 93 runs the optional steps beside the channel steps (R412). -/
def sideStep (st : Nat) : Bool := st == 0xB || st == 0xC

/-- A window may end next. -/
def calDue (full : Bool) (todo : List (Nat × Nat)) (e : Nat × Nat) : Bool :=
  todo.contains e &&
  (todo.takeWhile fun b => b != e).all fun b =>
    full && (b.1 == e.1 || (sideStep b.1 && !sideStep e.1 && e.1 != 0xD))

/-- A window of Calibrate is over: loops are restored when only LINK is left, and Ready is reached when nothing
is. -/
def calProgress (e : Nat × Nat) (s : State) : State :=
  let rest := s.cal.todo.filter fun b => b != e
  let s1 := modCal (fun x => { x with todo := rest }) s
  let s2 := if e.1 != 0xD && rest.all (fun b => b.1 == 0xD) then restoreLoops s1 else s1
  if rest.isEmpty then calReady s2 else s2

/-- A step that failed in Calibrate: only an optional one lets it go on (R413). -/
def calFailed (e : Nat × Nat) (u pre : Nat) (s : State) : State :=
  let s1 := recordFail e.1 u pre false s
  if sideStep e.1 then calProgress e s1 else calBringUp e.1 u pre s1

/-! ## CAL_RUN of one step (R421) -/

/-- A unit is refused. -/
def calRefuse (u pre : Nat) (s : State) : State :=
  modCal (fun x => { x with
    refusedN := x.refusedN + 1, lowUnit := if x.refusedN = 0 then u else x.lowUnit,
    lowPre := if x.refusedN = 0 then BitVec.ofNat 4 pre else x.lowPre }) s

/-- The result of a CAL_RUN of one step, or of a CAL_COMMIT (R421, R422). -/
def calResult (written refused low pre : Nat) : Nat :=
  written % 256 + refused % 256 * 2 ^ 8 + low % 128 * 2 ^ 16 + pre % 16 * 2 ^ 24

/-- Units are taken in order: those that do not meet Table 9.3 are refused at their turn; the command completes
when none is left. (DEDUCED, entry 87.) -/
def calTurn : Nat → State → State
  | 0, s => s
  | f + 1, s =>
    match s.cal.todo with
    | [] =>
      let c := s.cal
      calIdle (completeOpt c.cmd (if c.refusedN = 0 then stOK else stPrecondition)
        (calResult c.written c.refusedN c.lowUnit c.lowPre.toNat) s)
    | (st, u) :: rest =>
      if s.calReq st u then openWindow st u s
      else calTurn f (modCal (fun x => { x with todo := rest }) (calRefuse u 6 (recordFail st u 6 false s)))

/-- The units that a CAL_RUN names (R421). (DEDUCED, entry 86.) -/
def calUnits (st : Nat) (map : Nat) : List Nat :=
  if st = 1 ∨ st = 0xB then [0]
  else
    let n := if chanStep st then 128 else if octStep st then 16 else 8
    (List.range n).filter fun i => map / 2 ^ i % 2 == 1

/-- The visit of a channel that a set of windows names ends: it resumes at the channel's next visit (R419). -/
def pauseVisits (todo : List (Nat × Nat)) (s : State) : State :=
  let hit (q : Nat) : Bool := todo.any fun e => chanStep e.1 && e.2 + 1 == s.cal.visitCh.get q
  modCal (fun x => { x with visitLeft := x.visitLeft.mapAll fun q l => if hit q then [] else l }) s

/-- A CAL_RUN begins, or is refused (R51, R420, R421). -/
def startRun (k : Nat) (s : State) : State :=
  let d := (s.cmd k).desc
  let st := pay d 0 1
  if s.sys.state ≠ .bringUp ∧ s.sys.state ≠ .ready then complete k stPrecondition 0 s
  else if st = 0 then
    if s.anyRunning then complete k stPrecondition 0 s else enterCalibrate (some k) s
  else
    let us := calUnits st (pay d 0x10 16)
    let todo := us.map fun u => (st, u)
    calTurn (us.length + 1) (modCal (fun x => { x with mode := .single, cmd := some k, todo := todo }) (pauseVisits todo s))

/-- CAL_RUN commands run one at a time, in dispatch order (R421). -/
def calNext : Nat → State → State
  | 0, s => s
  | f + 1, s =>
    match s.cal.waiting, s.cal.cmd with
    | k :: ks, none => calNext f (startRun k (modCal (fun x => { x with waiting := ks }) s))
    | _, _ => s

/-- CAL_RUN (R410, R420, R421, R455). (DEDUCED, entry 87.) -/
def execCalRun (k : CmdSlot) (s : State) : Res :=
  onCmd k 0x38 s fun d t =>
    let st := pay d 0 1
    if t.sys.state = .standby then t
    else if st = 7 ∨ st = 8 ∨ st = 0xA ∨ 0xE ≤ st then complete k.val stBad 0x10 t
    else
      let t1 := begin_ k.val (modCal (fun x => { x with waiting := x.waiting ++ [k.val] }) t)
      calNext (t1.cal.waiting.length) t1

/-! ## Continuous calibration (R415 to R419) -/

/-- A CAL_RUN of one step names a channel (R419). -/
def State.calNames (s : State) (c : Nat) : Bool :=
  match s.cal.cmd with
  | some k =>
    let d := (s.cmd k).desc
    chanStep (pay d 0 1) && pay d 0x10 16 / 2 ^ c % 2 == 1
  | none => false

/-- The continuous steps of a visit to a channel (Table 9.3). -/
def State.visitSteps (s : State) (c : Nat) : List Nat :=
  (if bit s.cal.cont 3 then [3] else []) ++
  if bit s.cal.cont 4 && (s.ownedRunning c || (s.pin c).loop == 1) then [4] else []

/-- The next channel of a pin engine, after the one visited last, that calibration serves. -/
def State.nextVisit (s : State) (q : Nat) : Option Nat :=
  let last := s.cal.visitCh.get q
  let i0 := if last = 0 then 0 else (last - 1) % 32 + 1
  ((List.range 32).map fun i => 32 * q + (i0 + i) % 32).find? s.calChan

/-- CAL_VISIT: the visit before is over, and the next begins 1,024 spans after it (R415, R419). -/
def execCalVisit (q : Fin 4) (s : State) : Res :=
  let last := s.cal.visitCh.get q.val
  if s.sys.state ≠ .ready ∨ (last ≠ 0 ∧ s.time.span < s.cal.visitAt.get q.val + 1024) then .next s
  else
    let s1 := if last = 0 then s
      else modPin (last - 1) (fun p => { p with visits := satAdd 0xFFFF p.visits 1 }) s
    match s1.nextVisit q.val with
    | none => .next s1
    | some c =>
      let steps := if s1.calNames c then [] else s1.visitSteps c
      let s2 := modCal (fun x => { x with
        visitCh := x.visitCh.set q.val (c + 1), visitAt := x.visitAt.set q.val s.time.span,
        visitLeft := x.visitLeft.set q.val steps }) s1
      .next (if steps.isEmpty then s2 else openWindow 3 c s2)

/-- A continuous step of the current visit of a channel ends (R401, R416, R419). -/
def visitEnd (r : StepIn) (s : State) : State :=
  let q := r.unit / 32
  let left := s.cal.visitLeft.get q
  let st := r.step.toNat
  if s.sys.state ≠ .ready ∨ s.cal.visitCh.get q ≠ r.unit + 1 ∨ ¬left.contains st ∨ s.calNames r.unit then s
  else
    let s1 := stepEvent 0x050 st r.unit
      (modCal (fun x => { x with visitLeft := x.visitLeft.set q (left.filter fun y => y != st) }) s)
    if s.calPre r ≠ 0 then recordFail st r.unit (s.calPre r) true s1
    else applyStepResult false true st r.unit r.vals s1

/-- A step that uses the offset sampler waits while an eye scan runs on the pin (R270, R402). -/
def State.scanWaits (s : State) (live : Bool) (st u : Nat) : Bool := st == 4 && live && s.scanHeld u

/-- CAL_STEP_END: the window of a step on a unit is over (R401, R410, R412, R413, R421). -/
def execCalStepEnd (r : StepIn) (s0 : State) : Res :=
  let st := r.step.toNat
  let due := s0.cal.mode ≠ .none && calDue (decide (s0.cal.mode = .full)) s0.cal.todo (st, if st = 0xA then 0 else r.unit)
  let s := if due then stepEvent 0x050 st r.unit s0 else s0
  let full := decide (s.cal.mode = .full)
  let e := (st, if st = 0xA then 0 else r.unit)
  let live := !full && !s.loopForm r.unit
  if s0.cal.revoked.get (stepEngine st r.unit) then .next s0
  else if due then
    if s.scanWaits live st r.unit then .next s0
    else
      let pre := s.calPre r
      if full then
        .next (let t := if pre ≠ 0 then calFailed e r.unit pre s
                 else calProgress e (openWindow st r.unit (applyStepResult true false st r.unit r.vals s))
               calNext t.cal.waiting.length t)
      else
        let t := if pre ≠ 0 then calRefuse r.unit pre (recordFail st r.unit pre false s)
          else modCal (fun x => { x with written := x.written + 1 }) (applyStepResult false live st r.unit r.vals s)
        let t1 := calTurn t.cal.todo.length (modCal (fun x => { x with todo := x.todo.drop 1 }) t)
        .next (calNext t1.cal.waiting.length t1)
  else if r.live then (if s.scanWaits true st r.unit then .next s else .next (visitEnd r s))
  else .next s

/-- OCTET_DRIFT_EVAL: every 64 spans in Ready (R407, R415, R416). -/
def execOctetDriftEval (o : OctetId) (t : Grain) (readings : List Int) (s : State) : Res :=
  if s.sys.state ≠ .ready ∨ ¬bit s.cal.cont 6 ∨ ¬s.calOct o.val then .next s
  else
    let s0 := atGrain t s
    let p := s0.calPre { step := 6, unit := o.val, live := true, vals := readings }
    let s1 := stepEvent 0x050 6 o.val s0
    if p ≠ 0 then .next (recordFail 6 o.val p false s1) else .next (applyDrift o.val readings s1)

/-- CONV_CHECK_PERIODIC: every 2²⁰ spans in Ready (R411). -/
def execConvCheckPeriodic (spread : Nat) (mean : Int) (s : State) : Res :=
  if s.sys.state ≠ .ready then .next s
  else
    let p := s.calPre { step := 1, unit := 0, live := true, spread := spread, vals := [mean] }
    let s1 := stepEvent 0x050 1 0 s
    if p ≠ 0 then .next (recordFail 1 0 p false s1) else .next (modCal (fun c => { c with convOff := mean }) s1)

/-- The calibration side of a revoked engine: its step writes nothing, and a CAL_RUN counts the unit as refused
with code 6 (Table 10.16). -/
def calRevoke (eng : Nat) (s : State) : State :=
  let s1 := if 89 ≤ eng ∧ eng ≤ 92 then modCal (fun x => { x with visitLeft := x.visitLeft.set (eng - 89) [] }) s else s
  let full := decide (s1.cal.mode = .full)
  match s1.cal.mode, s1.cal.todo.find? (fun e => stepEngine e.1 e.2 == eng && calDue full s1.cal.todo e) with
  | .full, some e =>
    let t := calFailed e e.2 6 s1
    calNext t.cal.waiting.length t
  | .single, some e =>
    let t := modCal (fun x => { x with todo := x.todo.drop 1 }) (calRefuse e.2 6 (recordFail e.1 e.2 6 false s1))
    let t1 := calTurn (t.cal.todo.length + 1) t
    calNext t1.cal.waiting.length t1
  | _, _ => s1

/-! ## CAL_COMMIT (R422) -/

/-- One of D and V of a channel folded, when the sum is in range. -/
def foldD (d v : Int) : Bool := decide (-16384 ≤ d + v) && decide (d + v ≤ 16383)

/-- A channel committed, and whether both sums were in range. -/
def commitPin (p : Pin) : Pin × Bool :=
  let a := foldD p.dDrv p.vDrv
  let b := foldD p.dCmp p.vCmp
  let p1 := if a then { p with dDrv := p.dDrv + p.vDrv, tDrv := p.tDrv - p.vDrv, pDrv := p.pDrv - p.vDrv, vDrv := 0 } else p
  let p2 := if b then { p1 with dCmp := p.dCmp + p.vCmp, tCmp := p.tCmp - p.vCmp, pCmp := p.pCmp - p.vCmp, vCmp := 0 } else p1
  ({ p2 with vernSat := p.vernSat && !(a && b) }, a && b)

/-- The channels of a bitmap committed: state, written, refused, lowest refused. -/
def commitAll (map : Nat) (s : State) : State × Nat × Nat × Nat :=
  ((List.range 128).filter fun c => map / 2 ^ c % 2 == 1).foldl (fun r c =>
    let t := r.1
    let q := commitPin (t.pin c)
    let low := if r.2.2.1 = 0 then c else r.2.2.2
    if t.nCh ≤ c || t.ownedRunning c then (t, r.2.1, r.2.2.1 + 1, low)
    else
      let t1 := modPin c (fun _ => q.1) t
      if q.2 then (t1, r.2.1 + 1, r.2.2) else (t1, r.2.1, r.2.2.1 + 1, low)) (s, 0, 0, 0)

/-- CAL_COMMIT at cycle 0 of the span after its dispatch (R422). -/
def execCalCommit (k : CmdSlot) (s : State) : Res :=
  onCmd k 0x39 s fun d t =>
    if t.time.span ≤ (t.cmd k.val).dspan then t
    else
      let r := commitAll (pay d 0x10 16) t
      complete k.val (if r.2.2.1 = 0 then stOK else stPrecondition)
        (calResult r.2.1 r.2.2.1 r.2.2.2 (if r.2.2.1 = 0 then 0 else 6)) r.1

end Sys2Proof.Machine
end

