-- ==== Sys2Proof/Machine/Halso.lean ====
section
/-!
DEFINITION. The Halso link: ports and topology, span marks, time ticks and the phase of a hop, joining and
losing, and the messages of barriers, triggers, MATCH and fail merge (R383 to R398, R116, R320, R321).
-/

namespace Sys2Proof.Machine

/-! ## Configuration and topology (R388 to R390) -/

/-- HALSO_CFG.rtt_thr. -/
def State.rttThr (s : State) : Nat := bits s.halso.cfg 16 16

/-- The link runs: enabled, in a state that keeps its ports up (R375). -/
def State.haOn (s : State) : Bool := s.haEn && s.timeOn

/-- The side of a port (R388). -/
def sideOf (p : Nat) : Nat := p % 2

/-- A side has a port whose lanes are locked. -/
def State.sideUp (s : State) (d : Nat) : Bool :=
  (s.halso.ports.get d).up || (s.haPair && (s.halso.ports.get (d + 2)).up)

/-- The upstream side as a number. -/
def State.upSide (s : State) : Nat := b2n s.halso.upstream

/-- A port on the upstream side of a device that follows a master (R388). -/
def State.isUp (s : State) (p : Nat) : Bool :=
  !s.isMaster && (decide (p < 2) || s.haPair) && sideOf p == s.upSide

/-- The side with fewer hops to the master; side 0 when equal; the other where only it is up (R393). -/
def State.bestSide (s : State) : Bool :=
  if s.haRing then
    let k := s.halso.position.toNat
    let one := decide (s.haN - k < k)
    if s.sideUp (b2n one) then one else if s.sideUp (b2n !one) then !one else one
  else false

/-- A ring with a side down (R390). -/
def State.ringBroken (s : State) : Bool := s.haRing && s.haEn && !(s.sideUp 0 && s.sideUp 1)

/-- HALSO_STATUS.max_hops (R390). -/
def State.maxHops (s : State) : Nat :=
  if s.haRing && !s.halso.ringBroken then ceilDiv (s.haN - 1) 2 else s.haN - 1

/-- A field of w bits extended to the nearest value to this device's span counter (R385). -/
def State.nearSpan (s : State) (w v : Nat) : Nat :=
  let m := 2 ^ w
  let d := (v + m - s.time.span % m) % m
  if d ≤ m / 2 then s.time.span + d else s.time.span + d - m

/-- The upstream side is the one with fewer hops to the master again; a change on a joined device is an upstream change
(R393, R394). -/
def chooseSide (s : State) : State :=
  if s.isMaster || s.bestSide == s.halso.upstream then s
  else
    let s1 := modHalso (fun h => { h with upstream := s.bestSide }) s
    if s.halso.joined then raiseIrq 11 (enterHold 4 (modHalso (fun h => { h with rttStep := true }) s1)) else s1

/-! ## Broadcasts passed on (R388, R390) -/

/-- A device's distance along side 1 to this device, in a domain whose positions hello has given. -/
def State.distFrom (s : State) (dev : Nat) : Nat :=
  let n := s.haN
  (s.halso.position.toNat + n - s.halso.pos.get dev % n) % n

/-- A broadcast of a device that came in on a side goes further: in a chain always; in an intact ring up to its reach
(R390). (DEDUCED, entry 81.) -/
def State.goesOn (s : State) (side dev : Nat) : Bool :=
  if s.haRing && !s.halso.ringBroken then
    if side = 0 then decide (s.distFrom dev < ceilDiv (s.haN - 1) 2)
    else decide ((s.haN - s.distFrom dev) % s.haN < (s.haN - 1) / 2)
  else true

/-- A class-0 broadcast passed on out of the other side (R390). -/
def passOn0 (p dev : Nat) (ws : List Nat) (s : State) : State :=
  if s.goesOn (sideOf p) dev then sendSide0 (1 - sideOf p) s.now ws s else s

/-- A class-2 broadcast passed on out of the other side (R390). -/
def passOn2 (p dev : Nat) (ws : List Nat) (s : State) : State :=
  if s.goesOn (sideOf p) dev then sendSide (1 - sideOf p) s.now 2 ws s else s

/-- The other port of the pair has received this class-0 message. -/
def State.hasFirst (s : State) (p w : Nat) : Bool :=
  s.haPair && s.halso.firsts.any fun e => e.1 == (p + 2) % 4 && e.2.1 == w

/-- A copy of a class-0 message on a port: the first copy of a pair is remembered, and the second takes that note away
(R388). (DESIGN CHOICE, entry 130.) -/
def noteCopy (p w : Nat) (s : State) : State :=
  if !s.haPair then s
  else if s.hasFirst p w then
    modHalso (fun h => { h with firsts := h.firsts.filter fun e => !(e.1 == (p + 2) % 4 && e.2.1 == w) }) s
  else modHalso (fun h => { h with firsts := (p, w, s.time.span) :: h.firsts }) s

/-- A class-0 broadcast received: of the copies of a pair the first is used; it is passed on, and acts (R388, R390). -/
def receive0 (p dev w : Nat) (act : State → State) (s : State) : State :=
  let s1 := noteCopy p w s
  if s.hasFirst p w then s1 else act (passOn0 p dev [w] s1)

/-! ## Hello (R389) -/

/-- The hello of a device (Table 8.7). -/
def helloMsg (h : Hello) : List Nat :=
  [0x50 + h.dev.toNat * 2 ^ 8,
   h.dev.toNat + b2n h.master * 2 ^ 4 + h.nM1.toNat * 2 ^ 5 + b2n h.ring * 2 ^ 9 + h.position.toNat * 2 ^ 10]

/-- This device's own hello. -/
def State.ownHello (s : State) : Hello :=
  { dev := BitVec.ofNat 4 s.dev, master := s.isMaster, nM1 := BitVec.ofNat 4 (s.haN - 1), ring := s.haRing,
    position := s.halso.position }

/-- This device's hello sent on both sides. (DEDUCED, entry 80.) -/
def sendHello (s : State) : State := if s.haOn then broadcast2 s.now (helloMsg s.ownHello) s else s

/-- HALSO_LANES_LOCKED: a port is up; hello goes out; a ring may be whole again, and the upstream side with it (R389,
R390, R393). -/
def execHalsoLanesLocked (p : PortId) (s : State) : Res :=
  if s.timeOn then
    let s1 := modPort p.val (fun x => { x with up := true, lanes := 3, nbr := none }) s
    let s2 := modHalso (fun h => { h with ringBroken := h.ringBroken && s1.ringBroken }) s1
    .next (sendHello (if s2.halso.joined then chooseSide s2 else s2))
  else .next s

/-- HALSO_LINK_DOWN: a port loses a lane (R390); on the upstream side of a joined device HALSO_UPSTREAM_LOST follows
(R397). -/
def execHalsoLinkDown (p : PortId) (lanes : BitVec 2) (s : State) : Res :=
  let s1 := modPort p.val (fun x => { x with
    up := false, lanes := if lanes = 3 then 0 else lanes, fwd := none, t3 := none, pair := none, nbr := none }) s
  .next (modHalso (fun h => { h with ringBroken := h.ringBroken || s1.ringBroken }) s1)

/-- A hello contradicts this device's configuration or one heard before (R389). -/
def State.helloConflict (s : State) (h : Hello) : Bool :=
  h.dev.toNat == s.dev || (h.master && s.isMaster) ||
  (h.master && s.halso.masterSeen && s.halso.masterDev != h.dev) || h.nM1.toNat + 1 != s.haN ||
  decide (s.haN < (bitList (setBit s.halso.present h.dev.toNat true)).length + 1)

/-- A hello tells a position: the master's, or that of a device that has one. -/
def placed (h : Hello) : Bool := h.master || h.position != 0

/-- The position that a neighbour's hello gives (R389): positions increase along side 1, from 0 at the master.
(DEDUCED, entry 80.) -/
def State.positionBy (s : State) (p : Nat) (h : Hello) : Nat :=
  let old := s.halso.position.toNat
  if s.isMaster then 0
  else if (s.halso.ports.get p).nbr.getD h.dev ≠ h.dev || !placed h then old
  else
    let v := if sideOf p = 0 then h.position.toNat + 1 else h.position.toNat + s.haN - 1
    if v % s.haN = 0 || (!s.haRing && s.haN ≤ v && sideOf p = 0) then old else v % s.haN

/-- What a hello without a conflict leaves: devices heard, their positions, the master, this device's position (R389). -/
def heardHello (p : Nat) (h : Hello) (s : State) : State :=
  let s1 := modPort p (fun x => { x with nbr := some (x.nbr.getD h.dev) }) s
  let s2 := modHalso (fun x =>
    let pr := setBit x.present h.dev.toNat true
    { x with
      present := pr, masterSeen := x.masterSeen || h.master,
      masterDev := if h.master then h.dev else x.masterDev,
      pos := if placed h then x.pos.set h.dev.toNat h.position.toNat else x.pos,
      position := BitVec.ofNat 4 (s.positionBy p h),
      helloDone := (bitList pr).length + 1 == s.haN && (x.masterSeen || h.master || s.isMaster) }) s1
  if s.halso.joined then s2 else chooseSide s2

/-- HALSO_HELLO: devices heard, positions, conflicts; a hello that tells something new goes on, and so does this device's
own when its position is new (R389, R390). (DEDUCED, entry 80.) -/
def execHalsoHello (p : PortId) (h : Hello) (s : State) : Res :=
  if !s.haOn then .next s
  else if s.helloConflict h then .next (raiseIrq 12 (modHalso (fun x => { x with conflict := true }) s))
  else
    let s1 := heardHello p.val h s
    let fresh := s1.halso.present != s.halso.present || s1.halso.pos != s.halso.pos
    let s2 := if fresh then sendSide (1 - sideOf p.val) s1.now 2 (helloMsg h) s1 else s1
    .next (if s1.halso.position = s.halso.position then s2 else sendHello s2)

/-- HALSO_SPAN_MARK: compared with the span counter on a joined device (R384); blocks with bad sync headers on the port
since the mark before it are counted (Table 8.24). (DESIGN CHOICE, entry 69.) -/
def execHalsoSpanMark (p : PortId) (m : MarkIn) (s : State) : Res :=
  if !s.haOn then .next s
  else
    let s1 := perfEvent 0x059 p.val m.bad.toNat (modPort p.val (fun x => { x with
      markAt := s.time.span + 1, blockErr := satAdd 0xFFFF x.blockErr m.bad.toNat }) s)
    .next (modHalso (fun h => { h with
      marks := h.marks || s.isUp p.val,
      spanSlip := h.spanSlip || (h.joined && m.counter != s.stamp) }) s1)

/-! ## Time ticks (R387, R393, R394) -/

/-- A servo offset sent toward the master (Table 8.7). -/
def sendOffset (e : Int) (s : State) : State :=
  sendSide s.upSide s.now 1
    [0x24 + s.dev * 2 ^ 8 + servoCode s.time.servo * 2 ^ 12 + b2n s.traceable * 2 ^ 15, codeOf 48 e] s

/-- The device time that a tick pair carries, against this device's: removed by a slew, or a pending jump
(R393). -/
def compareTime (m : Int) (at_ : Int) (s : State) : State :=
  let d := at_ + s.time.offset - m
  if s.time.jump.isSome || s.time.step.isSome || !s.steered then s
  else if (d.natAbs : Int) < s.jumpThr then
    if s.time.servo = .slew ∨ d = 0 then s
    else
      let s1 := modTime (fun x => { x with slewLeft := d }) s
      if s.time.slewLeft = 0 then tsNote 6 0 s1 else s1
  else newJump false d s

/-- A complete tick pair on the upstream side (R393, R394); a device that has not joined keeps its first (R396).
(DEDUCED, entry 78.) -/
def tickPair (p t1 t2 t3 t4 : Nat) (dev : Int) (s : State) : State :=
  let x := s.halso.ports.get p
  let rtt : Int := (t4 : Int) - t1 - ((t3 : Int) - t2)
  let h := halfOf (rtt + signedOf 16 x.asym.toNat) s
  let e := (t2 : Int) - t1 - h.1
  let s1 := modPort p (fun y => { y with
    rtt := rtt.toNat, lastRtt := some rtt.toNat,
    pair := if s.halso.joined then some (t1, t2, h.1, dev) else some (y.pair.getD (t1, t2, h.1, dev)) }) h.2
  if !s.halso.joined || s.src ≠ 3 then s1
  else
    let stepped := match x.lastRtt with
      | some r => decide ((s.rttThr : Int) < ((rtt - r).natAbs : Int))
      | none => false
    if stepped then
      raiseIrq 11 (enterHold 4 (modHalso (fun y => { y with rttStep := true }) s1))
    else compareTime dev ((t2 : Int) + h.1) (sendOffset e (measure e s1))

/-- A forward tick from the upstream side: it completes the pair begun by the one before it. -/
def forwardTick (p : Nat) (m : HalsoTick) (s : State) : State :=
  let x := s.halso.ports.get p
  let t2 := ((s.now : Int) - x.latRx).toNat
  let s1 := match x.fwd, x.t3 with
    | some (t1, u, dev), some t3 => tickPair p t1 u t3 m.got dev s
    | _, _ => s
  modHalso (fun h => { h with masterTraceable := m.traceable })
    (modPort p (fun y => { y with fwd := some (m.sent, t2, m.devTime), t3 := none }) s1)

/-- HALSO_TIME_TICK (R387, R393). (DESIGN CHOICE, entry 76.) -/
def execHalsoTimeTick (p : PortId) (m : HalsoTick) (t : Grain) (s : State) : Res :=
  if !s.haOn then .next s
  else
    let s1 := atGrain t s
    if m.ret then
      .next (modPort p.val (fun x => { x with lastGot := ((s1.now : Int) - x.latRx).toNat }) s1)
    else if s1.isUp p.val then .next (forwardTick p.val m s1)
    else .next s1

/-- A time tick as a message (Table 8.7). -/
def tickMsg (ret : Bool) (sent got : Nat) (s : State) : List Nat :=
  let v := (timeValue (s.devTime sent) s.time.epoch).toNat
  let hd := 0x22 + b2n ret * 2 ^ 8 + v / 2 ^ 64 % 2 ^ 28 * 2 ^ 9 + s.time.epoch.toNat * 2 ^ 37 +
    servoCode s.time.servo * 2 ^ 41 + b2n s.traceable * 2 ^ 44
  if ret then [hd, sent, got] else [hd, sent, got, v % 2 ^ 64]

/-- The span mark of a tick, on every port that is up (R384, Table 8.7). (DEDUCED, entry 112.) -/
def spanMark (s : State) : State :=
  if s.haOn then
    broadcast0 s.now [0x21 + s.stamp.toNat * 2 ^ 8 + b2n s.traceable * 2 ^ 56 + s.time.epoch.toNat * 2 ^ 57] s
  else s

/-- First copies of class-0 messages whose second copy has not come within a span are forgotten (DESIGN CHOICE, entry
130). -/
def copyTick (s : State) : State :=
  if s.halso.firsts.isEmpty then s
  else modHalso (fun h => { h with firsts := h.firsts.filter fun e => decide (s.time.span ≤ e.2.2 + 1) }) s

/-- A port carries domain traffic (Table 8.24, in_use). -/
def State.carries (s : State) (p : Nat) : Bool := (s.halso.ports.get p).up && s.haEn && (decide (p < 2) || s.haPair)

/-- HALSO_TIME_TICK_SEND in block slot 1, 2.56 ns after the tick: forward ticks away from the master in spans at
0 mod 64, the return tick in spans at 32 mod 64 (R387). (DEDUCED, entry 83.) -/
def halsoTick (s : State) : State :=
  if !s.haOn then s
  else
    let sent (x : HPort) : Nat := (((s.time.span * spanGr + 10485 : Nat) : Int) + x.latTx).toNat
    if s.time.span % 64 = 0 && s.halso.joined then
      (List.range 4).foldl (fun t p =>
        let x := t.halso.ports.get p
        if t.carries p && !t.isUp p then sendOn [p] (sent x) 1 (tickMsg false (sent x) x.lastGot t) t else t) s
    else if s.time.span % 64 = 32 then
      (List.range 4).foldl (fun t p =>
        let x := t.halso.ports.get p
        if t.carries p && t.isUp p then
          match x.fwd with
          | some (_, t2, _) =>
            modPort p (fun y => { y with t3 := some (sent x) }) (sendOn [p] (sent x) 1 (tickMsg true (sent x) t2 t) t)
          | none => t
        else t) s
    else s

/-- HALSO_CABLE_WRITE: a write for the receiving port ends a hold of cause 4 (R394). -/
def execHalsoCableWrite (p : PortId) (w : Wr) (s : State) : Res :=
  onBlock true s fun t =>
    let x := t.halso.ports.get p.val
    let v := rwMerge (fm 0 17) w (BitVec.ofNat 64 (x.asym.toNat + b2n x.valid * 2 ^ 16))
    let t1 := modPort p.val (fun y => { y with asym := BitVec.ofNat 16 (bits v 0 16), valid := bit v 16 }) t
    if w.lo && t.isUp p.val && decide (t.time.servo = .holdover) && t.time.holdCause == 4 then enterAcquire 0 false t1
    else t1

/-! ## Joining and losing (R396, R397) -/

/-- The join conditions but for idleness: forward ticks come from a neighbour that has joined, so a complete tick pair says
that the upstream neighbour has (R396). (DEDUCED, entry 131.) -/
def State.joinReady (s : State) : Bool :=
  s.haOn && !s.halso.joined && !s.halso.conflict && s.halso.helloDone &&
  (s.isMaster || (s.sideUp s.upSide && s.halso.marks &&
    (List.range 4).any fun p => s.isUp p && (s.halso.ports.get p).pair.isSome))

/-- Every site is idle and no schedule runs. -/
def State.quiet (s : State) : Bool := !s.anyRunning && s.plans.all fun p => !p.2.running

/-- A device that is not the master joins: running count, span counter and time offset as the first complete
tick pair gives them (R31, R396); device time that this sets back begins a new epoch (R356, R357).
(DEDUCED, entry 79.) -/
def joinDomain (s : State) : State :=
  match ((List.range 4).filterMap fun p => if s.isUp p then (s.halso.ports.get p).pair else none).head? with
  | none => s
  | some (t1, t2, d, dev) =>
    let now := ((s.now : Int) + ((t1 : Int) + d - t2)).toNat
    let off := dev - t1
    let back := decide ((now : Int) + off < s.devTime s.now - 5)
    let s1 := tsNote 4 (codeOf 64 (off - s.time.offset)) (modTime (fun x => { x with
      span := now / spanGr, grain := now % spanGr, offset := off, epoch := if back then x.epoch + 1 else x.epoch,
      cfg := setBits x.cfg 0 2 3, srcNext := none, jump := none, step := none, lastT := now }) (endSlew s))
    enterAcquire 0 false (modHalso (fun h => { h with
      joined := true, joinPending := false,
      ports := h.ports.mapAll fun _ y => { y with fwd := none, t3 := none, pair := none } }) s1)

/-- HALSO_JOIN (R396). -/
def execHalsoJoin (s : State) : Res :=
  if !s.joinReady then .next s
  else if s.isMaster then .next (modHalso (fun h => { h with joined := true, joinPending := false }) s)
  else if !s.quiet then .next (modHalso (fun h => { h with joinPending := true }) s)
  else .next (joinDomain s)

/-- The upstream side is lost: no port of it has both lanes locked, or none has had a span mark for 4 spans (R397). -/
def State.upLost (s : State) : Bool :=
  (s.sidePorts s.upSide).all fun p => decide ((s.halso.ports.get p).markAt + 4 ≤ s.time.span)

/-- HALSO_UPSTREAM_LOST: the other side takes over where it is up in a ring and offers a path to the master, which the
rest of the ring decides (R394, R397). -/
def execHalsoUpstreamLost (otherSide : Bool) (s : State) : Res :=
  if !s.haOn || s.isMaster || !s.upLost then .next s
  else if !s.halso.joined then .next (modHalso (fun h => { h with marks := false }) s)
  else
    let s1 := modHalso (fun h => { h with
      ringBroken := h.ringBroken || s.haRing,
      ports := h.ports.mapAll fun _ y => { y with fwd := none, t3 := none, pair := none, lastRtt := none } }) s
    if otherSide && s.haRing && s.sideUp (1 - s.upSide) then
      .next (raiseIrq 11 (enterHold 4 (modHalso (fun h => { h with upstream := !h.upstream, rttStep := true }) s1)))
    else
      .next (raiseIrq 10 (enterHold 5 (modHalso (fun h => { h with joined := false, lost := true, marks := false }) s1)))

/-! ## Messages (Table 8.7) -/

/-- HALSO_SERVO_OFFSET: recorded by the master, forwarded toward it by others (R390, Table 8.26). -/
def execHalsoServoOffset (_p : PortId) (dev : BitVec 4) (state : BitVec 3) (traceable : Bool) (e : BitVec 48)
    (s : State) : Res :=
  if !s.haOn then .next s
  else if s.isMaster then
    .next (modHalso (fun h => { h with
      peers := h.peers.set dev.toNat { e := e, state := state, traceable := traceable, at_ := s.time.span + 1 } }) s)
  else
    .next (sendSide s.upSide s.now 1
      [0x24 + dev.toNat * 2 ^ 8 + state.toNat * 2 ^ 12 + b2n traceable * 2 ^ 15, e.toNat] s)

/-- A barrier arrival reaches every group of a loaded plan's sites whose barrier entry names the sender (R124, R392).
(DEDUCED, entry 58.) -/
def armPlan (dev b span p : Nat) (s : State) : State :=
  match s.plan p with
  | none => s
  | some q =>
    (q.sites.filter fun n =>
      (s.site n).barValid b && bit ((s.site n).barDevices b) dev && (s.site n).leader n b == n).foldl (fun t n =>
        updateBarrier n b (modBarrier n b (fun z => { z with remote := z.remote.set dev (some span) }) t)) s

/-- HALSO_ARM (R124, R388, R390, R392). (DEDUCED, entry 58.) -/
def execHalsoArm (p : PortId) (dev : BitVec 4) (barrier : Fin 32) (span : BitVec 32) (s : State) : Res :=
  if !s.haOn then .next s
  else .next (receive0 p.val dev.toNat (armMsg dev.toNat barrier.val span.toNat) (fun u =>
    (List.range 8).foldl (fun t q => armPlan dev.toNat barrier.val (s.nearSpan 32 span.toNat) q t) u) s)

/-- A remote firing that meets a collecting or re-arming group, counted in CAP_TRIG_MISSED.remote and for the next record's
header (R320, Table 6.7). -/
def missRemote (m : Nat) (s : State) : State :=
  modGroup m (fun g => { g with missedAcc := g.missedAcc + 1 })
    (modUnit m (fun u => { u with remote := satAdd 0xFFFF u.remote 1 }) s)

/-- A remote firing at a group (R319 to R321): it triggers an armed group; one that meets a collecting or
re-arming group is counted, and listed where it maps to that group's trigger sample. (DEDUCED, entry 82.) -/
def remoteFiring (gid : BitVec 8) (dev t m : Nat) (s : State) : State :=
  let g := s.group m
  if g.gid ≠ gid || !bit g.devices dev || !g.recs then s
  else
    match g.st with
    | .armed => if g.armedFor t then trigger m t 0 (setBit 0 dev true) false s else
        if g.armedAt * spanGr ≤ t then missRemote m s else s
    | .collecting =>
      if g.shut.elim false (·.2.2) then s
      else if s.joins m t then
        modGroup m (fun y => { y with trig := y.trig.map fun z => { z with remoteMap := setBit z.remoteMap dev true } })
          (missRemote m s)
      else missRemote m s
    | .rearming => missRemote m s
    | _ => s

/-- HALSO_TRIGGER: a group firing at its firing instant, or a Halso event on arrival (R320, R392).
-/
def execHalsoTrigger (p : PortId) (dev : BitVec 4) (m : HalsoTrig) (span : BitVec 18) (cycle : BitVec 8) (t : Grain)
    (s : State) : Res :=
  if !s.haOn then .next s
  else
    let s1 := atGrain t s
    match m with
    | .group gid units =>
      let ft := s1.nearSpan 18 span.toNat * spanGr + cycle.toNat * cycleGr
      .next (receive0 p.val dev.toNat (firingMsg dev.toNat gid.toNat units.toNat span.toNat cycle.toNat) (fun u =>
        (List.range 16).foldl (fun x i => remoteFiring gid dev.toNat ft i x) u) s1)
    | .event n =>
      .next (receive0 p.val dev.toNat (eventMsg dev.toNat n.val span.toNat cycle.toNat) (fun u => halsoEvent n.val u.now u) s1)

/-- HALSO_MATCH_BROADCAST: a peer's hit is kept for the decision of its cycle (R116). -/
def execHalsoMatchBroadcast (p : PortId) (dev : BitVec 4) (group : BitVec 4) (hit : Bool) (cycle : BitVec 25)
    (s : State) : Res :=
  if !s.haOn then .next s
  else .next (receive0 p.val dev.toNat (hitMsg dev.toNat group.toNat hit cycle.toNat) (modHalso fun h => { h with
    hits := { dev := dev.toNat, group := group.toNat, cycle := cycle.toNat, hit := hit } ::
      h.hits.filter fun z => !(z.dev == dev.toNat && z.group == group.toNat && z.cycle == cycle.toNat) }) s)

/-- HALSO_FAIL_MERGE (R390, R398). -/
def execHalsoFailMerge (p : PortId) (group : CntId) (m : MergeIn) (ended : Bool) (span : BitVec 48) (s : State) : Res :=
  let dev := m.dev.toNat
  if !s.haOn then .next s
  else .next (passOn2 p.val dev [mergeMsg group.val dev m.site.val ended m.status.toNat, span.toNat] <|
    modHalso (fun h => { h with merges := h.merges.mod group.val fun g =>
    if ended then { g with ended := setBit g.ended dev true }
    else { g with failed := setBit g.failed dev true,
                  first := if g.failed = 0 ∨ span.toNat < g.first.toNat then span else g.first } }) s)

end Sys2Proof.Machine
end

