-- ==== Sys2Proof/Machine/Lease.lean ====
section
/-!
DEFINITION. Leases: lapse, revocation and the first renewal after it (R25, R135, R309, R485 to R487, Table
10.16).
-/

namespace Sys2Proof.Machine

/-- LEASE_REVOKED as the result of a command that its revoked engine was executing (R486). -/
def revokedResult : Nat := 0x0A

/-- A HALT that is queued gives way to the revocation (R135). (DEDUCED, entry 106.) -/
def noHalt : QItem → QItem
  | .halt addr ovl => .stop addr ovl (endOf stAborted rLease addr ovl)
  | i => i

/-- Site sequencer e: what is queued plays, of a MATCH at most the bundles that the queue holds, and the run ends with
LEASE_REVOKED (R135). A site held at a SYNC or a WAIT_TRIG stays held until the hold ends of itself. (DEDUCED, entry 106.) -/
def revokeSite (n : Nat) (s : State) : State :=
  let x := s.site n
  if x.running && x.play != .ended then
    settle n (modSite n (fun y =>
      { (if y.issuing then abortAt rLease y else { y with q := y.q.map noHalt }) with
        loops := [], calls := [], leaseLeft := some (16 - y.queued) }) s)
  else s

/-- Capture engine 64 + m: its staging waits, and a record that is being collected is closed with the truncated
flag at the last sample before (R309). (DEDUCED, entry 67.) -/
def revokeCapture (m : Nat) (s : State) : State :=
  modEng m (fun e => { e with revoked := true }) (shutGroup m 2 false s)

/-- Stream engine 80 + j: the refills issued and not arrived are abandoned (Table 10.16). (DEDUCED, entry 105.) -/
def revokeStream (j : Nat) (s : State) : State :=
  (s.vs.refills.filter fun r => r.slot % 8 == j).foldl (fun t r => badPeck r t) s

/-- Engine 88: a PLAN_LOAD in progress leaves no state (R41, R228, Table 10.16). -/
def revokeLoad (s : State) : State :=
  match s.vs.loadWait with
  | some (k, mask) =>
    complete k stAborted revokedResult (pllDown mask (modVs (fun v => { v with loadWait := none }) s))
  | none => s

/-- Engines 89 to 92: the eye scans of their channels end (R457, R486). (DEDUCED, entry 107.) -/
def revokeScans (q : Nat) (s : State) : State :=
  (List.range 32).foldl (fun t i =>
    let c := 32 * q + i
    match (t.pin c).scan with
    | some z => complete z.cmd stAborted revokedResult (modPin c (fun p => { p with scan := none }) t)
    | none => t) s

/-- Engine 93: a step that a command asked for is given up (R457, R486). (DEDUCED, entry 107.) -/
def revokeTime (s : State) : State :=
  match s.time.step with
  | some (_, _, _, some k) => complete k stAborted revokedResult (modTime (fun x => { x with step := none }) s)
  | _ => s

/-- What a revocation does in the engine's own unit (Table 10.16). -/
def revokeUnit (e : Nat) (s : State) : State :=
  if e < 64 then revokeSite e s
  else if e < 80 then revokeCapture (e - 64) s
  else if e < 88 then revokeStream (e - 80) s
  else if e = 88 then revokeLoad s
  else if e < 93 then revokeScans (e - 89) (calRevoke e s)
  else if e = 93 then revokeTime (calRevoke e s)
  else if e = 94 then calRevoke e s
  else s

/-- Every lease of an engine revoked: its unit, HQM_REVOKE, LEASE_REVOKED (R485, R486). -/
def revoke (e : Nat) (s : State) : State :=
  let s1 := modCal (fun c => { c with revoked := c.revoked.set e true, missed := c.missed.set e 0 }) s
  let s2 := modHqm (fun h => { h with
    revEngine := BitVec.ofNat 7 e, revEvent := true, revCount := satAdd (2 ^ 32 - 1) h.revCount 1 }) (revokeUnit e s1)
  raiseIrq 17 (perfEvent 0x05A e 1 s2)

/-- LEASE_LAPSE: an engine that made no renewal in 4 spans running (R25, R485). (DESIGN CHOICE, entry 110.) -/
def execLeaseLapse (e : EngineId) (s : State) : Res :=
  if 4 ≤ s.cal.missed.get e.val ∧ ¬s.cal.revoked.get e.val then .next (revoke e.val s) else .next s

/-- A capture engine back: a site whose run ended meanwhile reports what it lost where that run ended; one whose run goes
on reports it before its next entry (R306, R309). (DEDUCED, entry 67.) -/
def renewCapture (m : Nat) (s : State) : State :=
  (List.range 4).foldl (fun t i =>
    let n := 4 * m + i
    let e := t.cap.engs.get m
    match (t.cap.sites.get n).endAt with
    | some p =>
      let t1 := modSiteCap n (fun x => { x with endAt := none }) t
      if e.placeFree n || e.room n false then putTrunc n 2 p t1 else t1
    | none => t) (modEng m (fun e => { e with revoked := false }) s)

/-- ENGINE_FIRST_RENEWAL: the revocation ends (R487). -/
def execEngineFirstRenewal (e : EngineId) (s : State) : Res :=
  if s.cal.revoked.get e.val then
    let s1 := modCal (fun c => { c with revoked := c.revoked.set e.val false, missed := c.missed.set e.val 0 }) s
    .next (if 64 ≤ e.val ∧ e.val < 80 then renewCapture (e.val - 64) s1 else s1)
  else .next s

/-- Spans that each engine has gone without a renewal, after a span in which those listed made none (R485).
(DESIGN CHOICE, entry 110.) -/
def leaseTick (l : List EngineId) (s : State) : State :=
  modCal (fun c => { c with missed := (List.range 96).foldl (fun m e =>
    if c.revoked.get e then m
    else m.set e (if l.any fun x => x.val == e then c.missed.get e + 1 else 0)) [] }) s

end Sys2Proof.Machine
end

