-- ==== Sys2Proof/Machine/Monitor.lean ====
section
/-!
DEFINITION. The main converter, the window monitors and thermal sensing (R423 to R436).
-/

namespace Sys2Proof.Machine

/-! ## The main converter (R423 to R425) -/

/-- CAL_ADC as a word (Table 9.10). -/
def Cal.adc (c : Cal) : W64 :=
  BitVec.ofNat 64 (c.adcKind.toNat + c.adcIndex.toNat * 2 ^ 4 + c.adcA.toNat * 2 ^ 11 + b2n c.adcBusy * 2 ^ 16 +
    b2n c.adcDone * 2 ^ 17 + c.adcSum.toNat * 2 ^ 32)

/-- An input of Table 9.5 exists. -/
def State.adcInput (s : State) (kind index : Nat) : Bool :=
  if kind ≤ 5 then decide (index < s.nCh)
  else if kind = 6 then decide (index < 32)
  else if kind = 7 then decide (index ≤ 8)
  else kind == 8 && index == 0

/-- CAL_ADC_GO: a write of CAL_ADC (R425). -/
def execCalAdcGo (v : Wr) (s : State) : Res :=
  onBlock true s fun t =>
    let go := bit (hitBits (fm 15 1) v) 15
    if go && t.cal.adcBusy then modCal (fun c => { c with refused := true }) t
    else
      let w := rwMerge (fm 0 15) v t.cal.adc
      let t1 := modCal (fun c => { c with
        adcKind := BitVec.ofNat 4 (bits w 0 4), adcIndex := BitVec.ofNat 7 (bits w 4 7),
        adcA := BitVec.ofNat 4 (bits w 11 4), adcDone := clr c.adcDone (hitBits (fm 17 1) v) 17 }) t
      if !go then t1
      else if t1.adcInput (bits w 0 4) (bits w 4 7) then modCal (fun c => { c with adcBusy := true }) t1
      else modCal (fun c => { c with adcDone := true, adcSum := 0, refused := true }) t1

/-- CAL_ADC_DONE: the codes of the 2^a conversions (R423, R425, Table 9.10). -/
def execCalAdcDone (codes : List (BitVec 12)) (s : State) : Res :=
  if s.cal.adcBusy then
    .next (modCal (fun c => { c with
      adcBusy := false, adcDone := true,
      adcSum := BitVec.ofNat 20 (((codes.take (2 ^ min 8 c.adcA.toNat)).map BitVec.toNat).foldl (· + ·) 0) }) s)
  else .next s

/-! ## Window monitors (R426 to R432) -/

/-- Monitor i changed by a function. -/
def modMon (i : Nat) (f : Mon → Mon) (s : State) : State := modCal (fun c => { c with mons := c.mons.mod i f }) s

/-- The raw decision of a sample in microvolts, and whether a threshold forced it (R426). (DEDUCED, entry 91.) -/
def Mon.decide (m : Mon) (uv : Int) : Bool × Bool :=
  if ((m.hi * 2000 : Nat) : Int) < uv then (true, true)
  else if uv < ((m.lo * 2000 : Nat) : Int) then (false, true)
  else (m.raw, false)

/-- The majority of the raw decisions made; a tie is below (R427). -/
def majority (l : List Bool) : Bool := decide (l.length < 2 * (l.filter id).length)

/-- A monitor after a sample, and whether its output changed after resolution (R426 to R428). (DEDUCED, entry 91.) -/
def Mon.sample (m : Mon) (uv : Int) : Mon × Bool :=
  let d := m.decide uv
  let hist := (d.1 :: m.hist).take m.n
  let out := majority hist
  let forced := m.forced || d.2
  let m1 := { m with raw := d.1, hist := hist, out := out, forced := forced }
  if m.unresolved then
    ({ m1 with unresolved := !(hist.length == m.n || (forced && out == d.1)) }, false)
  else if out = m.out then (m1, false)
  else
    ({ m1 with rise := m.rise || out, fall := m.fall || !out, edges := satAdd 0xFFFF m.edges 1 }, true)

/-- MON_SAMPLE (R426 to R430). -/
def execMonSample (i : MonId) (uv : Int) (s : State) : Res :=
  let m := s.cal.mons.get i.val
  if !m.en || s.sys.state == .reset then .next s
  else
    let r := m.sample uv
    let s1 := modMon i.val (fun _ => r.1) s
    let s2 := if r.2 && (m.action == 1 || m.action == 2) then raiseIrq 13 s1 else s1
    .next (if r.2 && m.action == 2 && r.1.fault then stopSites (fun n => bit m.sites n) s2 else s2)

/-- A monitor with an empty filter, unresolved (R428, R432). -/
def Mon.restart (m : Mon) : Mon := { m with hist := [], unresolved := true, forced := false }

/-- CAL_MON_CFG_WRITE (R432, R577). -/
def execCalMonCfgWrite (i : MonId) (v : W32) (s : State) : Res :=
  onBlock true s fun t => modMon i.val (fun m =>
    let c : W32 := v &&& 0x0FFFFFFF
    let n : Mon := { m with cfg := c }
    if n.hi < n.lo || 1000 < n.hi || n.action == 3 then { m with refused := true }
    else if !n.en then { n.restart with out := false }
    else if !m.en then { n.restart with out := false, raw := false }
    else if n.n != m.n then n.restart
    else n) t

/-! ## Thermal sensing (R433 to R436) -/

/-- 125 °C in units of 0.125 °C. -/
def tripLevel : Int := 1000

/-- A sensor after a reading. -/
def Sensor.put (x : Sensor) (v : BitVec 12) : Sensor :=
  { temp := v, peak := if !x.seen || decide (x.peak.toInt < v.toInt) then v else x.peak, seen := true }

/-- A level is reached by a sensor: it was below and no longer is. (DEDUCED, entry 92.) -/
def Sensor.reaches (x : Sensor) (v : BitVec 12) (level : Int) : Bool :=
  (!x.seen || decide (x.temp.toInt < level)) && decide (level ≤ v.toInt)

/-- Every running generator stops as for an immediate DDS_STOP dispatched in this span (R435, R510). -/
def stopGens (s : State) : State :=
  (List.range 8).foldl (fun t n =>
    if (t.gen n).running || (t.gen n).startSpan.isSome then
      modGen n (fun g => { g with stops := g.stops ++ [(t.time.span + 1, true, none)] }) t
    else t) s

/-- The trip: sites and generators stop (R435). -/
def tripNow (s : State) : State :=
  stopGens (stopSites (fun _ => true) (modCal (fun c => { c with trip := true }) s))

/-- The temperature range of every open window takes the new readings (code 7 of Table 9.1). -/
def noteTemps (s : State) : State :=
  mapPins (fun c p =>
    let v := (s.cal.sensors.get (octOf c)).temp.toInt
    { p with temps := p.temps.map fun e => (min e.1 v, max e.2 v) }) s

/-- THERM_SAMPLE: the readings of the 24 sensors in order (R433 to R435). -/
def execThermSample (temps : List (BitVec 12)) (s : State) : Res :=
  if s.sys.state = .reset then .next s
  else
    let l := (List.range 24).zip temps
    let old := s.cal.sensors
    let hit (level : Int) : Bool := l.any fun e => (old.get e.1).reaches e.2 level
    let s1 := noteTemps (modCal (fun c => { c with
      sensors := l.foldl (fun m e => m.mod e.1 fun x => x.put e.2) c.sensors }) s)
    let s2 := if hit s.cal.warn.toInt then raiseIrq 14 (modCal (fun c => { c with warnEvent := true }) s1) else s1
    let s3 := if hit s.cal.crit.toInt then raiseIrq 15 (modCal (fun c => { c with critEvent := true }) s2) else s2
    let hot := l.any fun e => decide (tripLevel ≤ e.2.toInt)
    .next (
      if hot && !s.cal.trip then tripNow s3
      else if s3.hot then s3 else modCal (fun c => { c with trip := false }) s3)

end Sys2Proof.Machine
end

