-- ==== Sys2Proof/Machine/Perf.lean ====
section
/-!
DEFINITION. The performance counters, snapshots and the precise sampler (R519 to R532).
-/

namespace Sys2Proof.Machine

/-- Counter n changed by a function. -/
def modCnt (n : Nat) (f : Cnt → Cnt) (s : State) : State :=
  modPerf (fun p => { p with cnts := p.cnts.mod n f }) s

/-- PERF_CNT_READ: the high latch takes the upper part of the count (R522). -/
def execPerfCntRead (n : CntId) (s : State) : Res :=
  onBlock false s (modCnt n.val fun c => { c with high := BitVec.ofNat 16 (bits c.count 32 16) })

/-- The fields of PERF_SEL that hold what is written (Table 12.6). -/
def perfSelRw : W32 := 0x03FF03FF

/-- PERF_SEL_WRITE (R523). -/
def execPerfSelWrite (n : CntId) (v : W32) (s : State) : Res :=
  onBlock false s (modCnt n.val fun c => { c with sel := v &&& perfSelRw, count := if bit v 26 then 0 else c.count })

/-- PERF_FREEZE: a write of PERF_CTRL (R525). -/
def execPerfFreeze (v : W32) (s : State) : Res := onBlock false s (modPerf fun p => { p with freeze := bit v 0 })

/-- PERF_COUNTER_OVERFLOW: occurrences of its event take an enabled counter past its end (R520). -/
def execPerfCounterOverflow (n : CntId) (occ : Nat) (s : State) : Res :=
  let c := s.perf.cnts.get n.val
  if bit c.sel 24 && !s.perf.freeze && decide (2 ^ 48 ≤ c.count.toNat + occ) then
    let r := cntAdd n.val occ s.perf
    let t := modPerf (fun _ => r.1) s
    .next (if r.2 then raiseIrq 19 t else t)
  else .next s

/-! ## Snapshots (R526, R527) -/

/-- SNAPSHOT_REQUEST: a write of PERF_SNAP (R526). -/
def execSnapshotRequest (v : W32) (s : State) : Res :=
  onBlock false s (modPerf fun p => { p with
    period := BitVec.ofNat 20 (bits v 12 20), snapGo := if bit v 0 && p.snapGo == 0 then s.time.span + 1 else p.snapGo })

/-- A snapshot is due in this span: a go written in an earlier one, or the period; at most one a span. -/
def Perf.snapDue (p : Perf) (span : Nat) : Bool :=
  p.snapAt != span + 1 &&
  ((p.snapGo != 0 && decide (p.snapGo ≤ span)) || (p.period != 0 && span % p.period.toNat == 0))

/-- PERF_SNAPSHOT, at cycle 0 of a span (R526, R527). -/
def execPerfSnapshot (s : State) : Res :=
  if s.blockOn false && s.cycle == 0 && s.perf.snapDue s.time.span then
    .next (modPerf (fun p => { p with
      snaps := (List.range 64).foldl (fun m n => m.set n { count := (p.cnts.get n).count, ovf := bit p.ovf n }) [],
      snapSpan := s.stamp, snapSeq := p.snapSeq + 1, snapAt := s.time.span + 1,
      snapGo := if p.snapGo ≤ s.time.span then 0 else p.snapGo }) s)
  else .next s

/-! ## The precise sampler (R528 to R532) -/

/-- RW fields of PERF_PS_CFG (Table 12.7). -/
def psCfgRw : W64 := fm 0 25 ||| fm 32 16

/-- The sampler enabled: counts cleared, the LFSR seeded, the first gap set (R529, R532). -/
def psStart (p : Perf) : Perf :=
  let seed := BitVec.ofNat 16 (bits p.psCfg 32 16)
  let q : Perf :=
    { p with psWritten := 0, psDropped := 0, psSkipped := 0, psDropFlag := false, psLfsr := if seed = 0 then 1 else seed }
  let g := psNextGap q
  { q with psGap := g.1, psLfsr := g.2 }

/-- PERF_PS_CFG_WRITE (R532, R575). (DEDUCED, entry 94.) -/
def execPerfPsCfgWrite (w : Wr) (s : State) : Res :=
  onBlock false s (modPerf fun p =>
    let v := rwMerge psCfgRw w p.psCfg
    if bit p.psCfg 0 && changes (psCfgRw &&& ~~~ fm 0 1) psCfgRw w p.psCfg then { p with psRefused := true }
    else
      let q := { p with psCfg := v }
      if !bit p.psCfg 0 && bit v 0 then psStart q else q)

/-- The latency of a sampled occurrence that ends at an instant, in core cycles (R528). -/
def PsOpen.latency (o : PsOpen) (t : Nat) : Nat := t / cycleGr - o.start / cycleGr

/-- A precise-sample entry of an occurrence that ends at an instant (Table 12.3). -/
def psEntry (event : Nat) (o : PsOpen) (r : PsEnd) (t : Nat) (untr dropped : Bool) : BitVec 256 :=
  let lat := if r.abandoned then 0xFFFFFFFF else min (o.latency t) 0xFFFFFFFF
  let sat := !r.abandoned && decide (0xFFFFFFFF < o.latency t)
  BitVec.ofNat 256 (event + r.engine.toNat * 2 ^ 16 + o.unit * 2 ^ 24 + lat * 2 ^ 32 + r.instr.toNat * 2 ^ 64 +
    r.addr.toNat * 2 ^ 128 + o.start / spanGr % 2 ^ 48 * 2 ^ 192 + o.start % spanGr / cycleGr * 2 ^ 240 +
    (b2n untr + 2 * b2n dropped + 4 * b2n r.abandoned + 8 * b2n sat) * 2 ^ 248)

/-- An entry put into the buffer of the sampler, or dropped where the buffer is full (R531). -/
def putSample (e : BitVec 256) (now : Nat) (p : Perf) : Perf :=
  if 4096 ≤ p.psBuf.length then { p with psDropped := satAdd (2 ^ 24 - 1) p.psDropped 1, psDropFlag := true }
  else { p with psBuf := p.psBuf ++ [{ bits := e, at_ := now }], psDropFlag := false }

/-- PRECISE_SAMPLE_ENTRY: an open occurrence ends, or is abandoned (R528, R530, R531). -/
def execPreciseSampleEntry (r : PsEnd) (s : State) : Res :=
  match s.perf.psOpen.find? (fun o => o.idx == r.idx) with
  | none => .next s
  | some o =>
    let s1 := atGrain r.at_ s
    .next (modPerf (fun p =>
      putSample (psEntry (bits p.psCfg 8 10) o r s1.now s.untraceable p.psDropFlag) s1.now
        { p with psOpen := p.psOpen.filter fun i => i.idx != r.idx }) s1)

end Sys2Proof.Machine
end

