-- ==== Sys2Proof/Machine/RegRead.lean ====
section
/-!
DEFINITION. What a read of BAR0 and of the diagnostic window in BAR4 returns (R19 to R21, R534 to R551). Each
register gives its width and its value at the offset where it lies; an offset that no map names gives none.
-/

namespace Sys2Proof.Machine

/-- A register at an offset: 64 bits wide or not, and its value. -/
abbrev Reg := Option (Bool × Nat)

/-- A 32-bit register. -/
def r32 (v : Nat) : Reg := some (false, v % 2 ^ 32)

/-- A 64-bit register. -/
def r64 (v : Nat) : Reg := some (true, v % 2 ^ 64)

/-- The instance of an array of n elements that an offset names. -/
def inst (o base stride n : Nat) : Option Nat :=
  if base ≤ o ∧ (o - base) % stride = 0 ∧ (o - base) / stride < n then some ((o - base) / stride) else none

/-- The element of an array of wider records that an offset lies in, and the offset within it. -/
def within (o base stride n : Nat) : Option (Nat × Nat) :=
  if base ≤ o ∧ (o - base) / stride < n then some ((o - base) / stride, (o - base) % stride) else none

/-- Fields put side by side: each a position and a value. -/
def pack (l : List (Nat × Nat)) : Nat := l.foldl (fun a e => a + e.2 * 2 ^ e.1) 0

/-- Device state codes (Table 1.6). -/
def stateCode : DevState → Nat
  | .reset => 0
  | .boot => 1
  | .bringUp => 2
  | .calibrate => 3
  | .ready => 4
  | .standby => 5
  | .deepStandby => 6

/-! ## PCIe identity (R12, Table 11.3) -/

/-- What the configuration space presents of the identity: Vendor ID and Device ID, the same for both ordering codes
(R12), then the subsystem vendor and subsystem identity of section 0 (Table 11.3). No command of the table reads it
(DESIGN CHOICE, entry 138). -/
def State.pcieId (s : State) : List (BitVec 16) := [0x1F8B, 0x0096, s.sys.subVendor, s.sys.subId]

/-! ## SYS (Tables 13.3 to 13.14) -/

/-- SYS_OCTET_DIS.disabled: on ZK96-64, octets 8 to 15 too (R543). -/
def State.disabledBits (s : State) : Nat := (s.sys.disabled ||| (if s.sys.is64 then 0xFF00 else 0)).toNat

/-- Registers of the SYS block. -/
def State.sysReg (s : State) (o : Nat) : Reg :=
  let y := s.sys
  match o with
  | 0x000 => r32 0x5A4B0096
  | 0x004 => r32 (pack [(0, y.rev.toNat), (16, s.nCh), (24, s.nOct)])
  | 0x010 => r32 (pack [(0, stateCode y.state), (3, stateCode y.prev), (6, b2n y.waking), (8, b2n y.refused),
      (9, y.refusedReq.toNat)])
  | 0x014 => r32 0
  | 0x018 => r32 0
  | 0x020 => r32 (pack [(0, y.disReq.toNat), (16, s.disabledBits)])
  | 0x028 => r32 y.lost.toNat
  | 0x030 => r32 (pack [(0, y.ceilOctet.toNat), (16, y.ceilDropped.toNat)])
  | 0x040 => r32 y.irqStatus.toNat
  | 0x044 => r32 y.irqEnable.toNat
  | 0x048 => r32 y.alertSel.toNat
  | 0x0F0 => r64 y.scratch.toNat
  | _ => (inst o 0x080 4 20).bind fun b => r32 (y.route.get b).toNat

/-! ## HQM (Tables 10.3 to 10.7, 10.17 to 10.23) -/

/-- Registers of the HQM block. -/
def State.hqmReg (s : State) (o : Nat) : Reg :=
  let h := s.hqm
  match o with
  | 0x000 => r32 (b2n h.fetchEn)
  | 0x008 => r64 (pack [(0, s.slotsUsed), (12, b2n s.fetchStopped), (16, s.activeChains),
      (32, (h.cmds.filter fun e => decide (e.2.ph = .delayed)).length), (44, b2n h.late)])
  | 0x010 => r64 h.spillReg.toNat
  | 0x018 => r64 (pack [(0, h.spill.length), (22, b2n (decide (2095104 ≤ h.spill.length))), (23, b2n h.spillEvent),
      (24, h.highWater)])
  | 0x020 => r64 (pack [(0, h.errQueue.toNat), (13, h.errKind.toNat), (16, b2n h.errEvent)])
  | 0x028 => r64 (pack [(0, h.revEngine.toNat), (7, b2n h.revEvent), (32, h.revCount)])
  | _ => none

/-- Registers of a queue context. -/
def State.qctxReg (s : State) (q r : Nat) : Reg :=
  let x := s.queue q
  match r with
  | 0x00 => r64 x.base.toNat
  | 0x08 => r64 x.cfg.toNat
  | 0x10 => r64 (pack [(0, x.head), (16, x.tail), (32, b2n x.phase)])
  | 0x18 => r64 x.headwb.toNat
  | 0x20 => r64 (pack [(0, b2n x.dbErr), (1, b2n x.fetchErr), (2, b2n x.refused), (3, b2n (x.en && !x.isCq && s.fetchStop q)),
      (8, s.spilled q), (32, x.posted)])
  | _ => none

/-! ## SEQ, VSTORE and DRAM (Tables 2.17 to 2.21, 3.16 to 3.19) -/

/-- The mode code that the SEQ block reports: 7 unassigned, 0 idle, else the declared mode (R56, Table 1.8). -/
def Site.modeCode (x : Site) : Nat := if x.mode = 7 then 7 else if x.running then x.mode else 0

/-- SEQ_SITE_STATE.wait_kind. -/
def Site.waitKind (x : Site) : Nat :=
  match x.play with
  | .probe .. => 1
  | .wait .. => 2
  | .sync .. => 3
  | .park .. => 4
  | _ => 0

/-- SEQ_SITE_LATCH as a word. -/
def Site.latchBits (x : Site) : Nat := pack ((List.range 48).map fun i => (i, b2n (x.latches.get i).set))

/-- Registers of a site sequencer. -/
def State.seqReg (s : State) (n r : Nat) : Reg :=
  let x := s.site n
  match r with
  | 0x00 => r32 (pack [(0, x.modeCode), (3, b2n x.running), (4, x.waitKind), (8, if x.mode = 7 then 0 else x.plan), (12, x.loops.length),
      (16, x.calls.length), (24, x.lastReason.toNat)])
  | 0x08 => r32 (pack [(0, x.pc), (11, x.ovl), (16, x.win0), (21, x.win1)])
  | 0x10 => r64 x.vcount
  | 0x18 => r64 x.latchBits
  | 0x20 => r64 (pack [(0, x.mCycles), (25, b2n x.mOutcome), (26, b2n x.mSuspect), (27, x.mDesc), (32, x.mSpan.toNat)])
  | _ => none

/-- Registers of the VSTORE block. -/
def State.vsReg (s : State) (o : Nat) : Reg :=
  let v := s.vs
  match o with
  | 0x00 => r32 (pack [(0, 128 - (v.bushels.filter fun e => e.2.claimed).length), (8, s.owning.length),
      (16, 2048 - (s.plans.map fun p => p.2.templates.length).foldl (· + ·) 0)])
  | 0x08 => r64 (pack [(0, min v.crcFail (2 ^ 32 - 1)), (32, min v.bad 0xFFFF), (48, b2n v.event)])
  | _ => none

/-- DRAM_CH_STATUS.state (Table 3.14). -/
def DramChan.code (c : DramChan) : Nat :=
  if c.forced then 3 else if c.debt = 0 then 0 else if c.debt ≤ 7 then 1 else 2

/-- Registers of the DRAM block. -/
def State.dramReg (s : State) (o : Nat) : Reg :=
  if o = 0 then r32 s.dram.ctrl.toNat
  else (inst o 0x100 0x10 16).bind fun n =>
    let c := s.dram.chans.get n
    r32 (pack [(0, b2n c.trained), (2, c.debt), (8, c.rate), (10, c.code), (12, b2n c.forcedEvent), (16, c.forcedCount)])

/-! ## TIMING and PIN (Tables 4.15 to 4.22, 5.11 to 5.20) -/

/-- A signed field. -/
def sf (pos n : Nat) (v : Int) : Nat × Nat := (pos, codeOf n v)

/-- TIMING_PIN_DESKEW, _TRIM and _APPLIED of a channel. -/
def Pin.timingReg (p : Pin) (r : Nat) : Reg :=
  match r with
  | 0x0 => r32 (pack [sf 0 16 p.dDrv, sf 16 16 p.dCmp])
  | 0x4 => r32 (pack [sf 0 12 p.tDrv, sf 12 12 p.tCmp, sf 24 8 p.fall])
  | 0x8 => r32 (pack [sf 0 12 p.vDrv, sf 12 12 p.vCmp])
  | _ => none

/-- Registers of the TIMING block. -/
def State.timingReg (s : State) (o : Nat) : Reg :=
  if o < 0x100 then
    (inst o 0 0x10 s.nOct).bind fun n =>
      let x := s.octet n
      r32 (pack [(0, b2n x.pllOff), (1, b2n x.locked), (2, b2n x.unlockEvent), (8, if x.linkEn then x.linkRate else 0), (16, x.unlockCount)])
  else if o = 0x100 then
    r64 (pack [(0, s.timing.spacing), (32, b2n s.timing.spacingEvent), (33, b2n s.timing.trimSat), (34, b2n s.timing.refused)])
  else if o < 0x8000 then (within o 0x1000 0x10 s.nCh).bind fun e => (s.pin e.1).timingReg e.2
  else if o < 0x10000 then
    (inst o 0x8000 8 (16 * s.nCh)).bind fun i => r64 ((s.pin (i / 16)).level.get (i % 16)).toNat
  else (inst o 0x10000 8 (64 * s.nCh)).bind fun i => r64 ((s.pin (i / 64)).tset.get (i % 64)).toNat

/-- The DFE taps in force: zero in Bring-up (R251). (DEDUCED, entry 90.) -/
def State.tap (s : State) (c n : Nat) : Int := if s.sys.state = .bringUp then 0 else (s.pin c).taps.get n

/-- PIN_CTLE in force: the factory default setting in Bring-up (R251). (DEDUCED, entry 90.) -/
def State.ctle (s : State) (c : Nat) : W32 :=
  if s.sys.state = .bringUp then setBits (s.pin c).ctle 0 4 6 else (s.pin c).ctle

/-- PIN_DAC_TARGET or PIN_DAC_APPLIED. -/
def dacWord (off gain : Int) : Nat := pack [sf 0 10 off, sf 10 12 gain]

/-- PIN_LINK of an octet (Table 5.20). -/
def Octet.linkReg (x : Octet) : Nat :=
  pack [(0, b2n x.linkEn), (1, x.scale.toNat), (3, b2n x.linkReady), (4, x.rxLol.toNat), (8, x.txFault.toNat),
    (12, b2n x.laneEvent), (16, x.late), (32, min 0xFFFF ((x.rtts.map fun e => (e.2 - 1) / 16).foldl max 0))]

/-- Registers of a pin channel. -/
def State.pinReg (s : State) (c r : Nat) : Reg :=
  let p := s.pin c
  match r with
  | 0x00 => r32 p.cfg.toNat
  | 0x04 => r32 p.aux.toNat
  | 0x08 => r32 (s.ctle c).toNat
  | 0x10 => r64 (pack ((List.range 8).map fun n => sf (8 * n) 8 (s.tap c n)))
  | 0x18 => r32 (pack [sf 0 16 p.phase, sf 16 16 p.ferr])
  | 0x20 => r32 (pack [(0, b2n p.locked), (1, b2n p.los), (2, b2n p.lolEvent), (3, b2n p.losEvent), (4, b2n p.phaseLimit),
      (5, b2n p.refused), (6, b2n p.dacSat), (16, p.lolCount)])
  | 0x24 => r32 (b2n p.scan.isSome)
  | 0xC0 => if c % 8 = 0 then r64 (s.octet (c / 8)).linkReg else none
  | _ =>
    match inst r 0x40 4 5, inst r 0x60 4 5 with
    | some d, _ => r32 (dacWord (p.dacs.get d).tOff (p.dacs.get d).tGain)
    | _, some d => r32 (dacWord (p.dacs.get d).off (p.dacs.get d).gain)
    | _, _ => none

/-! ## CAP (Tables 6.9 to 6.25) -/

/-- Capture registers of a site. -/
def SiteCap.reg (c : SiteCap) (r : Nat) : Reg :=
  match r with
  | 0x00 => r32 (pack [(0, c.logLimit.toNat), (24, b2n c.logEn), (25, b2n c.holdEn), (31, b2n c.refused)])
  | 0x08 => r64 (pack [(0, c.size.toNat), (12, c.base.toNat)])
  | 0x10 => r64 c.wr
  | 0x18 => r64 (pack [(0, c.fails), (48, b2n c.failsSat), (49, b2n c.limitHit), (50, b2n c.truncated)])
  | 0x20 => r64 (pack [(0, c.compares), (48, b2n c.comparesSat)])
  | 0x28 => r64 (pack [(0, c.supp), (48, b2n c.suppSat)])
  | 0x30 => r64 (pack [(0, c.firstV), (48, c.firstAddr), (59, c.firstOvl)])
  | 0x38 => r64 (pack [(0, c.firstSpan.toNat), (48, c.firstCycle), (56, c.firstCh), (63, b2n c.firstValid)])
  | _ => none

/-- CAP_TRIG_STATUS.state: a group whose arming waits for its span is still disarmed (R315). -/
def gstCode : GSt → Nat
  | .disarmed => 0
  | .arming => 0
  | .armed => 1
  | .collecting => 2
  | .rearming => 3

/-- CAP_TRIG_STATUS of a unit: the group it was last armed in, and its state while it is armed (Table 6.24).
(DESIGN CHOICE, entry 19.) -/
def State.trigStatus (s : State) (u : Nat) : Nat :=
  let x := s.unit u
  let g := s.group x.master
  if bit g.units u then
    pack [(0, if x.armed then gstCode g.st else 0), (3, b2n (x.armed && x.holding s.now)), (4, x.master),
      (8, b2n (x.master == u)), (9, b2n x.refused), (32, g.closed)]
  else pack [(9, b2n x.refused)]

/-- Registers of a trigger unit. -/
def State.trigReg (s : State) (u r : Nat) : Reg :=
  let x := s.unit u
  match r with
  | 0x00 => r64 x.cfg.toNat
  | 0x08 => r64 x.chanLo.toNat
  | 0x10 => r64 x.chanHi.toNat
  | 0x18 => r64 x.pattern.toNat
  | 0x20 => r64 x.holdoff.toNat
  | 0x28 => r64 x.acq.toNat
  | 0x30 => r64 (s.trigStatus u)
  | 0x38 => r64 (pack [(0, x.missed), (32, x.remote)])
  | _ => none

/-- Registers of a capture engine. -/
def CapEng.reg (e : CapEng) (r : Nat) : Reg :=
  match r with
  | 0x0 => r32 (pack [(0, e.holdHi.toNat), (8, e.holdLo.toNat)])
  | 0x8 => r64 (pack [(0, e.staging.length), (14, b2n e.hold), (16, e.lost), (48, b2n e.lostEvent)])
  | _ => none

/-- Registers of the CAP block. -/
def State.capReg (s : State) (o : Nat) : Reg :=
  if o < 0x1000 then (s.cap.sites.get (o / 0x40)).reg (o % 0x40)
  else if o < 0x2000 then (inst o 0x1000 4 s.nCh).bind fun c => r32 (s.pin c).fails
  else if o < 0x4000 then (within o 0x2000 0x10 16).bind fun e => (s.cap.engs.get e.1).reg e.2
  else (within o 0x4000 0x80 16).bind fun e => s.trigReg e.1 e.2

/-! ## DDS (Tables 7.7 to 7.13) -/

/-- Registers of a generator. -/
def State.genReg (s : State) (n r : Nat) : Reg :=
  let g := s.gen n
  match r with
  | 0x00 => r32 g.cfg.toNat
  | 0x08 => r64 (pack [(0, b2n g.running), (1, b2n g.jump.isSome), (2, b2n g.jumpDone), (4, g.replaced), (16, g.jumpBoundary)])
  | 0x10 => r32 g.target.toNat
  | 0x14 => r32 (pack [sf 0 16 g.skew])
  | _ => none

/-- DDS_STATUS. -/
def State.ddsStatus (s : State) : Nat :=
  pack ((8, b2n s.dds.refused) :: (List.range 8).map fun n => (n, b2n (s.gen n).running))

/-- Registers of the DDS block. -/
def State.ddsReg (s : State) (o : Nat) : Reg :=
  if o = 0 then r32 s.ddsStatus
  else if o < 0x1000 then (within o 0x100 0x20 8).bind fun e => s.genReg e.1 e.2
  else (inst o 0x1000 4 s.nCh).bind fun c => r32 (pack [(0, (s.pin c).ddsGen), (3, b2n (s.pin c).ddsEn)])

/-! ## TIME and Halso (Tables 8.11 to 8.27) -/

/-- TIME_STATUS. -/
def State.timeStatus (s : State) : Nat :=
  let x := s.time
  pack [(0, servoCode x.servo), (3, b2n s.traceable), (4, x.epoch.toNat), (8, b2n x.refPresent), (9, b2n x.refLost),
    (10, b2n x.timeJump), (11, b2n x.asymSuspect), (12, b2n x.txTsOvf), (13, b2n x.refused), (14, x.holdCause.toNat),
    (32, x.holdSpans)]

/-- d̄: the mean of the accepted path delays in units of 16 gr (R381, Table 8.19). -/
def Ptp.pathUnits (p : Ptp) : Nat :=
  codeOf 24 (if p.delays.isEmpty then 0 else (p.delays.foldl (· + ·) 0) / (p.delays.length : Int) / 16)

/-- HALSO_PEER: valid when received within the last 128 spans (Table 8.26). -/
def State.peerReg (s : State) (d : Nat) : Nat :=
  let p := s.halso.peers.get d
  pack [(0, p.e.toNat), (48, p.state.toNat), (51, b2n p.traceable), (52, b2n (p.at_ != 0 && decide (s.time.span < p.at_ + 128)))]

/-- HALSO_PORT: a port carries domain traffic while it is up and the link is enabled. -/
def State.portReg (s : State) (n : Nat) : Nat :=
  let p := s.halso.ports.get n
  pack [(0, b2n p.up), (1, p.lanes.toNat), (3, b2n (s.carries n)), (4, p.rtt % 2 ^ 24), (48, p.blockErr)]

/-- HALSO_STATUS. -/
def State.halsoStatus (s : State) : Nat :=
  let h := s.halso
  pack [(0, b2n h.joined), (1, b2n h.joinPending), (2, b2n h.conflict), (3, b2n h.ringBroken), (4, b2n h.lost),
    (5, b2n h.rttStep), (6, b2n h.spanSlip), (7, b2n h.refused), (8, b2n h.upstream), (9, s.maxHops), (13, h.position.toNat),
    (32, h.present.toNat)]

/-- Registers of the TIME and Halso block. -/
def State.timeReg (s : State) (o : Nat) : Reg :=
  let x := s.time
  match o with
  | 0x000 => r64 s.timeCfg.toNat
  | 0x008 => r64 s.timeStatus
  | 0x010 => r64 (timeValue (s.devTime s.now) x.epoch).toNat
  | 0x018 => r32 x.nowHi.toNat
  | 0x020 => r64 x.nowSpan.toNat
  | 0x028 => r64 x.gain.toNat
  | 0x030 => r64 (pack [sf 0 40 x.rho, sf 40 24 (clampI (-8388608) 8388607 x.lastE)])
  | 0x038 => r64 (pack [sf 0 40 x.integ])
  | 0x040 => r64 x.limits.toNat
  | 0x100 => r64 x.ptpCfg.toNat
  | 0x108 => r64 (pack [(0, x.ptpAsym.toNat), (40, x.ptp.pathUnits)])
  | 0x110 => r32 x.ptpLat.toNat
  | 0x120 => r64 x.tsRing.toNat
  | 0x128 => r64 (pack [(0, x.tsWritten % 2 ^ 48), (48, x.tsLost)])
  | 0x200 => r64 s.halso.cfg.toNat
  | 0x208 => r64 s.halsoStatus
  | _ =>
    match within o 0x300 0x10 4, inst o 0x400 8 16, inst o 0x500 8 64 with
    | some (p, 0), _, _ => r64 (s.portReg p)
    | some (p, 8), _, _ => let y := s.halso.ports.get p; r64 (pack [(0, y.asym.toNat), (16, b2n y.valid)])
    | _, some d, _ => r64 (s.peerReg d)
    | _, _, some g =>
      let m := s.halso.merges.get g
      r64 (pack [(0, m.failed.toNat), (16, m.ended.toNat), (32, if m.failed = 0 then 0 else m.first.toNat % 2 ^ 32)])
    | _, _, _ => none

/-! ## CAL (Tables 9.7 to 9.18) -/

/-- CAL_STATUS.step: the step running in Calibrate or under CAL_RUN. -/
def Cal.stepNow (c : Cal) : Nat := (c.todo.headD (0, 0)).1

/-- CAL_OCTET.temp_far (R436). -/
def State.tempFar (s : State) (o : Nat) : Bool :=
  decide (40 < ((s.cal.sensors.get o).temp.toInt - (s.octet o).tCal.toInt).natAbs)

/-- CAL_AGE of an octet: zero until a reading (R437 to R440). -/
def Octet.ageReg (x : Octet) : Nat :=
  pack [(0, x.d % 2 ^ 16), sf 16 16 (clampI (-32768) 32767 x.m),
    sf 32 16 (if x.nReadings = 0 then 0 else nextMargin x.cFab x.m), (48, x.nReadings)]

/-- CAL_MON_STATUS (Table 9.17, R429, R432). -/
def Mon.statusReg (m : Mon) : Nat :=
  pack [(0, b2n (m.en && m.out)), (1, b2n (!m.en || m.unresolved)), (2, b2n m.rise), (3, b2n m.fall), (4, b2n m.raw),
    (5, b2n (m.en && m.fault)), (6, b2n m.refused), (16, m.edges)]

/-- Registers of a window monitor. -/
def Mon.reg (m : Mon) (r : Nat) : Reg :=
  match r with
  | 0x0 => r32 m.cfg.toNat
  | 0x4 => r32 m.statusReg
  | 0x8 => r64 m.sites.toNat
  | _ => none

/-- Registers of the CAL block. -/
def State.calReg (s : State) (o : Nat) : Reg :=
  let c := s.cal
  match o with
  | 0x0000 => r32 (pack [(0, c.cont.toNat), (16, b2n c.autoCal), (17, c.ddsRef.toNat), (24, b2n c.ddsRefEn)])
  | 0x0008 => r64 (pack [(0, c.stepNow), (8, c.failStep.toNat), (16, c.failUnit.toNat), (23, c.failPre.toNat),
      (27, b2n c.failEvent), (28, b2n c.refused), (32, c.preFail)])
  | 0x0010 => r64 c.adc.toNat
  | 0x0018 => r32 (pack [(0, c.warn.toNat), (12, c.crit.toNat), (24, b2n c.warnEvent), (25, b2n c.critEvent), (26, b2n c.trip)])
  | _ =>
    if o < 0x1000 then
      match inst o 0x100 8 s.nOct, inst o 0x200 8 s.nOct, inst o 0x300 4 24 with
      | some n, _, _ =>
        let x := s.octet n
        r64 (pack [(0, x.ceiling), (16, x.tCal.toNat), (28, b2n (s.tempFar n)), (29, b2n x.drop), (32, x.cFab)])
      | _, some n, _ => r64 (s.octet n).ageReg
      | _, _, some n => r32 (pack [(0, (c.sensors.get n).temp.toNat), (12, (c.sensors.get n).peak.toNat)])
      | _, _, _ => none
    else if o < 0x2000 then
      (inst o 0x1000 8 s.nCh).bind fun n =>
        let p := s.pin n
        r64 (pack [(0, p.lastStep.toNat), (8, p.lastPre.toNat), (12, b2n p.vernSat), (16, p.preFail), (32, p.visits)])
    else (within o 0x2000 0x10 32).bind fun e => (c.mons.get e.1).reg e.2

/-! ## PERF and CFG (Tables 12.4 to 12.8, 11.11 to 11.14) -/

/-- PERF_PS_STATUS.busy (R532). -/
def Perf.busy (p : Perf) : Bool := bit p.psCfg 0 || !p.psOpen.isEmpty || !p.psBuf.isEmpty

/-- Registers of an event counter. -/
def Cnt.reg (c : Cnt) (r : Nat) : Reg :=
  match r with
  | 0x0 => r32 c.count.toNat
  | 0x4 => r32 c.high.toNat
  | 0x8 => r32 c.sel.toNat
  | _ => none

/-- Registers of the PERF block. -/
def State.perfReg (s : State) (o : Nat) : Reg :=
  let p := s.perf
  match o with
  | 0x0000 => r32 (b2n p.freeze)
  | 0x0008 => r64 p.ovf.toNat
  | 0x0010 => r32 (pack [(12, p.period.toNat)])
  | 0x0018 => r64 (pack [(0, p.snapSpan.toNat), (48, p.snapSeq.toNat)])
  | 0x3000 => r64 p.psCfg.toNat
  | 0x3008 => r64 (pack [(0, p.psBuf.length), (13, b2n p.busy), (14, b2n p.psRefused), (16, p.psDropped), (40, p.psSkipped)])
  | 0x3010 => r64 p.psRing.toNat
  | 0x3018 => r64 (p.psWritten % 2 ^ 48)
  | _ =>
    match within o 0x1000 0x10 64, inst o 0x2000 8 64 with
    | some (n, r), _ => (p.cnts.get n).reg r
    | _, some n => r64 (pack [(0, (p.snaps.get n).count.toNat), (48, b2n (p.snaps.get n).ovf)])
    | _, _ => none

/-- Registers of the CFG block; busy while Boot reads the configuration memory (R502). (DEDUCED, entry 95.) -/
def State.cfgReg (s : State) (o : Nat) : Reg :=
  let c := s.cfg
  match o with
  | 0x00 => r64 (pack [(0, b2n c.bank), (1, b2n c.imageValid), (2, b2n c.factoryCopy), (3, b2n c.factoryBad),
      (4, b2n (decide (s.sys.state = .boot))), (5, b2n c.saveFail), (6, b2n c.absent), (8, c.present.toNat), (16, c.skipped),
      (32, c.seq.toNat)])
  | 0x08 => r32 (pack [(0, c.logSize.toNat), (5, b2n c.addr4)])
  | 0x10 => r64 (pack [(0, c.ageEntries), (12, b2n c.ageHalf), (32, c.ageSeq.toNat)])
  | _ => none

/-! ## MSI-X structures (R482) -/

/-- Registers of an MSI-X table entry. -/
def Msix.reg (m : Msix) (r : Nat) : Reg :=
  match r with
  | 0x0 => r64 m.addr.toNat
  | 0x8 => r32 m.data.toNat
  | 0xC => r32 (b2n m.masked)
  | _ => none

/-- A word of the MSI-X pending-bit array. -/
def State.pbaWord (s : State) (i : Nat) : Nat :=
  pack ((List.range 64).map fun j => (j, b2n (s.hqm.msix.get (64 * i + j)).pending))

/-! ## BAR0 (Table 13.1) -/

/-- The register at an offset of BAR0. (DEDUCED, entry 31.) -/
def State.reg (s : State) (o : Nat) : Reg :=
  if o < 0x10000 then s.sysReg o
  else if o < 0x20000 then s.hqmReg (o - 0x10000)
  else if o < 0x40000 then (within o 0x20000 0x40 64).bind fun e => s.seqReg e.1 e.2
  else if o < 0x50000 then s.vsReg (o - 0x40000)
  else if o < 0x60000 then s.dramReg (o - 0x50000)
  else if o < 0x80000 then s.timingReg (o - 0x60000)
  else if o < 0xA0000 then (within o 0x80000 0x100 s.nCh).bind fun e => s.pinReg e.1 e.2
  else if o < 0xB0000 then s.capReg (o - 0xA0000)
  else if o < 0xC0000 then s.ddsReg (o - 0xB0000)
  else if o < 0xD0000 then s.timeReg (o - 0xC0000)
  else if o < 0xE0000 then s.calReg (o - 0xD0000)
  else if o < 0xF0000 then s.perfReg (o - 0xE0000)
  else if o < 0x100000 then s.cfgReg (o - 0xF0000)
  else if o < 0x180000 then (within o 0x100000 0x40 8192).bind fun e => s.qctxReg e.1 e.2
  else if o < 0x308000 then (within o 0x300000 0x10 2048).bind fun e => (s.hqm.msix.get e.1).reg e.2
  else (inst o 0x308000 8 32).bind fun i => r64 (s.pbaWord i)

/-- Blocks that answer in Deep standby: SYS, TIME, CAL and CFG (R513). -/
def alwaysBlock (o : Nat) : Bool :=
  decide (o < 0x10000) || decide (0xC0000 ≤ o ∧ o < 0xE0000) || decide (0xF0000 ≤ o ∧ o < 0x100000)

/-- The 32 bits at an offset (R535, R536). -/
def State.word32 (s : State) (o : Nat) : Nat :=
  match s.reg o with
  | some (_, v) => v % 2 ^ 32
  | none =>
    match s.reg (o - 4) with
    | some (true, v) => if o % 8 = 4 then v / 2 ^ 32 else 0
    | _ => 0

/-- What a read of BAR0 of a size in bytes returns (R21, R513, R535 to R537). (DESIGN CHOICE, entry 24.)
(DEDUCED, entry 31.) -/
def State.read (s : State) (o size : Nat) : Nat :=
  if (size ≠ 4 ∧ size ≠ 8) ∨ o % size ≠ 0 then 2 ^ (8 * size) - 1
  else if !s.blockOn (alwaysBlock o) then 2 ^ (8 * size) - 1
  else if size = 4 then s.word32 o else s.word32 o + s.word32 (o + 4) * 2 ^ 32

/-! ## BAR4 (Tables 13.15, 13.16, R548 to R551) -/

/-- The 16-bit entry of the bushel map. -/
def Bushel.word (b : Bushel) : Nat := if b.claimed then pack [(0, b.pb), (8, b.slot), (15, 1)] else 0

/-- Eight bytes of the DDS list memory of a generator (Table 13.16). -/
def Gen.listWord (g : Gen) (r : Nat) : Nat :=
  if r < 0x2000 then (g.freq.get (r / 8)).toNat
  else if r < 0x3000 then (g.phase.get ((r - 0x2000) / 4)).toNat + (g.phase.get ((r - 0x2000) / 4 + 1)).toNat * 2 ^ 32
  else if r < 0x4000 then (g.amp.get ((r - 0x3000) / 4)).toNat + (g.amp.get ((r - 0x3000) / 4 + 1)).toNat * 2 ^ 32
  else if r < 0xC000 then bits (g.seg.get ((r - 0x4000) / 16)) (8 * ((r - 0x4000) % 16)) 64
  else (g.seq.get ((r - 0xC000) / 8)).toNat

/-- The aligned 8 B at an offset of BAR4. The staging of the capture engines is shown entry after entry; the
acquisition buffers and the memories of engines other than site sequencers, whose layout the spec does not give,
show a free value (DESIGN CHOICE, entry 30). -/
def State.window8 (s : State) (o : Nat) : Nat :=
  if o < 0x2000000 then Mem.num s.vs.mem o 8
  else if o < 0x2400000 then
    match ((s.cap.engs.get ((o - 0x2000000) / 0x40000)).staging.drop ((o - 0x2000000) % 0x40000 / 32)).head? with
    | some e => bits e.bits (8 * (o % 32)) 64
    | none => 0
  else if o < 0x2800000 then (Config.windowWord s.free (o / 8 * 8)).toNat
  else if o < 0x2C00000 then
    let r := o - 0x2800000
    if s.nCh ≤ r / 0x8000 then 0 else bits ((s.pin (r / 0x8000)).waves.get (r % 0x8000 / 0x20)) (8 * (r % 0x20)) 64
  else if o < 0x2E00000 then
    let r := o - 0x2C00000
    if 64 ≤ r / 0x4000 then (if r / 0x4000 < 96 then (Config.windowWord s.free (o / 8 * 8)).toNat else 0) else ((s.site (r / 0x4000)).imem.get (r % 0x4000 / 8)).toNat
  else if o < 0x3000000 then
    let r := o - 0x2E00000
    if 64 ≤ r / 0x1000 then (if r / 0x1000 < 96 then (Config.windowWord s.free (o / 8 * 8)).toNat else 0) else Mem.num (s.site (r / 0x1000)).dmem (r % 0x1000) 8
  else if o < 0x3080000 then (s.gen ((o - 0x3000000) / 0x10000)).listWord ((o - 0x3000000) % 0x10000)
  else if o < 0x30A0000 then
    match (s.perf.psBuf.drop ((o - 0x3080000) / 32)).head? with
    | some e => bits e.bits (8 * (o % 32)) 64
    | none => 0
  else if 0x30C0000 ≤ o ∧ o < 0x30C0100 then
    pack ((List.range 4).map fun i => (16 * i, (s.vs.bushels.get ((o - 0x30C0000) / 2 + i)).word))
  else 0

/-- What a read of BAR4 of a size in bytes returns (R21, R549, R551). (DESIGN CHOICE, entry 30.) -/
def State.readWindow (s : State) (o size : Nat) : Nat :=
  if (size ≠ 4 ∧ size ≠ 8) ∨ o % size ≠ 0 then 2 ^ (8 * size) - 1
  else if !s.blockOn false then 2 ^ (8 * size) - 1
  else if size = 8 then s.window8 o else s.window8 (o / 8 * 8) / 2 ^ (8 * (o % 8)) % 2 ^ 32

end Sys2Proof.Machine
end

