-- ==== Sys2Proof/Machine/RegWrite.lean ====
section
/-!
DEFINITION. Host writes of registers: access codes, halves, guards and reserved values (R19 to R21, R535 to
R538, R575, R577), with the requests of the SYS block (R540 to R543).
-/

namespace Sys2Proof.Machine

/-- The state of an outcome, the one before it where it stops. -/
def after (s : State) (r : Res) : State :=
  match r with
  | .next t => t
  | _ => s

/-! ## SYS requests (R511, R517, R540, R541, R543) -/

/-- A power request: the last of a span counts (R540). -/
def requestPower (req : BitVec 2) (s : State) : State := modSys (fun y => { y with powerReq := req }) s

/-- An octet-disable request, pending until the next tick (R517). -/
def requestDisable (o : Nat) (s : State) : State :=
  if s.nOct ≤ o || bit s.sys.disReq o then s
  else modSys (fun y => { y with disReq := setBit y.disReq o true, disTest := setBit y.disTest o true }) s

/-- The idle sites of loaded plans hold their park state again on the channels of an octet (R77). -/
def reparkOctet (o : Nat) (s : State) : State :=
  (List.range 8).foldl (fun t i =>
    match t.ownerOf (8 * o + i) with
    | some n => parkPin n (8 * o + i) t.now t
    | none => t) s

/-- A request cleared: an octet that was disabled is enabled, and its UI PLL relocks (R517, R543). -/
def clearDisable (o : Nat) (s : State) : State :=
  if !bit s.sys.disReq o then s
  else
    let s1 := modSys (fun y => { y with
      disReq := setBit y.disReq o false, disTest := setBit y.disTest o false, disabled := setBit y.disabled o false }) s
    if bit s.sys.disabled o then reparkOctet o (modOctet o (fun x => { x with pllOff := false, relock := true }) s1) else s1

/-- A write of SYS_OCTET_DIS. -/
def writeOctetDis (v : Nat) (s : State) : State :=
  (List.range 16).foldl (fun t o => if v / 2 ^ o % 2 = 1 then requestDisable o t else clearDisable o t) s

/-- STANDBY_REQUEST: a write of SYS_POWER.req 1 (R511). -/
def execStandbyRequest (s : State) : Res := onBlock true s (requestPower 1)

/-- DEEP_STANDBY_REQUEST: a write of SYS_POWER.req 2 (R511). -/
def execDeepStandbyRequest (s : State) : Res := onBlock true s (requestPower 2)

/-- WAKE_REQUEST: a write of SYS_POWER.req 3 (R540). -/
def execWakeRequest (s : State) : Res := onBlock true s (requestPower 3)

/-- A write of SYS_RESET (Table 13.7): key 0xD1 requests a soft reset. -/
def requestReset (key : Nat) (s : State) : State :=
  if key = 0xD1 then modSys (fun y => { y with softReq := true }) s else s

/-- SOFT_RESET_REQUEST (R508, R510). -/
def execSoftResetRequest (key : BitVec 8) (s : State) : Res := onBlock true s (requestReset key.toNat)

/-- OCTET_DISABLE_REQUEST (R517). -/
def execOctetDisableRequest (o : OctetId) (s : State) : Res := onBlock true s (requestDisable o.val)

/-- OCTET_ENABLE (R517, R543). (DEDUCED, entry 50.) -/
def execOctetEnable (o : OctetId) (s : State) : Res := onBlock true s (clearDisable o.val)

/-- Interrupts whose enable bit rises while their status bit is 1 send their message (R546). -/
def writeIrqEnable (v : Nat) (s : State) : State :=
  let new := BitVec.ofNat 20 v
  let rise := new &&& ~~~ s.sys.irqEnable &&& s.sys.irqStatus
  (bitList rise).foldl (fun t b => sendMsix (t.sys.route.get b).toNat t) (modSys (fun y => { y with irqEnable := new }) s)

/-- A write of a register of the SYS block. -/
def writeSys (o : Nat) (w : Wr) (s : State) : State :=
  let v := w.val.toNat
  match o with
  | 0x010 => modSys (fun y => { y with refused := clr y.refused w.val 8 }) s
  | 0x014 => if v % 4 = 0 then s else requestPower (BitVec.ofNat 2 v) s
  | 0x018 => requestReset (v % 256) s
  | 0x020 => writeOctetDis v s
  | 0x028 => modSys (fun y => { y with lost := y.lost &&& ~~~ (BitVec.ofNat 5 v) }) s
  | 0x030 => modSys (fun y => { y with ceilDropped := y.ceilDropped &&& ~~~ (BitVec.ofNat 16 (v / 2 ^ 16)) }) s
  | 0x040 => modSys (fun y => { y with irqStatus := y.irqStatus &&& ~~~ (BitVec.ofNat 20 v) }) s
  | 0x044 => writeIrqEnable v s
  | 0x048 => modSys (fun y => { y with alertSel := BitVec.ofNat 20 v }) s
  | 0x0F0 => modSys (fun y => { y with scratch := rwMerge (fm 0 64) w y.scratch }) s
  | _ =>
    match inst o 0x080 4 20 with
    | some b => modSys (fun y => { y with route := y.route.set b (BitVec.ofNat 11 v) }) s
    | none => s

/-! ## HQM, SEQ, VSTORE and DRAM -/

/-- A write of a register of the HQM block. -/
def writeHqm (o : Nat) (w : Wr) (s : State) : State :=
  let h (pos : Nat) : Bool := bit (hitBits (fm pos 1) w) pos
  match o with
  | 0x000 => after s (execHqmCtrlWrite (lo32 w.val) s)
  | 0x008 => modHqm (fun x => { x with late := x.late && !h 44 }) s
  | 0x010 => writeSpill w s
  | 0x018 => modHqm (fun x => { x with spillEvent := x.spillEvent && !h 23 }) s
  | 0x020 => modHqm (fun x => { x with errEvent := x.errEvent && !h 16 }) s
  | 0x028 => modHqm (fun x => { x with revEvent := x.revEvent && !h 7 }) s
  | _ => s

/-- A write of an MSI-X table entry: a pending message leaves when the entry is unmasked. -/
def writeMsix (v r : Nat) (w : Wr) (s : State) : State :=
  let m := s.hqm.msix.get v
  let put (f : Msix → Msix) : State := modHqm (fun h => { h with msix := h.msix.mod v f }) s
  match r with
  | 0x0 => put fun x => { x with addr := rwMerge (fm 2 62) w x.addr }
  | 0x8 => put fun x => { x with data := lo32 w.val }
  | 0xC =>
    let mask := bit w.val 0
    let t := put fun x => { x with masked := mask, pending := x.pending && mask }
    if m.pending && !mask then sendMsix v t else t
  | _ => s

/-- A write of a register of a site sequencer: SEQ_SITE_LATCH is W1C (Table 2.20). -/
def writeSeq (n r : Nat) (w : Wr) (s : State) : State :=
  if r = 0x18 then
    modSite n (fun x => { x with
      latches := (bitList (hitBits (fm 0 48) w)).foldl (fun m i => m.set i { clr := s.now + 1 }) x.latches }) s
  else s

/-- A write of a register of the DRAM block. -/
def writeDram (o : Nat) (w : Wr) (s : State) : State :=
  if o = 0 then after s (execDramCtrlWrite (lo32 w.val) s)
  else
    match inst o 0x100 0x10 16 with
    | some n => modChan n (fun c => { c with forcedEvent := clr c.forcedEvent w.val 12 }) s
    | none => s

/-! ## TIMING and PIN -/

/-- A write of a register of the TIMING block. -/
def writeTiming (o : Nat) (w : Wr) (s : State) : State :=
  if o = 0x100 then
    let hit := hitBits (fm 32 3) w
    modTiming (fun x => { x with spacingEvent := clr x.spacingEvent hit 32, trimSat := clr x.trimSat hit 33,
                                 refused := clr x.refused hit 34 }) s
  else
    match inst o 0 0x10 16, inst o 0x1000 0x10 128 with
    | some n, _ => after s (execTimingOctetCfgWrite (Fin.ofNat 16 n) (lo32 w.val) s)
    | _, some c => after s (execTimingPinDeskewWrite (Fin.ofNat 128 c) (lo32 w.val) s)
    | _, _ => s

/-- A write of a register of a pin channel. -/
def writePin (c r : Nat) (w : Wr) (s : State) : State :=
  let v := lo32 w.val
  match r with
  | 0x00 => writePinCfg c v s
  | 0x04 => writePinAux c v s
  | 0x08 => writePinCtle c v s
  | 0x20 => modPin c (fun p => { p with
      lolEvent := clr p.lolEvent w.val 2, losEvent := clr p.losEvent w.val 3, phaseLimit := clr p.phaseLimit w.val 4,
      refused := clr p.refused w.val 5, dacSat := clr p.dacSat w.val 6 }) s
  | 0xC0 => if c % 8 = 0 then after s (execPinLinkWrite (Fin.ofNat 16 (c / 8)) w s) else s
  | _ => s

/-! ## CAP -/

/-- A write of CAP_SITE_CFG or CAP_SITE_LOG (R304, R577). -/
def writeCapSite (n r : Nat) (w : Wr) (s : State) : State :=
  let c := s.cap.sites.get n
  let run := (s.site n).running
  let refuse := modSiteCap n (fun x => { x with refused := true }) s
  match r with
  | 0x00 =>
    let cur : W64 := BitVec.ofNat 64 (c.logLimit.toNat + b2n c.logEn * 2 ^ 24 + b2n c.holdEn * 2 ^ 25)
    if run && changes (fm 0 26) (fm 0 26) w cur then refuse
    else
      let v := rwMerge (fm 0 26) w cur
      modSiteCap n (fun x => { x with
        logLimit := BitVec.ofNat 24 (bits v 0 24), logEn := bit v 24, holdEn := bit v 25, refused := clr x.refused w.val 31 }) s
  | 0x08 =>
    let cur : W64 := BitVec.ofNat 64 (c.size.toNat + c.base.toNat * 2 ^ 12)
    let rw := fm 0 4 ||| fm 12 36
    let v := rwMerge rw w cur
    if bits v 0 4 == 15 || (run && changes rw rw w cur) then refuse
    else modSiteCap n (fun x => { x with size := BitVec.ofNat 4 (bits v 0 4), base := BitVec.ofNat 36 (bits v 12 36) }) s
  | _ => s

/-- A write of a register of a trigger unit (R331, R577, Tables 6.19 to 6.24). (DEDUCED, entry 93.) -/
def writeTrig (u r : Nat) (w : Wr) (s : State) : State :=
  let x := s.unit u
  let rw (mask cur : W64) (bad : W64 → Bool) (put : W64 → TrigUnit → TrigUnit) : State :=
    let v := rwMerge mask w cur
    if bad v || (x.armed && v != cur) then modUnit u (fun y => { y with refused := true }) s else modUnit u (put v) s
  let ok (_ : W64) : Bool := false
  match r with
  | 0x00 => rw (fm 0 26 ||| fm 32 4) x.cfg (fun v => decide (5 ≤ bits v 6 3) || (bits v 6 3 == 3 && decide (4 ≤ bits v 10 5)))
      fun v y => { y with cfg := v }
  | 0x08 => rw 0x7F7F7F7F7F7F7F7F x.chanLo ok fun v y => { y with chanLo := v }
  | 0x10 => rw 0x7F7F7F7F7F7F7F7F x.chanHi ok fun v y => { y with chanHi := v }
  | 0x18 => rw (fm 0 48) x.pattern ok fun v y => { y with pattern := v }
  | 0x20 => rw (fm 0 2 ||| fm 32 32) x.holdoff (fun v => bits v 0 2 == 3) fun v y => { y with holdoff := v }
  | 0x28 => rw (fm 0 38 ||| (if u < 4 then fm 38 1 else 0) ||| fm 40 20) x.acq (fun v => decide (17 ≤ bits v 32 5))
      fun v y => { y with acq := v }
  | 0x30 => modUnit u (fun y => { y with refused := clr y.refused (hitBits (fm 9 1) w) 9 }) s
  | _ => s

/-- A write of a register of a capture engine. -/
def writeCapEng (m r : Nat) (w : Wr) (s : State) : State :=
  match r with
  | 0x0 => modEng m (fun e => { e with
      holdHi := BitVec.ofNat 7 (bits w.val 0 7), holdLo := BitVec.ofNat 7 (bits w.val 8 7) }) s
  | 0x8 => modEng m (fun e => { e with lostEvent := clr e.lostEvent (hitBits (fm 48 1) w) 48 }) s
  | _ => s

/-- A write of a register of the CAP block. -/
def writeCap (o : Nat) (w : Wr) (s : State) : State :=
  if o < 0x1000 then writeCapSite (o / 0x40) (o % 0x40) w s
  else
    match within o 0x2000 0x10 16, within o 0x4000 0x80 16 with
    | some e, _ => writeCapEng e.1 e.2 w s
    | _, some e => writeTrig e.1 e.2 w s
    | _, _ => s

/-! ## DDS -/

/-- A write of a DDS register is ignored. -/
def refuseDds (s : State) : State := modDds (fun d => { d with refused := true }) s

/-- A write of a register of a generator (R353, R577, Tables 7.9 to 7.12). (DEDUCED, entry 93.) -/
def writeGen (n r : Nat) (w : Wr) (s : State) : State :=
  let g := s.gen n
  match r with
  | 0x00 =>
    let v : W32 := lo32 w.val &&& 0x3FF
    if decide (3 ≤ bits v 2 3) || (bits v 2 3 == 1 && decide (16 ≤ bits v 5 5)) || (g.running && v != g.cfg) then refuseDds s
    else modGen n (fun x => if bit v 1 = bit x.cfg 1 then { x with cfg := v } else { x with cfg := v }.idleFrom s.now) s
  | 0x08 => modGen n (fun x => { x with jumpDone := clr x.jumpDone (hitBits (fm 2 1) w) 2 }) s
  | 0x10 => after s (execDdsJumpWrite (Fin.ofNat 8 n) (lo32 w.val) (Fin.ofNat 524288 s.time.grain) s)
  | 0x14 =>
    let v := clampI (-2048) 2047 (sbits w.val 0 16)
    if g.running && v != g.skew then refuseDds s else modGen n (fun x => { x with skew := v }) s
  | _ => s

/-- A write of a register of the DDS block (R333). -/
def writeDds (o : Nat) (w : Wr) (s : State) : State :=
  if o = 0 then modDds (fun d => { d with refused := clr d.refused w.val 8 }) s
  else
    match within o 0x100 0x20 8, inst o 0x1000 4 128 with
    | some e, _ => writeGen e.1 e.2 w s
    | _, some c =>
      let gn := bits w.val 0 3
      let en := bit w.val 3
      if (gn != (s.pin c).ddsGen || en != (s.pin c).ddsEn) && s.ownedRunning c then refuseDds s
      else modPin c (fun p => { p with ddsGen := gn, ddsEn := en }) s
    | _, _ => s

/-! ## TIME and Halso -/

/-- A write of a TIME register is ignored. -/
def refuseTime (s : State) : State := modTime (fun x => { x with refused := true }) s

/-- TIME_LIMITS with slew_gr held at 1 to 5 (Table 8.17). -/
def limitsOf (v : W64) : W64 := setBits v 56 3 (clampN 1 5 (bits v 56 3))

/-- A logarithmic message interval of TIME_PTP_CFG is in its range (Table 8.18). -/
def logOk (v : Nat) : Bool := decide (-4 ≤ signedOf 4 v ∧ signedOf 4 v ≤ 1)

/-- A write of TIME_TS_RING: setting en restarts the count of entries written (Table 8.21, R577). -/
def writeTsRing (w : Wr) (s : State) : State :=
  let v := rwMerge (fm 0 5 ||| fm 12 36) w s.time.tsRing
  if 13 ≤ bits v 0 4 then refuseTime s
  else modTime (fun x => { x with
    tsRing := v, tsWritten := if bit v 4 && !bit x.tsRing 4 then 0 else x.tsWritten }) s

/-- RW fields of HALSO_CFG. -/
def halsoCfgRw : W64 := fm 0 12 ||| fm 16 16

/-- A write of HALSO_CFG (R399). -/
def writeHalsoCfg (w : Wr) (s : State) : State :=
  if s.anyRunning && changes halsoCfgRw halsoCfgRw w s.halso.cfg then modHalso (fun h => { h with refused := true }) s
  else
    let s1 := modHalso (fun h => { h with cfg := rwMerge halsoCfgRw w h.cfg }) s
    if s1.halso.cfg = s.halso.cfg then s1 else sendHello s1

/-- A write of a register of the TIME and Halso block. -/
def writeTime (o : Nat) (w : Wr) (s : State) : State :=
  match o with
  | 0x000 => after s (execTimeCfgWrite w s)
  | 0x008 =>
    let hit := hitBits (fm 9 5) w
    modTime (fun x => { x with
      refLost := clr x.refLost hit 9, timeJump := clr x.timeJump hit 10, asymSuspect := clr x.asymSuspect hit 11,
      txTsOvf := clr x.txTsOvf hit 12, refused := clr x.refused hit 13 }) s
  | 0x028 => modTime (fun x => { x with gain := rwMerge (fm 0 64) w x.gain }) s
  | 0x040 => modTime (fun x => { x with limits := limitsOf (rwMerge (fm 0 59) w x.limits) }) s
  | 0x100 =>
    let v := rwMerge (fm 0 20 ||| fm 24 16) w s.time.ptpCfg
    if bits v 0 2 == 3 || !logOk (bits v 12 4) || !logOk (bits v 16 4) then refuseTime s
    else modTime (fun x => { x with ptpCfg := v }) s
  | 0x108 => after s (execTimePtpAsymWrite w s)
  | 0x110 => modTime (fun x => { x with ptpLat := lo32 w.val }) s
  | 0x120 => writeTsRing w s
  | 0x200 => writeHalsoCfg w s
  | 0x208 =>
    let hit := hitBits (fm 4 4) w
    modHalso (fun h => { h with
      lost := clr h.lost hit 4, rttStep := clr h.rttStep hit 5, spanSlip := clr h.spanSlip hit 6, refused := clr h.refused hit 7 }) s
  | _ =>
    match inst o 0x308 0x10 4, inst o 0x500 8 64 with
    | some p, _ => after s (execHalsoCableWrite (Fin.ofNat 4 p) w s)
    | _, some g =>
      let hit := (hitBits (fm 0 32) w).toNat
      modHalso (fun h => { h with merges := h.merges.mod g fun m => { m with
        failed := m.failed &&& ~~~ (BitVec.ofNat 16 hit), ended := m.ended &&& ~~~ (BitVec.ofNat 16 (hit / 2 ^ 16)) } }) s
    | _, _ => s

/-! ## CAL -/

/-- A write of a register of the CAL block. -/
def writeCal (o : Nat) (w : Wr) (s : State) : State :=
  let v := w.val
  match o with
  | 0x0000 => modCal (fun c => { c with
      cont := BitVec.ofNat 16 (bits v 0 16), ddsRef := BitVec.ofNat 7 (bits v 17 7), ddsRefEn := bit v 24 }) s
  | 0x0008 =>
    let hit := hitBits (fm 27 2) w
    modCal (fun c => { c with failEvent := clr c.failEvent hit 27, refused := clr c.refused hit 28 }) s
  | 0x0010 => after s (execCalAdcGo w s)
  | 0x0018 => modCal (fun c => { c with
      warn := BitVec.ofNat 12 (bits v 0 12), crit := BitVec.ofNat 12 (bits v 12 12),
      warnEvent := clr c.warnEvent v 24, critEvent := clr c.critEvent v 25 }) s
  | _ =>
    match inst o 0x100 8 s.nOct, inst o 0x1000 8 s.nCh, within o 0x2000 0x10 32 with
    | some n, _, _ => modOctet n (fun x => { x with drop := clr x.drop (hitBits (fm 29 1) w) 29 }) s
    | _, some c, _ => modPin c (fun p => { p with vernSat := clr p.vernSat (hitBits (fm 12 1) w) 12 }) s
    | _, _, some (i, r) =>
      match r with
      | 0x0 => after s (execCalMonCfgWrite (Fin.ofNat 32 i) (lo32 v) s)
      | 0x4 => modMon i (fun m => { m with rise := clr m.rise v 2, fall := clr m.fall v 3, refused := clr m.refused v 6 }) s
      | 0x8 => modMon i (fun m => { m with sites := rwMerge (fm 0 64) w m.sites }) s
      | _ => s
    | _, _, _ => s

/-! ## PERF and CFG -/

/-- A write of PERF_PS_RING (R532, R577). -/
def writePsRing (w : Wr) (p : Perf) : Perf :=
  let v := rwMerge (fm 0 4 ||| fm 12 36) w p.psRing
  if 13 ≤ bits v 0 4 || (bit p.psCfg 0 && v != p.psRing) then { p with psRefused := true } else { p with psRing := v }

/-- A write of a register of the PERF block. -/
def writePerf (o : Nat) (w : Wr) (s : State) : State :=
  match o with
  | 0x0000 => after s (execPerfFreeze (lo32 w.val) s)
  | 0x0008 => modPerf (fun p => { p with ovf := p.ovf &&& ~~~ (hitBits (fm 0 64) w) }) s
  | 0x0010 => after s (execSnapshotRequest (lo32 w.val) s)
  | 0x3000 => after s (execPerfPsCfgWrite w s)
  | 0x3008 => modPerf (fun p => { p with psRefused := clr p.psRefused (hitBits (fm 14 1) w) 14 }) s
  | 0x3010 => modPerf (writePsRing w) s
  | _ =>
    match inst o 0x1008 0x10 64 with
    | some n => after s (execPerfSelWrite (Fin.ofNat 64 n) (lo32 w.val) s)
    | none => s

/-- A write of a register of the CFG block. -/
def writeCfg (o : Nat) (w : Wr) (s : State) : State :=
  if o = 0 then modCfg (fun c => { c with saveFail := clr c.saveFail (hitBits (fm 5 1) w) 5 }) s else s

/-! ## BAR0 -/

/-- A write that reaches the register at an offset of BAR0. (DEDUCED, entry 15.) -/
def writeReg (o : Nat) (w : Wr) (s : State) : State :=
  if !s.blockOn (alwaysBlock o) then s
  else if o < 0x10000 then writeSys o w s
  else if o < 0x20000 then writeHqm (o - 0x10000) w s
  else if o < 0x40000 then (within o 0x20000 0x40 64).elim s fun e => writeSeq e.1 e.2 w s
  else if o < 0x50000 then
    if o = 0x40008 then modVs (fun v => { v with event := clr v.event (hitBits (fm 48 1) w) 48 }) s else s
  else if o < 0x60000 then writeDram (o - 0x50000) w s
  else if o < 0x80000 then writeTiming (o - 0x60000) w s
  else if o < 0xA0000 then (within o 0x80000 0x100 s.nCh).elim s fun e => writePin e.1 e.2 w s
  else if o < 0xB0000 then writeCap (o - 0xA0000) w s
  else if o < 0xC0000 then
    if o < 0xB1000 then writeDds (o - 0xB0000) w s
    else (inst o 0xB1000 4 s.nCh).elim s fun _ => writeDds (o - 0xB0000) w s
  else if o < 0xD0000 then writeTime (o - 0xC0000) w s
  else if o < 0xE0000 then writeCal (o - 0xD0000) w s
  else if o < 0xF0000 then writePerf (o - 0xE0000) w s
  else if o < 0x100000 then writeCfg (o - 0xF0000) w s
  else if o < 0x180000 then
    (within o 0x100000 0x40 8192).elim s fun e => if e.2 % 8 = 0 then writeQctx e.1 (e.2 / 8) w s else s
  else if o < 0x308000 then (within o 0x300000 0x10 2048).elim s fun e => writeMsix e.1 e.2 w s
  else s

/-- A 32-bit write at an offset: a 32-bit register, or a half of a 64-bit one (R536). -/
def write32 (o : Nat) (v : W32) (s : State) : State :=
  match s.reg o with
  | some _ => writeReg o (wr32 v) s
  | none =>
    match s.reg (o - 4) with
    | some (true, _) =>
      if o % 8 = 4 then writeReg (o - 4) { lo := false, hi := true, val := BitVec.ofNat 64 (v.toNat * 2 ^ 32) } s else s
    | _ => s

/-- A host write of BAR0 of a size in bytes (R21, R535 to R537). (DEDUCED, entry 32.) -/
def hostWrite (o size : Nat) (v : W64) (s : State) : State :=
  if size = 4 ∧ o % 4 = 0 then write32 o (lo32 v) s
  else if size = 8 ∧ o % 8 = 0 then
    match s.reg o with
    | some (true, _) => writeReg o { val := v } s
    | _ => write32 (o + 4) (lo32 (v >>> 32)) (write32 o (lo32 v) s)
  else s

/-- REGISTER_WRITE (R19, R21, R513, R535 to R538, R575, R577). (DEDUCED, entry 32.) -/
def execRegisterWrite (off : BitVec 22) (size : Nat) (v : W64) (s : State) : Res := .next (hostWrite off.toNat size v s)

end Sys2Proof.Machine
end

