-- ==== Sys2Proof/Machine/Store.lean ====
section
/-!
DEFINITION. The configuration memory: banks, sections and records, the factory region, the ageing log,
CFG_SAVE (R489 to R502).
-/

namespace Sys2Proof.Machine

/-! ## The memory (Table 11.1, DESIGN CHOICE, entry 7) -/

/-- n bytes of the configuration memory from an address. (DESIGN CHOICE, entry 7.) -/
def flBytes (m : Mem) (a n : Nat) : List Byte := (Mem.bytes m a n).map fun b => ~~~ b

/-- The little-endian number in n bytes of the configuration memory. -/
def flNum (m : Mem) (a n : Nat) : Nat := leNat (flBytes m a n)

/-- Bytes programmed into the configuration memory. (DESIGN CHOICE, entry 7.) -/
def flStore (m : Mem) (a : Nat) (bs : List Byte) : Mem := Mem.store m a (bs.map fun b => ~~~ b)

/-- The 4 KiB sectors that cover a length erased. -/
def flErase (m : Mem) (a len : Nat) : Mem := Mem.clear m a (ceilDiv len 4096 * 4096)

/-- Where a bank starts. -/
def bankBase (b : Bool) : Nat := if b then 0x400000 else 0

/-- Where a factory copy starts; true is copy B. -/
def factoryBase (b : Bool) : Nat := if b then 0x780000 else 0x380000

/-! ## Headers (R491 to R493, R496) -/

/-- Header fields at a base (Table 11.2). -/
def hdrPresent (m : Mem) (a : Nat) : BitVec 7 := BitVec.ofNat 7 (flNum m (a + 6) 2)
@[inherit_doc hdrPresent] def hdrSeq (m : Mem) (a : Nat) : Nat := flNum m (a + 8) 4
@[inherit_doc hdrPresent] def hdrLength (m : Mem) (a : Nat) : Nat := flNum m (a + 0x0C) 4
@[inherit_doc hdrPresent] def secOff (m : Mem) (a s : Nat) : Nat := flNum m (a + 0x40 + 8 * s) 4
@[inherit_doc hdrPresent] def secLen (m : Mem) (a s : Nat) : Nat := flNum m (a + 0x44 + 8 * s) 4

/-- Magic, major version and header CRC are right. -/
def hdrForm (m : Mem) (a magic : Nat) : Bool :=
  flNum m a 4 == magic && flNum m (a + 5) 1 == 1 && crc32c (flBytes m a 0x7C) == BitVec.ofNat 32 (flNum m (a + 0x7C) 4)

/-- Body CRC is right. -/
def bodyOk (m : Mem) (a : Nat) : Bool :=
  crc32c (flBytes m (a + 0x80) (hdrLength m a - 0x80)) == BitVec.ofNat 32 (flNum m (a + 0x24) 4)

/-- A present section lies in the image. -/
def secOk (m : Mem) (a s : Nat) : Bool :=
  !bit (hdrPresent m a) s ||
    (decide (0x80 ≤ secOff m a s) && decide (secOff m a s + secLen m a s ≤ hdrLength m a))

/-- The header of a bank is valid (R492). -/
def bankHdrOk (m : Mem) (b : Bool) : Bool :=
  let a := bankBase b
  hdrForm m a 0x47434B5A && decide (128 ≤ hdrLength m a ∧ hdrLength m a ≤ 3670016) &&
  decide (1 ≤ hdrSeq m a ∧ hdrSeq m a ≤ 0xFFFFFFFE) && (List.range 7).all (secOk m a)

/-- The bank in use (R493). -/
def bankInUse (m : Mem) : Option Bool :=
  let h0 := bankHdrOk m false
  let h1 := bankHdrOk m true
  let first := h1 && (!h0 || decide (hdrSeq m 0 < hdrSeq m 0x400000))
  let try1 (b : Bool) : Bool := (if b then h1 else h0) && bodyOk m (bankBase b)
  if try1 first then some first else if try1 !first then some !first else none

/-- A factory copy is valid (R496). -/
def factoryOk (m : Mem) (b : Bool) : Bool :=
  let a := factoryBase b
  hdrForm m a 0x41464B5A && decide (128 ≤ hdrLength m a ∧ hdrLength m a ≤ 128 + 65536) && bodyOk m a

/-- A record: kind, offset, value (Table 11.4). -/
abbrev CfgRec := Nat × Nat × Nat

/-- The records in a range of the memory. -/
def readRecs (m : Mem) (a len : Nat) : List CfgRec :=
  (List.range (len / 16)).map fun i => (flNum m (a + 16 * i) 1, flNum m (a + 16 * i + 4) 4, flNum m (a + 16 * i + 8) 8)

/-- The records of a section of a bank, none where it is absent. -/
def sectionRecs (m : Mem) (b : Option Bool) (sec : Nat) : Option (List CfgRec) :=
  match b with
  | none => none
  | some x =>
    let a := bankBase x
    if bit (hdrPresent m a) sec then some (readRecs m (a + secOff m a sec) (secLen m a sec)) else none

/-! ## Applying records (R494 to R496) -/

/-- Registers of kind 1 that a section admits (Table 11.3). -/
def kind1Ok (sec o : Nat) : Bool :=
  match sec with
  | 3 => o == 0xC0200 || (inst o 0xC0308 0x10 4).isSome
  | 4 => [0xC0000, 0xC0028, 0xC0040, 0xC0100, 0xC0108, 0xC0110].contains o
  | 5 => o == 0xD0018 || (inst o 0xD2000 0x10 32).isSome || (inst o 0xD2008 0x10 32).isSome
  | 6 => o == 0x50000 || o == 0xD0000 || (inst o 0xB0114 0x20 8).isSome
  | _ => false

/-- A register written whole, as a host write would be. -/
def applyKind1 (o v : Nat) (s : State) : State :=
  match s.reg o with
  | some (wide, _) => hostWrite o (if wide then 8 else 4) (BitVec.ofNat 64 (if wide then v else v % 2 ^ 32)) s
  | none => s

/-- A coefficient of a channel set as target and applied value: 0 TIMING_PIN_DESKEW, 1 TIMING_PIN_TRIM, 2 PIN_CTLE,
3 PIN_DFE, 4 + d PIN_DAC_TARGET (Table 11.4). -/
def putCoef (which v : Nat) (p : Pin) : Pin :=
  let f (pos n : Nat) : Int := signedOf n (v / 2 ^ pos % 2 ^ n)
  match which with
  | 0 => { p with dDrv := f 0 16, dCmp := f 16 16 }
  | 1 => { p with tDrv := f 0 12, pDrv := f 0 12, vDrv := f 0 12, tCmp := f 12 12, pCmp := f 12 12, vCmp := f 12 12, fall := f 24 8 }
  | 2 => { p with ctle := setBits p.ctle 0 4 (v % 16) }
  | 3 => { p with taps := (List.range 8).foldl (fun m n => m.set n (f (8 * n) 8)) p.taps }
  | d => { p with dacs := p.dacs.set (d - 4) { tOff := f 0 10, tGain := f 10 12, off := f 0 10, gain := f 10 12 } }

/-- The coefficient register of a channel at an offset of BAR0. -/
def coefAt (n o : Nat) : Option (Nat × Nat) :=
  match within o 0x61000 0x10 n, within o 0x80000 0x100 n with
  | some (c, 0), _ => some (c, 0)
  | some (c, 4), _ => some (c, 1)
  | _, some (c, 0x08) => some (c, 2)
  | _, some (c, 0x10) => some (c, 3)
  | _, some (c, r) => (inst r 0x40 4 5).map fun d => (c, 4 + d)
  | _, _ => none

/-- An octet coefficient (Table 11.4). -/
def putOctCoef (item v : Nat) (x : Octet) : Octet :=
  match item with
  | 0 => { x with band := v }
  | 1 => { x with trim := signedOf 64 v }
  | i => { x with asym := (List.range 4).map fun j => if j = i - 2 then signedOf 64 v else x.asym.getD j 0 }

/-- A record of coefficients applied; none where it is skipped. -/
def applyCoef (r : CfgRec) (s : State) : Option State :=
  if r.1 = 2 then (coefAt s.nCh r.2.1).map fun e => modPin e.1 (putCoef e.2 r.2.2) s
  else if r.1 = 3 then
    let o := r.2.1 % 16
    let item := r.2.1 / 256 % 16
    if o < s.nOct ∧ item ≤ 5 ∧ r.2.1 = o + item * 256 then some (modOctet o (putOctCoef item r.2.2) s) else none
  else none

/-- A record of a section applied; none where it is skipped (R495). (DEDUCED, entry 99.) -/
def applyRec (sec : Nat) (r : CfgRec) (s : State) : Option State :=
  match sec with
  | 1 => applyCoef r s
  | 2 =>
    if r.1 = 2 then (inst r.2.1 0xD0100 8 s.nOct).map fun o => modOctet o (fun x => { x with bootCeil := r.2.2 % 65536 }) s
    else none
  | _ => if r.1 = 1 ∧ kind1Ok sec r.2.1 then some (applyKind1 r.2.1 r.2.2 s) else none

/-- The records of a section applied in order; those skipped are counted. -/
def applyRecs (sec : Nat) (rs : List CfgRec) (s : State) : State :=
  rs.foldl (fun t r =>
    match applyRec sec r t with
    | some u => u
    | none => modCfg (fun c => { c with skipped := satAdd 0xFFFF c.skipped 1 }) t) s

/-- A section of the bank in use applied, when it is present. (DEDUCED, entry 99.) -/
def applySection (b : Option Bool) (sec : Nat) (s : State) : State :=
  match sectionRecs s.cfg.flash b sec with
  | some rs => applyRecs sec rs s
  | none => s

/-- A kind 4 record of the factory region (R496). -/
def applyFactory (r : CfgRec) (s : State) : State :=
  let i := r.2.1 % 256
  match r.2.1 / 256 % 16 with
  | 0 => modOctet i (fun x => { x with cFab := r.2.2 % 65536 }) s
  | 1 => modOctet i (fun x => { x with margin0 := signedOf 64 r.2.2 }) s
  | 2 => modOctet i (fun x => { x with base0 := signedOf 64 r.2.2 }) s
  | 3 => modTime (fun x => { x with ptpLat := BitVec.ofNat 32 r.2.2 }) s
  | 4 => modPort i (fun x => { x with latTx := ((r.2.2 % 65536 : Nat) : Int), latRx := ((r.2.2 / 65536 % 65536 : Nat) : Int) }) s
  | _ => s

/-- The octets and ports that factory data may name. -/
def factoryIndexOk (s : State) (r : CfgRec) : Bool :=
  let i := r.2.1 % 256
  match r.2.1 / 256 % 16 with
  | 3 => i == 0
  | 4 => decide (i < 4)
  | _ => decide (i < s.nOct)

/-- The ceilings and margins of an octet without factory data (R497). -/
def defaultOctets (s : State) : State :=
  (List.range s.nOct).foldl (fun t o => modOctet o (fun x => { x with cFab := 2000, margin0 := 0, base0 := 0 }) t) s

/-- The factory data loaded (R496, R497): on a soft reset only what no retention keeps, the ceilings and margins of
the octets. -/
def loadFactory (answers hard : Bool) (s : State) : State :=
  let m := s.cfg.flash
  let a := answers && factoryOk m false
  let b := answers && factoryOk m true
  let s1 := defaultOctets (modCfg (fun c => { c with factoryCopy := !a && b, factoryBad := !a && !b }) s)
  if a || b then
    let base := factoryBase !a
    (readRecs m (base + 0x80) (hdrLength m base - 0x80)).foldl (fun t r =>
      if r.1 = 4 then
        if factoryIndexOk t r && (hard || decide (r.2.1 / 256 % 16 ≤ 2)) then applyFactory r t else t
      else if hard then (applyCoef r t).getD t else t) s1
  else s1

/-! ## The ageing log (R441, R498, Table 11.5) -/

/-- Entries in a half. -/
def ageHalfSize : Nat := 2048

/-- Address of entry i of a half. -/
def ageAddr (half : Bool) (i : Nat) : Nat := (if half then 0x7C0000 else 0x3C0000) + 128 * i

/-- An entry is valid. -/
def ageOk (m : Mem) (a : Nat) : Bool :=
  flNum m a 2 == 0x4741 &&
  crc32c (flBytes m a 0x1C ++ flBytes m (a + 0x20) 0x60) == BitVec.ofNat 32 (flNum m (a + 0x1C) 4)

/-- The valid entry with the highest number: its half, its place and its number. -/
def ageLast (m : Mem) : Option (Bool × Nat × Nat) :=
  ((List.range (2 * ageHalfSize)).map fun i => (decide (ageHalfSize ≤ i), i % ageHalfSize)).foldl (fun acc e =>
    let a := ageAddr e.1 e.2
    if ageOk m a then
      let q := flNum m (a + 4) 4
      match acc with
      | some (_, _, p) => if p < q then some (e.1, e.2, q) else acc
      | none => some (e.1, e.2, q)
    else acc) none

/-- The ageing buffers seeded from the log (R498). -/
def seedAgeing (answers : Bool) (s : State) : State :=
  match (if answers then ageLast s.cfg.flash else none) with
  | none => modCfg (fun c => { c with ageEntries := 0, ageHalf := false, ageSeq := 0 }) s
  | some (h, i, q) =>
    let a := ageAddr h i
    (List.range s.nOct).foldl (fun t o => modOctet o (fun x =>
        let y := { x with readings := List.replicate 16 (flNum s.cfg.flash (a + 0x20 + 6 * o) 2) }
        { y with d := y.dNow.toNat, m := y.mNow }) t)
      (modCfg (fun c => { c with ageEntries := i + 1, ageHalf := h, ageSeq := BitVec.ofNat 32 q }) s)

/-- The bytes of an ageing entry. -/
def ageEntry (cause : Nat) (s : State) : List Byte :=
  let hd := leBytes 2 0x4741 ++ leBytes 1 cause ++ leBytes 1 0 ++ leBytes 4 (s.cfg.ageSeq.toNat + 1) ++
    leBytes 8 s.time.span ++ leBytes 12 (timeValue (s.devTime s.now) s.time.epoch).toNat
  let body := (List.range 16).flatMap fun o =>
    let x := s.octet o
    leBytes 2 x.dNow.toNat ++ leBytes 2 (codeOf 16 x.mNow) ++ leBytes 2 x.ceiling
  hd ++ leBytes 4 (crc32c (hd ++ body)).toNat ++ body

/-- AGEING_LOG_APPEND: every 2³⁵ spans, or at a fall of a ceiling (R441, R498). (DESIGN CHOICE, entry 108.) -/
def execAgeingLogAppend (ceilingFall : Bool) (s : State) : Res :=
  if !s.timeOn || s.cfg.absent || !(ceilingFall || s.time.span % 2 ^ 35 == 0) then .next s
  else
    let full := decide (ageHalfSize ≤ s.cfg.ageEntries)
    let half := if full then !s.cfg.ageHalf else s.cfg.ageHalf
    let i := if full then 0 else s.cfg.ageEntries
    let bs := ageEntry (if ceilingFall then 2 else 1) s
    .next (modCfg (fun c => { c with
      flash := flStore (if full then flErase c.flash (ageAddr half 0) 0x40000 else c.flash) (ageAddr half i) bs,
      ageEntries := i + 1, ageHalf := half, ageSeq := c.ageSeq + 1 }) s)

/-! ## CFG_SAVE (R499 to R501) -/

/-- The bytes of a record. -/
def recBytes (r : CfgRec) : List Byte := leBytes 4 r.1 ++ leBytes 4 r.2.1 ++ leBytes 8 r.2.2

/-- The value of a register as it reads. -/
def State.regVal (s : State) (o : Nat) : Nat := (s.reg o).elim 0 Prod.snd

/-- Records of kind k of some registers. -/
def State.regRecs (s : State) (k : Nat) (os : List Nat) : List CfgRec := os.map fun o => (k, o, s.regVal o)

/-- The octet coefficients, by item (Table 11.4). -/
def State.octRecs (s : State) : List CfgRec :=
  (List.range 6).flatMap fun item => (List.range s.nOct).map fun o =>
    let x := s.octet o
    (3, o + item * 256, match item with
      | 0 => x.band
      | 1 => codeOf 64 x.trim
      | j => codeOf 64 (x.asym.getD (j - 2) 0))

/-- The applied coefficients of the channels, ascending (R500). -/
def State.coefRecs (s : State) : List CfgRec :=
  ((List.range s.nCh).flatMap fun c =>
    let p := s.pin c
    [(2, 0x61000 + 0x10 * c, pack [sf 0 16 p.dDrv, sf 16 16 p.dCmp]),
     (2, 0x61004 + 0x10 * c, pack [sf 0 12 p.vDrv, sf 12 12 p.vCmp, sf 24 8 p.fall])]) ++
  (List.range s.nCh).flatMap fun c =>
    let o := 0x80000 + 0x100 * c
    [(2, o + 0x08, (s.ctle c).toNat), (2, o + 0x10, pack ((List.range 8).map fun n => sf (8 * n) 8 (s.tap c n)))] ++
    (List.range 5).map fun d =>
      let x := (s.pin c).dacs.get d
      (2, o + 0x40 + 4 * d, dacWord x.off x.gain)

/-- The records of a section at the snapshot (R500). -/
def State.snapRecs (s : State) (sec : Nat) : List CfgRec :=
  match sec with
  | 1 => s.octRecs ++ s.coefRecs
  | 2 => s.regRecs 2 ((List.range s.nOct).map fun o => 0xD0100 + 8 * o)
  | 3 => s.regRecs 1 (0xC0200 :: (List.range 4).map fun p => 0xC0308 + 0x10 * p)
  | 4 => s.regRecs 1 [0xC0000, 0xC0028, 0xC0040, 0xC0100, 0xC0108, 0xC0110]
  | 5 => s.regRecs 1 (0xD0018 :: (List.range 32).flatMap fun i => [0xD2000 + 0x10 * i, 0xD2008 + 0x10 * i])
  | 6 => s.regRecs 1 (0x50000 :: ((List.range 8).map fun g => 0xB0114 + 0x20 * g) ++ [0xD0000])
  | _ => []

/-- The bank in use now: its number is never 0 (Table 11.2). (DEDUCED, entry 100.) -/
def State.bank (s : State) : Option Bool := if s.cfg.seq = 0 then none else some s.cfg.bank

/-- The bytes of a section of the new image; none where it is absent (R500). -/
def State.saveSection (s : State) (mask sec : Nat) : Option (List Byte) :=
  if mask / 2 ^ sec % 2 = 1 then some ((s.snapRecs sec).flatMap recBytes)
  else
    match s.bank with
    | some b =>
      let a := bankBase b
      if bit (hdrPresent s.cfg.flash a) sec then
        some (flBytes s.cfg.flash (a + secOff s.cfg.flash a sec) (secLen s.cfg.flash a sec))
      else if sec = 0 then some (List.replicate 16 0#8)
      else none
    | none => if sec = 0 then some (List.replicate 16 0#8) else none

/-- The sections of the new image. -/
def State.saveSections (s : State) (mask : Nat) : List (Option (List Byte)) := (List.range 7).map (s.saveSection mask)

/-- Directory entries of sections laid one after another from an offset. -/
def saveDir : Nat → List (Option (List Byte)) → List Byte
  | _, [] => []
  | off, none :: l => leBytes 8 0 ++ saveDir off l
  | off, some b :: l => leBytes 4 off ++ leBytes 4 b.length ++ saveDir (off + b.length) l

/-- The new image: header and body (Table 11.2). -/
def State.saveImage (s : State) (mask seq : Nat) : List Byte :=
  let secs := s.saveSections mask
  let body := secs.flatMap fun x => x.getD []
  let present := ((List.range 7).map fun i => b2n (secs.getD i none).isSome * 2 ^ i).foldl (· + ·) 0
  let hd := leBytes 4 0x47434B5A ++ leBytes 2 0x0100 ++ leBytes 2 present ++ leBytes 4 seq ++ leBytes 4 (128 + body.length) ++
    leBytes 8 s.time.span ++ leBytes 12 (timeValue (s.devTime s.now) s.time.epoch).toNat ++ leBytes 4 (crc32c body).toNat ++
    List.replicate 24 0#8 ++ saveDir 0x80 secs ++ leBytes 4 0
  hd ++ leBytes 4 (crc32c hd).toNat ++ body

/-- CFG_SAVE in its states with the memory there, while sequence numbers are left (R499). -/
def State.saveOk (s : State) : Bool :=
  (match s.sys.state with
    | .bringUp | .ready | .standby => true
    | _ => false) && !s.cfg.absent && s.cfg.seq != 0xFFFFFFFE

/-- CFG_SAVE: its snapshot at cycle 0 of the span after its dispatch, the bank written or not (R499 to R501).
(DEDUCED, entry 95.) (DEDUCED, entry 100.) -/
def execCfgSave (k : CmdSlot) (written : Bool) (s : State) : Res :=
  onCmd k 0x48 s fun d t =>
    if t.time.span ≤ (t.cmd k.val).dspan then t
    else if !t.saveOk then complete k.val stPrecondition 0 t
    else
      let seq := t.cfg.seq.toNat + 1
      let b := t.bank == some false
      let im := t.saveImage (pay d 0 4) seq
      let erased := flErase t.cfg.flash (bankBase b) im.length
      if written && decide (im.length ≤ 3670016) then
        complete k.val stOK seq (modCfg (fun c => { c with
          flash := flStore erased (bankBase b) im, bank := b, seq := BitVec.ofNat 32 seq,
          present := hdrPresent (flStore erased (bankBase b) im) (bankBase b) }) t)
      else complete k.val stIntegrity 0 (modCfg (fun c => { c with flash := erased, saveFail := true }) t)

end Sys2Proof.Machine
end

