-- ==== Sys2Proof/Machine/Reset.lean ====
section
/-!
DEFINITION. Resets, Boot, low-power states and octet disabling: what each stops, keeps, loses and restores (R49
to R54, R503 to R517, R540 to R544, Table 11.9).
-/

namespace Sys2Proof.Machine

/-! ## Work in flight at a reset (R510) -/

/-- A compare that waits for a link result gets none (R281). -/
def noAnswer (c : CmpRes) : CmpRes :=
  if c.sent then { c with sent := false, cls := none, supp := true, judged := false } else c

/-- A held vector gets no more results; a channel that loses one has a suspect range there, cause 8, unless it has
one open (R281, R298). -/
def cutHeld (open_ : Nat → Bool) : Held → Held
  | .vec p ts u pr lm rs os cs =>
    let add := (rs.filter fun r => r.cmps.any (·.sent) && !open_ r.ch && os.all fun e => e.1 != r.ch).map fun r =>
      ((r.ch, 8, 0) : SusEnt)
    .vec p ts u pr lm (rs.map fun r => { r with cmps := r.cmps.map noAnswer }) (os ++ add) (cs ++ add)
  | h => h

/-- A running site stops now, and its fail log is complete (R129, R510). -/
def cutSite (n : Nat) (s : State) : State :=
  let x := s.site n
  let s1 := if x.play = .ended then s
    else endRun n { status := stCancelled } true s.now x.posn.1 x.posn.2 s
  let open_ (c : Nat) : Bool := (s1.pin c).suspect.elim false fun z => z.opened
  let s2 := modSite n (fun y => { y with held := y.held.map (cutHeld open_) }) s1
  flush n (s2.site n).held.length s2

/-- A generator stops as for an immediate DDS_STOP that holds from this span (R350, R510). -/
def cutGen (n : Nat) (s : State) : State :=
  let g := s.gen n
  let st : Nat × Bool × Option Nat := (s.time.span, true, none)
  if g.running then stopGen n (g.stopAt s.time.span) st s
  else if g.startSpan.isSome then stopGen n s.now st s
  else s

/-- Everything that an engine stages is in DRAM. -/
def drainEngine (m : Nat) (s : State) : State :=
  modEng m (fun e => { e with staging := [] }) ((s.cap.engs.get m).staging.foldl (fun t x => writeStaged x t) s)

/-- The lines of a group's closed records are in DRAM. -/
def drainGroup (m : Nat) (s : State) : State :=
  let g := s.group m
  (List.range (g.lines.length + (g.tails.map fun x => x.lines.length).foldl (· + ·) 0)).foldl (fun t _ => writeRec m t) s

/-- A group is disarmed and its records are in DRAM (R317, R510). -/
def cutGroup (m : Nat) (s : State) : State :=
  drainGroup m (if (s.group m).st = .disarmed then s else disarmGroup m (drainGroup m s))

/-- A site that has ended is idle. -/
def idleSite (n : Nat) (s : State) : State :=
  match (s.site n).fin with
  | some e => completeRun n e s
  | none => s

/-- What R510 stops, and the logs and records that it writes. (DESIGN CHOICE, entry 22.) -/
def stopWork (s : State) : State :=
  let ns := s.running
  let s1 := ns.foldl (fun t n => cutSite n t) s
  let s2 := (List.range 8).foldl (fun t g => cutGen g t) s1
  let s3 := (List.range 16).foldl (fun t m => cutGroup m t) s2
  let s4 := (List.range 16).foldl (fun t m => drainEngine m t) s3
  ns.foldl (fun t n => idleSite n t) s4

/-- The commands of the command store discarded, with what they had begun; the HQM back in its reset state (R510,
Table 11.9). -/
def dropCommands (keepMsix : Bool) (s : State) : State :=
  let s1 := match s.vs.loadWait with
    | some (_, mask) => pllDown mask (modVs (fun v => { v with loadWait := none }) s)
    | none => s
  let s2 := modTime (fun x => { x with step := match x.step with
    | some (_, _, _, some _) => none
    | v => v }) s1
  let s3 := modCal (fun c => { c with waiting := [], cmd := none }) s2
  let s4 := if s3.cal.mode = .single then calIdle s3 else s3
  let s5 := mapPins (fun _ p => { p with scan := none }) (modDram (fun d => { d with reqs := [] }) s4)
  modSys (fun y => { y with lost := y.lost ||| 0b10000 })
    (modHqm (fun h => { ({} : Hqm) with msix := if keepMsix then h.msix else [] }) s5)

/-! ## What is lost (Table 11.9) -/

/-- Every pin released now: HiZ, the open input (R77, R244, R509). -/
def releaseAll (s : State) : State := (List.range 128).foldl (fun t c => openBall t.now c t) s

/-- A channel keeps its coefficients, targets and applied values; tables and configuration registers go. -/
def keepPin (p : Pin) : Pin :=
  { ({} : Pin) with
    ctle := setBits 0x106 0 4 (bits p.ctle 0 4), taps := p.taps, dacs := p.dacs, dDrv := p.dDrv, dCmp := p.dCmp,
    tDrv := p.tDrv, tCmp := p.tCmp, fall := p.fall, vDrv := p.vDrv, vCmp := p.vCmp, vSpan := p.vSpan, pDrv := p.pDrv,
    pCmp := p.pCmp, tSpan := p.tSpan, lastDrv := p.lastDrv, lastCmp := p.lastCmp, driveTimed := p.driveTimed }

/-- An octet keeps its coefficients, ceilings and ageing data; pll_off stays 1 on a disabled octet (R517). -/
def keepOctet (disabled : Bool) (x : Octet) : Octet :=
  { ({} : Octet) with
    pllOff := disabled, locked := x.locked, chg := x.chg, ceiling := x.ceiling, bootCeil := x.bootCeil, tCal := x.tCal,
    drop := x.drop, cFab := x.cFab, margin0 := x.margin0, base0 := x.base0, readings := x.readings,
    nReadings := x.nReadings, d := x.d, m := x.m, band := x.band, trim := x.trim, asym := x.asym, baseline := x.baseline }

/-- The calibration block keeps its monitors, sensors and thresholds, auto_cal, the converter offset and the
oscillator frequency. -/
def keepCal (c : Cal) : Cal :=
  { ({} : Cal) with
    autoCal := c.autoCal, warn := c.warn, crit := c.crit, warnEvent := c.warnEvent, critEvent := c.critEvent, trip := c.trip,
    sensors := c.sensors, mons := c.mons, convOff := c.convOff, oscFreq := c.oscFreq }

/-- DRAM keeps its contents, training and refresh state; DRAM_CTRL's settings go, its grain too (R190). -/
def keepDram (d : Dram) : Dram := { setGrain 0 d with rate := 5, refused := false, reqs := [], openRow := [] }

/-- Sites and barriers back at their defaults. -/
def noSites (s : State) : State := { s with sites := [], barriers := [] }

/-- What a soft reset and Deep standby both lose: plans, tables, queues, lists, configuration registers, capture
state and counters. (DEDUCED, entry 97.) -/
def loseWork (s0 : State) : State :=
  let s := releaseAll (dropCommands true s0)
  let s1 := mapOctets (fun o x => keepOctet (bit s.sys.disabled o) x) (mapPins (fun _ p => keepPin p) (noSites s))
  modSys (fun y => { y with lost := y.lost ||| 0b11100 }) (modDram keepDram (modCal keepCal
    (modVs (fun _ => {}) (modCap (fun _ => {}) (modDds (fun _ => {}) (modPerf (fun _ => {})
      (modTiming (fun _ => {}) s1)))))))

/-! ## Hard resets (R508, R509, Table 11.9) -/

/-- The machine in Reset: factory values, the configuration memory and the levels at its balls are kept; peak
temperatures too, over RESET_N. (DESIGN CHOICE, entry 25.) -/
def hardReset (s : State) : State :=
  let u := releaseAll s
  let z : State := {}
  { z with
    sys := { z.sys with is64 := s.sys.is64, rev := s.sys.rev, resetN := s.sys.resetN, por := s.sys.por,
                        railsGood := s.sys.railsGood }
    time := { z.time with refPresent := s.time.refPresent, refLostNow := s.time.refLostNow }
    cal := { z.cal with sensors := if s.sys.por then [] else s.cal.sensors.mapAll fun _ x => { x with temp := 0 } }
    cfg := { z.cfg with flash := s.cfg.flash }
    host := s.host, out := u.out, free := s.free, pending := s.pending }

/-- POWER_ON_RESET (R508, R509). (DESIGN CHOICE, entry 25.) -/
def execPowerOnReset (s : State) : Res :=
  .next (hardReset (modTime (fun x => { x with refPresent := false, refLostNow := true })
    (modSys (fun y => { y with por := true, railsGood := false }) s)))

/-- RESET_N_ASSERT (R508, R509). -/
def execResetNAssert (s : State) : Res := .next (hardReset (modSys (fun y => { y with resetN := true }) s))

/-- RESET_N_DEASSERT (R503, R561). -/
def execResetNDeassert (s : State) : Res := .next (tryBoot (modSys (fun y => { y with resetN := false }) s))

/-- POWER_ON_RESET_END: rails in range and REF_IN present for 1 ms (R503, R561). -/
def execPowerOnResetEnd (s : State) : Res :=
  if s.sys.por then
    .next (tryBoot (modTime (fun x => { x with refPresent := true, refLostNow := false })
      (modSys (fun y => { y with por := false, railsGood := true }) s)))
  else .next s

/-! ## PCIe resets (R508, R510) -/

/-- PERST_N: it acts at the next tick (R510). -/
def execPerstN (s : State) : Res :=
  if s.sys.state = .reset then .next s else .next (modSys (fun y => { y with pcieReq := true }) s)

/-- FLR: it acts at the next tick (R510). -/
def execFlr (s : State) : Res :=
  if s.sys.state = .reset then .next s else .next (modSys (fun y => { y with pcieReq := true }) s)

/-- PERST_N or FLR at the tick (R510, Table 11.9). (DEDUCED, entry 109.) -/
def pcieTick (s : State) : State :=
  if s.sys.pcieReq then
    modPerf (fun _ => {}) (dropCommands false (stopWork (modSys (fun y => { y with pcieReq := false }) s)))
  else s

/-! ## Soft reset (R503, R510, R541, R544) -/

/-- A soft reset at the tick: work stops, what is not kept is lost, ceilings stand until Boot sets them, requests of the
same span are discarded. (DESIGN CHOICE, entry 22.) (DEDUCED, entry 97.) (DEDUCED, entry 98.) (DEDUCED, entry 111.) -/
def softReset (s : State) : State :=
  let s1 := loseWork (stopWork s)
  let again := decide (s.sys.state = .boot)
  let s2 := modSys (fun y => { y with
    softReq := false, powerReq := 0, disReq := y.disReq &&& ~~~ y.disTest, disTest := 0, waking := false,
    softBoot := !again || y.softBoot }) (if s1.dram.selfRef then restartRefresh s1 else s1)
  let s3 := mapOctets (fun _ x => { x with nReadings := 0, baseline := none }) s2
  if again then s3 else enterState .boot s3

/-! ## Boot (R503 to R507, Table 11.6) -/

/-- The sections that Boot applies (Table 11.3): on a soft reset only the ceilings and the controller. -/
def bootSections (hard : Bool) (b : Option Bool) (s : State) : State :=
  let s0 := (List.range s.nOct).foldl (fun t o => modOctet o (fun x => { x with bootCeil := x.cFab }) t) s
  if hard then
    let s1 := applySection b 1 s0
    let s2 := if (sectionRecs s.cfg.flash b 1).isNone then
        modSys (fun y => { y with lost := y.lost ||| 0b00001 }) s1 else s1
    [2, 3, 4, 5, 6].foldl (fun t i => applySection b i t) s2
  else applySection b 6 (applySection b 2 s0)

/-- CFG_STATUS and CFG_FLASH after the reads of Boot (R493, Tables 11.12, 11.13). -/
def bootStatus (b : BootIn) (u : Option Bool) (s : State) : State :=
  let a := bankBase (u.getD false)
  modCfg (fun c => { c with
    bank := u.getD false, imageValid := u.isSome, absent := !b.memAnswers, skipped := 0,
    present := if u.isSome then hdrPresent c.flash a else 0,
    seq := if u.isSome then BitVec.ofNat 32 (hdrSeq c.flash a) else 0,
    logSize := if b.memAnswers then b.logSize else 0, addr4 := b.memAnswers && b.addr4 }) s

/-- Section 0: the PCIe identity and auto_cal (Table 11.3). -/
def bootIdentity (u : Option Bool) (s : State) : State :=
  match u with
  | none => modCal (fun c => { c with autoCal := false }) s
  | some b =>
    let a := bankBase b
    if bit (hdrPresent s.cfg.flash a) 0 then
      let v := flNum s.cfg.flash (a + secOff s.cfg.flash a 0) 8
      modCal (fun c => { c with autoCal := v / 2 ^ 32 % 2 == 1 }) (modSys (fun y => { y with
        subVendor := BitVec.ofNat 16 v, subId := BitVec.ofNat 16 (v / 2 ^ 16) }) s)
    else modCal (fun c => { c with autoCal := false }) s

/-- Steps 4 and 5 of Boot: UI PLLs lock, DRAM is trained at 3,200 MT/s; no channel is trained at the target rate yet
(R185, R228, Table 3.19). -/
def bootHardware (b : BootIn) (s : State) : State :=
  let s1 := (List.range s.nOct).foldl (fun t o => setLock o t.now true t) s
  modDram (fun d => { d with
    enabled := b.dramOk, density := b.density, activeRate := 0,
    chans := d.chans.mapAll fun _ x => { x with trained := false } }) s1

/-- The ceilings of Bring-up; one lower than before a soft reset has fallen (R70, R439). (DEDUCED, entry 88.)
(DEDUCED, entry 98.) -/
def bringUpCeilings (s : State) : State :=
  (List.range s.nOct).foldl (fun t o => setCeiling o (min (t.octet o).bootCeil 2000) t) s

/-- The servo at the end of Boot (Table 8.3). -/
def bootServo (s : State) : State :=
  if s.src ≠ 0 ∧ s.time.servo = .free then enterAcquire 0 true s else s

/-- BOOT_COMPLETE: the steps of Boot are done, and the device enters Bring-up, and Calibrate at once with auto_cal
(R493 to R498, R503 to R507). -/
def execBootComplete (b : BootIn) (s : State) : Res :=
  if s.sys.state = .boot then
    let hard := !s.sys.softBoot
    let u := if b.memAnswers then bankInUse s.cfg.flash else none
    let s1 := loadFactory b.memAnswers hard (bootIdentity u (bootStatus b u s))
    let s2 := if hard then seedAgeing b.memAnswers (bootHardware b s1) else s1
    let s3 := bringUpCeilings (bootSections hard u s2)
    let s4 := bootServo (enterState .bringUp (modSys (fun y => { y with softBoot := false, alertHeld := false }) s3))
    .next (if s4.cal.autoCal then enterCalibrate none s4 else s4)
  else .next s

/-! ## Standby, Deep standby, wake (R50 to R54, R511 to R514, R540) -/

/-- A SITE_START that waits for this tick would be accepted (R57, R511). (DEDUCED, entry 102.) -/
def State.startsNow (s : State) : Bool :=
  s.hqm.cmds.any fun e =>
    decide (e.2.ph = .dispatched) && !e.2.begun && descOp e.2.desc == 0x20 && decide (e.2.dspan < s.time.span) &&
    (let n := pay e.2.desc 0 1
     match s.planOf n with
     | some p => s.startOk n p && (s.lowOctet n p).isNone
     | none => false)

/-- The condition of a standby request (Table 1.7, R511). (DEDUCED, entry 102.) -/
def State.restOk (s : State) : Bool := !s.anyRunning && s.gensStopped && s.unitsDisarmed && !s.startsNow

/-- The lanes and ports of a device without power are down; it rejoins its domain after the wake (R375). -/
def dropPorts (s : State) : State :=
  modTime (fun x => { x with ptp := {} }) (modHalso (fun h => { h with
    joined := false, joinPending := false, marks := false, present := 0, masterSeen := false, helloDone := false, hits := [],
    pos := [], firsts := [],
    ports := h.ports.mapAll fun _ p => { p with
      up := false, lanes := 0, fwd := none, t3 := none, pair := none, lastRtt := none, nbr := none, markAt := 0 } }) s)

/-- DRAM goes into self-refresh (R512, R513). -/
def sleepDram (s : State) : State := modDram (fun d => { d with selfRef := true }) s

/-- Deep standby is entered (R375, R513, Table 11.9). (DEDUCED, entry 101.) -/
def enterDeep (s : State) : State :=
  let s1 := sleepDram (loseWork s)
  let s2 := (List.range 16).foldl (fun t o => setLock o t.now false t) s1
  enterState .deepStandby (enterHold 3 (dropPorts s2))

/-- Standby is entered (R512). -/
def enterStandby (s : State) : State := enterState .standby (sleepDram s)

/-- The power request of the span before, tested at the tick (R511, R540). -/
def powerTick (s0 : State) : State :=
  let s := modSys (fun y => { y with powerReq := 0 }) s0
  match s0.sys.powerReq.toNat with
  | 1 => if s.sys.state = .ready ∧ s.restOk then enterStandby s else refuseReq 1 s
  | 2 =>
    if (s.sys.state = .ready ∨ (s.sys.state = .standby ∧ ¬s.sys.waking)) ∧ s.restOk then enterDeep s else refuseReq 2 s
  | 3 =>
    match s.sys.state with
    | .standby | .deepStandby => modSys (fun y => { y with waking := true }) s
    | .ready | .bringUp | .calibrate => s
    | _ => refuseReq 3 s
  | _ => s

/-- The servo after Deep standby: with src 0 it is FREE again (Table 8.3, R375). (DEDUCED, entry 101.) -/
def wakeServo (s : State) : State := if s.src = 0 then enterServo .free 0 s else s

/-- WAKE_COMPLETE: Ready; from Deep standby with UI PLLs locked, DRAM retrained and section 6 applied (R53, R54, R514,
R579, Table 11.9). (DEDUCED, entry 103.) (DEDUCED, entry 111.) -/
def execWakeComplete (s : State) : Res :=
  if ¬s.sys.waking then .next s
  else
    let deep := decide (s.sys.state = .deepStandby)
    let s1 := restartRefresh (enterState .ready (modSys (fun y => { y with waking := false }) s))
    if deep then
      let s2 := (List.range s.nOct).foldl (fun t o => if bit t.sys.disabled o then t else setLock o t.now true t) s1
      let s3 := wakeServo (applySection s2.bank 6 s2)
      .next (modDram (fun d => { d with
        activeRate := d.rate,
        chans := (List.range 16).foldl (fun m n => m.mod n fun x => { x with trained := d.enabled }) d.chans }) s3)
    else .next s1

/-! ## Octet disabling (R517, R543) -/

/-- Calibrate goes on without the windows of an octet. -/
def skipOctet (o : Nat) (s : State) : State :=
  let inO (e : Nat × Nat) : Bool := (chanStep e.1 && e.2 / 8 == o) || (octStep e.1 && e.2 == o)
  if s.cal.mode ≠ .full then s
  else
    let old := s.cal.todo
    let rest := old.filter fun e => !inO e
    let s1 := modCal (fun x => { x with todo := rest }) s
    let s2 := if old.any (fun b => b.1 != 0xD) && rest.all (fun b => b.1 == 0xD) then restoreLoops s1 else s1
    if rest.isEmpty && !old.isEmpty then calReady s2 else s2

/-- The effects of an accepted octet-disable request (R517). -/
def disableOctet (o : Nat) (s : State) : State :=
  let s1 := modSys (fun y => { y with disabled := setBit y.disabled o true }) s
  let s2 := (List.range 8).foldl (fun t i =>
    let c := 8 * o + i
    modPin c (fun p => { p.disturb with
      locked := false, goodWin := 0, chg := if p.locked then noteChg t.now false p.chg else p.chg })
      (releasePin t.now c t)) s1
  let s3 := if (s2.octet o).linkEn then
      setLanes o (fun x => { x with rxLol := 0xF, txFault := 0xF }) s2 else s2
  skipOctet o (setLock o s.now false (modOctet o (fun x => { x with pllOff := true, linkReady := false }) s3))

/-- An octet-disable request tested at the tick (R517, R543). -/
def testDisable (o : Nat) (s : State) : State :=
  if !bit s.sys.disTest o then s
  else
    let s1 := modSys (fun y => { y with disTest := setBit y.disTest o false }) s
    if (List.range 8).any fun i => s.ownedRunning (8 * o + i) then
      refuseReq 4 (modSys (fun y => { y with disReq := setBit y.disReq o false }) s1)
    else disableOctet o s1

/-- Every request that waits for the tick: a soft reset discards the others (R511, R517, R540, R541).
(DEDUCED, entry 109.) -/
def requestTick (s : State) : State :=
  let s1 := pcieTick s
  if s1.sys.softReq then softReset s1
  else powerTick ((List.range 16).foldl (fun t o => testDisable o t) s1)

end Sys2Proof.Machine
end

