-- ==== Sys2Proof/Machine/SeqRows.lean ====
section
/-!
DEFINITION. The instructions of Table 2.5 as rows: each issues at the sequencer, and what it queues acts at
the pins (R85 to R102).
-/

namespace Sys2Proof.Machine

/-- Instructions placed and folded, for the event counters (R519, R90). -/
def issueEvents (n : Nat) (op : Nat) (folded : Bool) (s : State) : State :=
  let s1 := if op = 0x01 || op = 0x0A then perfEvent 0x010 n 1 s else s
  if folded then perfEvent 0x012 n 1 s1 else s1

/-- The instruction at the current position of a site issues, when it has the given opcode, the site is
issuing and the queue has the room that the instruction takes (R89 to R91). -/
def issueRow (n : Nat) (op : Nat) (f : Site → Site) (s : State) : Res :=
  let x := s.site n
  if x.issuing && !x.matchWait && wOp (x.word x.pc) == op && (x.room || (op != 0x01 && op != 0x0A)) then
    let folded := x.foldable && foldableOp op
    let s1 := modSite n (fun y => f (markStall (s.planOf n) n { y with foldable := false })) s
    .next (settle n (issueEvents n op folded s1))
  else .next s

/-- VEC (R88 to R90). (DEDUCED, entry 16.) -/
def execVec (n : SiteId) (s : State) : Res := issueRow n.val 0x01 issueVec s
/-- LOOP (R95). -/
def execLoop (n : SiteId) (s : State) : Res := issueRow n.val 0x02 issueLoop s
/-- ENDLOOP (R95). -/
def execEndloop (n : SiteId) (s : State) : Res := issueRow n.val 0x03 issueEndloop s
/-- CALL (R96). -/
def execCall (n : SiteId) (s : State) : Res := issueRow n.val 0x04 issueCall s
/-- RET (R96). -/
def execRet (n : SiteId) (s : State) : Res := issueRow n.val 0x05 issueRet s
/-- JUMP (R97). -/
def execJump (n : SiteId) (s : State) : Res := issueRow n.val 0x06 issueJump s
/-- MATCH (R91, R576). -/
def execMatchIns (n : SiteId) (s : State) : Res := issueRow n.val 0x08 issueMatch s
/-- WAIT_TRIG (R91). -/
def execWaitTrig (n : SiteId) (s : State) : Res := issueRow n.val 0x0A issueWait s
/-- SIGNAL (R101). -/
def execSignal (n : SiteId) (s : State) : Res := issueRow n.val 0x0B issueSignal s
/-- SYNC (R91). -/
def execSync (n : SiteId) (s : State) : Res := issueRow n.val 0x0C issueSync s
/-- SET_TS (R99). -/
def execSetTs (n : SiteId) (s : State) : Res := issueRow n.val 0x0D issueSetTs s
/-- MARK (R100). -/
def execMark (n : SiteId) (s : State) : Res := issueRow n.val 0x0E issueMark s
/-- PARK (R127). -/
def execPark (n : SiteId) (s : State) : Res := issueRow n.val 0x0F issuePark s
/-- HALT (R128). -/
def execHalt (n : SiteId) (s : State) : Res := issueRow n.val 0x3F issueHalt s

/-- ILLEGAL_OPCODE: the word at the current position has no opcode of Table 2.5; the faults of Table 2.8
come with the instruction that meets them (R85, R98). (DEDUCED, entry 47.) -/
def execIllegalOpcode (n : SiteId) (s : State) : Res :=
  let x := s.site n.val
  if x.issuing && !x.matchWait && wIllegal (x.word x.pc) then
    .next (settle n.val (modSite n.val (fun y =>
      issueIllegal (markStall (s.planOf n.val) n.val { y with foldable := false })) s))
  else .next s

end Sys2Proof.Machine
end

