-- ==== Sys2Proof/Machine/Span.lean ====
section
/-!
DEFINITION. SPAN_TICK: cycle 0 of a span and the per-span allotments of Table 1.3 (R27, R28, R33).
-/

namespace Sys2Proof.Machine

/-- The span counter at a tick: the first tick after Reset leaves it at 0 (R28); it also ends Boot step 1, and
ALERT_N follows its condition (R568). -/
def countSpan (s : State) : State :=
  modSys (fun y => { y with alertHeld := false }) (modTime (fun x => { x with
    span := if x.ticked then x.span + 1 else x.span, ticked := true, grain := 0 }) s)

/-- A new span's dispatch allotment; ready commands that the cap of 128 left over are late (R469). -/
def dispatchTick (s : State) : State :=
  modHqm (fun h => { noteLate h with dispatched := 0 }) s

/-- Head writebacks that waited for a new span (R448). -/
def headTick (s : State) : State :=
  if s.fetching then
    ((s.hqm.queues.filter fun e => e.2.hwbDue).map Prod.fst).foldl (fun t q => headWriteback q t) s
  else s

/-! ## Calibration application (R242, R248 to R250, R408, R409) -/

/-- The device moves applied corrections: not in Standby, where they hold (R512). -/
def State.adapts (s : State) : Bool :=
  match s.sys.state with
  | .bringUp | .calibrate | .ready => true
  | _ => false

/-- One DAC in one span: gain or offset, by one unit; which of the two where both are off target is a free value (R242,
entry 96). -/
def Dac.step (span c n : Nat) (x : Dac) : Dac :=
  if x.gain ≠ x.tGain ∧ (x.off = x.tOff ∨ Config.dacGainTurn span c n = true) then
    { x with gain := toward 1 x.gain x.tGain }
  else { x with off := toward 1 x.off x.tOff }

/-- The five DACs of a channel in one span, and what their new codes under the level set in force say (R240).
(DESIGN CHOICE, entry 96.) -/
def dacPin (span c : Nat) (lev : Option Nat) (p : Pin) : Pin :=
  let q := { p with dacs := p.dacs.mapAll fun n x => x.step span c n }
  { q with dacSat := q.dacSat || (q.dacs != p.dacs && q.satNow lev) }

/-- Every DAC moves toward its target (R242); the DAC rules do not apply to logical pins (R283). -/
def dacTick (s : State) : State :=
  if s.adapts then
    mapPins (fun c p => if (s.octet (octOf c)).linkEn then { p with dacs := p.dacs.mapAll fun n x => x.step s.time.span c n }
      else dacPin s.time.span c (s.levOf c) p) s
  else s

/-- PIN_CFG.eq_mode is 2: DFE and CTLE (R246). -/
def Pin.eqDfe (p : Pin) : Bool := bits p.cfg 1 2 == 2

/-- Largest magnitude of tap n, from 0 (Table 5.3). -/
def tapMax (n : Nat) : Int := if n = 0 then 127 else if n ≤ 2 then 63 else 31

/-- The move that a statistic asks of a tap (R408). -/
def dfeMove (d : DfeStat) : Int := if 16 * d.c > (d.n : Int) then 1 else if 16 * d.c < -(d.n : Int) then -1 else 0

/-- The offset a of the level split of a channel in units of 50 µV: half of voh less vol, at least 20 mV, by the level set
in force (R404). -/
def State.splitAt (s : State) (c : Nat) : Int :=
  let p := s.pin c
  let w := p.level.get ((s.levOf c).getD p.lastLev)
  max (levelField w 2 - levelField w 3) 400

/-- UI whose signal lies above an offset about the data slicer's threshold (R404). -/
def uiAbove (d : DfeStat) (x : Int) : Nat :=
  ((d.split.filter fun e => decide (x < e.1)).map Prod.snd).foldl (· + ·) 0

/-- The level split of a window holds at an offset a (R404): of its N UI at least 20 % lie on either side of the split
band and at most 10 % inside. -/
def levelSplit (d : DfeStat) (a : Int) : Bool :=
  let n := (d.split.map Prod.snd).foldl (· + ·) 0
  decide (n ≤ 5 * (n - uiAbove d (-a))) && decide (n ≤ 5 * uiAbove d a) && decide (10 * (uiAbove d (-a) - uiAbove d a) ≤ n)

/-- The transition density of a window lies in 35 % to 65 % (R403). -/
def denseOk (d : DfeStat) : Bool := decide (35 * d.n ≤ 100 * d.changed) && decide (100 * d.changed ≤ 65 * d.n)

/-- The precondition code of a DFE window, 0 when all held (R403, R404, R408, Table 9.2). -/
def State.dfePre (s : State) (d : DfeStat) : Nat :=
  let c := d.ch.val
  let a := (s.now : Int) - ((8 * spanGr : Nat) : Int)
  if !denseOk d then 1
  else if !levelSplit d (s.splitAt c) then 2
  else if offIn (s.pin c).chg (s.pin c).locked a s.now || s.octOff (octOf c) 8 then 3
  else 0

/-- A channel whose DFE adapts (R248, R250, R251). -/
def State.dfeOn (s : State) (c : Nat) : Bool :=
  let p := s.pin c
  decide (s.sys.state = .ready) && p.eqDfe && bit p.cfg 8 && p.locked && s.calChan c

/-- The tap of this span on a channel (R248, R401, R408). -/
def dfeStep (d : DfeStat) (s : State) : State :=
  let c := d.ch.val
  let n := s.time.span % 8
  if !s.dfeOn c || s.scanHeld c then s
  else if s.dfePre d ≠ 0 then
    recordFail 7 c (s.dfePre d) true
      (if s.dfePre d = 3 then s else modPin c (fun p => { p with ctleHi := 0, ctleLo := 0 }) s)
  else
    let old := (s.pin c).taps.get n
    let new := clampI (-(tapMax n)) (tapMax n) (old + dfeMove d)
    if new = old then s
    else perfEvent 0x043 c 1 (modPin c (fun p => { p with
        taps := p.taps.set n new, dfeMoved := true, scan := p.scan.map fun z => { z with moved := true } }) s)

/-- Spans that tap 1 has stayed high or low, and the CTLE's step after 4,096 of them, in a span without a tap move
(R249, R409). -/
def ctlePin (p : Pin) : Pin :=
  let t := p.taps.get 0
  let hi := if 96 ≤ t then min 4096 (p.ctleHi + 1) else 0
  let lo := if t ≤ 16 then min 4096 (p.ctleLo + 1) else 0
  let peak := bits p.ctle 0 4
  let q := { p with ctleHi := hi, ctleLo := lo }
  if p.dfeMoved then q
  else if 4096 ≤ hi ∧ peak < 15 then { q with ctle := setBits p.ctle 0 4 (peak + 1), ctleHi := 0, ctleLo := 0 }
  else if 4096 ≤ lo ∧ 0 < peak then { q with ctle := setBits p.ctle 0 4 (peak - 1), ctleHi := 0, ctleLo := 0 }
  else q

/-- DFE and CTLE at the tick (R248 to R251). -/
def eqTick (l : List DfeStat) (s : State) : State :=
  let s1 := mapPins (fun _ p => { p with dfeMoved := false }) s
  if s.sys.state = .ready then
    let s2 := l.foldl (fun t d => dfeStep d t) s1
    mapPins (fun _ p =>
      if p.eqDfe && bit p.ctle 8 && p.locked then ctlePin p else { p with ctleHi := 0, ctleLo := 0 }) s2
  else s1

/-! ## Counted at every tick (R521) -/

/-- Span marks of the next span on the TX lanes of an octet in link configuration, where that span is at 0 mod 64: each
leaves 32 ns before that span's tick (R277, Table 5.8). Data blocks that no later word joins are recorded. -/
def linkMarks (s : State) : State :=
  (List.range 16).foldl (fun t o =>
    if !(t.octet o).linkEn then t
    else
      let t1 := laneSend (fun b => decide (b.t + (spanGr : Int) ≤ s.now)) o t
      if s.time.span % 64 = 63 ∧ ¬bit t.sys.disabled o then
        (List.range 4).foldl (fun u j => emit (.link ((((s.time.span + 1) * spanGr : Nat) : Int) - 131072) o j
          (ctrlBlock 0x5A ((s.time.span + 1) % 2 ^ 48))) u) t1
      else t1) s

/-- Management words that waited leave once no running site owns a logical pin of their octet (R277, R283).
(DEDUCED, entry 45.) -/
def mgmtTick (s : State) : State :=
  (List.range 16).foldl (fun t o =>
    let l := (t.octet o).mgmt
    if l.isEmpty || t.octRunning o then t
    else tryReady o (l.foldl (fun u e => emitMgmt o e.1 e.2.1 e.2.2 u) (modOctet o (fun x => { x with mgmt := [] }) t))) s

/-- Queue groups with a submission queue that a fetch stop holds (R476). -/
def State.stoppedGroups (s : State) : List Nat :=
  ((s.hqm.queues.filter fun e => e.2.en && !e.2.isCq && s.fetchStop e.1).map fun e => e.1 / 64).eraseDups

/-- Core cycles, span ticks, spans with fetch stopped and Halso blocks of the span that begins (Table 12.1).
(DESIGN CHOICE, entry 70.) -/
def countTick (s : State) : State :=
  let s1 := perfEvent 0x002 0 1 (perfEvent 0x001 0 256 s)
  let s2 := s1.stoppedGroups.foldl (fun t g => perfEvent 0x03D g 1 t) s1
  (List.range 4).foldl (fun t p => if t.haOn && (t.halso.ports.get p).up then perfEvent 0x058 p 100 t else t) s2

/-- A snapshot that is due is taken (R526). -/
def snapTick (s : State) : State := after s (execPerfSnapshot s)

/-- Items at the boundaries that sites stand at act, after what the tick changed. -/
def settleAll (s : State) : State :=
  s.running.foldl (fun t n => if (t.site n).play = .run then settle n t else t) s

/-- The allotments of the pins and the time base. (DEDUCED, entry 29.) -/
def timeAllot (i : TickIn) (s : State) : State :=
  copyTick (halsoTick (spanMark (linkMarks (mgmtTick (eqTick i.dfe (dacTick (timeTick (applyStep s))))))))

/-- The allotments of plans, capture and DRAM. -/
def planAllot (i : TickIn) (s : State) : State :=
  writeTimingTick (refreshTick i.busy i.busy128 (ddsTick (groupTick (scheduleTick (holdResume (holdTick (slotTick (retireTick (peckTick s)))))))))

/-- SPAN_TICK. (DEDUCED, entry 29.) -/
def execSpanTick (i : TickIn) (s : State) : Res :=
  if s.sys.state = .reset then .next s
  else
    let s1 := requestTick (leaseTick i.missed (snapTick (countSpan s)))
    let s2 := planAllot i (timeAllot i s1)
    .next (settleAll (countTick (headTick (expireDelays (dispatchTick s2)))))

end Sys2Proof.Machine
end

