-- ==== Sys2Proof/Machine/Dispatch.lean ====
section
/-!
DEFINITION. One arm per command: a direct call of its meaning.
-/

namespace Sys2Proof.Machine

/-- The effect of a command on everything but the queue of waiting commands. -/
def exec (i : Instr) (s : State) : Host.Outcome State Fault Refusal :=
  match i with
  | .spanTick inp => Sys2Proof.Machine.execSpanTick inp s
  | .delayListExpiry => Sys2Proof.Machine.execDelayListExpiry s
  | .scheduleEntryAdvance p => Sys2Proof.Machine.execScheduleEntryAdvance p s
  | .peckArrival id linkErr => Sys2Proof.Machine.execPeckArrival id linkErr s
  | .peckRetryIssue id => Sys2Proof.Machine.execPeckRetryIssue id s
  | .refreshAccrualTick ch => Sys2Proof.Machine.execRefreshAccrualTick ch s
  | .mr4Poll ch rate => Sys2Proof.Machine.execMr4Poll ch rate s
  | .wck2dqOscillatorRead ch target => Sys2Proof.Machine.execWck2dqOscillatorRead ch target s
  | .vernierMove c => Sys2Proof.Machine.execVernierMove c s
  | .leaseLapse e => Sys2Proof.Machine.execLeaseLapse e s
  | .engineFirstRenewal e => Sys2Proof.Machine.execEngineFirstRenewal e s
  | .nop k => Sys2Proof.Machine.execNop k s
  | .fence k => Sys2Proof.Machine.execFence k s
  | .cancel k => Sys2Proof.Machine.execCancel k s
  | .memWrite k => Sys2Proof.Machine.execMemWrite k s
  | .memRead k => Sys2Proof.Machine.execMemRead k s
  | .memFill k => Sys2Proof.Machine.execMemFill k s
  | .planLoad k rd => Sys2Proof.Machine.execPlanLoad k rd s
  | .planRetire k => Sys2Proof.Machine.execPlanRetire k s
  | .tableLoad k linkErr => Sys2Proof.Machine.execTableLoad k linkErr s
  | .siteStart k => Sys2Proof.Machine.execSiteStart k s
  | .siteStop k => Sys2Proof.Machine.execSiteStop k s
  | .sitePark k => Sys2Proof.Machine.execSitePark k s
  | .siteReset k => Sys2Proof.Machine.execSiteReset k s
  | .trigArm k => Sys2Proof.Machine.execTrigArm k s
  | .trigDisarm k => Sys2Proof.Machine.execTrigDisarm k s
  | .acqRead k => Sys2Proof.Machine.execAcqRead k s
  | .ddsLoad k linkErr => Sys2Proof.Machine.execDdsLoad k linkErr s
  | .ddsStart k => Sys2Proof.Machine.execDdsStart k s
  | .ddsStop k => Sys2Proof.Machine.execDdsStop k s
  | .calRun k => Sys2Proof.Machine.execCalRun k s
  | .calCommit k => Sys2Proof.Machine.execCalCommit k s
  | .eyeScan k => Sys2Proof.Machine.execEyeScan k s
  | .eyeScanPoint c high low t => Sys2Proof.Machine.execEyeScanPoint c high low t s
  | .timeSet k => Sys2Proof.Machine.execTimeSet k s
  | .timeAdjust k => Sys2Proof.Machine.execTimeAdjust k s
  | .cfgSave k written => Sys2Proof.Machine.execCfgSave k written s
  | .vec n => Sys2Proof.Machine.execVec n s
  | .loop n => Sys2Proof.Machine.execLoop n s
  | .endloop n => Sys2Proof.Machine.execEndloop n s
  | .call n => Sys2Proof.Machine.execCall n s
  | .ret n => Sys2Proof.Machine.execRet n s
  | .jump n => Sys2Proof.Machine.execJump n s
  | .matchIns n => Sys2Proof.Machine.execMatchIns n s
  | .matchDecision n => Sys2Proof.Machine.execMatchDecision n s
  | .waitTrig n => Sys2Proof.Machine.execWaitTrig n s
  | .waitTrigSatisfied n => Sys2Proof.Machine.execWaitTrigSatisfied n s
  | .waitTimeout n => Sys2Proof.Machine.execWaitTimeout n s
  | .signal n => Sys2Proof.Machine.execSignal n s
  | .sync n => Sys2Proof.Machine.execSync n s
  | .syncArrival n => Sys2Proof.Machine.execSyncArrival n s
  | .syncRelease p b => Sys2Proof.Machine.execSyncRelease p b s
  | .syncTimeout n => Sys2Proof.Machine.execSyncTimeout n s
  | .setTs n => Sys2Proof.Machine.execSetTs n s
  | .mark n => Sys2Proof.Machine.execMark n s
  | .park n => Sys2Proof.Machine.execPark n s
  | .parkExpiry n => Sys2Proof.Machine.execParkExpiry n s
  | .halt n => Sys2Proof.Machine.execHalt n s
  | .illegalOpcode n => Sys2Proof.Machine.execIllegalOpcode n s
  | .siteRunBegin n => Sys2Proof.Machine.execSiteRunBegin n s
  | .bundleRead n => Sys2Proof.Machine.execBundleRead n s
  | .issueStarved n => Sys2Proof.Machine.execIssueStarved n s
  | .vectorPlayed n obs => Sys2Proof.Machine.execVectorPlayed n obs s
  | .stallPointReached n => Sys2Proof.Machine.execStallPointReached n s
  | .siteStopEffect n => Sys2Proof.Machine.execSiteStopEffect n s
  | .siteParkLimit n => Sys2Proof.Machine.execSiteParkLimit n s
  | .siteCompletion n => Sys2Proof.Machine.execSiteCompletion n s
  | .sableWriteSlot w => Sys2Proof.Machine.execSableWriteSlot w s
  | .trigInEdge pin g => Sys2Proof.Machine.execTrigInEdge pin g s
  | .holdoffExpiry u => Sys2Proof.Machine.execHoldoffExpiry u s
  | .autoTrigger u => Sys2Proof.Machine.execAutoTrigger u s
  | .groupRearm u => Sys2Proof.Machine.execGroupRearm u s
  | .ddsRunBegin g => Sys2Proof.Machine.execDdsRunBegin g s
  | .ddsSegmentBoundary g => Sys2Proof.Machine.execDdsSegmentBoundary g s
  | .ddsJumpWrite g v t => Sys2Proof.Machine.execDdsJumpWrite g v t s
  | .ppsInEdge t => Sys2Proof.Machine.execPpsInEdge t s
  | .ppsOutEdge t => Sys2Proof.Machine.execPpsOutEdge t s
  | .ptpEventMessage m p => Sys2Proof.Machine.execPtpEventMessage m p s
  | .timeStepApply => Sys2Proof.Machine.execTimeStepApply s
  | .sourceLost => Sys2Proof.Machine.execSourceLost s
  | .traceableHoldExpiry => Sys2Proof.Machine.execTraceableHoldExpiry s
  | .refLost => Sys2Proof.Machine.execRefLost s
  | .refInReturn => Sys2Proof.Machine.execRefInReturn s
  | .tsRingEntryDrop => Sys2Proof.Machine.execTsRingEntryDrop s
  | .halsoSpanMark p m => Sys2Proof.Machine.execHalsoSpanMark p m s
  | .halsoTimeTick p m t => Sys2Proof.Machine.execHalsoTimeTick p m t s
  | .halsoServoOffset p dev state traceable e => Sys2Proof.Machine.execHalsoServoOffset p dev state traceable e s
  | .halsoArm p dev barrier span => Sys2Proof.Machine.execHalsoArm p dev barrier span s
  | .halsoTrigger p dev m span cycle t => Sys2Proof.Machine.execHalsoTrigger p dev m span cycle t s
  | .halsoMatchBroadcast p dev group hit cycle => Sys2Proof.Machine.execHalsoMatchBroadcast p dev group hit cycle s
  | .halsoFailMerge p group m ended span => Sys2Proof.Machine.execHalsoFailMerge p group m ended span s
  | .halsoHello p h => Sys2Proof.Machine.execHalsoHello p h s
  | .halsoJoin => Sys2Proof.Machine.execHalsoJoin s
  | .halsoUpstreamLost otherSide => Sys2Proof.Machine.execHalsoUpstreamLost otherSide s
  | .uiPllUnlock o t => Sys2Proof.Machine.execUiPllUnlock o t s
  | .uiPllLock o t => Sys2Proof.Machine.execUiPllLock o t s
  | .lockWindowEnd c ferr w => Sys2Proof.Machine.execLockWindowEnd c ferr w s
  | .phaseLimit c upper t => Sys2Proof.Machine.execPhaseLimit c upper t s
  | .losAssert c t => Sys2Proof.Machine.execLosAssert c t s
  | .losDeassert c t => Sys2Proof.Machine.execLosDeassert c t s
  | .linkMarkEcho o lane rtt => Sys2Proof.Machine.execLinkMarkEcho o lane rtt s
  | .linkResultWord o lane slotB w => Sys2Proof.Machine.execLinkResultWord o lane slotB w s
  | .linkResultTimeout c => Sys2Proof.Machine.execLinkResultTimeout c s
  | .linkStatusBlock o lane txLocked faults t => Sys2Proof.Machine.execLinkStatusBlock o lane txLocked faults t s
  | .calVisit q => Sys2Proof.Machine.execCalVisit q s
  | .octetDriftEval o t readings => Sys2Proof.Machine.execOctetDriftEval o t readings s
  | .convCheckPeriodic spread mean => Sys2Proof.Machine.execConvCheckPeriodic spread mean s
  | .calStepEnd r => Sys2Proof.Machine.execCalStepEnd r s
  | .ageingReading o bp => Sys2Proof.Machine.execAgeingReading o bp s
  | .ageingLogAppend ceilingFall => Sys2Proof.Machine.execAgeingLogAppend ceilingFall s
  | .calAdcGo v => Sys2Proof.Machine.execCalAdcGo v s
  | .calAdcDone codes => Sys2Proof.Machine.execCalAdcDone codes s
  | .monSample m uv => Sys2Proof.Machine.execMonSample m uv s
  | .calMonCfgWrite m v => Sys2Proof.Machine.execCalMonCfgWrite m v s
  | .thermSample temps => Sys2Proof.Machine.execThermSample temps s
  | .doorbellWrite off size v => Sys2Proof.Machine.execDoorbellWrite off size v s
  | .descriptorFetch data => Sys2Proof.Machine.execDescriptorFetch data s
  | .commandDispatch => Sys2Proof.Machine.execCommandDispatch s
  | .completionRelease k => Sys2Proof.Machine.execCompletionRelease k s
  | .spillMove q => Sys2Proof.Machine.execSpillMove q s
  | .postedCreditTimeout k => Sys2Proof.Machine.execPostedCreditTimeout k s
  | .msixModerationTimeout q => Sys2Proof.Machine.execMsixModerationTimeout q s
  | .qctxCfgWrite q reg w => Sys2Proof.Machine.execQctxCfgWrite q reg w s
  | .hqmSpillWrite w => Sys2Proof.Machine.execHqmSpillWrite w s
  | .hqmCtrlWrite v => Sys2Proof.Machine.execHqmCtrlWrite v s
  | .standbyRequest => Sys2Proof.Machine.execStandbyRequest s
  | .deepStandbyRequest => Sys2Proof.Machine.execDeepStandbyRequest s
  | .wakeRequest => Sys2Proof.Machine.execWakeRequest s
  | .wakeComplete => Sys2Proof.Machine.execWakeComplete s
  | .softResetRequest key => Sys2Proof.Machine.execSoftResetRequest key s
  | .octetDisableRequest o => Sys2Proof.Machine.execOctetDisableRequest o s
  | .octetEnable o => Sys2Proof.Machine.execOctetEnable o s
  | .pinCfgWrite c cfg aux ctle => Sys2Proof.Machine.execPinCfgWrite c cfg aux ctle s
  | .pinLinkWrite o w => Sys2Proof.Machine.execPinLinkWrite o w s
  | .timingOctetCfgWrite o v => Sys2Proof.Machine.execTimingOctetCfgWrite o v s
  | .timingPinDeskewWrite c v => Sys2Proof.Machine.execTimingPinDeskewWrite c v s
  | .dramCtrlWrite v => Sys2Proof.Machine.execDramCtrlWrite v s
  | .timeCfgWrite w => Sys2Proof.Machine.execTimeCfgWrite w s
  | .timePtpAsymWrite w => Sys2Proof.Machine.execTimePtpAsymWrite w s
  | .halsoCableWrite p w => Sys2Proof.Machine.execHalsoCableWrite p w s
  | .timeNowRead t => Sys2Proof.Machine.execTimeNowRead t s
  | .perfCntRead n => Sys2Proof.Machine.execPerfCntRead n s
  | .perfSelWrite n v => Sys2Proof.Machine.execPerfSelWrite n v s
  | .perfFreeze v => Sys2Proof.Machine.execPerfFreeze v s
  | .perfCounterOverflow n occ => Sys2Proof.Machine.execPerfCounterOverflow n occ s
  | .snapshotRequest v => Sys2Proof.Machine.execSnapshotRequest v s
  | .perfSnapshot => Sys2Proof.Machine.execPerfSnapshot s
  | .perfPsCfgWrite w => Sys2Proof.Machine.execPerfPsCfgWrite w s
  | .preciseSampleEntry r => Sys2Proof.Machine.execPreciseSampleEntry r s
  | .registerWrite off size v => Sys2Proof.Machine.execRegisterWrite off size v s
  | .powerOnReset => Sys2Proof.Machine.execPowerOnReset s
  | .resetNAssert => Sys2Proof.Machine.execResetNAssert s
  | .resetNDeassert => Sys2Proof.Machine.execResetNDeassert s
  | .bootComplete b => Sys2Proof.Machine.execBootComplete b s
  | .perstN => Sys2Proof.Machine.execPerstN s
  | .flr => Sys2Proof.Machine.execFlr s
  | .powerOnResetEnd => Sys2Proof.Machine.execPowerOnResetEnd s
  | .halsoLinkDown p lanes => Sys2Proof.Machine.execHalsoLinkDown p lanes s
  | .halsoLanesLocked p => Sys2Proof.Machine.execHalsoLanesLocked p s
  | .ptpGeneralMessage m p => Sys2Proof.Machine.execPtpGeneralMessage m p s
  | .pllLockTimeout => Sys2Proof.Machine.execPllLockTimeout s
  | .bestEffortRequestServed ch ready data err t => Sys2Proof.Machine.execBestEffortRequestServed ch ready data err t s

end Sys2Proof.Machine
end

