-- ==== Sys2Proof/Safety.lean ====
section
/-!
DEFINITION. What a safe state is, and the words that statements use: the memories and the tables of the
block in canonical form, so that equal contents are equal data; the dispatch cap of a span; two states that
agree but for named parts; a command completed, begun, left alone.
-/

namespace Sys2Proof.Machine

/-- The parts of State, and of them six that many commands leave alone while they change the rest: the device
state, the span counter, the count of dispatches, the bytes of DRAM, of the vector store and of the configuration
memory. -/
inductive Part where
  | sys | hqm | dram | vs | sites | barriers | octets | pins | timing | cap | dds | time | halso | cal | perf | cfg | host | out | free | pending
  | devState | clock | dispatched | dramMem | vsMem | flash
deriving DecidableEq, Repr

/-- Two states agree on a part. -/
def Part.same : Part → State → State → Prop
  | .sys, s, t => t.sys = s.sys
  | .hqm, s, t => t.hqm = s.hqm
  | .dram, s, t => t.dram = s.dram
  | .vs, s, t => t.vs = s.vs
  | .sites, s, t => t.sites = s.sites
  | .barriers, s, t => t.barriers = s.barriers
  | .octets, s, t => t.octets = s.octets
  | .pins, s, t => t.pins = s.pins
  | .timing, s, t => t.timing = s.timing
  | .cap, s, t => t.cap = s.cap
  | .dds, s, t => t.dds = s.dds
  | .time, s, t => t.time = s.time
  | .halso, s, t => t.halso = s.halso
  | .cal, s, t => t.cal = s.cal
  | .perf, s, t => t.perf = s.perf
  | .cfg, s, t => t.cfg = s.cfg
  | .host, s, t => t.host = s.host
  | .out, s, t => t.out = s.out
  | .free, s, t => t.free = s.free
  | .pending, s, t => t.pending = s.pending
  | .devState, s, t => t.sys.state = s.sys.state
  | .clock, s, t => t.time.span = s.time.span
  | .dispatched, s, t => t.hqm.dispatched = s.hqm.dispatched
  | .dramMem, s, t => t.dram.mem = s.dram.mem
  | .vsMem, s, t => t.vs.mem = s.vs.mem
  | .flash, s, t => t.cfg.flash = s.cfg.flash

/-- Two states agree on every part outside a list; DRAM, the vector store, host memory and the configuration
memory are parts, so a memory that the list does not name holds every byte it held. -/
def sameBut (m : List Part) (s t : State) : Prop := ∀ x, x ∉ m → x.same s t

/-- The parts of State that a command may change: for each row of the table, everything that its rules let it
touch on some path. -/
def touched : Instr → List Part
  | .spanTick .. => [.sys, .hqm, .dram, .vs, .sites, .barriers, .octets, .pins, .timing, .cap, .dds, .time,
      .halso, .cal, .perf, .host, .out, .devState, .clock, .dispatched, .dramMem, .vsMem]
  | .delayListExpiry => [.hqm]
  | .scheduleEntryAdvance .. => [.vs]
  | .peckArrival .. => [.sys, .hqm, .vs, .sites, .perf, .out, .vsMem]
  | .peckRetryIssue .. => [.sys, .hqm, .vs, .perf, .out]
  | .refreshAccrualTick .. => [.sys, .hqm, .dram, .time, .perf, .out]
  | .mr4Poll .. => [.sys, .hqm, .dram, .time, .perf, .out]
  | .wck2dqOscillatorRead .. => [.dram]
  | .vernierMove .. => [.sys, .hqm, .pins, .perf, .out]
  | .leaseLapse .. => [.sys, .hqm, .dram, .vs, .sites, .octets, .pins, .cap, .dds, .time, .halso, .cal, .perf,
      .out, .devState]
  | .engineFirstRenewal .. => [.sys, .hqm, .cap, .cal, .perf, .out]
  | .nop .. => [.hqm]
  | .fence .. => [.hqm]
  | .cancel .. => [.hqm]
  | .memWrite .. => [.hqm, .dram]
  | .memRead .. => [.hqm, .dram]
  | .memFill .. => [.hqm, .dram]
  | .planLoad .. => [.hqm, .dram, .vs, .sites, .octets, .pins, .out, .vsMem]
  | .planRetire .. => [.hqm, .vs, .sites, .barriers, .pins, .out]
  | .tableLoad .. => [.hqm, .dram, .octets, .pins, .out]
  | .siteStart .. => [.hqm, .vs, .sites, .octets, .pins, .cap, .out]
  | .siteStop .. => [.hqm, .sites]
  | .sitePark .. => [.hqm, .sites]
  | .siteReset .. => [.hqm, .sites]
  | .trigArm .. => [.hqm, .cap]
  | .trigDisarm .. => [.hqm, .cap]
  | .acqRead .. => [.hqm, .dram]
  | .ddsLoad .. => [.hqm, .dram, .dds]
  | .ddsStart .. => [.hqm, .dds]
  | .ddsStop .. => [.hqm, .dds]
  | .calRun .. => [.sys, .hqm, .octets, .pins, .cal, .perf, .out, .devState]
  | .calCommit .. => [.hqm, .pins]
  | .eyeScan .. => [.hqm, .pins]
  | .eyeScanPoint .. => [.hqm, .dram, .pins, .time, .dramMem]
  | .timeSet .. => [.hqm, .time]
  | .timeAdjust .. => [.hqm, .time]
  | .cfgSave .. => [.hqm, .cfg, .flash]
  | .vec .. => [.sys, .hqm, .sites, .octets, .pins, .cap, .dds, .halso, .perf, .out]
  | .loop .. => [.sys, .hqm, .sites, .octets, .pins, .cap, .dds, .halso, .perf, .out]
  | .endloop .. => [.sys, .hqm, .sites, .octets, .pins, .cap, .dds, .halso, .perf, .out]
  | .call .. => [.sys, .hqm, .sites, .octets, .pins, .cap, .dds, .halso, .perf, .out]
  | .ret .. => [.sys, .hqm, .sites, .octets, .pins, .cap, .dds, .halso, .perf, .out]
  | .jump .. => [.sys, .hqm, .sites, .octets, .pins, .cap, .dds, .halso, .perf, .out]
  | .matchIns .. => [.sys, .hqm, .sites, .octets, .pins, .cap, .dds, .halso, .perf, .out]
  | .matchDecision .. => [.sys, .hqm, .sites, .octets, .pins, .cap, .dds, .halso, .perf, .out]
  | .waitTrig .. => [.sys, .hqm, .sites, .octets, .pins, .cap, .dds, .halso, .perf, .out]
  | .waitTrigSatisfied .. => [.sys, .hqm, .sites, .octets, .pins, .cap, .dds, .halso, .perf, .out]
  | .waitTimeout .. => [.sys, .hqm, .sites, .octets, .pins, .cap, .dds, .halso, .perf, .out]
  | .signal .. => [.sys, .hqm, .sites, .octets, .pins, .cap, .dds, .halso, .perf, .out]
  | .sync .. => [.sys, .hqm, .sites, .octets, .pins, .cap, .dds, .halso, .perf, .out]
  | .syncArrival .. => [.sites, .barriers, .octets, .pins, .out]
  | .syncRelease .. => [.sys, .hqm, .sites, .barriers, .octets, .pins, .cap, .dds, .halso, .perf, .out]
  | .syncTimeout .. => [.sys, .hqm, .sites, .octets, .pins, .cap, .dds, .halso, .perf, .out]
  | .setTs .. => [.sys, .hqm, .sites, .octets, .pins, .cap, .dds, .halso, .perf, .out]
  | .mark .. => [.sys, .hqm, .sites, .octets, .pins, .cap, .dds, .halso, .perf, .out]
  | .park .. => [.sys, .hqm, .sites, .octets, .pins, .cap, .dds, .halso, .perf, .out]
  | .parkExpiry .. => [.sys, .hqm, .sites, .octets, .pins, .cap, .dds, .halso, .perf, .out]
  | .halt .. => [.sys, .hqm, .sites, .octets, .pins, .cap, .dds, .halso, .perf, .out]
  | .illegalOpcode .. => [.sys, .hqm, .sites, .octets, .pins, .cap, .dds, .halso, .perf, .out]
  | .siteRunBegin .. => [.sys, .hqm, .sites, .octets, .pins, .cap, .dds, .halso, .perf, .out]
  | .bundleRead .. => [.sys, .hqm, .sites, .octets, .pins, .cap, .dds, .time, .halso, .perf, .out]
  | .issueStarved .. => [.sys, .hqm, .sites, .octets, .pins, .cap, .dds, .halso, .perf, .out]
  | .vectorPlayed .. => [.sys, .hqm, .sites, .octets, .pins, .timing, .cap, .dds, .halso, .perf, .out, .free]
  | .stallPointReached .. => [.sys, .hqm, .sites, .octets, .pins, .cap, .dds, .halso, .perf, .out]
  | .siteStopEffect .. => [.sys, .hqm, .sites, .octets, .pins, .cap, .dds, .halso, .perf, .out]
  | .siteParkLimit .. => [.sys, .hqm, .sites, .octets, .pins, .cap, .dds, .halso, .perf, .out]
  | .siteCompletion .. => [.hqm, .sites, .halso, .out]
  | .sableWriteSlot .. => [.sys, .hqm, .dram, .cap, .perf, .out, .dramMem]
  | .trigInEdge .. => [.sys, .hqm, .sites, .cap, .dds, .time, .perf, .out]
  | .holdoffExpiry .. => [.cap]
  | .autoTrigger .. => [.cap]
  | .groupRearm .. => [.hqm, .cap]
  | .ddsRunBegin .. => [.hqm, .dds]
  | .ddsSegmentBoundary .. => [.hqm, .dds]
  | .ddsJumpWrite .. => [.dds, .time]
  | .ppsInEdge .. => [.sys, .hqm, .time, .perf, .out]
  | .ppsOutEdge .. => [.time, .out]
  | .ptpEventMessage .. => [.sys, .hqm, .time, .perf, .out, .free]
  | .timeStepApply => [.hqm, .time]
  | .sourceLost => [.time]
  | .traceableHoldExpiry => [.time]
  | .refLost => [.sys, .hqm, .time, .perf, .out]
  | .refInReturn => [.sys, .hqm, .time, .perf, .out, .devState]
  | .tsRingEntryDrop => [.time]
  | .halsoSpanMark .. => [.sys, .hqm, .halso, .perf, .out]
  | .halsoTimeTick .. => [.sys, .hqm, .time, .halso, .perf, .out, .free]
  | .halsoServoOffset .. => [.halso, .out]
  | .halsoArm .. => [.barriers, .halso, .out]
  | .halsoTrigger .. => [.sys, .hqm, .sites, .cap, .dds, .time, .halso, .perf, .out]
  | .halsoMatchBroadcast .. => [.halso, .out]
  | .halsoFailMerge .. => [.halso, .out]
  | .halsoHello .. => [.sys, .hqm, .time, .halso, .perf, .out]
  | .halsoJoin => [.time, .halso, .clock]
  | .halsoUpstreamLost .. => [.sys, .hqm, .time, .halso, .perf, .out]
  | .uiPllUnlock .. => [.sys, .hqm, .sites, .octets, .pins, .cap, .dds, .time, .halso, .perf, .out]
  | .uiPllLock .. => [.sys, .hqm, .sites, .octets, .pins, .cap, .dds, .time, .halso, .perf, .out]
  | .lockWindowEnd .. => [.sys, .hqm, .sites, .octets, .pins, .cap, .dds, .time, .halso, .perf, .out]
  | .phaseLimit .. => [.sys, .hqm, .sites, .octets, .pins, .cap, .dds, .time, .halso, .perf, .out]
  | .losAssert .. => [.sys, .hqm, .sites, .octets, .pins, .cap, .dds, .time, .halso, .perf, .out]
  | .losDeassert .. => [.pins, .time]
  | .linkMarkEcho .. => [.octets, .out]
  | .linkResultWord .. => [.sys, .hqm, .sites, .octets, .pins, .cap, .dds, .halso, .perf, .out]
  | .linkResultTimeout .. => [.sys, .hqm, .sites, .octets, .pins, .cap, .dds, .halso, .perf, .out]
  | .linkStatusBlock .. => [.sys, .hqm, .sites, .octets, .pins, .cap, .dds, .time, .halso, .perf, .out]
  | .calVisit .. => [.pins, .cal]
  | .octetDriftEval .. => [.sys, .hqm, .octets, .pins, .time, .cal, .perf, .out]
  | .convCheckPeriodic .. => [.sys, .hqm, .pins, .cal, .perf, .out]
  | .calStepEnd .. => [.sys, .hqm, .dram, .octets, .pins, .dds, .cal, .perf, .out, .free, .devState]
  | .ageingReading .. => [.sys, .hqm, .octets, .perf, .out]
  | .ageingLogAppend .. => [.cfg, .flash]
  | .calAdcGo .. => [.cal]
  | .calAdcDone .. => [.cal]
  | .monSample .. => [.sys, .hqm, .sites, .cal, .perf, .out]
  | .calMonCfgWrite .. => [.cal]
  | .thermSample .. => [.sys, .hqm, .sites, .pins, .dds, .cal, .perf, .out]
  | .doorbellWrite .. => [.sys, .hqm, .perf, .out]
  | .descriptorFetch .. => [.sys, .hqm, .perf, .host, .out]
  | .commandDispatch => [.sys, .hqm, .perf, .out, .dispatched]
  | .completionRelease .. => [.sys, .hqm, .dram, .perf, .host, .out]
  | .spillMove .. => [.sys, .hqm, .perf, .host, .out]
  | .postedCreditTimeout .. => [.sys, .hqm, .dram, .perf, .out]
  | .msixModerationTimeout .. => [.sys, .hqm, .perf, .out]
  | .qctxCfgWrite .. => [.sys, .hqm, .perf, .out]
  | .hqmSpillWrite .. => [.hqm]
  | .hqmCtrlWrite .. => [.hqm]
  | .standbyRequest => [.sys]
  | .deepStandbyRequest => [.sys]
  | .wakeRequest => [.sys]
  | .wakeComplete => [.sys, .hqm, .dram, .vs, .sites, .octets, .pins, .timing, .cap, .dds, .time, .halso, .cal,
      .perf, .cfg, .out, .devState, .dramMem]
  | .softResetRequest .. => [.sys]
  | .octetDisableRequest .. => [.sys]
  | .octetEnable .. => [.sys, .octets, .pins, .out]
  | .pinCfgWrite .. => [.octets, .pins, .out]
  | .pinLinkWrite .. => [.octets, .pins, .out]
  | .timingOctetCfgWrite .. => [.octets, .timing]
  | .timingPinDeskewWrite .. => [.pins, .timing]
  | .dramCtrlWrite .. => [.dram, .dramMem]
  | .timeCfgWrite .. => [.time]
  | .timePtpAsymWrite .. => [.time]
  | .halsoCableWrite .. => [.time, .halso]
  | .timeNowRead .. => [.time]
  | .perfCntRead .. => [.perf]
  | .perfSelWrite .. => [.perf]
  | .perfFreeze .. => [.perf]
  | .perfCounterOverflow .. => [.sys, .hqm, .perf, .out]
  | .snapshotRequest .. => [.perf]
  | .perfSnapshot => [.perf]
  | .perfPsCfgWrite .. => [.perf]
  | .preciseSampleEntry .. => [.time, .perf]
  | .registerWrite .. => [.sys, .hqm, .dram, .vs, .sites, .octets, .pins, .timing, .cap, .dds, .time, .halso,
      .cal, .perf, .cfg, .out, .dramMem]
  | .powerOnReset => [.sys, .hqm, .dram, .vs, .sites, .barriers, .octets, .pins, .timing, .cap, .dds, .time,
      .halso, .cal, .perf, .cfg, .out, .devState, .clock, .dispatched, .dramMem, .vsMem]
  | .resetNAssert => [.sys, .hqm, .dram, .vs, .sites, .barriers, .octets, .pins, .timing, .cap, .dds, .time,
      .halso, .cal, .perf, .cfg, .out, .devState, .clock, .dispatched, .dramMem, .vsMem]
  | .resetNDeassert => [.sys, .hqm, .perf, .out, .devState]
  | .bootComplete .. => [.sys, .hqm, .dram, .vs, .sites, .octets, .pins, .timing, .cap, .dds, .time, .halso,
      .cal, .perf, .cfg, .out, .devState, .dramMem]
  | .perstN => [.sys]
  | .flr => [.sys]
  | .powerOnResetEnd => [.sys, .hqm, .time, .perf, .out, .devState]
  | .halsoLinkDown .. => [.halso]
  | .halsoLanesLocked .. => [.sys, .hqm, .time, .halso, .perf, .out]
  | .ptpGeneralMessage .. => [.sys, .hqm, .time, .perf, .out, .free]
  | .pllLockTimeout => [.hqm, .vs, .octets]
  | .bestEffortRequestServed .. => [.sys, .hqm, .dram, .time, .perf, .host, .out, .dramMem]

/-- Command slot k completed at s with a status and a result (R459, R64). -/
def doneAs (k : Nat) (status : BitVec 8) (result : Nat) (s t : State) : Prop :=
  (t.cmd k).ph = .done ∧ (t.cmd k).status = status ∧ (t.cmd k).result = BitVec.ofNat 32 result ∧
  (t.cmd k).cspan = s.time.span ∧ (t.cmd k).untraceable = s.untraceable ∧ (t.cmd k).desc = (s.cmd k).desc ∧
  (t.cmd k).sq = (s.cmd k).sq

/-- Command slot k has completed with a status and a result. -/
def endedAs (k : Nat) (status : BitVec 8) (result : Nat) (t : State) : Prop :=
  (t.cmd k).ph = .done ∧ (t.cmd k).status = status ∧ (t.cmd k).result = BitVec.ofNat 32 result

/-- Command slot k begun, to complete later. -/
def begunAs (k : Nat) (s t : State) : Prop := t.cmd k = { s.cmd k with begun := true }

/-- Every command slot but k is as it was, and nothing of the host queue manager but its command store changed. -/
def onlySlot (k : Nat) (s t : State) : Prop :=
  (∀ j, j ≠ k → t.cmd j = s.cmd j) ∧ t.hqm = { s.hqm with cmds := t.hqm.cmds }

/-- t is s but for interrupt status bits, MSI-X pending bits, event counters, the sampler and the output record:
what raising interrupts and counting events may change. -/
def signalled (s t : State) : Prop :=
  ∃ irq msix perf out, t = { s with sys := { s.sys with irqStatus := irq }, hqm := { s.hqm with msix := msix },
                                    perf := perf, out := out }

/-- Every site but n is as it was. -/
def onlySite (n : Nat) (s t : State) : Prop := ∀ j, j ≠ n → t.site j = s.site j

/-- Every channel but c is as it was. -/
def onlyPin (c : Nat) (s t : State) : Prop := ∀ j, j ≠ c → t.pin j = s.pin j

/-- Every octet but o is as it was. -/
def onlyOctet (o : Nat) (s t : State) : Prop := ∀ j, j ≠ o → t.octet j = s.octet j

/-- A management word for the external device of octet o has left on a lane, as a control block, or waits while a running
site owns a logical pin of the octet (R275, R283). -/
def mgmtSent (o lane addr w : Nat) (s t : State) : Prop :=
  if s.octRunning o then
    t.out = s.out ∧
      (t.octet o).mgmt = ((s.octet o).mgmt.filter fun e => e.1 != lane || e.2.1 != addr) ++ [(lane, addr, w)]
  else t.out = .link s.now o lane (ctrlBlock 0x66 (addr % 2 ^ 24 + w % 2 ^ 32 * 2 ^ 24)) :: s.out

/-- Site n can issue an instruction of an opcode: it issues, waits for no MATCH, the word at its position has the
opcode, and the bundle queue has the room that a VEC or a WAIT_TRIG takes (R85, R89, R91). -/
def canIssue (n op : Nat) (s : State) : Prop :=
  (s.site n).issuing = true ∧ (s.site n).matchWait = false ∧ wOp ((s.site n).word (s.site n).pc) = op ∧
  (op = 0x01 ∨ op = 0x0A → (s.site n).room = true)

/-- The sequencer of site n as an instruction issues: nothing folds into a VEC beyond it, and a stall point at its
address is queued before it (R90, R164). -/
def issueBase (n : Nat) (s : State) : Site := markStall (s.planOf n) n { s.site n with foldable := false }

/-- An instruction of site n has issued, leaving the sequencer as y; nothing else changed but event counters; then
what stands at the boundary that the pins have reached acts. -/
def issuesAs (n : Nat) (y : Site) (s : State) (o : Res) : Prop :=
  ∃ u, o = .next (settle n u) ∧ u.site n = y ∧ onlySite n s u ∧ signalled { s with sites := u.sites } u

/-- Two readings of what the pins of a site do agree, but for the hit and the suspect mark of a probe cycle. -/
def Play.sameBut (p q : Play) : Prop :=
  match p with
  | .probe d a b addr ovl c h pos _ _ => ∃ hit unl, q = .probe d a b addr ovl c h pos hit unl
  | _ => q = p

/-- Two readings of a site agree, but for what waits for the fail log, the event latches, and the hit and the suspect
mark of a probe cycle. -/
def Site.sameRun (x y : Site) : Prop :=
  ∃ h l p, y = { x with held := h, latches := l, play := p } ∧ x.play.sameBut p

/-- The run of site n has ended as e says: nothing is queued or issued any more; the site still counts as running
until its fail log is written; what the other sites do goes on (R128, R136). -/
def ranOut (n : Nat) (e : EndInfo) (s t : State) : Prop :=
  (t.site n).play = .ended ∧ (t.site n).fin = some e ∧ (t.site n).q = [] ∧ (t.site n).issuing = false ∧
  (t.site n).matchWait = false ∧ (t.site n).running = (s.site n).running ∧ (t.site n).cmd = (s.site n).cmd ∧
  (t.site n).vcount = (s.site n).vcount ∧
  (t.site n).lastReason = (if e.status = stAborted ∨ e.status = stTimeout then e.reason else (s.site n).lastReason) ∧
  ∀ j, j ≠ n → (s.site j).sameRun (t.site j)

/-- The n bytes from a hold a string, and every other byte is as it was. -/
def wrote (a : Nat) (bs : List Byte) (m m' : Mem) : Prop :=
  (∀ i, i < bs.length → Mem.byte m' (a + i) = bs.getD i 0) ∧
  ∀ x, x < a ∨ a + bs.length ≤ x → Mem.byte m' x = Mem.byte m x

end Sys2Proof.Machine

namespace Sys2Proof

open Sys2Proof.Machine

/-- Every byte memory is in canonical form: DRAM, Vector Store, host memory as written, flash (DESIGN CHOICE, entry 3). -/
def memsCanonical (s : State) : Prop :=
  Mem.wf s.dram.mem = true ∧ Mem.wf s.vs.mem = true ∧ Mem.wf s.host = true ∧ Mem.wf s.cfg.flash = true

/-- Every indexed table of State itself is in canonical form (DESIGN CHOICE, entry 3). -/
def tablesCanonical (s : State) : Prop :=
  SMap.wf s.sites = true ∧ SMap.wf s.barriers = true ∧ SMap.wf s.octets = true ∧ SMap.wf s.pins = true

/-- At most 128 commands have been dispatched in the span (R469). -/
def dispatchCapped (s : State) : Prop := s.hqm.dispatched ≤ 128

end Sys2Proof
end

