-- ==== Sys2Proof/WellFormed.lean ====
section
/-!
DEFINITION. Which commands a sender may give: an operand outside these bounds names nothing that the
spec's events can carry. exec is defined on every command; these are the bounds of its inputs.
-/

namespace Sys2Proof

/-- A host write carries at least one half of its register (R536). -/
def Wr.wf (w : Wr) : Bool := w.lo || w.hi

/-- A tick names each engine, DRAM channel and DFE tap at most once, and no DFE window changes more often than it
decides. -/
def TickIn.wf (t : TickIn) : Bool :=
  decide t.missed.Nodup && decide (t.busy.map Prod.fst).Nodup && decide (t.dfe.map (·.ch)).Nodup &&
  t.dfe.all fun d => decide (d.changed ≤ d.n)

/-- A step of Table 9.2. -/
def StepIn.wf (r : StepIn) : Bool := decide (1 ≤ r.step.toNat ∧ r.step.toNat ≤ 0xD)

/-- A bus access of 1, 2, 4 or 8 bytes. -/
def accessOk (size : Nat) : Bool := decide (size = 1 ∨ size = 2 ∨ size = 4 ∨ size = 8)

/-- The bounds of a command's operands. -/
def Instr.wellFormed : Instr → Bool
  | .spanTick inp => inp.wf
  | .delayListExpiry => true
  | .scheduleEntryAdvance .. => true
  | .peckArrival .. => true
  | .peckRetryIssue .. => true
  | .refreshAccrualTick .. => true
  | .mr4Poll .. => true
  | .wck2dqOscillatorRead .. => true
  | .vernierMove .. => true
  | .leaseLapse .. => true
  | .engineFirstRenewal .. => true
  | .nop .. => true
  | .fence .. => true
  | .cancel .. => true
  | .memWrite .. => true
  | .memRead .. => true
  | .memFill .. => true
  | .planLoad .. => true
  | .planRetire .. => true
  | .tableLoad .. => true
  | .siteStart .. => true
  | .siteStop .. => true
  | .sitePark .. => true
  | .siteReset .. => true
  | .trigArm .. => true
  | .trigDisarm .. => true
  | .acqRead .. => true
  | .ddsLoad .. => true
  | .ddsStart .. => true
  | .ddsStop .. => true
  | .calRun .. => true
  | .calCommit .. => true
  | .eyeScan .. => true
  | .eyeScanPoint .. => true
  | .timeSet .. => true
  | .timeAdjust .. => true
  | .cfgSave .. => true
  | .vec .. => true
  | .loop .. => true
  | .endloop .. => true
  | .call .. => true
  | .ret .. => true
  | .jump .. => true
  | .matchIns .. => true
  | .matchDecision .. => true
  | .waitTrig .. => true
  | .waitTrigSatisfied .. => true
  | .waitTimeout .. => true
  | .signal .. => true
  | .sync .. => true
  | .syncArrival .. => true
  | .syncRelease .. => true
  | .syncTimeout .. => true
  | .setTs .. => true
  | .mark .. => true
  | .park .. => true
  | .parkExpiry .. => true
  | .halt .. => true
  | .illegalOpcode .. => true
  | .siteRunBegin .. => true
  | .bundleRead .. => true
  | .issueStarved .. => true
  | .vectorPlayed _ obs => decide ((obs.map (·.ch)).Nodup)
  | .stallPointReached .. => true
  | .siteStopEffect .. => true
  | .siteParkLimit .. => true
  | .siteCompletion .. => true
  | .sableWriteSlot .. => true
  | .trigInEdge .. => true
  | .holdoffExpiry .. => true
  | .autoTrigger .. => true
  | .groupRearm .. => true
  | .ddsRunBegin .. => true
  | .ddsSegmentBoundary .. => true
  | .ddsJumpWrite .. => true
  | .ppsInEdge .. => true
  | .ppsOutEdge .. => true
  | .ptpEventMessage .. => true
  | .timeStepApply => true
  | .sourceLost => true
  | .traceableHoldExpiry => true
  | .refLost => true
  | .refInReturn => true
  | .tsRingEntryDrop => true
  | .halsoSpanMark .. => true
  | .halsoTimeTick .. => true
  | .halsoServoOffset .. => true
  | .halsoArm .. => true
  | .halsoTrigger .. => true
  | .halsoMatchBroadcast .. => true
  | .halsoFailMerge .. => true
  | .halsoHello .. => true
  | .halsoJoin => true
  | .halsoUpstreamLost .. => true
  | .uiPllUnlock .. => true
  | .uiPllLock .. => true
  | .lockWindowEnd _ _ w => decide (w.phase.natAbs ≤ 32767)
  | .phaseLimit .. => true
  | .losAssert .. => true
  | .losDeassert .. => true
  | .linkMarkEcho .. => true
  | .linkResultWord .. => true
  | .linkResultTimeout .. => true
  | .linkStatusBlock .. => true
  | .calVisit .. => true
  | .octetDriftEval _ _ readings => decide (readings.length ≤ 64)
  | .convCheckPeriodic .. => true
  | .calStepEnd r => r.wf
  | .ageingReading .. => true
  | .ageingLogAppend .. => true
  | .calAdcGo v => v.wf
  | .calAdcDone codes => decide (1 ≤ codes.length ∧ codes.length ≤ 256)
  | .monSample .. => true
  | .calMonCfgWrite .. => true
  | .thermSample temps => decide (temps.length = 24)
  | .doorbellWrite _ size _ => accessOk size
  | .descriptorFetch data => decide (1 ≤ data.length ∧ data.length ≤ 8)
  | .commandDispatch => true
  | .completionRelease .. => true
  | .spillMove .. => true
  | .postedCreditTimeout .. => true
  | .msixModerationTimeout .. => true
  | .qctxCfgWrite _ _ w => w.wf
  | .hqmSpillWrite w => w.wf
  | .hqmCtrlWrite .. => true
  | .standbyRequest => true
  | .deepStandbyRequest => true
  | .wakeRequest => true
  | .wakeComplete => true
  | .softResetRequest .. => true
  | .octetDisableRequest .. => true
  | .octetEnable .. => true
  | .pinCfgWrite _ cfg aux ctle => decide ((cfg.toList ++ aux.toList ++ ctle.toList).length = 1)
  | .pinLinkWrite _ w => w.wf
  | .timingOctetCfgWrite .. => true
  | .timingPinDeskewWrite .. => true
  | .dramCtrlWrite .. => true
  | .timeCfgWrite w => w.wf
  | .timePtpAsymWrite w => w.wf
  | .halsoCableWrite _ w => w.wf
  | .timeNowRead .. => true
  | .perfCntRead .. => true
  | .perfSelWrite .. => true
  | .perfFreeze .. => true
  | .perfCounterOverflow _ occ => decide (1 ≤ occ)
  | .snapshotRequest .. => true
  | .perfSnapshot => true
  | .perfPsCfgWrite w => w.wf
  | .preciseSampleEntry .. => true
  | .registerWrite _ size _ => accessOk size
  | .powerOnReset => true
  | .resetNAssert => true
  | .resetNDeassert => true
  | .bootComplete b => decide (23 ≤ b.logSize.toNat ∧ b.logSize.toNat ≤ 26)
  | .perstN => true
  | .flr => true
  | .powerOnResetEnd => true
  | .halsoLinkDown .. => true
  | .halsoLanesLocked .. => true
  | .ptpGeneralMessage .. => true
  | .pllLockTimeout => true
  | .bestEffortRequestServed _ ready _ _ _ => decide (ready.Nodup)

end Sys2Proof
end

