-- ==== Sys2Proof/Certificates/Slice0/Obligations.lean ====
section
/-!
DEFINITION. What is claimed of the block: the rules of spec/ that say what a command or the machine does.
In a clause of a row, exec answers a next state that holds the row's own effect; the parts of State that the row
leaves alone stand in FrameOfEveryCommand, finer frames in the clauses. The rows of a sequencer and of the host
queue manager end with settle, promote or flush: what stands at the boundary that a site has reached acts, waiting
commands are looked at again, the fail log takes what waits for it.
-/

open Sys2Proof Sys2Proof.Machine

/-! ## The machine -/

/-- The step of the block: with c at the front of the queue, step is exec of c with the rest of the queue. -/
def Obligations.StepRunsTheFrontCommand : Prop :=
  ∀ (s : State) (c : Instr) (rest : List Instr), s.pending = c :: rest → step s = exec c { s with pending := rest }

/-- With no command waiting the block idles (the model's choice, log entry 10). -/
def Obligations.EmptyQueueIdles : Prop := ∀ s : State, s.pending = [] → step s = .next s

/-- No command stops the machine: every one answers a next state, in every state. -/
def Obligations.EveryCommandAnswers : Prop := ∀ (i : Instr) (s : State), ∃ t, exec i s = .next t

/-- A step takes the command at the front off the queue and changes nothing else of the queue. -/
def Obligations.QueueIsFirstInFirstOut : Prop :=
  ∀ s t : State, step s = .next t → t.pending = s.pending.tail

/-- Every step keeps DRAM, vector store, host memory and configuration memory in canonical form (log entry 3). -/
def Obligations.StepKeepsMemories : Prop := ∀ s t : State, memsCanonical s → step s = .next t → memsCanonical t

/-- Every step keeps the tables of sites, barriers, octets and channels in canonical form (log entry 3). -/
def Obligations.StepKeepsTables : Prop := ∀ s t : State, tablesCanonical s → step s = .next t → tablesCanonical t

/-- Every step keeps the number of commands dispatched in the span at 128 or less (R469). -/
def Obligations.StepKeepsDispatchCap : Prop := ∀ s t : State, dispatchCapped s → step s = .next t → dispatchCapped t

/-- The invariants hold at reset, and nothing waits. -/
def Obligations.ResetMeetsInvariants : Prop :=
  memsCanonical State.reset ∧ tablesCanonical State.reset ∧ dispatchCapped State.reset ∧ State.reset.pending = []

/-- The frame of every command: it changes only the parts of State that its row of touched lists. -/
def Obligations.FrameOfEveryCommand : Prop :=
  ∀ (i : Instr) (s t : State), exec i s = .next t → sameBut (touched i) s t

/-- Only the tick, the join of a Halso domain, power-on reset and RESET_N change the span counter; only the rows of
Tables 1.6 and 1.7 and the resets change the device state; only the rows named here change a byte of DRAM, as the host
addresses it, or of the configuration memory: a byte of DRAM changes where it is stored to, and where the interleave grain
changes, so that the host finds DRAM reordered (R190). -/
def Obligations.OnlyTheseRowsChange : Prop :=
  (∀ (i : Instr) (s t : State), exec i s = .next t → t.time.span ≠ s.time.span →
    (∃ inp, i = .spanTick inp) ∨ i = .halsoJoin ∨ i = .powerOnReset ∨ i = .resetNAssert) ∧
  (∀ (i : Instr) (s t : State), exec i s = .next t → t.sys.state ≠ s.sys.state →
    (∃ inp, i = .spanTick inp) ∨ (∃ k, i = .calRun k) ∨ (∃ r, i = .calStepEnd r) ∨ (∃ e, i = .leaseLapse e) ∨
    (∃ b, i = .bootComplete b) ∨ i = .wakeComplete ∨ i = .refInReturn ∨ i = .resetNDeassert ∨
    i = .powerOnResetEnd ∨ i = .powerOnReset ∨ i = .resetNAssert) ∧
  (∀ (i : Instr) (s t : State), exec i s = .next t →
    ((∃ a, Mem.byte t.dram.mem a ≠ Mem.byte s.dram.mem a) →
      (∃ inp, i = .spanTick inp) ∨ (∃ c e f g, i = .eyeScanPoint c e f g) ∨ (∃ w, i = .sableWriteSlot w) ∨
      (∃ c r d e g, i = .bestEffortRequestServed c r d e g) ∨ (∃ v, i = .dramCtrlWrite v) ∨
      (∃ a m v, i = .registerWrite a m v) ∨ i = .wakeComplete ∨ (∃ b, i = .bootComplete b) ∨
      i = .powerOnReset ∨ i = .resetNAssert) ∧
    ((∃ a, Mem.byte t.cfg.flash a ≠ Mem.byte s.cfg.flash a) →
      (∃ k w, i = .cfgSave k w) ∨ (∃ c, i = .ageingLogAppend c)))

/-- The values that the spec gives after power-on reset to registers that do not read 0, and the device state. -/
def Obligations.PowerOnValues : Prop :=
  let s := State.reset
  s.sys.state = .reset ∧ s.sys.prev = .reset ∧ s.sys.lost = 0b00010 ∧ s.hqm.fetchEn = true ∧
  (∀ c, (s.pin c).cfg = 0x300 ∧ (s.pin c).aux = 0x320000 ∧ (s.pin c).ctle = 0x106) ∧
  (∀ n, (s.site n).mode = 7 ∧ (s.site n).running = false) ∧
  (∀ e, (s.cap.engs.get e).holdHi = 96 ∧ (s.cap.engs.get e).holdLo = 32) ∧
  s.time.cfg = 0x0064000000000000 ∧ s.time.gain = 0x1000000000800000 ∧ s.time.limits = 0x050A0003E80003E8 ∧
  s.time.ptpCfg = 0x8080000000 ∧ s.time.ptpAsym = 0x1400000000 ∧ s.halso.cfg = 0x400000 ∧
  s.cal.cont = 0x5E ∧ s.cal.warn = 800 ∧ s.cal.crit = 880 ∧ s.dram.rate = 5 ∧ s.dram.grain = 0 ∧
  (∀ p, s.plan p = none) ∧ s.time.span = 0

/-! ## Commands of the host queue manager -/

/-- NOP and FENCE complete with OK and result 0, and change nothing but their slot (R457, R461). CANCEL completes with
OK; its result is the number of commands cancelled, and each of them completes with CANCELLED and result 0: those of
the named queue that wait, are delayed or are ready, are neither FENCE nor CANCEL, and whose tag agrees with value
under mask (R462). -/
def Obligations.OrderingCommandsComplete : Prop :=
  (∀ (k : CmdSlot) (s : State),
    (s.holds k.val 0x00 = true → ∃ t, exec (.nop k) s = .next t ∧ doneAs k.val stOK 0 s t ∧ onlySlot k.val s t) ∧
    (s.holds k.val 0x01 = true → ∃ t, exec (.fence k) s = .next t ∧ doneAs k.val stOK 0 s t ∧ onlySlot k.val s t)) ∧
  (∀ (k : CmdSlot) (s : State), s.holds k.val 0x02 = true →
    let d := (s.cmd k.val).desc
    let ks := (s.hqm.cmds.filter fun e =>
      e.2.sq == pay d 0 2 && [Phase.waiting, .delayed, .ready].contains e.2.ph && descOp e.2.desc != 0x01 &&
      descOp e.2.desc != 0x02 && ((descTag e.2.desc ^^^ pay d 4 4) &&& pay d 8 4) == 0).map Prod.fst
    ∃ u, exec (.cancel k) s = .next (promote u) ∧ doneAs k.val stOK ks.length s u ∧
      (∀ j, j ∈ ks → j ≠ k.val → doneAs j stCancelled 0 s u) ∧
      (∀ j, j ∉ ks → j ≠ k.val → u.cmd j = s.cmd j) ∧
      u.hqm.readyQ = s.hqm.readyQ.filter fun j => !ks.contains j)

/-- MEM_WRITE, MEM_READ and MEM_FILL with DRAM enabled and bytes to move begin: one best-effort request, the youngest,
stands for each, from position 0; no byte of DRAM changes yet (R463, R191). While DRAM is disabled they complete with
PRECONDITION and no request is queued (R463). -/
def Obligations.CopiesBegin : Prop :=
  (∀ (k : CmdSlot) (s : State), s.dram.enabled = true →
    let d := (s.cmd k.val).desc
    let r (kind : BeKind) (host : Nat) : BeReq :=
      { id := s.dram.nextReq, kind := kind, cmd := some k.val, dram := pay d 8 8, host := host, len := pay d 0x10 4,
        at_ := s.now, pattern := BitVec.ofNat 64 (pay d 0x18 8) }
    pay d 0x10 4 ≠ 0 →
    (s.holds k.val 0x08 = true → ∃ t, exec (.memWrite k) s = .next t ∧ begunAs k.val s t ∧ onlySlot k.val s t ∧
      t.dram = { s.dram with reqs := s.dram.reqs ++ [r .memWrite (pay d 0 8)], nextReq := s.dram.nextReq + 1 }) ∧
    (s.holds k.val 0x09 = true → ∃ t, exec (.memRead k) s = .next t ∧ begunAs k.val s t ∧ onlySlot k.val s t ∧
      t.dram = { s.dram with reqs := s.dram.reqs ++ [r .memRead (pay d 0 8)], nextReq := s.dram.nextReq + 1 }) ∧
    (s.holds k.val 0x0A = true → ∃ t, exec (.memFill k) s = .next t ∧ begunAs k.val s t ∧ onlySlot k.val s t ∧
      t.dram = { s.dram with reqs := s.dram.reqs ++ [r .memFill 0], nextReq := s.dram.nextReq + 1 })) ∧
  (∀ (k : CmdSlot) (s : State), s.dram.enabled = false →
    (s.holds k.val 0x08 = true → ∃ t, exec (.memWrite k) s = .next t ∧ doneAs k.val stPrecondition 0 s t ∧ t.dram = s.dram) ∧
    (s.holds k.val 0x09 = true → ∃ t, exec (.memRead k) s = .next t ∧ doneAs k.val stPrecondition 0 s t ∧ t.dram = s.dram) ∧
    (s.holds k.val 0x0A = true → ∃ t, exec (.memFill k) s = .next t ∧ doneAs k.val stPrecondition 0 s t ∧ t.dram = s.dram))

/-- BEST_EFFORT_REQUEST_SERVED, while a request of the reserved level is ready, moves nothing of the best-effort level
(R191). Else it moves the next 64 bytes of the request that R191 selects, and those bytes alone: from DRAM to host memory
for a MEM_READ or an ACQ_READ, the host's bytes to DRAM for a MEM_WRITE, the pattern for a MEM_FILL (R463, R464). The last line ends the command: OK with its length in bytes as result; a failed transfer ends it
with INTEGRITY and the bytes copied before (R463). -/
def Obligations.CopiesRun : Prop :=
  let reserved (ch : DramCh) (ready : List Nat) (g : Grain) (s : State) : Prop :=
    ∃ x, x ∈ (atGrain g s).reservedOn ch.val ∧ x.id ∈ ready
  (∀ (ch : DramCh) (ready : List Nat) (data : Desc) (err : Bool) (g : Grain) (s : State), reserved ch ready g s →
    ∃ t, exec (.bestEffortRequestServed ch ready data err g) s = .next t ∧ t.dram.mem = s.dram.mem ∧
      t.dram.reqs = s.dram.reqs ∧ t.host = s.host ∧ t.hqm.cmds = s.hqm.cmds) ∧
  (∀ (ch : DramCh) (ready : List Nat) (data : Desc) (g : Grain) (s : State) (r : BeReq) (aged : Bool),
    ¬ reserved ch ready g s → (atGrain g s).selectReq ((atGrain g s).reqsOn ch.val ready) = some (r, aged) →
    ∃ t, exec (.bestEffortRequestServed ch ready data false g) s = .next t ∧
      (r.kind = .memRead ∨ r.kind = .acqRead →
        wrote (r.host + r.pos) (Mem.bytes s.dram.mem (r.dram + r.pos) 64) s.host t.host ∧ t.dram.mem = s.dram.mem) ∧
      (r.kind = .memWrite →
        wrote (r.dram + r.pos) (leBytes 64 data.toNat) s.dram.mem t.dram.mem ∧ t.host = s.host) ∧
      (r.kind = .memFill →
        wrote (r.dram + r.pos) (fillBytes r.pattern r.pos 64) s.dram.mem t.dram.mem ∧ t.host = s.host) ∧
      (r.kind = .spill ∨ r.kind = .tsRing ∨ r.kind = .psRing →
        wrote r.dram r.data s.dram.mem t.dram.mem ∧ t.host = s.host)) ∧
  (∀ (ch : DramCh) (ready : List Nat) (data : Desc) (g : Grain) (s : State) (r : BeReq) (aged : Bool) (k : Nat),
    ¬ reserved ch ready g s → (atGrain g s).selectReq ((atGrain g s).reqsOn ch.val ready) = some (r, aged) →
    r.cmd = some k →
    (r.kind = .memWrite ∨ r.kind = .memFill → r.len ≤ r.pos + 64 →
      ∃ t, exec (.bestEffortRequestServed ch ready data false g) s = .next t ∧ doneAs k stOK r.len s t ∧
        ∀ x ∈ t.dram.reqs, x.id ≠ r.id) ∧
    (r.kind = .memRead → r.len ≤ r.pos + 64 → (∀ x ∈ s.dram.reqs, x.id = r.id → x.suspect = false) →
      ∃ t, exec (.bestEffortRequestServed ch ready data false g) s = .next t ∧ doneAs k stOK r.len s t) ∧
    (r.kind = .memRead ∨ r.kind = .memWrite ∨ r.kind = .memFill ∨ r.kind = .acqRead →
      ∃ t, exec (.bestEffortRequestServed ch ready data true g) s = .next t ∧ doneAs k stIntegrity r.pos s t ∧
        t.host = s.host ∧ t.dram.mem = s.dram.mem))

/-! ## The sequencer -/

/-- Where execution goes on (R98, R81, R82): the next address, or an abort with reason 0x0B where it falls out of its
region or past its overlay; a target whose window holds the overlay named, or an underrun with target, overlay and
tag, ended at the instruction that names the target (the model's choice, log entry 20); a return to the recorded overlay,
or an abort with reason 0x07. -/
def Obligations.ExecutionGoesOn : Prop :=
  ∀ (x : Site) (a ovl : Nat),
    (x.pc ∈ [0x3FF, 0x5FF, 0x7FF] ∨ (0x400 ≤ x.pc ∧ x.pc < 0x600 ∧ x.pc + 1 = 0x400 + x.ovlCount x.ovl) ∨
      (0x600 ≤ x.pc ∧ x.pc + 1 = 0x600 + x.ovlCount x.ovl) → x.next = abortAt 0x0B x) ∧
    (¬ (x.pc ∈ [0x3FF, 0x5FF, 0x7FF] ∨ (0x400 ≤ x.pc ∧ x.pc < 0x600 ∧ x.pc + 1 = 0x400 + x.ovlCount x.ovl) ∨
      (0x600 ≤ x.pc ∧ x.pc + 1 = 0x600 + x.ovlCount x.ovl)) → x.next = { x with pc := x.pc + 1, vecDone := 0 }) ∧
    (a < 0x400 → x.transfer a ovl = { x with pc := a, ovl := 0, vecDone := 0 } ∧
      x.returnTo a ovl = { x with pc := a, ovl := ovl, vecDone := 0 }) ∧
    (0x400 ≤ a → let tag := if a < 0x600 then x.win0 else x.win1
      (tag = ovl → x.transfer a ovl = { x with pc := a, ovl := ovl, vecDone := 0 } ∧
        x.returnTo a ovl = { x with pc := a, ovl := ovl, vecDone := 0 }) ∧
      (tag ≠ ovl → let r := BitVec.ofNat 32 (2 ^ 31 + a % 2048 + ovl % 32 * 2 ^ 11 + tag % 32 * 2 ^ 16)
        x.transfer a ovl = { x with issuing := false, q := x.q ++ [.stop x.pc x.ovl { status := stUnderrun, result := r }] } ∧
        x.returnTo a ovl = abortAt 0x07 x))

/-- VEC, LOOP, ENDLOOP, CALL, RET and JUMP issue as Tables 2.5 and 2.6 say: a VEC places its next bundle of up to 32
vectors, the loop and call stacks move, and the faults of Table 2.8 abort with their reasons (R88, R95 to R97). -/
def Obligations.FlowInstructionsIssue : Prop :=
  ∀ (n : SiteId) (s : State),
    let x := issueBase n.val s
    let w := x.word x.pc
    (canIssue n.val 0x01 s → let c := min 32 (bits w 40 16 + 1 - x.vecDone)
      let y : Site := { x with q := x.q ++ [.bundle x.pc x.ovl (bits w 0 19) x.vecDone c 0 false false [] none] }
      issuesAs n.val (if x.vecDone + c < bits w 40 16 + 1 then { y with vecDone := x.vecDone + c }
        else { y.next with foldable := true }) s (exec (.vec n) s)) ∧
    (canIssue n.val 0x02 s → issuesAs n.val (if 8 ≤ x.loops.length then abortAt 0x02 x
      else { x with loops := { addr := x.pc + 1, ovl := x.posOvl (x.pc + 1), count := bits w 0 32 + 1,
                               depth := x.calls.length } :: x.loops }.next) s (exec (.loop n) s)) ∧
    (canIssue n.val 0x03 s →
      (x.loops = [] → issuesAs n.val (abortAt 0x03 x) s (exec (.endloop n) s)) ∧
      (∀ e rest, x.loops = e :: rest →
        (e.depth ≠ x.calls.length → issuesAs n.val (abortAt 0x04 x) s (exec (.endloop n) s)) ∧
        (e.depth = x.calls.length → e.count = 1 →
          issuesAs n.val { x with loops := rest }.next s (exec (.endloop n) s)) ∧
        (e.depth = x.calls.length → e.count ≠ 1 →
          issuesAs n.val ({ x with loops := { e with count := e.count - 1 } :: rest }.returnTo e.addr e.ovl) s
            (exec (.endloop n) s)))) ∧
    (canIssue n.val 0x04 s → issuesAs n.val (if 16 ≤ x.calls.length then abortAt 0x05 x
      else { x with calls := { addr := x.pc + 1, ovl := x.ovl } :: x.calls }.transfer (bits w 0 11) (bits w 11 5)) s
      (exec (.call n) s)) ∧
    (canIssue n.val 0x05 s →
      (x.calls = [] → issuesAs n.val (abortAt 0x06 x) s (exec (.ret n) s)) ∧
      (∀ e rest, x.calls = e :: rest →
        ((∃ l ∈ x.loops, l.depth = x.calls.length) → issuesAs n.val (abortAt 0x04 x) s (exec (.ret n) s)) ∧
        ((∀ l ∈ x.loops, l.depth ≠ x.calls.length) → issuesAs n.val
          ({ x with calls := rest }.returnTo e.addr (if 0x400 ≤ e.addr then e.ovl else 0)) s (exec (.ret n) s)))) ∧
    (canIssue n.val 0x06 s → issuesAs n.val (if x.loops.length < bits w 16 4 then abortAt 0x03 x
      else { x with loops := x.loops.drop (bits w 16 4) }.transfer (bits w 0 11) (bits w 11 5)) s (exec (.jump n) s))

/-- MATCH, WAIT_TRIG, SIGNAL, SYNC, SET_TS, MARK, PARK and HALT issue: each stands in order behind what is queued,
issue waits behind a MATCH and ends with a HALT (R91, R99 to R101, R127, R128); an opcode that Table 2.5 does not list
aborts with reason 0x01 (R85). -/
def Obligations.PinInstructionsIssue : Prop :=
  ∀ (n : SiteId) (s : State),
    let x := issueBase n.val s
    let w := x.word x.pc
    let put (i : QItem) : Site := { x with q := x.q ++ [i] }
    (canIssue n.val 0x08 s → issuesAs n.val
      { put (.matchI x.pc x.ovl (bits w 53 5) (bits w 43 10) (bits w 33 10)) with matchWait := true } s
      (exec (.matchIns n) s)) ∧
    (canIssue n.val 0x0A s → issuesAs n.val
      (put (.wait x.pc x.ovl (bits w 51 6) (bits w 32 19) (bits w 0 19) (bit w 57))).next s (exec (.waitTrig n) s)) ∧
    (canIssue n.val 0x0B s → issuesAs n.val (put (.signal (bits w 0 6))).next s (exec (.signal n) s)) ∧
    (canIssue n.val 0x0C s → issuesAs n.val
      (put (.sync x.pc x.ovl (bits w 53 5) (bits w 32 20) (bits w 0 8))).next s (exec (.sync n) s)) ∧
    (canIssue n.val 0x0D s → issuesAs n.val (put (.setTs (bits w 0 6))).next s (exec (.setTs n) s)) ∧
    (canIssue n.val 0x0E s → issuesAs n.val (put (.mark x.pc x.ovl (bits w 0 24))).next s (exec (.mark n) s)) ∧
    (canIssue n.val 0x0F s → issuesAs n.val (put (.park x.pc x.ovl (bits w 0 32 + 1))).next s (exec (.park n) s)) ∧
    (canIssue n.val 0x3F s → issuesAs n.val { put (.halt x.pc x.ovl) with issuing := false } s (exec (.halt n) s)) ∧
    ((s.site n.val).issuing = true → (s.site n.val).matchWait = false →
      wIllegal ((s.site n.val).word (s.site n.val).pc) = true →
      issuesAs n.val (abortAt 0x01 x) s (exec (.illegalOpcode n) s))

/-- What stands at the boundary that a site has reached acts there, in order: SET_TS puts its timing set in force, a
MATCH begins its first cycle with the timing set of its descriptor, unless the bundles that a revocation lets the site play
are used up: the run then ends with LEASE_REVOKED (R135); a WAIT_TRIG whose latch was set 32 ns before goes on and clears
it, else holds, a PARK holds the pins for its duration, a HALT ends the run with OK (R99, R104, R119, R120, R127, R128).
Where a stop is due at the boundary, a WAIT_TRIG and a PARK give way to it (R129). -/
def Obligations.BoundaryItemsAct : Prop :=
  ∀ (n : Nat) (s : State) (rest : List QItem), (s.site n).play = .run →
    (∀ ts, (s.site n).q = .setTs ts :: rest → ∃ u, settle n s = settle n u ∧
      u.site n = { s.site n with q := rest, ts := ts } ∧ onlySite n s u) ∧
    (∀ addr ovl d a b, (s.site n).q = .matchI addr ovl d a b :: rest →
      ((s.site n).leaseLeft ≠ some 0 ∨ s.dueAt n .boundary (s.site n).nextT ≠ none → ∃ u, settle n s = u ∧
        u.site n = { s.site n with q := rest, ts := ((s.site n).matchDesc d).ts,
                                   play := .probe d a b addr ovl 1 0 0 false false } ∧ onlySite n s u) ∧
      ((s.site n).leaseLeft = some 0 → s.dueAt n .boundary (s.site n).nextT = none →
        ranOut n (endOf stAborted 0x0A addr ovl) s (settle n s))) ∧
    (∀ addr ovl src timeout line clr, (s.site n).q = .wait addr ovl src timeout line clr :: rest →
      (s.dueAt n .boundary (s.site n).nextT ≠ none → settle n s = s) ∧
      (s.dueAt n .boundary (s.site n).nextT = none →
      let x : Site := { s.site n with q := rest }
      let y := if clr then x.clearLatch src x.nextT else x
      (y.satisfied src x.nextT = true → ∃ u, settle n s = settle n u ∧
        u.site n = { y.clearLatch src x.nextT with knownT := x.nextT, cueT := (y.latches.get (latchOf src)).t } ∧
        onlySite n s u) ∧
      (y.satisfied src x.nextT = false → ∃ u, settle n s = u ∧
        u.site n = { y with play := .wait addr ovl src timeout line 0 } ∧ onlySite n s u))) ∧
    (∀ addr ovl dur, (s.site n).q = .park addr ovl dur :: rest →
      (s.dueAt n .boundary (s.site n).nextT ≠ none → settle n s = s) ∧
      (s.dueAt n .boundary (s.site n).nextT = none → ∃ u, settle n s = u ∧
        u.site n = { s.site n with q := rest, play := .park addr ovl ((s.site n).nextT + dur * 2048) } ∧
        onlySite n s u)) ∧
    (∀ addr ovl, (s.site n).q = .halt addr ovl :: rest →
      ranOut n { status := stOK } s (settle n s))

/-- A run begins at its first vector (R94); a bundle's records are read 64 ns before its first vector, where that was known
so early, and while its frames are valid, else it carries an underrun (R175 to R177); starvation ends the run behind what
is queued with reason 0x08 (R92). -/
def Obligations.RunsBeginAndRead : Prop :=
  ∀ (n : SiteId) (s : State),
    let x := s.site n.val
    (x.play = .starting → x.nextT / 524288 ≤ s.time.span → ∃ u, exec (.siteRunBegin n) s = .next (settle n.val u) ∧
      Site.sameRun { x with play := .run } (u.site n.val) ∧ ∀ j, j ≠ n.val → (s.site j).sameRun (u.site j)) ∧
    (∀ (g : Grain) addr ovl line j count played st recs under rest, x.play = .run ∨ x.play = .starting →
      x.q = .bundle addr ovl line j count played false st recs under :: rest → x.knownT + 262144 ≤ x.nextT →
      ((atGrain g s).readDue n.val = true ↔ (atGrain g s).now + 262144 = x.nextT)) ∧
    (∀ (g : Grain) p addr ovl line j count played st recs under rest, s.planOf n.val = some p → x.mode ≠ 5 →
      x.q = .bundle addr ovl line j count played false st recs under :: rest → (atGrain g s).readDue n.val = true →
      let lo := 64 * line + j * (x.stride / 8)
      let hi := 64 * line + (j + count) * (x.stride / 8) - 1
      ((∀ f, lo / 4096 ≤ f → f ≤ max (lo / 4096) (hi / 4096) → p.frameSt f = .valid) →
        let rs := (List.range count).map fun i => s.record p x (64 * line + (j + i) * (x.stride / 8))
        ∃ u, exec (.bundleRead { site := n, t := g }) s = .next (settle n.val u) ∧ onlySite n.val s u ∧
          u.site n.val = { x with q := .bundle addr ovl line j count played true st rs none :: rest }) ∧
      ((∃ f, lo / 4096 ≤ f ∧ f ≤ max (lo / 4096) (hi / 4096) ∧ p.frameSt f ≠ .valid) →
        ∃ u e, exec (.bundleRead { site := n, t := g }) s = .next (settle n.val u) ∧ onlySite n.val s u ∧ e.status = stUnderrun ∧
          u.site n.val = { x with q := .bundle addr ovl line j count played true st [] (some e) :: rest })) ∧
    (x.drained = true → (s.queueEnd n.val - 262144) / 524288 ≤ s.time.span →
      ∃ u, exec (.issueStarved n) s = .next (settle n.val u) ∧ onlySite n.val s u ∧
        u.site n.val = { x with issuing := false, q := x.q ++ [.stop x.pc x.ovl (endOf stAborted 0x08 x.pc x.ovl)] })

/-- A vector played moves its site one period on and counts one vector: a vector of the bundle at the head of the
queue, of the probe cycle, of the wait or of the stall in progress (R105, R108, R120, R165, R197). What else it leaves
is its place in the fail log. A revoked lease counts the bundles of a MATCH down; the vector is not the last it lets play
(R135). -/
def Obligations.VectorsPlay : Prop :=
  ∀ (n : SiteId) (obs : List Obs) (s : State), s.vectorOver n.val = true →
    let x := s.site n.val
    let on (addr ovl : Nat) (y : Site) : Site :=
      let p : At := { v := x.vcount, addr := addr, ovl := ovl, t := x.nextT }
      { y with nextT := x.nextT + s.period n.val, vcount := x.vcount + 1, lastV := p }
    (∀ addr ovl line j count played st recs rest, x.play = .run →
      x.q = .bundle addr ovl line j count played true st recs none :: rest →
      played ≠ 0 ∨ s.dueAt n.val .boundary x.nextT = none →
      let q := if played + 1 < count then .bundle addr ovl line j count (played + 1) true st recs none :: rest else rest
      ∃ u, exec (.vectorPlayed n obs) s = .next (settle n.val u) ∧
        (on addr ovl { x with q := q }).sameRun (u.site n.val) ∧
        ∀ i, i ≠ n.val → (s.site i).sameRun (u.site i)) ∧
    (∀ di a b addr ovl cyc hits pos hit unl, x.play = .probe di a b addr ovl cyc hits pos hit unl →
      pos ≤ (x.matchDesc di).guard → (pos ≠ 0 ∧ pos % 32 ≠ 1) ∨ s.dueAt n.val .boundary x.nextT = none →
      let left := if pos = 0 ∨ pos % 32 = 1 then x.leaseLeft.map (· - 1) else x.leaseLeft
      left ≠ some 0 ∨ ((pos + 1) % 32 ≠ 1 ∧ pos ≠ (x.matchDesc di).guard) →
      ∃ t, exec (.vectorPlayed n obs) s = .next t ∧
        (on addr ovl { x with play := .probe di a b addr ovl cyc hits (pos + 1) hit unl,
                              leaseLeft := left }).sameRun (t.site n.val) ∧
        ∀ i, i ≠ n.val → (s.site i).sameRun (t.site i)) ∧
    (∀ addr ovl src timeout line played, x.play = .wait addr ovl src timeout line played →
      x.satisfied src x.nextT = false → timeout = 0 ∨ played < timeout → s.dueAt n.val .held x.nextT = none →
      ∃ t, exec (.vectorPlayed n obs) s = .next t ∧
        (on addr ovl { x with play := .wait addr ovl src timeout line (played + 1) }).sameRun (t.site n.val) ∧
        ∀ i, i ≠ n.val → (s.site i).sameRun (t.site i)) ∧
    (∀ addr ovl line, x.play = .stall addr ovl false line → x.resume = false →
      s.dueAt n.val (.paused false) x.nextT = none → ∃ t, exec (.vectorPlayed n obs) s = .next t ∧ (on addr ovl x).sameRun (t.site n.val) ∧
        ∀ i, i ≠ n.val → (s.site i).sameRun (t.site i))

/-- At a stall point that its gate has armed, or under a capture hold, the site pauses as the stall entry says; at one
that is not armed it goes on (R164, R165, R168, R169). -/
def Obligations.StallPointsPause : Prop :=
  ∀ (n : SiteId) (s : State) (addr ovl : Nat) (rest : List QItem),
    let x := s.site n.val
    x.play = .run → x.q = .stall addr ovl :: rest → x.nextT / 524288 ≤ s.time.span →
    s.dueAt n.val .stallPoint x.nextT = none →
    (∀ p st, s.planOf n.val = some p → p.pauseAt n.val addr ovl = some st →
      s.armed n.val addr ovl = true ∨ s.holdOn n.val = true →
      ∃ t, exec (.stallPointReached n) s = .next t ∧ onlySite n.val s t ∧
        t.site n.val = { x with q := rest, play := .stall addr ovl st.park st.vaddr, resume := false }) ∧
    (s.armed n.val addr ovl = false → s.holdOn n.val = false →
      ∃ u, exec (.stallPointReached n) s = .next (settle n.val u) ∧ onlySite n.val s u ∧
        u.site n.val = { x with q := rest })

/-- A stop that is due where the site stands ends the run with CANCELLED, a park limit that has run out likewise
(R129, R133, R581). -/
def Obligations.StopsEndRuns : Prop :=
  ∀ (n : SiteId) (s : State) (r : StopReq) (t0 : Nat) (k : StopAt), s.stopNow n.val = some (r, t0, k) →
    (∃ t, exec (.siteStopEffect n) s = .next t ∧ ranOut n.val { status := stCancelled } s t) ∧
    (r.isPark = true → r.limit ≠ 0 → r.p + r.limit ≤ s.time.span →
      ∃ t, exec (.siteParkLimit n) s = .next t ∧ ranOut n.val { status := stCancelled } s t)

/-- The end of a probe cycle (R109, R110, R114, R116, R117): enough hits in a row take target A, the last cycle takes
target B, another cycle begins otherwise; a peer's hit that has not come aborts with reason 0x09. A target taken leaves
the MATCH registers and issues from its address; its first bundle is there with its records (R91, R576). -/
def Obligations.MatchDecides : Prop :=
  ∀ (n : SiteId) (s : State) (di a b addr ovl cyc hits pos : Nat) (hit unl : Bool),
    let x := s.site n.val
    let d := x.matchDesc di
    x.play = .probe di a b addr ovl cyc hits pos hit unl → d.guard < pos → s.dueAt n.val .boundary x.nextT = none →
    (∀ h ∈ x.held, ∀ p ts u q l rs o c, h ≠ .vec p ts u (some q) l rs o c) →
    (s.combined d hit cyc = none → ∃ t, exec (.matchDecision n) s = .next t ∧
      ranOut n.val (endOf stAborted 0x09 addr ovl) s t) ∧
    (∀ h, s.combined d hit cyc = some h →
      let run := if h then hits + 1 else 0
      (run ≠ d.need → cyc ≠ d.cycles → ∃ t, exec (.matchDecision n) s = .next t ∧ onlySite n.val s t ∧
        t.site n.val = { x with play := .probe di a b addr ovl (cyc + 1) run 0 false unl }) ∧
      (run = d.need ∨ cyc = d.cycles → ∃ u y, exec (.matchDecision n) s = .next (settle n.val u) ∧ x.sameRun y ∧
        let z := runTarget (s.planOf n.val) n.val 4096 { y with
          play := .run, matchWait := false, foldable := false, mCycles := cyc, mOutcome := decide (run ≠ d.need),
          mSuspect := unl, mDesc := di, mSpan := BitVec.ofNat 32 (x.nextT / 524288),
          knownT := x.nextT, cueT := x.nextT - 131072,
          pc := if run = d.need then a else b, ovl := 0, vecDone := 0 }
        u.site n.val = { z with q := z.q.map (stageBundle (s.fetchRun n.val)) }))

/-- A wait ends where its latch was set 32 ns before the boundary, and clears it (R118, R120); a wait whose timeout has
been played ends the run with TIMEOUT and reason 0x20 (R121); a PARK ends at its instant (R127). -/
def Obligations.WaitsEnd : Prop :=
  ∀ (n : SiteId) (s : State),
    let x := s.site n.val
    (∀ addr ovl src timeout line played, x.play = .wait addr ovl src timeout line played →
      s.dueAt n.val .held x.nextT = none →
      (x.satisfied src x.nextT = true → ∃ u, exec (.waitTrigSatisfied n) s = .next (settle n.val u) ∧
        onlySite n.val s u ∧ u.site n.val = { x.clearLatch src x.nextT with
          play := .run, knownT := x.nextT, cueT := (x.latches.get (latchOf src)).t }) ∧
      (x.satisfied src x.nextT = false → timeout ≠ 0 → timeout ≤ played →
        ∃ t, exec (.waitTimeout n) s = .next t ∧ ranOut n.val (endOf stTimeout 0x20 addr ovl) s t)) ∧
    (∀ addr ovl until_, x.play = .park addr ovl until_ → until_ / 524288 ≤ s.time.span → s.stopNow n.val = none →
      ∃ u, exec (.parkExpiry n) s = .next (settle n.val u) ∧ onlySite n.val s u ∧
        u.site n.val = { x with play := .run, nextT := until_ })

/-- A site arrives at a barrier of its group and holds (R122, R123); with no other device, the last local arrival sets the
release two spans after the latest (R124); every held participant of the group that no stop acts on before is released at
that span and its rel cycles, and the barrier is empty again (R124, R125, R131; one group of a plan at a time); a barrier
whose release is not known within the timeout ends the run with TIMEOUT and reason 0x21 (R126). -/
def Obligations.BarriersHoldAndRelease : Prop :=
  ∀ (n : SiteId) (s : State),
    let x := s.site n.val
    (∀ addr ovl b timeout rel rest, x.play = .run → x.q = .sync addr ovl b timeout rel :: rest →
      x.nextT / 524288 ≤ s.time.span → s.dueAt n.val .boundary x.nextT = none →
      let l := x.leader n.val b
      ∃ t, exec (.syncArrival n) s = .next t ∧ onlySite n.val s t ∧
        t.site n.val = { x with q := rest, play := .sync addr ovl b timeout rel (x.nextT / 524288) } ∧
        bit (t.barrier l b).arrived n.val = true ∧
        (bit (s.barrier l b).arrived n.val = false → (s.barrier l b).rel = none → x.barDevices b = 0 →
          (∀ i ∈ bitList (x.barSites b), i = n.val ∨ bit (s.barrier l b).arrived i = true) →
          (t.barrier l b).rel = some (max (s.barrier l b).a (x.nextT / 524288) + 2))) ∧
    (∀ addr ovl b timeout rel a, x.play = .sync addr ovl b timeout rel a → timeout ≠ 0 →
      (s.barrier (x.leader n.val b) b).rel = none → a + timeout < s.time.span → s.stopNow n.val = none →
      ∃ t, exec (.syncTimeout n) s = .next t ∧ ranOut n.val (endOf stTimeout 0x21 addr ovl) s t) ∧
    (∀ (p : PlanSlot) (b : Fin 32) r q l, s.plan p.val = some q → l ∈ q.sites → (s.barrier l b.val).rel = some r →
      (∀ i ∈ q.sites, i ≠ l → (s.barrier i b.val).rel = none) → r ≤ s.time.span →
      (∃ u, exec (.syncRelease p b) s = .next u ∧ u.barrier l b.val = {} ∧
        u.sites = (q.sites.foldl (fun v m =>
          if (v.site m).leader m b.val = l then releaseSite b.val r m v else v) s).sites) ∧
      ∀ (u : State) (m addr ovl timeout rel a : Nat), (u.site m).play = .sync addr ovl b.val timeout rel a →
        u.stopNow m = none → ∃ v, releaseSite b.val r m u = settle m v ∧ onlySite m u v ∧
          v.site m = { u.site m with play := .run, nextT := r * 524288 + rel * 2048 })

/-- A run that has ended, with its log written, completes SITE_START with the run's status: the result tells, for OK,
whether the staging buffer has lost an entry of the run (R295) and the run's own otherwise, and the completion span is that in which the pins parked but for
OK and CANCELLED; the site is idle (R60, R128, R136). -/
def Obligations.SiteCompletes : Prop :=
  ∀ (n : SiteId) (s : State) (e : EndInfo) (k : Nat),
    let x := s.site n.val
    x.play = .ended → x.fin = some e → s.logDone n.val = true → x.cmd = some k →
    x.decider = none → x.stops = [] → x.losers = [] →
    ∃ t, exec (.siteCompletion n) s = .next t ∧ onlySite n.val s t ∧
      t.site n.val = { x with running := false, play := .idle, cmd := none, fin := none } ∧
      (t.cmd k).ph = .done ∧ (t.cmd k).status = e.status ∧
      (t.cmd k).result = (if e.status = stOK then BitVec.ofNat 32 (b2n (s.cap.sites.get n.val).lostFull) else e.result) ∧
      (t.cmd k).cspan = (if e.status = stOK ∨ e.status = stCancelled then s.time.span else x.parkSpan) ∧
      ∀ j, j ≠ k → t.cmd j = s.cmd j

/-- At its first vector boundary of a span a pin's verniers each move by at most one grain toward the target in force,
and no other pin moves (R233, R418). -/
def Obligations.VerniersMoveByOne : Prop :=
  ∀ (c : Chan) (s : State) (n : Nat), s.ownerOf c.val = some n → s.boundaryNow n = true →
    let p := s.pin c.val
    let one (v g : Int) : Int := if v < g then v + 1 else if g < v then v - 1 else v
    p.vSpan ≠ s.time.span + 1 →
    ∃ t, exec (.vernierMove c) s = .next t ∧ onlyPin c.val s t ∧
      t.pin c.val = { p with
        vDrv := one p.vDrv (if p.tSpan = s.time.span + 1 then p.pDrv else p.tDrv),
        vCmp := one p.vCmp (if p.tSpan = s.time.span + 1 then p.pCmp else p.tCmp), vSpan := s.time.span + 1 }

/-! ## Plans, tables and refill -/

/-- PLAN_LOAD in its turn at engine 88 (R40, R43, R179, R182, R578): PRECONDITION while DRAM is disabled; a header that
cannot be read is rejected with reason 0x07; a reason of the checks rejects the image and loads nothing; an image that
passes them puts its plan into a free slot (the lowest: the model's choice, log entry 40), claims the bushels that its plan
bushels map to and completes with the slot as result; a site that is none of the plan's is left alone; a copy that fails
after the checks is rejected with reason 0x07 and leaves no window tag on the plan's sites. Stated for a load that powers no
UI PLL up, and for the rejection of one that does not lock in time (R228). -/
def Obligations.PlanLoads : Prop :=
  ∀ (k : CmdSlot) (s : State),
    let m := s.dram.mem
    let h := readHeader m (pay (s.cmd k.val).desc 8 8)
    let rejects (rd : ReadOutcome) (r : Reason) : Prop := ∃ t, exec (.planLoad k rd) s = .next t ∧
      doneAs k.val stRejected (r.1 + r.2 % 65536 * 2 ^ 16) s t ∧ onlySlot k.val s t ∧ t.vs = s.vs ∧ t.sites = s.sites
    (s.holds k.val 0x10 = true → s.turn88 k.val = true → s.vs.loadWait = none →
      (∀ rd, s.dram.enabled = false → ∃ t, exec (.planLoad k rd) s = .next t ∧ doneAs k.val stPrecondition 0 s t ∧
        onlySlot k.val s t ∧ t.vs = s.vs ∧ t.sites = s.sites) ∧
      (s.dram.enabled = true → s.slotsClaimed.length < 64 →
        rejects .errHeader (0x07, 0) ∧
        ∀ rd, rd ≠ .errHeader →
          (∀ r, headerFault m h = some r → rejects rd r) ∧
          (headerFault m h = none → s.toPower h.rates = 0 →
            (∀ r, check1 m s.installed (badBlock rd) h = some r → rejects rd r) ∧
            (check1 m s.installed (badBlock rd) h = none →
              (∀ r, checks2to5 (readImage m h.a) s = .inl r → rejects rd r) ∧
              (∀ p fs pins, checks2to5 (readImage m h.a) s = .inr (p, fs, pins) →
                (rd = .errCopy → ∃ t, exec (.planLoad k rd) s = .next t ∧ doneAs k.val stRejected 0x07 s t ∧
                  t.vs = s.vs ∧ ∀ n, t.site n =
                    if n ∈ p.sites then { s.site n with win0 := 0, win1 := 0 } else s.site n) ∧
                (rd ≠ .errCopy → ∃ t, exec (.planLoad k rd) s = .next t ∧ doneAs k.val stOK s.freeSlot s t ∧
                  t.plan s.freeSlot = some p ∧ (∀ j, j ≠ s.freeSlot → t.plan j = s.plan j) ∧
                  t.vs.bushels = p.wanted.foldl (fun b e =>
                    b.set (p.bushels.get e.1) { claimed := true, slot := s.freeSlot, pb := e.1 }) s.vs.bushels ∧
                  ∀ n, n ∉ p.sites → t.site n = s.site n)))))) ∧
    (∀ j mask o, s.vs.loadWait = some (j, mask) → (bitList mask).find? (fun o => !(s.octet o).locked) = some o →
      ∃ t, exec .pllLockTimeout s = .next t ∧ doneAs j stRejected (0x08 + o % 65536 * 2 ^ 16) s t ∧
        t.vs = { s.vs with loadWait := none })

/-- PLAN_RETIRE is accepted only when every site of the plan is idle; otherwise it completes with PRECONDITION and
result 0, and the plan stays loaded (R45). Of a slot that holds no plan, or one already retired, it completes with
PRECONDITION and result 1, and changes nothing (R47). Accepted it completes with OK, the plan counts as retired and
its sites are unassigned (R24, R46). -/
def Obligations.PlanRetires : Prop :=
  ∀ (k : CmdSlot) (s : State), s.holds k.val 0x11 = true → s.vs.loadWait = none → s.turn88 k.val = true →
    let n := pay (s.cmd k.val).desc 0 1
    (s.plan n = none → ∃ t, exec (.planRetire k) s = .next t ∧ doneAs k.val stPrecondition 1 s t ∧
      onlySlot k.val s t ∧ sameBut [.hqm] s t) ∧
    (∀ p, s.plan n = some p →
      (p.retired = true → ∃ t, exec (.planRetire k) s = .next t ∧ doneAs k.val stPrecondition 1 s t ∧
        onlySlot k.val s t ∧ sameBut [.hqm] s t) ∧
      (p.retired = false → (∃ i ∈ p.sites, (s.site i).running = true) →
        ∃ t, exec (.planRetire k) s = .next t ∧ doneAs k.val stPrecondition 0 s t ∧ t.vs = s.vs ∧ t.sites = s.sites) ∧
      (p.retired = false → (∀ i ∈ p.sites, (s.site i).running = false) →
        ∃ t, exec (.planRetire k) s = .next t ∧ doneAs k.val stOK 0 s t ∧ onlySlot k.val s t ∧
          t.plan n = some { p with retired := true } ∧ (∀ j, j ≠ n → t.plan j = s.plan j) ∧
          (∀ i, i ∈ p.sites → (t.site i).mode = 7) ∧ ∀ i, i ∉ p.sites → t.site i = s.site i))

/-- TABLE_LOAD (R217, R463): PRECONDITION while DRAM is disabled, INTEGRITY on a failed read, BAD_DESCRIPTOR with the
position of a malformed record, PRECONDITION with a channel that a running site owns, REJECTED with what the tables
would breach; else every record is written in order, and the result is their number. It runs in its turn at engine 88
(R43). -/
def Obligations.TablesLoad : Prop :=
  ∀ (k : CmdSlot) (s : State), s.holds k.val 0x18 = true → s.vs.loadWait = none → s.turn88 k.val = true →
    let en : BitVec 128 := BitVec.ofNat 128 (2 ^ s.nCh - 1)
    let r := readTabSeq s.dram.mem s.installed (fun m => (m &&& ~~~ en) == 0) (s.installed / 32)
      (pay (s.cmd k.val).desc 8 8)
    let named := r.1.foldl (fun m x => m ||| x.pins) (0 : BitVec 128)
    let pins := applyTabs r.1 named s.pins
    (s.dram.enabled = false → ∃ t, exec (.tableLoad k false) s = .next t ∧ doneAs k.val stPrecondition 0 s t ∧
      onlySlot k.val s t ∧ t.pins = s.pins) ∧
    (s.dram.enabled = true →
      (∃ t, exec (.tableLoad k true) s = .next t ∧ doneAs k.val stIntegrity 0 s t ∧ t.pins = s.pins) ∧
      (r.2 = none → ∃ t, exec (.tableLoad k false) s = .next t ∧
        doneAs k.val stBad (0xFF + r.1.length % 65536 * 2 ^ 16) s t ∧ t.pins = s.pins) ∧
      (r.2 ≠ none →
        (∀ c, (bitList named).find? s.ownedRunning = some c → ∃ t, exec (.tableLoad k false) s = .next t ∧
          doneAs k.val stPrecondition (c * 2 ^ 16) s t ∧ t.pins = s.pins) ∧
        ((bitList named).find? s.ownedRunning = none →
          (∀ code i, tableBreach pins named s = some (code, i) → ∃ t, exec (.tableLoad k false) s = .next t ∧
            doneAs k.val stRejected (code + i * 2 ^ 16) s t ∧ t.pins = s.pins) ∧
          (tableBreach pins named s = none → ∃ t, exec (.tableLoad k false) s = .next t ∧
            doneAs k.val stOK r.1.length s t ∧ onlySlot k.val s t ∧
            t.pins = pins.mapAll fun c p => if bit named c then p.disturb else p))))

/-- A schedule entry that has run its spans gives way to the next one, to the wrap entry with the stream cursors
restored, or to the end of the schedule (R156, R161); a peck whose lines touch no channel in FORCED and that arrives
correct makes its frame VALID and its bytes readable (R172); one that fails is given a retry in the first slot that fits;
one that fails twice, or for which no slot fits, leaves its frame BAD (R173); a retry goes out in its span and slot
(R173). -/
def Obligations.RefillActs : Prop :=
  ∀ (s : State),
    (∀ (p : PlanSlot) q, s.plan p.val = some q → q.running = true → q.ended = false →
      (q.entries.getD q.entry {}).repeatM1 < q.rep →
      ∃ t, exec (.scheduleEntryAdvance p) s = .next t ∧ (∀ j, j ≠ p.val → t.plan j = s.plan j) ∧
        t.plan p.val = some (if q.entry + 1 < q.entries.length then { q with entry := q.entry + 1, rep := 0 }
          else if q.loopFrom = 0xFFFF then { q with ended := true }
          else { q with entry := q.loopFrom, rep := 0, cursors := (List.range q.regions.length).foldl (fun m i =>
            if (q.regions.getD i {}).kind = 2 then m.set i (q.regions.getD i {}).loopCursor else m) q.cursors })) ∧
    (∀ id r p, s.vs.refills.find? (fun r => r.id == id) = some r → r.retryAt = none → r.span < s.time.span →
      (∀ ch ∈ s.peckChans r.src, (s.dram.chans.get ch).forced = false) → r.isOvl = false → s.plan r.plan = some p →
      (crc32c (Mem.bytes s.dram.mem r.src 4096) = r.crc →
        ∃ t, exec (.peckArrival id false) s = .next t ∧
          t.plan r.plan = some { p with frames := p.frames.mod r.frame fun f => { f with st := .valid } } ∧
          wrote (p.byteAddr (4096 * r.frame)) (Mem.bytes s.dram.mem r.src 4096) s.vs.mem t.vs.mem ∧
          t.vs.refills = s.vs.refills.filter fun x => x.id != id) ∧
      (r.retry = true ∨ s.retrySlot (r.slot % 8) r.span = none → ∃ t, exec (.peckArrival id true) s = .next t ∧
          t.plan r.plan = some { p with frames := p.frames.mod r.frame fun f => { f with st := .bad } } ∧
          t.vs.mem = s.vs.mem ∧ t.vs.bad = s.vs.bad + 1 ∧ t.vs.crcFail = s.vs.crcFail + 1 ∧ t.vs.event = true ∧
          t.vs.refills = s.vs.refills.filter fun x => x.id != id) ∧
      (∀ a, r.retry = false → s.retrySlot (r.slot % 8) r.span = some a → ∃ t, exec (.peckArrival id true) s = .next t ∧
          (∀ j, t.plan j = s.plan j) ∧ t.vs.mem = s.vs.mem ∧ t.vs.crcFail = s.vs.crcFail + 1 ∧ t.vs.event = true ∧
          t.vs.refills = s.vs.refills.map fun x => if x.id = id then { x with retryAt := some a } else x)) ∧
    (∀ id r sl, s.vs.refills.find? (fun r => r.id == id) = some r → r.retryAt = some (s.time.span, sl) →
      ∃ t, exec (.peckRetryIssue id) s = .next t ∧ t.vs.refills = s.vs.refills.map fun x =>
        if x.id = id then { x with retryAt := none, retry := true, slot := sl, span := s.time.span, waits := 0 } else x)

/-! ## Site commands -/

/-- SITE_START at a tick after its dispatch, outside Standby (R57 to R60, R93, R94): PRECONDITION for a site of no
plan or under a condition of R58, REJECTED with the lowest octet whose ceiling is below the declared rate; else the
sequencer starts at its entry with empty stacks and its first vector two spans on, and the command completes with the
run. -/
def Obligations.SiteStarts : Prop :=
  ∀ (k : CmdSlot) (s : State), s.holds k.val 0x20 = true → s.sys.state ≠ .standby →
    (s.cmd k.val).dspan < s.time.span →
    let n := pay (s.cmd k.val).desc 0 1
    let x := s.site n
    (x.mode = 7 → ∃ t, exec (.siteStart k) s = .next t ∧ doneAs k.val stPrecondition 0 s t ∧ t.sites = s.sites) ∧
    (∀ p, x.mode ≠ 7 → s.plan x.plan = some p →
      (s.startOk n p = false → ∃ t, exec (.siteStart k) s = .next t ∧ doneAs k.val stPrecondition 0 s t ∧
        onlySlot k.val s t ∧ t.sites = s.sites) ∧
      (∀ o, s.startOk n p = true → s.lowOctet n p = some o → ∃ t, exec (.siteStart k) s = .next t ∧
        doneAs k.val stRejected (0x20 + o * 2 ^ 16) s t ∧ onlySlot k.val s t ∧ t.sites = s.sites) ∧
      (s.startOk n p = true → s.lowOctet n p = none → ∃ t, exec (.siteStart k) s = .next t ∧ begunAs k.val s t ∧
        onlySlot k.val s t ∧ onlySite n s t ∧ (t.site n).running = true ∧ (t.site n).play = .starting ∧
        (t.site n).nextT = (s.time.span + 2) * 524288 ∧ (t.site n).loops = [] ∧ (t.site n).calls = [] ∧
        (t.site n).vcount = 0 ∧ (t.site n).ts = x.initTs ∧ (t.site n).latches = [] ∧ (t.site n).lastReason = 0 ∧
        (t.site n).cmd = some k.val ∧ (t.site n).imem = x.imem ∧ (t.site n).dmem = x.dmem ∧
        (x.entry % 2048 < 0x400 → (t.site n).pc = x.entry % 2048 ∧ (t.site n).ovl = 0 ∧ (t.site n).issuing = true)))

/-- SITE_STOP and SITE_PARK on an idle site complete with OK and result 0; on a running one they begin, and the stop holds
from the span after the dispatch (R129, R133). SITE_RESET is accepted only on an idle site: it restores the state of R93,
sets both window tags to 0 and completes with OK; on a running site, and on an unassigned one, it completes with
PRECONDITION and changes nothing (R134). The position that it restores is that of the site's entry. -/
def Obligations.StopsAndResets : Prop :=
  (∀ (k : CmdSlot) (s : State),
    let d := (s.cmd k.val).desc
    let n := pay d 0 1
    let req (park : Bool) (limit : Nat) : StopReq :=
      { cmd := some k.val, isPark := park, p := (s.cmd k.val).dspan + 1, limit := limit, ord := (s.site n).stops.length }
    (s.holds k.val 0x21 = true →
      ((s.site n).running = false → ∃ t, exec (.siteStop k) s = .next t ∧ doneAs k.val stOK 0 s t ∧
        onlySlot k.val s t ∧ t.sites = s.sites) ∧
      ((s.site n).running = true → (s.site n).play ≠ .ended → ∃ t, exec (.siteStop k) s = .next t ∧
        begunAs k.val s t ∧ onlySlot k.val s t ∧ onlySite n s t ∧
        t.site n = { s.site n with stops := (s.site n).stops ++ [req false 0] })) ∧
    (s.holds k.val 0x22 = true →
      ((s.site n).running = false → ∃ t, exec (.sitePark k) s = .next t ∧ doneAs k.val stOK 0 s t ∧
        onlySlot k.val s t ∧ t.sites = s.sites) ∧
      ((s.site n).running = true → (s.site n).play ≠ .ended → ∃ t, exec (.sitePark k) s = .next t ∧
        begunAs k.val s t ∧ onlySlot k.val s t ∧ onlySite n s t ∧
        t.site n = { s.site n with stops := (s.site n).stops ++ [req true (pay d 4 4)] }))) ∧
  (∀ (k : CmdSlot) (s : State), s.holds k.val 0x23 = true →
    let n := pay (s.cmd k.val).desc 0 1
    let x := s.site n
    (x.running = true ∨ x.mode = 7 → ∃ t, exec (.siteReset k) s = .next t ∧ doneAs k.val stPrecondition 0 s t ∧
      onlySlot k.val s t ∧ sameBut [.hqm] s t) ∧
    (x.running = false → x.mode ≠ 7 → ∃ t, exec (.siteReset k) s = .next t ∧ doneAs k.val stOK 0 s t ∧
      onlySlot k.val s t ∧ onlySite n s t ∧ sameBut [.hqm, .sites] s t ∧
      t.site n = { x with
        lastReason := 0, win0 := 0, win1 := 0, pc := x.entry % 2048,
        ovl := if x.entry % 2048 < 0x400 then 0 else x.entry / 2048, loops := [], calls := [], vecDone := 0,
        foldable := false, matchWait := false, q := [], ts := x.initTs, vcount := 0, latches := [] }))

/-! ## Capture, trigger units, acquisition -/

/-- A write slot that has not yet written in its span writes back the line of the engine that it serves: its oldest staged
entry at the place of that entry in the site's ring, with the next one when both share a 64-B line; where no entry may be
written in this span, the next line of a closed record, that of an arming that has ended first (R33, R162, R290, R303,
R324). An entry staged in this span waits. The last line of the record of a disarmed group completes its TRIG_ARM with
CANCELLED and the number of records written, and the TRIG_DISARMs with OK and result 1 (R316, R317). -/
def Obligations.WriteSlotsWriteBack : Prop :=
  ∀ (w : Fin 32) (s : State) (m : Nat), bit s.cap.slotsUsed w.val = false → s.slotEngine w.val = some m →
    s.pendingWb m = true →
    let e := s.cap.engs.get m
    let g := s.group m
    let place (x : Staged) : Nat := (s.cap.sites.get x.site).entryAddr x.e
    (∀ x rest, e.staging = x :: rest → x.span < s.time.span →
      ((∀ y, rest.head? = some y → s.sameLine x y = false) → ∃ t, exec (.sableWriteSlot w) s = .next t ∧
        t.dram.mem = Mem.store s.dram.mem (place x) (leBytes 32 x.bits.toNat) ∧ (t.cap.engs.get m).staging = rest) ∧
      (∀ y rest2, rest = y :: rest2 → s.sameLine x y = true → ∃ t, exec (.sableWriteSlot w) s = .next t ∧
        t.dram.mem = Mem.store (Mem.store s.dram.mem (place x) (leBytes 32 x.bits.toNat)) (place y)
          (leBytes 32 y.bits.toNat) ∧ (t.cap.engs.get m).staging = rest2)) ∧
    ((∀ x, e.staging.head? = some x → s.time.span ≤ x.span) →
      (∀ r l ls, g.tails = [] → g.cur = some r → g.lines = l :: ls →
        ∃ t, exec (.sableWriteSlot w) s = .next t ∧ t.dram.mem = Mem.store s.dram.mem (r.addr + 64 * r.lines) l ∧
          (t.group m).lines = ls ∧ (t.group m).written = g.written + (if ls = [] then 1 else 0)) ∧
      (∀ x xs, g.tails = x :: xs → ∃ t, exec (.sableWriteSlot w) s = .next t ∧
        t.dram.mem = Mem.store s.dram.mem (x.cur.addr + 64 * x.cur.lines) (x.lines.headD []) ∧
        (1 < x.lines.length → (t.group m).tails =
          { x with cur := { x.cur with lines := x.cur.lines + 1 }, lines := x.lines.drop 1 } :: xs) ∧
        (x.lines.length ≤ 1 → (t.group m).tails = xs ∧
          (∀ k, x.cmd = some k → doneAs k stCancelled (x.written + 1) s t) ∧
          ∀ j, some j ∈ x.disarm → x.cmd ≠ some j → doneAs j stOK 1 s t)))

/-- TRIG_IN meets the condition of the one armed unit that listens to the pin (R310, R312), at or after the start of its
arming: in hold-off it counts a missed trigger; a unit without records fires, sets its latch at every site where it is
clear and was not cleared since, and pulses its output (R101, R118, R119, R313). With no armed unit that listens nothing
happens. -/
def Obligations.TrigInFires : Prop :=
  ∀ (i : Fin 4) (g : Grain) (s : State),
    let now := s.time.span * 524288 + g.val
    let hears (v : Nat) : Prop := (s.unit v).armed = true ∧ (s.unit v).src = 3 ∧ (s.unit v).sel = i.val
    ((∀ v, v < 16 → ¬ hears v) → exec (.trigInEdge i g) s = .next (atGrain g s)) ∧
    (∀ u, u < 16 → hears u → (∀ v, v < 16 → v ≠ u → ¬ hears v) →
      (s.group (s.unit u).master).armedAt * 524288 ≤ now →
      ((s.unit u).holding now = true → ∃ t, exec (.trigInEdge i g) s = .next t ∧ t.sites = s.sites ∧
        (t.unit u).missed = satAdd (2 ^ 32 - 1) (s.unit u).missed 1) ∧
      ((s.unit u).holding now = false → (s.group (s.unit u).master).recs = false →
        (s.group (s.unit u).master).st = .armed → ∃ t, exec (.trigInEdge i g) s = .next t ∧
          (∀ n, n < 64 → let l := (s.site n).latches.get u
            (t.site n).latches.get u =
              if l.set = true ∨ now < l.clr ∨ now < (s.site n).latchT then l else { l with set := true, t := now }) ∧
          ((s.unit u).outEn = true → .trigOut (s.unit u).outSel now ∈ t.out)))

/-- HOLDOFF_EXPIRY ends a time hold-off that runs out within a span from now (R326). AUTO_TRIGGER triggers the armed group
of a master 0 to 3 once its period has passed since arming or re-arming, at that instant (R327). GROUP_REARM of a group
whose last record is written arms it again in a later span, or, with its record count written, disarms it: its units are
released, TRIG_ARM completes with OK and the number of records, a TRIG_DISARM that waits with OK and result 0 (R316, R317,
R324). TRIG_ARM (R314 to R316) completes with PRECONDITION, the number of the condition and the unit it names; else the
group is armed from the span after the dispatch, its units counted afresh, and the command completes later. TRIG_DISARM of
a master that is armed waits for the span after its dispatch, of another it changes nothing (R317). ACQ_READ of a record
that is not there, is more than 255 records old or overwritten, or while DRAM is disabled completes with PRECONDITION; of
one that is there it completes at once when no byte is asked for, else queues the read of the record's bytes, with the
status that the record's flags give (R329, R464). -/
def Obligations.TriggerGroups : Prop :=
  (∀ (u : UnitId) (s : State),
    let x := s.unit u.val
    let g := s.group u.val
    (x.inHold = true → x.holdMode = 1 → x.holdT + x.holdCount * 2048 ≤ s.now + 524288 →
      ∃ t, exec (.holdoffExpiry u) s = .next t ∧ t.unit u.val = { x with inHold := false } ∧
        (∀ v, v ≠ u.val → t.unit v = s.unit v) ∧ sameBut [.cap] s t) ∧
    (u.val < 4 → x.autoEn = true → x.autoPeriod ≠ 0 → g.recs = true → g.st = .armed →
      g.autoFrom + x.autoPeriod ≤ s.time.span →
      let at_ := (g.autoFrom + x.autoPeriod) * 524288
      let tr : Trig := { ft := at_, sample := s.sampleFor u.val at_, forced := true, missed := g.missedAcc }
      ∃ v, exec (.autoTrigger u) s = .next (closeIfDone u.val v) ∧ sameBut [.cap] s v ∧
        (∀ m, m ≠ u.val → v.group m = s.group m) ∧
        v.group u.val = { g with st := .collecting, missedAcc := 0, trig := some tr })) ∧
  (∀ (m : UnitId) (s : State),
    let g := s.group m.val
    g.st = .rearming → g.cur = none →
    (g.count ≠ 0 → g.count ≤ g.written → ∃ t, exec (.groupRearm m) s = .next t ∧
      t.group m.val = { g with st := .disarmed, cmd := none, disarm := [] } ∧
      (∀ u, u < 16 → bit g.units u = true → (t.unit u).armed = false) ∧
      (∀ k, g.cmd = some k → (∀ x ∈ g.disarm, x.2 ≠ some k) → doneAs k stOK g.written s t) ∧
      ∀ sp j, (sp, some j) ∈ g.disarm → doneAs j stOK 0 s t) ∧
    (g.count = 0 ∨ g.written < g.count → g.lineSpan < s.time.span →
      ∃ t, exec (.groupRearm m) s = .next t ∧ sameBut [.cap] s t ∧ (∀ j, j ≠ m.val → t.group j = s.group j) ∧
        t.group m.val = { g with st := .armed, armAt := s.time.span, autoFrom := s.time.span, entries := [],
                                 first := 0, nPart := 0, hist := [], trig := none })) ∧
  (∀ (k : CmdSlot) (s : State),
    let d := (s.cmd k.val).desc
    let m := pay d 0 1
    let g := s.group m
    (s.holds k.val 0x28 = true → s.sys.state ≠ .standby → g.shut = none →
      let units := setBit (BitVec.ofNat 16 (pay d 2 2)) m true
      let size := 65536 * 2 ^ pay d 0x18 1
      (∀ c u, armFault m units (pay d 8 1 == 1) size s = some (c, u) → ∃ t, exec (.trigArm k) s = .next t ∧
        doneAs k.val stPrecondition (16 * c + u) s t ∧ onlySlot k.val s t ∧ sameBut [.hqm] s t) ∧
      (armFault m units (pay d 8 1 == 1) size s = none → ∃ t, exec (.trigArm k) s = .next t ∧ begunAs k.val s t ∧
        onlySlot k.val s t ∧ sameBut [.hqm, .cap] s t ∧ (∀ j, j ≠ m → t.group j = s.group j) ∧
        (∃ tails, t.group m = {
          tails := tails, st := .arming, units := units, recs := pay d 8 1 == 1, count := pay d 4 4,
          gid := BitVec.ofNat 8 (pay d 9 1), devices := BitVec.ofNat 16 (pay d 0x0A 2), base := pay d 0x10 8,
          size := size, cmd := some k.val, armAt := (s.cmd k.val).dspan + 1, armedAt := (s.cmd k.val).dspan + 1 }) ∧
        ∀ u, t.unit u = if bit units u then { s.unit u with missed := 0, remote := 0 } else s.unit u)) ∧
    (s.holds k.val 0x29 = true →
      (g.st = .disarmed → ∃ t, exec (.trigDisarm k) s = .next t ∧ doneAs k.val stOK 0 s t ∧
        onlySlot k.val s t ∧ sameBut [.hqm] s t) ∧
      (g.st ≠ .disarmed → g.shut = none → ∃ t, exec (.trigDisarm k) s = .next t ∧ begunAs k.val s t ∧
        onlySlot k.val s t ∧ sameBut [.hqm, .cap] s t ∧ (∀ j, j ≠ m → t.group j = s.group j) ∧
        t.group m = { g with disarm := g.disarm ++ [((s.cmd k.val).dspan + 1, some k.val)] })) ∧
    (s.holds k.val 0x2A = true →
      let seq := pay d 4 4
      let later (q : Rec) : Prop := seq < q.seq ∧
        (q ∈ g.past ∨ g.cur = some q ∨ ∃ x ∈ g.tails, x.own = true ∧ x.cur = q)
      let lost (r : Rec) : Prop := s.dram.enabled = false ∨ 255 < g.closed - 1 - seq ∨
        ∃ q, later q ∧ q.addr < r.addr + r.len ∧ r.addr < q.addr + 64 * q.lines
      (g.past.find? (fun r => r.seq == seq) = none → ∃ t, exec (.acqRead k) s = .next t ∧
        doneAs k.val stPrecondition 0 s t ∧ onlySlot k.val s t ∧ sameBut [.hqm] s t) ∧
      (∀ r, g.past.find? (fun r => r.seq == seq) = some r →
        let n := min r.len (pay d 0x10 4)
        let st := if bit r.flags 2 then stAborted else if bit r.flags 1 then stTruncated else stOK
        let req : BeReq := { id := s.dram.nextReq, kind := .acqRead, cmd := some k.val, dram := r.addr,
                             host := pay d 8 8, len := n, at_ := s.now, status := st, res := r.len }
        (lost r → ∃ t, exec (.acqRead k) s = .next t ∧ doneAs k.val stPrecondition 0 s t ∧ onlySlot k.val s t ∧
          sameBut [.hqm] s t) ∧
        (¬ lost r → n = 0 → ∃ t, exec (.acqRead k) s = .next t ∧ doneAs k.val st r.len s t ∧ onlySlot k.val s t ∧
          sameBut [.hqm] s t) ∧
        (¬ lost r → n ≠ 0 → ∃ t, exec (.acqRead k) s = .next t ∧ begunAs k.val s t ∧ onlySlot k.val s t ∧
          sameBut [.hqm, .dram, .dramMem] s t ∧
          t.dram = { s.dram with reqs := s.dram.reqs ++ [req], nextReq := s.dram.nextReq + 1 }))))

/-! ## The DDS generators -/

/-- DDS_LOAD (R343): PRECONDITION while the generator runs or DRAM is unusable, INTEGRITY on an uncorrectable read,
BAD_DESCRIPTOR with the index of the first offending record, none of these changing a list; else every record is
written in order. DDS_START (R345, R435) is accepted in Ready with a sequence that does not start with END and no
thermal trip, for cycle 0 of the second span after; DDS_STOP (R350) holds from the span after its dispatch and
completes at once when the generator does not run; DDS_JUMP (R346) sets the target and, with go, requests a jump of a
running generator. -/
def Obligations.DdsCommands : Prop :=
  ∀ (k : CmdSlot) (linkErr : Bool) (s : State),
    let d := (s.cmd k.val).desc
    let n := pay d 0 1
    let g := s.gen n
    let busy : Prop := g.running = true ∨ g.startSpan ≠ none
    let r := readDdsSeq s.dram.mem s.installed (s.installed / 32 + 1) (pay d 8 8)
    let bad := ddsBadIndex g r.1 r.2
    (s.holds k.val 0x30 = true →
      (s.dram.enabled = false ∨ busy → ∃ t, exec (.ddsLoad k linkErr) s = .next t ∧
        doneAs k.val stPrecondition 0 s t ∧ onlySlot k.val s t ∧ t.dds = s.dds) ∧
      (s.dram.enabled = true → ¬ busy → linkErr = true → ∃ t, exec (.ddsLoad k linkErr) s = .next t ∧
        doneAs k.val stIntegrity 0 s t ∧ onlySlot k.val s t ∧ t.dds = s.dds) ∧
      (s.dram.enabled = true → ¬ busy → linkErr = false →
        (∀ i, bad = some i → ∃ t, exec (.ddsLoad k linkErr) s = .next t ∧
          doneAs k.val stBad (0xFF + i % 65536 * 2 ^ 16) s t ∧ onlySlot k.val s t ∧ t.dds = s.dds) ∧
        (bad = none → ∃ t, exec (.ddsLoad k linkErr) s = .next t ∧ doneAs k.val stOK 0 s t ∧ onlySlot k.val s t ∧
          t.gen n = r.1.foldl applyDdsRec g ∧ ∀ m, m ≠ n → t.gen m = s.gen m))) ∧
    (s.holds k.val 0x31 = true → s.sys.state ≠ .standby →
      let takes : Prop := s.sys.state = .ready ∧ ¬ busy ∧ seqOp (g.seq.get 0) ≠ 0 ∧ s.cal.trip = false
      (takes → ∃ t, exec (.ddsStart k) s = .next t ∧ begunAs k.val s t ∧ onlySlot k.val s t ∧
        t.gen n = { g with startSpan := some (s.time.span + 2), cmd := some k.val, boundaries := 0 } ∧
        ∀ m, m ≠ n → t.gen m = s.gen m) ∧
      (¬ takes → ∃ t, exec (.ddsStart k) s = .next t ∧ doneAs k.val stPrecondition 0 s t ∧ onlySlot k.val s t ∧
        t.dds = s.dds)) ∧
    (s.holds k.val 0x32 = true →
      (busy → ∃ t, exec (.ddsStop k) s = .next t ∧ begunAs k.val s t ∧ onlySlot k.val s t ∧
        t.gen n = { g with stops := g.stops ++ [((s.cmd k.val).dspan + 1, pay d 1 1 == 1, some k.val)] } ∧
        ∀ m, m ≠ n → t.gen m = s.gen m) ∧
      (¬ busy → ∃ t, exec (.ddsStop k) s = .next t ∧ doneAs k.val stOK 0 s t ∧ onlySlot k.val s t ∧
        t.dds = s.dds)) ∧
    ∀ (j : GenId) (v : W32) (c : Grain), s.blockOn false = true → ∃ t, exec (.ddsJumpWrite j v c) s = .next t ∧
      (t.gen j.val).target = BitVec.ofNat 11 (bits v 0 11) ∧
      (t.gen j.val).jump = (if bit v 31 = true ∧ (s.gen j.val).running = true
        then some (s.time.span * 524288 + c.val, bits v 0 11) else (s.gen j.val).jump) ∧
      ∀ m, m ≠ j.val → t.gen m = s.gen m

/-- A generator begins at the first SEG of its sequence, at cycle 0 of its start span offset by its skew, phase
accumulator 0 (R336, R338); stated where no immediate stop is due with it. At a segment boundary (R341, R342, R348, R350) a
stop that is in time wins, completing with result 1 and DDS_START with CANCELLED; else a jump resolved for the boundary or
requested in time goes on at its target with empty stacks; else the sequence goes on: the next segment begins at the sample
after the last one's, its accumulator carried on, coherent or 0 as its entry says (R337), or the generator parks and
DDS_START completes with OK. -/
def Obligations.DdsRuns : Prop :=
  ∀ (n : GenId) (s : State),
    let g := s.gen n.val
    let entryOf (a : Nat) := g.seg.get (bits (g.seq.get a) 0 11)
    let puts (t : State) (a : Nat) (loops : List (Nat × Nat × Nat)) (calls : List Nat) (t0 : Int) (i acc err : Nat) : Prop :=
      let e := entryOf a
      let w := BitVec.ofNat 48 (bits (g.freq.get (bits e 32 10)) 0 48)
      (t.gen n.val).running = true ∧ (t.gen n.val).startSpan = none ∧ (t.gen n.val).pc = a + 1 ∧
      (t.gen n.val).loops = loops ∧ (t.gen n.val).calls = calls ∧ (t.gen n.val).len = bits e 0 32 + 1 ∧
      (t.gen n.val).segs.head? = some
        { from_ := t0 + 4096 * i, t0 := t0, on := true, val := bit g.cfg 0, n0 := i, w := w, p := g.phase.get (bits e 42 10),
          a := BitVec.ofNat 16 (bits (g.amp.get (bits e 52 10)) 0 16),
          acc := BitVec.ofNat 48 (if bits e 62 2 = 0 then acc else if bits e 62 2 = 1 then w.toNat * i % 2 ^ 48 else 0),
          err := err } ∧
      ∀ m, m ≠ n.val → t.gen m = s.gen m
    let idle (t : State) (c : Int) : Prop :=
      (t.gen n.val).running = false ∧ (t.gen n.val).startSpan = none ∧ (t.gen n.val).jump = none ∧
      (t.gen n.val).stops = [] ∧ (t.gen n.val).segs.head? = some { from_ := c, on := false, val := bit g.cfg 1 } ∧
      ∀ m, m ≠ n.val → t.gen m = s.gen m
    (∀ sp, g.startSpan = some sp → sp ≤ s.time.span → (∀ x, x ∈ g.stops → x.2.1 = true → s.time.span < x.1) →
      let t0 : Int := (sp * 524288 : Nat) + g.skew
      (∀ a loops calls, seekSeg g.seq 4096 0 [] [] = some (a, loops, calls) →
        ∃ t, exec (.ddsRunBegin n) s = .next t ∧ puts t a loops calls t0 0 0 0 ∧ t.hqm = s.hqm) ∧
      (seekSeg g.seq 4096 0 [] [] = none → ∃ t, exec (.ddsRunBegin n) s = .next t ∧ idle t t0 ∧
        ∀ k, g.cmd = some k → doneAs k stOK g.boundaries s t)) ∧
    (g.running = true → g.startSpan = none →
      let x := g.segs.headD {}
      let b := x.t0 + 4096 * (x.n0 + g.len : Nat)
      let err := if x.val then (x.errAt (x.n0 + g.len - 1)).1 else x.err
      let jumps (a : Nat) : Prop := g.due = some a ∨
        (g.due = none ∧ ∃ c, g.jump = some (c, a) ∧ (c : Int) + 65536 ≤ b)
      let early (st : Nat × Bool × Option Nat) : Prop := g.stopAt st.1 + 65536 ≤ b
      (∀ st, g.stops.head? = some st → early st → ∃ t, exec (.ddsSegmentBoundary n) s = .next t ∧ idle t b ∧
        (∀ k, g.cmd = some k → doneAs k stCancelled (g.boundaries + 1) s t) ∧
        ∀ k, st.2.2 = some k → g.cmd ≠ some k → (∀ y, y ∈ g.stops → y ≠ st → y.2.2 ≠ some k) →
          doneAs k stOK 1 s t) ∧
      ((∀ st, st ∈ g.stops → ¬ early st) →
        (∀ a, jumps a →
          (∀ a' loops calls, seekSeg g.seq 4096 a [] [] = some (a', loops, calls) →
            ∃ t, exec (.ddsSegmentBoundary n) s = .next t ∧
              puts t a' loops calls x.t0 (x.n0 + g.len) (x.accAt (x.n0 + g.len)) err ∧
              (t.gen n.val).jump = (if g.due = none then none else g.jump) ∧ (t.gen n.val).due = none ∧
              (t.gen n.val).jumpDone = true ∧ (t.gen n.val).jumpBoundary = g.boundaries + 1) ∧
          (seekSeg g.seq 4096 a [] [] = none → ∃ t, exec (.ddsSegmentBoundary n) s = .next t ∧ idle t b ∧
            ∀ k, g.cmd = some k → doneAs k stOK (g.boundaries + 1) s t)) ∧
        ((∀ a, ¬ jumps a) →
          (∀ a' loops calls, seekSeg g.seq 4096 g.pc g.loops g.calls = some (a', loops, calls) →
            ∃ t, exec (.ddsSegmentBoundary n) s = .next t ∧
              puts t a' loops calls x.t0 (x.n0 + g.len) (x.accAt (x.n0 + g.len)) err ∧
              (t.gen n.val).jump = g.jump ∧ (t.gen n.val).boundaries = g.boundaries + 1) ∧
          (seekSeg g.seq 4096 g.pc g.loops g.calls = none → ∃ t, exec (.ddsSegmentBoundary n) s = .next t ∧ idle t b ∧
            ∀ k, g.cmd = some k → doneAs k stOK (g.boundaries + 1) s t))))

/-! ## Calibration -/

/-- CAL_RUN (R420, R421): BAD_DESCRIPTOR for a step that it does not accept. With no run under way it begins: the full
sequence enters Calibrate with every channel in loop 1 and the windows of R412 to do, one step begins at its first unit
when that meets Table 9.3, and completes with PRECONDITION when none of its units does; outside Bring-up and Ready, and
for the full sequence while a site runs, PRECONDITION with result 0. While another runs it waits. CAL_COMMIT (R422)
waits for the span after its dispatch, then folds V into D and the target of every named channel that no running site
owns, for drive and compare apart, where the sum is in range, and counts channels with both folded. -/
def Obligations.CalibrationCommands : Prop :=
  ∀ (k : CmdSlot) (s : State),
    let d := (s.cmd k.val).desc
    let st := pay d 0 1
    let map := pay d 0x10 16
    let idle : Prop := s.cal.waiting = [] ∧ s.cal.cmd = none ∧ s.cal.written = 0 ∧ s.cal.refusedN = 0 ∧
      s.cal.lowUnit = 0 ∧ s.cal.lowPre = 0
    let takes : Prop := st ≠ 7 ∧ st ≠ 8 ∧ st ≠ 0xA ∧ st < 0xE
    let mayRun : Prop := s.sys.state = .bringUp ∨ s.sys.state = .ready
    (s.holds k.val 0x38 = true → s.sys.state ≠ .standby →
      (¬ takes → ∃ t, exec (.calRun k) s = .next t ∧ doneAs k.val stBad 0x10 s t ∧ onlySlot k.val s t ∧
        t.cal = s.cal) ∧
      (takes → idle → ¬ mayRun ∨ st = 0 ∧ s.anyRunning = true → ∃ t, exec (.calRun k) s = .next t ∧
        doneAs k.val stPrecondition 0 s t ∧ onlySlot k.val s t ∧ t.cal = s.cal) ∧
      (idle → mayRun → st = 0 → s.anyRunning = false → ∃ t, exec (.calRun k) s = .next t ∧
        t.sys.state = .calibrate ∧ t.sys.prev = s.sys.state ∧ t.cal.mode = .full ∧ t.cal.cmd = some k.val ∧
        t.cal.todo = s.fullTodo ∧ (t.cmd k.val).begun = true ∧
        ∀ c, c < s.nCh → (t.pin c).loop = 1 ∧ t.cal.savedLoop.get c = BitVec.ofNat 3 (s.pin c).loop) ∧
      (takes → idle → mayRun → st ≠ 0 → ∀ u us, calUnits st map = u :: us → s.calReq st u = true →
        ∃ t, exec (.calRun k) s = .next t ∧ begunAs k.val s t ∧ onlySlot k.val s t ∧ t.cal.mode = .single ∧
          t.cal.cmd = some k.val ∧ t.cal.todo = (st, u) :: us.map (fun x => (st, x))) ∧
      (takes → idle → mayRun → st ≠ 0 → (∀ u, u ∈ calUnits st map → s.calReq st u = false) →
        ∃ t, exec (.calRun k) s = .next t ∧ doneAs k.val (if calUnits st map = [] then stOK else stPrecondition)
          (calResult 0 (calUnits st map).length ((calUnits st map).headD 0) (if calUnits st map = [] then 0 else 6))
          s t ∧ t.cal.cmd = none) ∧
      (takes → s.cal.cmd ≠ none → ∃ t, exec (.calRun k) s = .next t ∧ begunAs k.val s t ∧ onlySlot k.val s t ∧
        t.cal = { s.cal with waiting := s.cal.waiting ++ [k.val] })) ∧
    (s.holds k.val 0x39 = true →
      (s.time.span ≤ (s.cmd k.val).dspan → exec (.calCommit k) s = .next s) ∧
      ((s.cmd k.val).dspan < s.time.span →
        let named (c : Nat) : Bool := decide (c < 128) && map / 2 ^ c % 2 == 1
        let free (c : Nat) : Bool := decide (c < s.nCh) && !s.ownedRunning c
        let fits (x y : Int) : Bool := decide (-16384 ≤ x + y ∧ x + y ≤ 16383)
        let good (c : Nat) : Bool := free c && fits (s.pin c).dDrv (s.pin c).vDrv && fits (s.pin c).dCmp (s.pin c).vCmp
        let l := (List.range 128).filter named
        let bad := l.filter fun c => !good c
        ∃ t, exec (.calCommit k) s = .next t ∧ onlySlot k.val s t ∧
          doneAs k.val (if bad = [] then stOK else stPrecondition)
            (calResult (l.filter good).length bad.length (bad.headD 0) (if bad = [] then 0 else 6)) s t ∧
          (∀ c, (named c && free c) = false → t.pin c = s.pin c) ∧
          ∀ c, (named c && free c) = true →
            let p := s.pin c
            let q := t.pin c
            let a := fits p.dDrv p.vDrv
            let b := fits p.dCmp p.vCmp
            q.dDrv = (if a then p.dDrv + p.vDrv else p.dDrv) ∧ q.vDrv = (if a then 0 else p.vDrv) ∧
            q.tDrv = (if a then p.tDrv - p.vDrv else p.tDrv) ∧ q.dCmp = (if b then p.dCmp + p.vCmp else p.dCmp) ∧
            q.vCmp = (if b then 0 else p.vCmp) ∧ q.tCmp = (if b then p.tCmp - p.vCmp else p.tCmp) ∧
            q.waves = p.waves ∧ q.tset = p.tset ∧ q.level = p.level ∧ q.cfg = p.cfg))

/-- EYE_SCAN (R266): PRECONDITION unless DRAM is usable and the channel runs its CDR or is in loop 1, is locked, and runs
no scan; else the scan begins. Each point of it writes its 8-B entry (Table 5.6), with no more errors than the point has UI
and with what befell the pin during the point, to the place of the point in DRAM; the last one completes the command with
OK and the number of points (R268, R269). -/
def Obligations.EyeScans : Prop :=
  (∀ (k : CmdSlot) (s : State), s.holds k.val 0x3A = true → s.sys.state ≠ .standby →
    let d := (s.cmd k.val).desc
    let c := pay d 0 1
    let p := s.pin c
    let z : Scan := { cmd := k.val, d := pay d 1 1, pMin := payS d 2, pStep := pay d 4 1,
                      pCount := scanCount (payS d 2) (payS d 3) (pay d 4 1), vMin := payS d 5, vStep := pay d 7 1,
                      vCount := scanCount (payS d 5) (payS d 6) (pay d 7 1), dest := pay d 8 8 }
    let takes : Prop := s.dram.enabled = true ∧ (s.cdrOn c = true ∨ p.loop = 1) ∧ p.locked = true ∧ p.scan = none
    (¬ takes → ∃ t, exec (.eyeScan k) s = .next t ∧ doneAs k.val stPrecondition 0 s t ∧ onlySlot k.val s t ∧
      t.pins = s.pins) ∧
    (takes → ∃ t, exec (.eyeScan k) s = .next t ∧ begunAs k.val s t ∧ onlySlot k.val s t ∧ onlyPin c s t ∧
      t.pin c = { p with scan := some z })) ∧
  ∀ (c : Chan) (high low : Nat) (g : Grain) (s : State) (z : Scan), (s.pin c.val).scan = some z →
    let errors := min (high + low) (2 ^ z.d)
    let ph := z.pMin + (z.pStep : Int) * ((z.done % z.pCount : Nat) : Int)
    let ve := z.vMin + (z.vStep : Int) * ((z.done / z.pCount : Nat) : Int)
    let word := min errors 0xFFFFFFFF + (ph % 256).toNat * 2 ^ 32 + (ve % 256).toNat * 2 ^ 40 +
      b2n (decide (0xFFFFFFFF < errors)) * 2 ^ 48 + b2n z.unl * 2 ^ 49 + b2n z.moved * 2 ^ 50
    ∃ t, exec (.eyeScanPoint c high low g) s = .next t ∧
      t.dram.mem = Mem.store s.dram.mem (z.dest + 8 * z.done) (leBytes 8 word) ∧ onlyPin c.val s t ∧
      if z.done + 1 < z.pCount * z.vCount then
        t.pin c.val = { s.pin c.val with
          scan := some { z with done := z.done + 1, unl := !(s.pin c.val).locked, moved := false } } ∧ t.hqm = s.hqm
      else t.pin c.val = { s.pin c.val with scan := none, scanEnd := s.time.span + 1 } ∧ doneAs z.cmd stOK (z.done + 1) s t ∧
        onlySlot z.cmd s t

/-- In Ready each pin engine goes on to its next channel 1,024 spans after the visit before, with the continuous steps
that channel allows, none while a CAL_RUN names it (R415, R419). OCTET_DRIFT moves the vernier targets of its octet by
the change of the median, held at their limits, sets only the baseline where there is none, and writes nothing when its
UI PLL has been unlocked in the last 64 spans or its readings spread over more than 8 gr (R407, R416, R417). CONV_CHECK
writes the converter offset where its magnitude is at most 8 gr and the readings spread over at most 3, else it counts a
failure (R401, R411). -/
def Obligations.ContinuousCalibration : Prop :=
  (∀ (q : Fin 4) (s : State), s.sys.state = .ready →
    let last := s.cal.visitCh.get q.val
    (last ≠ 0 → s.time.span < s.cal.visitAt.get q.val + 1024 → exec (.calVisit q) s = .next s) ∧
    (last = 0 ∨ s.cal.visitAt.get q.val + 1024 ≤ s.time.span → ∃ t, exec (.calVisit q) s = .next t ∧
      (last ≠ 0 → (t.pin (last - 1)).visits = satAdd 0xFFFF (s.pin (last - 1)).visits 1) ∧
      ∀ c, s.nextVisit q.val = some c → t.cal.visitCh.get q.val = c + 1 ∧
        t.cal.visitAt.get q.val = s.time.span ∧
        t.cal.visitLeft.get q.val = if s.calNames c then [] else s.visitSteps c)) ∧
  (∀ (o : OctetId) (g : Grain) (rs : List Int) (s : State),
    s.sys.state = .ready → bit s.cal.cont 6 = true → s.calOct o.val = true →
    let m := medianI rs
    let fails : Prop := (atGrain g s).octOff o.val 64 = true ∨ 8 < spread rs
    (fails → ∃ t, exec (.octetDriftEval o g rs) s = .next t ∧ t.pins = s.pins ∧ t.octets = s.octets ∧
      t.cal.preFail = satAdd 0xFFFF s.cal.preFail 1) ∧
    (¬ fails → ∃ t, exec (.octetDriftEval o g rs) s = .next t ∧ (t.octet o.val).baseline = some m ∧
      ((s.octet o.val).baseline = none → t.pins = s.pins) ∧
      (∀ c, octOf c ≠ o.val → t.pin c = s.pin c) ∧
      ∀ b c, (s.octet o.val).baseline = some b → octOf c = o.val →
        (t.pin c).tCmp = clampI (-2048) 2047 ((s.pin c).tCmp - (m - b)) ∧
        (t.pin c).tDrv = (if (s.pin c).driveTimed then (s.pin c).tDrv
          else clampI (-2048) 2047 ((s.pin c).tDrv - (m - b))) ∧ (t.pin c).driveTimed = false)) ∧
  ∀ (spr : Nat) (mean : Int) (s : State), s.sys.state = .ready →
    (spr ≤ 3 → -8 ≤ mean → mean ≤ 8 → ∃ t, exec (.convCheckPeriodic spr mean) s = .next t ∧ t.cal.convOff = mean ∧
      t.pins = s.pins) ∧
    (3 < spr ∨ mean < -8 ∨ 8 < mean → ∃ t, exec (.convCheckPeriodic spr mean) s = .next t ∧
      t.cal.convOff = s.cal.convOff ∧ t.cal.preFail = satAdd 0xFFFF s.cal.preFail 1)

/-- The last window of a CAL_RUN of one step ends (R401, R421): with its preconditions held the result is written
(Table 9.2; a value outside its field leaves a free value of the field, log entry 85; D is stated where the mean of the two
crossings is whole) and the unit counts as written, else nothing is written and it counts as refused; the command
completes.
In Calibrate a mandatory step that fails leads back to Bring-up, the last window that holds to Ready (R412, R413, R420).
In a visit the live drive window moves the target by the timing score (R405, R416). The steps of a revoked engine
write nothing (Table 10.16). -/
def Obligations.CalibrationStepsEnd : Prop :=
  ∀ (r : StepIn) (s : State),
    let st := r.step.toNat
    let u := r.unit
    let v (i : Nat) : Int := r.vals.getD i 0
    let run (t : State) : Prop := exec (.calStepEnd r) s = .next t
    (s.cal.revoked.get (stepEngine st u) = true → exec (.calStepEnd r) s = .next s) ∧
    (s.cal.revoked.get (stepEngine st u) = false →
      (∀ k, s.cal.mode = .single → s.cal.todo = [(st, u)] → s.cal.cmd = some k → s.cal.waiting = [] → st ≠ 0xA →
        s.scanWaits (!s.loopForm u) st u = false →
        (s.calPre r = 0 → ∃ t, run t ∧ doneAs k (if s.cal.refusedN = 0 then stOK else stPrecondition)
            (calResult (s.cal.written + 1) s.cal.refusedN s.cal.lowUnit s.cal.lowPre.toNat) s t ∧
          t.cal.cmd = none ∧ t.cal.mode = .none ∧
          (st = 1 → t.cal.convOff = v 0) ∧
          (st = 2 → ∀ i, i < 5 → ((t.pin u).dacs.get i).tGain = fieldI (-2048) 2047 (v (2 * i)) ∧
            ((t.pin u).dacs.get i).tOff = fieldI (-512) 511 (v (2 * i + 1))) ∧
          (st = 4 → s.loopForm u = true → (t.pin u).fall = clampI (-128) 127 (v 0 - v 1) ∧
            ∀ h, v 0 + v 1 = 2 * h → (t.pin u).dDrv = fieldI (-16384) 16383 (-h - (s.pin u).vDrv)) ∧
          (st = 5 → ∀ h, v 0 + v 1 = 2 * h → (t.pin u).dCmp = fieldI (-16384) 16383 (h - (s.pin u).vCmp)) ∧
          (st = 9 → (t.octet u).band = (v 0).toNat ∧ (t.octet u).trim = v 1) ∧
          (st = 0xB → t.cal.oscFreq = v 0) ∧
          (st = 0xC → (t.gen u).skew = clampI (-2048) 2047 ((s.gen u).skew - v 0))) ∧
        (s.calPre r ≠ 0 → ∃ t, run t ∧ doneAs k stPrecondition
            (calResult s.cal.written (s.cal.refusedN + 1) (if s.cal.refusedN = 0 then u else s.cal.lowUnit)
              (if s.cal.refusedN = 0 then (BitVec.ofNat 4 (s.calPre r)).toNat else s.cal.lowPre.toNat)) s t ∧
          t.octets = s.octets ∧ t.dds = s.dds ∧ t.cal.convOff = s.cal.convOff ∧
          ∀ c, (t.pin c).dDrv = (s.pin c).dDrv ∧ (t.pin c).dCmp = (s.pin c).dCmp ∧
            (t.pin c).tDrv = (s.pin c).tDrv ∧ (t.pin c).tCmp = (s.pin c).tCmp ∧ (t.pin c).dacs = (s.pin c).dacs)) ∧
      (s.cal.mode = .full → s.sys.state = .calibrate → s.cal.waiting = [] →
        let w := (st, if st = 0xA then 0 else u)
        (s.calPre r ≠ 0 → st ≠ 0xB → st ≠ 0xC → calDue true s.cal.todo w = true →
          ∃ t, run t ∧ t.sys.state = .bringUp ∧ t.cal.mode = .none ∧ t.cal.failEvent = true ∧
            ∀ k, s.cal.cmd = some k → (t.cmd k).ph = .done ∧ (t.cmd k).status = stPrecondition ∧
              (t.cmd k).result = BitVec.ofNat 32 (st + u % 128 * 2 ^ 8 + s.calPre r * 2 ^ 16)) ∧
        (s.calPre r = 0 → s.cal.todo = [w] → ∃ t, run t ∧ t.sys.state = .ready ∧ t.cal.mode = .none ∧
          ∀ k, s.cal.cmd = some k → doneAs k stOK 0 s t)) ∧
      (s.cal.mode = .none → r.live = true → st = 4 → s.sys.state = .ready → s.cal.visitCh.get (u / 32) = u + 1 →
        4 ∈ s.cal.visitLeft.get (u / 32) → s.calNames u = false → s.scanHeld u = false →
        (s.calPre r = 0 → ∃ t, run t ∧ onlyPin u s t ∧ (t.pin u).driveTimed = true ∧
          (t.pin u).tDrv = clampI (-2048) 2047 ((s.pin u).tDrv +
            if v 0 + v 1 < 8 * (v 0 - v 1) then 1 else if 8 * (v 0 - v 1) < -(v 0 + v 1) then -1 else 0)) ∧
        (s.calPre r ≠ 0 → u < s.nCh → ∃ t, run t ∧ onlyPin u s t ∧ (t.pin u).tDrv = (s.pin u).tDrv ∧
          (t.pin u).preFail = satAdd 0xFFFF (s.pin u).preFail 1)))

/-! ## The time base -/

/-- TIME_SET and TIME_ADJUST (R370, R371, R382, R394, R465): while a step is pending a new one waits; a step is decided
for the next tick, or the command completes with PRECONDITION. The step due is applied (R356, R357, R371): the offset
moves, a change of more than 5 gr backward begins an epoch, the servo acquires again, but for a jump's step while a hold of
another cause goes on (Table 8.4); a backward one while sites run in modes 1, 2, 3 or 5 is not applied (R373). -/
def Obligations.TimeSteps : Prop :=
  (∀ (k : CmdSlot) (s : State),
    let d := (s.cmd k.val).desc
    let wanted : Int := (timeGr (pay d 0 12) : Int) - ((s.time.span + 1) * 524288 : Nat)
    let again (t : State) : Prop := t.time.servo = (if s.src = 0 then .free else .acquire) ∧
      t.time.offset = s.time.offset ∧ t.time.epoch = s.time.epoch
    (s.holds k.val 0x40 = true →
      (s.time.step ≠ none → exec (.timeSet k) s = .next s) ∧
      (s.time.step = none → s.src = 3 → ∃ t, exec (.timeSet k) s = .next t ∧ doneAs k.val stPrecondition 0 s t ∧
        onlySlot k.val s t ∧ t.time = s.time) ∧
      (s.time.step = none → s.src ≠ 3 → ∃ t, exec (.timeSet k) s = .next t ∧ begunAs k.val s t ∧ onlySlot k.val s t ∧
        t.time = { s.time with step := some (wanted, s.time.span + 1, true, some k.val) })) ∧
    (s.holds k.val 0x41 = true →
      (pay d 0 1 = 1 → s.time.step ≠ none → exec (.timeAdjust k) s = .next s) ∧
      (pay d 0 1 = 1 → s.time.step = none →
        (∀ e, s.time.jump = some e → ∃ t, exec (.timeAdjust k) s = .next t ∧ begunAs k.val s t ∧ onlySlot k.val s t ∧
          t.time = { s.time with step := some (-e, s.time.span + 1, false, some k.val) }) ∧
        (s.time.jump = none → ∃ t, exec (.timeAdjust k) s = .next t ∧ doneAs k.val stPrecondition 0 s t ∧
          onlySlot k.val s t ∧ t.time = s.time)) ∧
      (pay d 0 1 = 2 →
        (s.time.servo = .holdover → s.time.holdCause = 2 → ∃ t, exec (.timeAdjust k) s = .next t ∧
          endedAs k.val stOK 0 t ∧ onlySlot k.val s t ∧ again t ∧ t.time.ptp.delays = []) ∧
        (¬ (s.time.servo = .holdover ∧ s.time.holdCause = 2) → ∃ t, exec (.timeAdjust k) s = .next t ∧
          doneAs k.val stPrecondition 0 s t ∧ onlySlot k.val s t ∧ t.time = s.time)) ∧
      (pay d 0 1 = 3 →
        (s.time.servo = .holdover → s.time.holdCause = 4 → ∃ t, exec (.timeAdjust k) s = .next t ∧
          endedAs k.val stOK 0 t ∧ onlySlot k.val s t ∧ again t) ∧
        (¬ (s.time.servo = .holdover ∧ s.time.holdCause = 4) → ∃ t, exec (.timeAdjust k) s = .next t ∧
          doneAs k.val stPrecondition 0 s t ∧ onlySlot k.val s t ∧ t.time = s.time)))) ∧
  ∀ (s : State) (v : Int) (sp : Nat) (isSet : Bool) (cmd : Option Nat), s.time.step = some (v, sp, isSet, cmd) →
    let d := if isSet then v - s.time.offset else v
    (s.time.span < sp → exec .timeStepApply s = .next s) ∧
    (sp ≤ s.time.span → d < 0 → s.stepBlocked = true → ∃ t, exec .timeStepApply s = .next t ∧ t.time.step = none ∧
      t.time.offset = s.time.offset ∧ t.time.epoch = s.time.epoch ∧
      ∀ k, cmd = some k → doneAs k stPrecondition 0 s t) ∧
    (sp ≤ s.time.span → ¬ (d < 0 ∧ s.stepBlocked = true) → ∃ t, exec .timeStepApply s = .next t ∧
      t.time.step = none ∧ t.time.jump = none ∧ t.time.slewLeft = 0 ∧ t.time.offset = s.time.offset + d ∧
      t.time.epoch = (if d < -5 then s.time.epoch + 1 else s.time.epoch) ∧
      t.time.servo = (if s.time.servo = .holdover ∧ s.time.holdCause ≠ 1 ∧ isSet = false then .holdover
        else if s.src = 0 then .free else .acquire) ∧ t.time.span = s.time.span ∧
      ∀ k, cmd = some k → endedAs k stOK 0 t)

/-- A read of TIME_NOW_LO latches the device time of its instant with the span counter (R359, Table 8.1). A write of
TIME_CFG (R365) that no rule refuses takes effect, its source from the next tick; one that Table 8.17's limits, a
running site or R365 refuses changes nothing but the refused bit. A write of TIME_PTP_ASYM ends a hold of cause 2 and
restarts the mean path delay (R382). -/
def Obligations.TimeRegisters : Prop :=
  (∀ (g : Grain) (s : State), s.blockOn true = true → ∃ t, exec (.timeNowRead g) s = .next t ∧
    let n : Int := (s.time.span * 524288 + g.val : Nat) + s.time.offset
    let m := (n % (2 ^ 48 * 4096000000000 : Nat)).toNat
    let v := m % 4096 + m / 4096 % 1000000000 * 2 ^ 12 + m / 4096000000000 * 2 ^ 44 + s.time.epoch.toNat * 2 ^ 92
    t.time.nowHi = BitVec.ofNat 32 (v / 2 ^ 64) ∧
    t.time.nowSpan = BitVec.ofNat 64 s.time.span ∧ t.time.span = s.time.span ∧ t.time.offset = s.time.offset) ∧
  (∀ (w : Wr) (s : State), s.blockOn true = true →
    let cur := s.timeCfg
    let v := rwMerge (timeCfgRw ||| fm 0 2) w cur
    let src := bits v 0 2
    let newSrc : Prop := src ≠ bits cur 0 2
    let refused : Prop := bits v 3 2 = 3 ∨ bits v 48 9 < 1 ∨ 500 < bits v 48 9 ∨
      (newSrc ∨ bit v 2 ≠ bit cur 2) ∧ s.anyRunning = true ∨
      newSrc ∧ ¬ (if src = 3 then s.halso.joined = true ∧ s.isMaster = false
        else s.isMaster = true ∨ s.halso.joined = false)
    (refused → ∃ t, exec (.timeCfgWrite w) s = .next t ∧ t.time = { s.time with refused := true }) ∧
    (¬ refused → ∃ t, exec (.timeCfgWrite w) s = .next t ∧ t.timeCfg = v ∧ t.src = s.src ∧
      t.time.refused = s.time.refused ∧
      t.time.cfg = setBits v 0 2 s.src)) ∧
  ∀ (w : Wr) (s : State), s.blockOn true = true → ∃ t, exec (.timePtpAsymWrite w) s = .next t ∧
    t.time.ptpAsym = BitVec.ofNat 40 (rwMerge (fm 0 40) w (BitVec.ofNat 64 s.time.ptpAsym.toNat)).toNat ∧
    let ends : Prop := w.lo = true ∧ s.time.servo = .holdover ∧ s.time.holdCause = 2
    (ends → t.time.servo = (if s.src = 0 then .free else .acquire) ∧ t.time.ptp.delays = []) ∧
    (¬ ends → t.time.servo = s.time.servo ∧ t.time.ptp = s.time.ptp)

/-- A lost source puts the servo in HOLDOVER with cause 3 (R372). The traceable hold ends when HOLDOVER has lasted
hold_s (R374). A lost REF_IN is flagged and raised; its return lets a device that waits in Reset begin Boot (R361, R561).
Each edge of PPS_IN is timestamped and is, with src 1 and outside Bring-up (R63), the servo's measurement (R363); PPS_OUT
rises at a whole second while traceable or with pps_out_always, but not within 500 ms of the edge before, falls
pps_out_ms later, and is not driven while neither holds (R364). An event-ring entry not written within 1 ms is lost and
counted (R380). -/
def Obligations.ClockEvents : Prop :=
  ∀ (g : Grain) (s : State),
    let now := s.time.span * 524288 + g.val
    (s.src ≠ 0 → s.time.servo = .acquire ∨ s.time.servo = .locked ∨ s.time.servo = .slew →
      ∃ t, exec .sourceLost s = .next t ∧ t.time.servo = .holdover ∧ t.time.holdCause = 3 ∧
        t.time.holdSpans = 0 ∧ t.time.offset = s.time.offset) ∧
    (s.time.servo = .holdover → s.holdLimit ≤ s.time.holdSpans →
      ∃ t, exec .traceableHoldExpiry s = .next t ∧ t.time = { s.time with holdExpired := true } ∧
        (s.src = 1 ∨ s.src = 2 → t.traceable = false)) ∧
    (s.time.servo ≠ .holdover ∨ s.time.holdSpans < s.holdLimit → exec .traceableHoldExpiry s = .next s) ∧
    (s.sys.state ≠ .reset → s.time.refPresent = true → ∃ t, exec .refLost s = .next t ∧
      t.time = { s.time with refPresent := false, refLostNow := true, refLost := true, refT := s.now + 1 } ∧
      bit t.sys.irqStatus 9 = true) ∧
    (∃ t, exec .refInReturn s = .next t ∧ t.time = { s.time with
        refPresent := true, refLostNow := false, refT := if s.time.refLostNow then s.now + 1 else s.time.refT } ∧
      t.sys.state = if s.sys.state = .reset ∧ s.sys.por = false ∧ s.sys.resetN = false ∧ s.sys.railsGood = true
        then .boot else s.sys.state) ∧
    (s.sys.state ≠ .reset →
      let ts : Int := (now : Int) + s.time.offset - sbits s.time.cfg 16 16
      let x := ts % 4096000000000
      let e : TsEnt := { bits := BitVec.ofNat 256 (3 + (timeValue ts s.time.epoch).toNat * 2 ^ 32 +
                           (BitVec.ofNat 48 s.time.span).toNat * 2 ^ 128 + g.val / 2048 * 2 ^ 176), at_ := now }
      ∃ t, exec (.ppsInEdge g) s = .next t ∧
        (bit s.time.tsRing 4 = true → t.time.tsPend[s.time.tsPend.length]? = some e) ∧
        (s.src ≠ 1 → t.time.meas = s.time.meas ∧ t.time.lastE = s.time.lastE) ∧
        (s.src = 1 → t.time.lastE = if 2 * x < 4096000000000 then x else x - 4096000000000) ∧
        (s.src = 1 → s.steered = true → s.time.servo = .locked →
          ((t.time.lastE.natAbs : Int) < s.jumpThr → t.time.meas = some (t.time.lastE, now)) ∧
          (s.jumpThr ≤ (t.time.lastE.natAbs : Int) → t.time.timeJump = true ∧ bit t.sys.irqStatus 6 = true))) ∧
    (let whole : Prop := ((now : Int) + s.time.offset + sbits s.time.cfg 32 16) % 4096000000000 = 0
     let near : Prop := s.time.lastPps ≠ 0 ∧ 2 * (now + 1 - s.time.lastPps) < 4096000000000
     let on : Bool := bit s.time.cfg 7 && (s.traceable || bit s.time.cfg 8)
     let ended := match s.time.ppsFall with
       | some f => if f ≤ now then .ppsOut f (some false) :: s.out else s.out
       | none => s.out
     let level := if s.time.ppsDriven = on then ended
       else .ppsOut now (if on then some false else none) :: ended
     (on = true → whole → ¬ near → ∃ t, exec (.ppsOutEdge g) s = .next t ∧
       t.out = .ppsOut now (some true) :: level ∧ t.time.ppsDriven = true ∧ t.time.lastPps = now + 1 ∧
       t.time.ppsFall = some (now + bits s.time.cfg 48 9 * 4096000000)) ∧
     (on = false ∨ ¬ whole ∨ near → ∃ t, exec (.ppsOutEdge g) s = .next t ∧ t.out = level ∧
       t.time.ppsDriven = on ∧ t.time.lastPps = s.time.lastPps)) ∧
    ∀ e rest, s.time.tsPend = e :: rest →
      (e.at_ + 4096000000 ≤ s.now → ∃ t, exec .tsRingEntryDrop s = .next t ∧
        t.time = { s.time with tsPend := rest, tsLost := min 0xFFFF (s.time.tsLost + 1) }) ∧
      (s.now < e.at_ + 4096000000 → exec .tsRingEntryDrop s = .next s)

/-- PTP messages while the port is up (R376 to R381), in its domain (another domain's leave their timestamps only). Every
event message leaves an entry in an enabled event ring, of its direction, type and sequence at its timestamp. What the
port sends follows its role and delay mechanism: Delay_Req of an E2E slave, Pdelay_Req, Pdelay_Resp and its follow-up with
P2P, Sync, Follow_Up, Delay_Resp and Announce of a master. A transmit timestamp joins a queue of 16, or is dropped with
the overflow flag and interrupt. A Sync at a slave, one-step or with its Follow_Up, gives t1 and t2; a Delay_Resp or a
Pdelay_Resp gives the mean path delay, half the measured sum, either way where that is odd (log entry 1); an Announce of a
better clock, or of the clock followed, becomes the parent. -/
def Obligations.PtpMessages : Prop :=
  ∀ (g : Grain) (s : State) (dom : BitVec 8), s.ptpOn = true → dom.toNat = s.ptpDomain →
    let event (m : PtpEvent) := exec (.ptpEventMessage m { dom := dom, t := g }) s
    let general (m : PtpGeneral) := exec (.ptpGeneralMessage m { dom := dom, t := g }) s
    let now : Int := (s.time.span * 524288 + g.val : Nat) + s.time.offset
    let rx := now - bits s.time.ptpLat 16 16
    let tx := now + bits s.time.ptpLat 0 16
    let p := s.time.ptp
    let udp := bit s.time.ptpCfg 3
    let n := s.ptpDomain
    let word (kind msg : Nat) (seq : BitVec 16) (time : Int) : Nat :=
      kind + msg * 2 ^ 8 + seq.toNat * 2 ^ 16 + (timeValue time s.time.epoch).toNat * 2 ^ 32 +
        (BitVec.ofNat 48 s.time.span).toNat * 2 ^ 128 + g.val / 2048 * 2 ^ 176
    let logged (kind msg : Nat) (seq : BitVec 16) (time : Int) (t : State) : Prop := bit s.time.tsRing 4 = true →
      t.time.tsPend = s.time.tsPend ++
        [{ bits := BitVec.ofNat 256 (word kind msg seq time), at_ := s.time.span * 524288 + g.val }]
    let stamped (msg : Nat) (seq : BitVec 16) (t : State) : Prop :=
      (p.txq.length < 16 → t.time.ptp.txq = p.txq ++ [(seq, msg, tx)] ∧ t.out = .ptp msg udp n seq.toNat 0 :: s.out) ∧
      (16 ≤ p.txq.length → t.time.ptp.txq = p.txq ∧ t.time.txTsOvf = true ∧ bit t.sys.irqStatus 8 = true)
    let twoSteps (msg follow : Nat) (seq : BitVec 16) (receipt : Int) (t : State) : Prop :=
      (p.txq.length < 16 →
        t.out = .ptp follow udp n seq.toNat tx :: .ptp msg udp n seq.toNat receipt :: s.out ∧ t.time.ptp.txq = p.txq) ∧
      (16 ≤ p.txq.length → t.time.txTsOvf = true ∧ bit t.sys.irqStatus 8 = true)
    let half (x : Int) (t : State) : Prop := ∃ m, t.time.ptp.mpd = some m ∧ (2 * m = x ∨ 2 * m = x + 1 ∨ 2 * m = x - 1) ∧
      t.time.ptp.fresh = true
    (∀ seq, s.ptpSlave = true → s.ptpP2p = false → ∃ t, event (.delayReqTx seq) = .next t ∧ logged 1 1 seq tx t ∧
      stamped 1 seq t) ∧
    (∀ seq, s.ptpP2p = true → ∃ t, event (.pdelayReqTx seq) = .next t ∧ logged 1 2 seq tx t ∧ stamped 2 seq t) ∧
    (∀ seq, ∃ t, event (.delayReqRx seq) = .next t ∧ logged 2 1 seq rx t ∧ t.out =
      if s.ptpMaster = true ∧ s.ptpP2p = false then .ptp 9 udp n seq.toNat rx :: s.out else s.out) ∧
    (∀ seq, ∃ t, event (.pdelayReqRx seq) = .next t ∧ logged 2 2 seq rx t ∧ t.out = s.out ∧
      t.time.ptp.preq = if s.ptpP2p then some (seq, rx) else p.preq) ∧
    (∀ seq, s.ptpMaster = true → ∃ t, event (.syncTx seq) = .next t ∧ logged 1 0 seq tx t ∧ twoSteps 0 8 seq 0 t) ∧
    (∀ seq r, s.ptpP2p = true → p.preq = some (seq, r) → ∃ t, event (.pdelayRespTx seq) = .next t ∧
      logged 1 3 seq tx t ∧ twoSteps 3 0xA seq r t ∧ t.time.ptp.preq = none) ∧
    (∀ seq o corr, s.ptpSlave = true → p.mpd = none →
      (∃ t, event (.syncRx seq (some o) corr) = .next t ∧ logged 2 0 seq rx t ∧
        t.time.ptp.t12 = some (o + corr, rx) ∧ t.time.ptp.lastSync = some (o + corr, rx)) ∧
      ∃ t, event (.syncRx seq none corr) = .next t ∧ logged 2 0 seq rx t ∧
        t.time.ptp.sync = some (seq, rx, corr) ∧ t.time.ptp.t12 = p.t12) ∧
    (∀ seq o corr (d : BitVec 8), d ≠ dom → ∃ t, exec (.ptpEventMessage (.syncRx seq o corr) { dom := d, t := g }) s = .next t ∧
      logged 2 0 seq rx t ∧ t.time.ptp = p ∧ ∀ m, exec (.ptpGeneralMessage m { dom := d, t := g }) s = .next s) ∧
    (∀ seq t2 c o corr, p.sync = some (seq, t2, c) → p.mpd = none →
      ∃ t, general (.followUp seq o corr) = .next t ∧
        t.time.ptp.t12 = some (o + c + corr, t2) ∧ t.time.ptp.sync = none) ∧
    (∀ seq t3 rec corr t1 t2 rest, s.ptpP2p = false → p.txq = (seq, 1, t3) :: rest → p.lastSync = some (t1, t2) →
      p.t12 = none → ∃ t, general (.delayResp seq rec corr) = .next t ∧ half (t2 - t3 + rec - t1 - corr) t) ∧
    (∀ seq, s.ptpMaster = true → ∃ t, general (.announceTx seq) = .next t ∧ t.time.ptp = p ∧
      t.out = .ptpAnnounce udp n seq.toNat s.ownClock :: s.out) ∧
    (∀ a, ∃ t, general (.announce a) = .next t ∧
      t.time.ptp.parent = match p.parent with
        | none => some a
        | some q => if q.identity = a.identity ∨ annBetter a q = true then some a else some q) ∧
    (∀ seq rec corr t1 rest, s.ptpP2p = true → p.txq = (seq, 2, t1) :: rest →
      (∃ t, event (.pdelayRespRx seq rec true corr) = .next t ∧ logged 2 3 seq rx t ∧
        t.time.ptp.pd = some (seq, t1, rec, rx, corr)) ∧
      (p.t12 = none → ∃ t, event (.pdelayRespRx seq rec false corr) = .next t ∧ logged 2 3 seq rx t ∧
        half (rx - t1 - corr) t)) ∧
    (∀ seq t1 rec t4 c o corr, s.ptpP2p = true → p.pd = some (seq, t1, rec, t4, c) → p.t12 = none →
      ∃ t, general (.pdelayRespFollowUp seq o corr) = .next t ∧ t.time.ptp.pd = none ∧
        half (t4 - t1 - (o - rec) - (c + corr)) t) ∧
    ∀ o m t1 seq, p.mpd = some m → s.ptpSlave = true → s.asymSuspect o m = false → s.src = 2 → s.steered = true →
      s.time.servo = .locked → o = rx - t1 - m - sbits s.time.ptpAsym 0 32 →
      (o.natAbs : Int) < s.jumpThr → ∃ t, event (.syncRx seq (some t1) 0) = .next t ∧
        t.time.meas = some (o, s.time.span * 524288 + g.val) ∧ t.time.ptp.t12 = none ∧ t.time.ptp.lastOff = some o

/-! ## The Halso link -/

/-- Messages of the Halso link on a device whose link runs (Table 8.7). A span mark that differs from the span counter of
a joined device sets span_slip (R384), and bad sync headers are counted (Table 8.24). A return tick keeps its receipt; a
forward tick on the upstream side keeps its own times and, with the return tick sent in between, completes a pair: the
round trip, and on a joined device with src 3 the phase of the hop as measurement, or a hold of cause 4 when the round
trip stepped (R387, R393, R394). A servo offset is kept by the master and passed on toward it by others. Of the two copies
of a class-0 message that a port pair brings the first acts (R388): an arrival reaches the barriers that name its sender
(R124, R392); a Halso event sets its latch at every site, unless it came before the latch's clear or the site's start
(R118, R119), and requests the jumps that it makes (R392); a remote firing triggers an armed group that admits it, and is a
missed trigger of one that re-arms (R320); hits and fail merges are recorded (R116, R398). -/
def Obligations.HalsoMessages : Prop :=
  ∀ (p : PortId) (dev : BitVec 4) (g : Grain) (s : State), s.haOn = true →
    let now := s.time.span * 524288 + g.val
    (∀ (c : BitVec 48) (bad : BitVec 16), ∃ t, exec (.halsoSpanMark p { counter := c, bad := bad }) s = .next t ∧
      t.halso.spanSlip = (s.halso.spanSlip || (s.halso.joined && c != BitVec.ofNat 48 s.time.span)) ∧
      (t.halso.ports.get p.val).markAt = s.time.span + 1 ∧
      (t.halso.ports.get p.val).blockErr = satAdd 0xFFFF (s.halso.ports.get p.val).blockErr bad.toNat ∧
      (s.isUp p.val = true → t.halso.marks = true) ∧ t.time = s.time) ∧
    (∀ m : HalsoTick,
      let x := s.halso.ports.get p.val
      let at_ := ((now : Int) - x.latRx).toNat
      (m.ret = true → ∃ t, exec (.halsoTimeTick p m g) s = .next t ∧ (t.halso.ports.get p.val).lastGot = at_ ∧
        t.time.offset = s.time.offset) ∧
      (m.ret = false → s.isUp p.val = true → ∃ t, exec (.halsoTimeTick p m g) s = .next t ∧
        (t.halso.ports.get p.val).fwd = some (m.sent, at_, m.devTime) ∧ (t.halso.ports.get p.val).t3 = none ∧
        t.halso.masterTraceable = m.traceable ∧
        ∀ t1 t2 d t3, x.fwd = some (t1, t2, d) → x.t3 = some t3 →
          let rtt : Int := (m.got : Int) - t1 - ((t3 : Int) - t2)
          let stepped : Prop := ∃ r, x.lastRtt = some r ∧ (s.rttThr : Int) < ((rtt - r).natAbs : Int)
          (t.halso.ports.get p.val).rtt = rtt.toNat ∧
          (s.halso.joined = true → s.src = 3 → stepped → t.halso.rttStep = true ∧ t.time.servo = .holdover ∧
            t.time.holdCause = 4 ∧ bit t.sys.irqStatus 11 = true) ∧
          (s.halso.joined = true → s.src = 3 → ¬ stepped →
            let a := rtt + signedOf 16 x.asym.toNat
            ∃ h : Int, (2 * h = a ∨ 2 * h = a + 1 ∨ 2 * h = a - 1) ∧
              t.time.lastE = (t2 : Int) - t1 - h))) ∧
    (∀ (st : BitVec 3) (tr : Bool) (e : BitVec 48),
      (s.isMaster = true → ∃ t, exec (.halsoServoOffset p dev st tr e) s = .next t ∧ t.out = s.out ∧
        t.halso.peers.get dev.toNat = { e := e, state := st, traceable := tr, at_ := s.time.span + 1 }) ∧
      (s.isMaster = false → exec (.halsoServoOffset p dev st tr e) s = .next (sendSide s.upSide s.now 1
        [0x24 + dev.toNat * 2 ^ 8 + st.toNat * 2 ^ 12 + b2n tr * 2 ^ 15, e.toNat] s))) ∧
    (∀ (b : Fin 32) (sp : BitVec 32), s.hasFirst p.val (armMsg dev.toNat b.val sp.toNat) = false →
      ∃ t, exec (.halsoArm p dev b sp) s = .next t ∧
        ∀ i q n, i < 8 → s.plan i = some q → n ∈ q.sites → (s.site n).leader n b.val = n →
          (s.site n).barValid b.val = true → bit ((s.site n).barDevices b.val) dev.toNat = true →
          (t.barrier n b.val).remote.get dev.toNat = some (s.nearSpan 32 sp.toNat)) ∧
    (∀ (e : Fin 32) sp cy, s.hasFirst p.val (eventMsg dev.toNat e.val sp.toNat cy.toNat) = false →
      ∃ t, exec (.halsoTrigger p dev (.event e) sp cy g) s = .next t ∧
      (∀ n, n < 64 → let l := (s.site n).latches.get (16 + e.val)
        (t.site n).latches.get (16 + e.val) =
          if l.set = true ∨ now < l.clr ∨ now < (s.site n).latchT then l else { l with set := true, t := now }) ∧
      ∀ j, j < 8 → (s.gen j).running = true → bits (s.gen j).cfg 2 3 = 2 → bits (s.gen j).cfg 5 5 = e.val →
        (t.gen j).jump = some (now, (s.gen j).target.toNat)) ∧
    (∀ gid units (sp : BitVec 18) (cy : BitVec 8) m, m < 16 →
      let admits (u : Nat) : Prop := (s.group u).gid = gid ∧ bit (s.group u).devices dev.toNat = true ∧
        (s.group u).recs = true
      let ft := s.nearSpan 18 sp.toNat * 524288 + cy.toNat * 2048
      s.hasFirst p.val (firingMsg dev.toNat gid.toNat units.toNat sp.toNat cy.toNat) = false →
      admits m → (∀ u, u < 16 → u ≠ m → ¬ admits u) →
      ((s.group m).st = .armed → (s.group m).armAt * 524288 ≤ ft →
        let tr : Trig := { ft := ft, sample := (atGrain g s).sampleFor m ft, remoteMap := setBit 0 dev.toNat true,
                           missed := (s.group m).missedAcc }
        ∃ v, exec (.halsoTrigger p dev (.group gid units) sp cy g) s = .next (closeIfDone m v) ∧
          v.group m = { s.group m with st := .collecting, missedAcc := 0, trig := some tr } ∧
          ∀ u, u ≠ m → v.group u = s.group u) ∧
      ((s.group m).st = .rearming → ∃ t, exec (.halsoTrigger p dev (.group gid units) sp cy g) s = .next t ∧
        t.group m = { s.group m with missedAcc := (s.group m).missedAcc + 1 } ∧
        (t.unit m).remote = satAdd 0xFFFF (s.unit m).remote 1)) ∧
    (∀ grp hit cyc,
      let first := s.hasFirst p.val (hitMsg dev.toNat grp.toNat hit cyc.toNat)
      ∃ t, exec (.halsoMatchBroadcast p dev grp hit cyc) s = .next t ∧
        (first = false →
          t.halso.hits.head? = some { dev := dev.toNat, group := grp.toNat, cycle := cyc.toNat, hit := hit }) ∧
        (first = true → t.halso.hits = s.halso.hits ∧ t.out = s.out)) ∧
    ∀ (grp : CntId) (site : SiteId) (status : BitVec 8) (sp : BitVec 48),
      let o := s.halso.merges.get grp.val
      (∃ t, exec (.halsoFailMerge p grp { dev := dev, site := site, status := status } true sp) s = .next t ∧
        t.halso.merges.get grp.val = { o with ended := setBit o.ended dev.toNat true }) ∧
      ∃ t, exec (.halsoFailMerge p grp { dev := dev, site := site, status := status } false sp) s = .next t ∧
        (t.halso.merges.get grp.val).failed = setBit o.failed dev.toNat true ∧
        (t.halso.merges.get grp.val).ended = o.ended ∧
        (t.halso.merges.get grp.val).first =
          if o.failed = 0 ∨ sp.toNat < o.first.toNat then sp else o.first

/-- The topology of the Halso link: a hello is recorded, or found in conflict and raised (R389); ports go up and down
(R390). A device that may join takes the running count, span counter and time offset of its first tick pair in one
step, src 3 and ACQUIRE; while a site runs it keeps the join pending (R31, R396). A lost upstream side is replaced by
the other one of a ring that offers a path to the master, or the device leaves the domain on its own DCO (R397). A write
of HALSO_CABLE for the receiving port ends a hold of cause 4 (R394). -/
def Obligations.HalsoLinks : Prop :=
  ∀ (p : PortId) (s : State),
    (s.haOn = true → ∀ h : Hello,
      (s.helloConflict h = true → ∃ t, exec (.halsoHello p h) s = .next t ∧
        t.halso = { s.halso with conflict := true } ∧ bit t.sys.irqStatus 12 = true) ∧
      (s.helloConflict h = false → ∃ t, exec (.halsoHello p h) s = .next t ∧
        t.halso.present = setBit s.halso.present h.dev.toNat true ∧
        t.halso.masterSeen = (s.halso.masterSeen || h.master) ∧ t.halso.conflict = s.halso.conflict ∧
        t.halso.joined = s.halso.joined ∧ (h.master = true → t.halso.masterDev = h.dev) ∧
        (s.isMaster = true → t.halso.position = 0))) ∧
    (s.joinReady = true →
      (s.isMaster = true → ∃ t, exec .halsoJoin s = .next t ∧
        t.halso = { s.halso with joined := true, joinPending := false } ∧ t.time = s.time) ∧
      (s.isMaster = false → s.quiet = false → ∃ t, exec .halsoJoin s = .next t ∧
        t.halso = { s.halso with joinPending := true } ∧ t.time = s.time) ∧
      (s.isMaster = false → s.quiet = true → ∀ t1 t2 d dev,
        ((List.range 4).filterMap fun i => if s.isUp i then (s.halso.ports.get i).pair else none).head? =
          some (t1, t2, d, dev) →
        let now := ((s.now : Int) + ((t1 : Int) + d - t2)).toNat
        ∃ t, exec .halsoJoin s = .next t ∧ t.halso.joined = true ∧ t.halso.joinPending = false ∧
          t.time.span = now / 524288 ∧ t.time.grain = now % 524288 ∧ t.time.offset = dev - t1 ∧ t.src = 3 ∧
          t.time.servo = .acquire ∧ t.time.acqStep = false ∧
          t.time.epoch = if (now : Int) + (dev - t1) < s.now + s.time.offset - 5 then s.time.epoch + 1
            else s.time.epoch)) ∧
    (s.haOn = true → s.isMaster = false → s.upLost = true → ∀ other : Bool,
      let other_ : Prop := other = true ∧ s.haRing = true ∧ s.sideUp (1 - s.upSide) = true
      (s.halso.joined = true → other_ → ∃ t, exec (.halsoUpstreamLost other) s = .next t ∧
        t.halso.upstream = !s.halso.upstream ∧ t.halso.joined = true ∧ t.halso.rttStep = true ∧
        t.time.servo = .holdover ∧ t.time.holdCause = 4 ∧ bit t.sys.irqStatus 11 = true) ∧
      (s.halso.joined = true → ¬ other_ → ∃ t, exec (.halsoUpstreamLost other) s = .next t ∧
        t.halso.joined = false ∧ t.halso.lost = true ∧
        t.time.servo = .holdover ∧ t.time.holdCause = 5 ∧ bit t.sys.irqStatus 10 = true ∧
        t.time.span = s.time.span ∧ t.time.offset = s.time.offset) ∧
      (s.halso.joined = false → ∃ t, exec (.halsoUpstreamLost other) s = .next t ∧
        t.halso = { s.halso with marks := false } ∧ t.time = s.time)) ∧
    (∀ l : BitVec 2, ∃ t, exec (.halsoLinkDown p l) s = .next t ∧
      (t.halso.ports.get p.val).up = false ∧ (t.halso.ports.get p.val).pair = none ∧
      ∀ i, i ≠ p.val → t.halso.ports.get i = s.halso.ports.get i) ∧
    (s.timeOn = true → ∃ u, exec (.halsoLanesLocked p) s = .next (sendHello u) ∧
      u.halso.ports.get p.val = { s.halso.ports.get p.val with up := true, lanes := 3, nbr := none } ∧
      (s.halso.joined = false → u.out = s.out)) ∧
    (s.blockOn true = true → ∀ w : Wr, w.lo = true → ∃ t, exec (.halsoCableWrite p w) s = .next t ∧
      (t.halso.ports.get p.val).asym = BitVec.ofNat 16 (bits w.val 0 16) ∧
      (t.halso.ports.get p.val).valid = bit w.val 16 ∧
      let ends : Prop := s.isUp p.val = true ∧ s.time.servo = .holdover ∧ s.time.holdCause = 4
      (ends → t.time.servo = if s.src = 0 then .free else .acquire) ∧ (¬ ends → t.time = s.time))

/-! ## Pins and link lanes -/

/-- Loss and return of lock. A UI PLL that unlocks is flagged and counted, its octet's ceiling falls to 0, and its locked
CDR channels unlock (R229, R256); it locks again (R228, R517). The end of a lock window unlocks a locked channel more
than 1,000 ppm off, and locks one after two windows in a row within 250 ppm with its UI PLL locked, a signal and a phase
inside its limits (R254 to R257); a locked channel's phase has moved by at most 1 gr in each of its 4,096 UI (R252). A CDR channel that meets a phase limit or loses its signal unlocks (R255, R256, R258).
A channel in direct drive of a running site opens a suspect range with the cause (R260, R298). -/
def Obligations.LockIsLostAndFound : Prop :=
  ∀ (s : State),
    let opens (c cause win : Nat) (t : State) : Prop := ∀ n, s.ownerOf c = some n → (s.site n).running = true →
      (s.site n).play ≠ .starting → (s.site n).play ≠ .ended → (s.pin c).suspect = none →
      (s.octet (octOf c)).linkEn = false → (t.pin c).suspect = some { site := n, cause := cause, lockWin := win }
    let unlocks (c : Nat) (t : State) : Prop := (t.pin c).locked = false ∧ (t.pin c).lolEvent = true ∧
      (t.pin c).lolCount = min 0xFFFF ((s.pin c).lolCount + 1)
    (∀ (o : OctetId) (g : Grain), (s.octet o.val).locked = true →
      ∃ t, exec (.uiPllUnlock o g) s = .next t ∧ (t.octet o.val).locked = false ∧
        (t.octet o.val).unlockEvent = true ∧ (t.octet o.val).ceiling = 0 ∧
        (t.octet o.val).unlockCount = min 0xFFFF ((s.octet o.val).unlockCount + 1) ∧
        (0 < (s.octet o.val).ceiling → bit t.sys.irqStatus 1 = true) ∧
        ∀ c, octOf c = o.val → opens c 4 0 t ∧ (s.cdrOn c = true → (s.pin c).locked = true → unlocks c t)) ∧
    (∀ (o : OctetId) (g : Grain), (s.octet o.val).locked = false → exec (.uiPllUnlock o g) s = .next s) ∧
    (∀ (o : OctetId) (g : Grain), (s.octet o.val).locked = false → (s.octet o.val).pllOff = false →
      s.sys.state ≠ .reset → s.sys.state ≠ .boot → o.val < s.nOct →
      ∃ t, exec (.uiPllLock o g) s = .next t ∧ (t.octet o.val).locked = true ∧ (t.octet o.val).relock = false ∧
        (t.octet o.val).ceiling = (s.octet o.val).ceiling) ∧
    (∀ (c : Chan) (f ph : Int) (sl : List Bool) (e : Nat), s.cdrOn c.val = true → s.windowEnd c.val = some e →
      let p := s.pin c.val
      let ph' := windowPhase p.locked (s.uiOf c.val) p.phase ph
      let n := if -2500 ≤ f ∧ f ≤ 2500 then min 2 (p.goodWin + 1) else 0
      ∃ t, exec (.lockWindowEnd c f { phase := ph, sliced := sl }) s = .next t ∧ (t.pin c.val).ferr = clampI (-32768) 32767 f ∧
        (t.pin c.val).phase = ph' ∧ (p.locked = true → (ph' - p.phase).natAbs ≤ 4096 ∨ 32767 < p.phase.natAbs) ∧
        (t.pin c.val).winT = e ∧
        (p.locked = true → f < -10000 ∨ 10000 < f → unlocks c.val t ∧ opens c.val 1 4096 t) ∧
        (p.locked = true → -10000 ≤ f → f ≤ 10000 → (t.pin c.val).locked = true) ∧
        (p.locked = false → ((t.pin c.val).locked = true ↔ n = 2 ∧ (s.octet (octOf c.val)).locked = true ∧
          p.los = false ∧ ph'.natAbs < 32767))) ∧
    (∀ (c : Chan) (up : Bool) (g : Grain), s.cdrOn c.val = true → ∃ t, exec (.phaseLimit c up g) s = .next t ∧
      (t.pin c.val).phase = (if up then 32767 else -32767) ∧ (t.pin c.val).phaseLimit = true ∧
      (t.pin c.val).locked = false ∧ ((s.pin c.val).locked = true → unlocks c.val t ∧ opens c.val 2 0 t)) ∧
    (∀ (c : Chan) (g : Grain), bit (s.pin c.val).cfg 7 = true → (s.pin c.val).los = false →
      ∃ t, exec (.losAssert c g) s = .next t ∧ (t.pin c.val).los = true ∧ (t.pin c.val).losEvent = true ∧
        (s.cdrOn c.val = true → (s.pin c.val).locked = true → unlocks c.val t ∧ opens c.val 3 0 t)) ∧
    ∀ (c : Chan) (g : Grain), ∃ t, exec (.losDeassert c g) s = .next t ∧ onlyPin c.val s t ∧
      t.pin c.val = { s.pin c.val with los := false }

/-- The lanes of an octet in link configuration: an echo gives its lane's round trip and writes play_delay to the external
device, on that lane, at once or when no running site owns a logical pin there (R277, R283, Table 5.10); a status block
sets the lane's TX state and its two fault bits (R284, Table 5.8). A result word answers the compare that it names by its
span and instant: without a result the compare is suppressed, and the vector makes a suspect range, cause 8, unless the
pin has one open in that vector (R281, R298, Table 5.9); so does a compare without result 64 ns after its instant. Then
what no longer waits enters the log. -/
def Obligations.LinkLanesAnswer : Prop :=
  ∀ (o : OctetId) (lane : Fin 4) (s : State), (s.octet o.val).linkEn = true →
    (∀ rtt : Nat, ∃ t, exec (.linkMarkEcho o lane rtt) s = .next t ∧
      (t.octet o.val).rtts.get lane.val = rtt + 1 ∧ onlyOctet o.val s t ∧
      mgmtSent o.val lane.val 0 (131072 - (rtt - 65536) / 2) s t ∧
      (s.octRunning o.val = false → (s.octet o.val).mgmt = [] → (s.octet o.val).locked = true →
        (s.octet o.val).rxLol = 0 → (s.octet o.val).txFault = 0 →
        (∀ j, j < 4 → j ≠ lane.val → (s.octet o.val).rtts.get j ≠ 0) → (t.octet o.val).linkReady = true)) ∧
    (∀ (lock : Bool) (f : BitVec 2) (g : Grain), ∃ t, exec (.linkStatusBlock o lane lock f g) s = .next t ∧
      (t.octet o.val).txFault = setBit (s.octet o.val).txFault lane.val !lock ∧
      (t.octet o.val).faults =
        setBit (setBit (s.octet o.val).faults (2 * lane.val) (bit f 0)) (2 * lane.val + 1) (bit f 1)) ∧
    ∀ (slotB : Bool) (w : W32) (n : Nat) (x : Site) (p : At) (ts : Nat) (u : Bool) (pr : Option Nat) (lm : Bool)
        (q : PinRes) (rs : List PinRes) (os cs : List SusEnt) (l : List Held) (r : CmpRes) (rest : List CmpRes),
      let c := 8 * o.val + 2 * lane.val + (if slotB then 1 else 0)
      (s.sites.find? fun e => bit e.2.pinMap c && !e.2.held.isEmpty) = some (n, x) → s.site n = x →
      x.held = .vec p ts u pr lm (q :: rs) os cs :: l → q.ch = c → q.cmps = r :: rest → r.sent = true →
      let answered (a : Option Cls) : CmpRes :=
        { r with sent := false, cls := a, supp := a.isNone, judged := r.judged && a.isSome }
      let ranged : Bool := (q :: rs).any (fun z => z.ch == c && z.ranged) || os.any fun e => e.1 == c
      let after (a : Option Cls) : List Held :=
        let range : List SusEnt := if a = none ∧ ranged = false then [(c, 8, 0)] else []
        .vec p ts u pr lm ({ q with cmps := answered a :: rest } :: rs) (os ++ range) (cs ++ range) :: l
      (bit w 22 = true → (r.t % 524288).toNat = bits w 0 19 → (r.t / 524288 % 16).toNat = bits w 23 4 →
        let a : Option Cls := if bits w 19 2 = 0 then some .between else if bits w 19 2 = 1 then some .low
          else if bits w 19 2 = 2 then some .high else none
        ∃ v, exec (.linkResultWord o lane slotB w) s = .next (settle n (flush n x.held.length v)) ∧
          v.site n = { x with held := after a } ∧ onlySite n s v) ∧
      (∀ ch : Chan, ch.val = c → (r.t + 262144) / 524288 ≤ s.time.span →
        ∃ v, exec (.linkResultTimeout ch) s = .next (settle n (flush n x.held.length v)) ∧
          v.site n = { x with held := after none } ∧ onlySite n s v)

/-- Configuration writes of pins and octets, with their guards (R575, R577). PIN_CFG, PIN_AUX and PIN_CTLE (Tables 5.12
to 5.14): a reserved value, or a change of a guarded field while a running site owns the channel, is refused; a channel
that enters tracked mode is unlocked with phase 0 (R252), but for one whose octet is in link configuration, which is always
in tracked mode (R274); loop 3 is set but refused until its pair is a far-end loop (R265). PIN_LINK enters or leaves link configuration while no loaded
plan has a channel in the octet (R271). TIMING_OCTET powers a UI PLL down or up under the same guard (R228);
TIMING_PIN_DESKEW writes D, within its range, while no running site owns the channel (R230, R234). Disabling an octet is requested for the next
tick; its request bit cleared, it is enabled again (R517, R543). -/
def Obligations.PinRegistersWrite : Prop :=
  ∀ (s : State), s.blockOn false = true →
    (∀ (c : Chan) (v : W32), c.val < s.nCh →
      let p := s.pin c.val
      let w := v &&& 0xFFF
      let reserved : Prop := bits w 1 2 = 3 ∨ 4 ≤ bits w 4 3 ∨ 5 ≤ bits w 9 3 ∨ bits w 1 2 = 2 ∧ bit w 0 = false
      let guarded : Prop := (w ^^^ p.cfg) &&& 0xE7F ≠ 0 ∧ s.ownedRunning c.val = true
      (reserved ∨ guarded → ∃ t, exec (.pinCfgWrite c (some v) none none) s = .next t ∧ onlyPin c.val s t ∧
        t.pin c.val = { p with refused := true } ∧ t.out = s.out) ∧
      (¬ (reserved ∨ guarded) → ∃ t, exec (.pinCfgWrite c (some v) none none) s = .next t ∧
        (s.farPair c.val = none → onlyPin c.val s t) ∧ (t.pin c.val).cfg = w ∧
        (t.pin c.val).refused = (p.refused || (bits w 4 3 == 3 && !t.farEnd c.val)) ∧
        (t.pin c.val).los = (p.los && bit w 7) ∧
        (bit w 0 = p.tracked ∨ (s.octet (octOf c.val)).linkEn = true → (t.pin c.val).locked = p.locked) ∧
        (bit w 0 ≠ p.tracked → (s.octet (octOf c.val)).linkEn = false → (t.pin c.val).locked = false ∧
          (bit w 0 = true → (t.pin c.val).phase = 0 ∧ (t.pin c.val).goodWin = 0))) ∧
      (let vtt := sbits v 0 16
       let bad : Prop := vtt < -8000 ∨ 18000 < vtt ∨ bits v 0 16 ≠ bits p.aux 0 16 ∧ s.ownedRunning c.val = true
       (bad → ∃ t, exec (.pinCfgWrite c none (some v) none) s = .next t ∧ onlyPin c.val s t ∧
         t.pin c.val = { p with refused := true }) ∧
       (¬ bad → ∃ t, exec (.pinCfgWrite c none (some v) none) s = .next t ∧ onlyPin c.val s t ∧
         (t.pin c.val).aux = BitVec.ofNat 32 (bits v 0 16 + clampN 20 400 (bits v 16 10) * 2 ^ 16) ∧
         (t.pin c.val).cfg = p.cfg)) ∧
      (let bad : Prop := bits v 0 4 ≠ bits p.ctle 0 4 ∧ s.ownedRunning c.val = true
       (bad → ∃ t, exec (.pinCfgWrite c none none (some v)) s = .next t ∧ onlyPin c.val s t ∧
         t.pin c.val = { p with refused := true }) ∧
       (¬ bad → ∃ t, exec (.pinCfgWrite c none none (some v)) s = .next t ∧ onlyPin c.val s t ∧
         (t.pin c.val).ctle = v &&& 0x10F ∧ (t.pin c.val).cfg = p.cfg)) ∧
      (let d := sbits v 0 16
       let m := sbits v 16 16
       let bad : Prop := d < -16384 ∨ 16383 < d ∨ m < -16384 ∨ 16383 < m ∨
         (d ≠ p.dDrv ∨ m ≠ p.dCmp) ∧ s.ownedRunning c.val = true
       (bad → ∃ t, exec (.timingPinDeskewWrite c v) s = .next t ∧ t.pins = s.pins ∧ t.timing.refused = true) ∧
       (¬ bad → ∃ t, exec (.timingPinDeskewWrite c v) s = .next t ∧ onlyPin c.val s t ∧ t.timing = s.timing ∧
         t.pin c.val = { p with dDrv := d, dCmp := m }))) ∧
    ∀ (o : OctetId), o.val < s.nOct →
      let x := s.octet o.val
      (∀ w : Wr, w.lo = true →
        (bit w.val 0 ≠ x.linkEn → s.octOwned o.val = true → ∃ t, exec (.pinLinkWrite o w) s = .next t ∧
          t.octets = s.octets ∧ (t.pin (8 * o.val)).refused = true ∧ t.out = s.out) ∧
        (bit w.val 0 = x.linkEn ∨ s.octOwned o.val = false → ∃ t, exec (.pinLinkWrite o w) s = .next t ∧
          onlyOctet o.val s t ∧ (t.octet o.val).linkEn = bit w.val 0 ∧
          (t.octet o.val).scale = BitVec.ofNat 2 (bits w.val 1 2) ∧
          (bit w.val 0 = true → x.linkEn = false → (t.octet o.val).linkReady = false ∧ (t.octet o.val).rxLol = 0xF) ∧
          (bit w.val 0 = true → x.linkEn = true → mgmtSent o.val 0 1 (bits w.val 1 2) s t) ∧
          (bit w.val 0 = true → x.linkEn = false → s.octRunning o.val = false → t.out.head? =
            some (.link s.now o.val 0 (ctrlBlock 0x66 (1 + bits w.val 1 2 * 2 ^ 24)))))) ∧
      (∀ v : W32,
        let want := bit v 0 || bit s.sys.disabled o.val
        let bad : Prop := want ≠ x.pllOff ∧ (s.octOwned o.val = true ∨ x.linkEn = true)
        (bad → ∃ t, exec (.timingOctetCfgWrite o v) s = .next t ∧ t.octets = s.octets ∧ t.timing.refused = true) ∧
        (¬ bad → ∃ t, exec (.timingOctetCfgWrite o v) s = .next t ∧ onlyOctet o.val s t ∧ t.timing = s.timing ∧
          (t.octet o.val).pllOff = want ∧ (t.octet o.val).unlockEvent = (x.unlockEvent && !bit v 2) ∧
          (t.octet o.val).locked = (x.locked && !want))) ∧
      (bit s.sys.disReq o.val = false → ∃ t, exec (.octetDisableRequest o) s = .next t ∧
        t.sys = { s.sys with disReq := setBit s.sys.disReq o.val true, disTest := setBit s.sys.disTest o.val true }) ∧
      (bit s.sys.disReq o.val = true → bit s.sys.disabled o.val = true → ∃ t, exec (.octetEnable o) s = .next t ∧
        bit t.sys.disReq o.val = false ∧ bit t.sys.disabled o.val = false)

/-! ## DRAM and the host queues -/

/-- A write of DRAM_CTRL takes effect when grain and rate stay as they are, or when no plan is loaded and the spill ring
is disabled; otherwise, and with a reserved grain or rate, it changes nothing but the refused bit, which it sets. Another
grain reorders DRAM contents as the host sees them (setGrain). -/
def Obligations.DramControlWrites : Prop :=
  ∀ (v : W32) (s : State), s.blockOn false = true →
    let g := bits v 0 3
    let r := bits v 4 3
    let same : Prop := g = s.dram.grain.toNat ∧ r = s.dram.rate.toNat
    let free : Prop := s.plans = [] ∧ s.hqm.spillEn = false
    let reserved : Prop := 4 < g ∨ 5 < r
    (¬ reserved → same ∨ free → ∃ t, exec (.dramCtrlWrite v) s = .next t ∧
      t.dram = { setGrain (BitVec.ofNat 3 g) s.dram with
        grain := BitVec.ofNat 3 g, rate := BitVec.ofNat 3 r, refused := s.dram.refused && !bit v 7 } ∧
      (g = s.dram.grain.toNat → t.dram.mem = s.dram.mem)) ∧
    (reserved ∨ ¬ same ∧ ¬ free → ∃ t, exec (.dramCtrlWrite v) s = .next t ∧
      t.dram = { s.dram with refused := true })

/-- Refresh debt accrues on the grid in quarters by the MR4 rate, to at most 32 (R579), behind the second refresh of a
span at 4 times where its cycle 128 has come (R195); a rate that rises scales the debt; a debt of 9 or more forces, flags
and raises (R193, R194, R196). A channel is polled only at its instant and not while it is retrained (R193). A rise to 4
times raises DRAM_OVERTEMP (the reading of R194 that log entry 37 names). In Ready an oscillator read sets the write
timing's target (R188). -/
def Obligations.DramRefreshes : Prop :=
  ∀ (ch : DramCh) (g : Grain) (s : State),
    let c := (chanAt ch.val g (atGrain g s)).dram.chans.get ch.val
    let quarters (r : Nat) : Nat := if r = 0 then 1 else if r = 1 then 2 else 4
    let lands (rate quarter debt : Nat) (t : State) : Prop :=
      let x := t.dram.chans.get ch.val
      x.rate = rate ∧ x.quarter = quarter ∧ x.debt = debt ∧
      (9 ≤ debt → c.forced = false → x.forced = true ∧ x.forcedEvent = true ∧
        x.forcedCount = min 0xFFFF (c.forcedCount + 1) ∧ bit t.sys.irqStatus 2 = true) ∧
      (debt < 9 ∨ c.forced = true → x.forced = c.forced ∧ x.forcedCount = c.forcedCount) ∧
      ∀ m, m ≠ ch.val → t.dram.chans.get m = s.dram.chans.get m
    (g.val < 262144 ∨ (s.dram.chans.get ch.val).second = none → c = s.dram.chans.get ch.val) ∧
    (s.dramLive = true →
      (let q := c.quarter + quarters c.rate
       ∃ t, exec (.refreshAccrualTick { ch := ch, t := g }) s = .next t ∧ lands c.rate (q % 4) (min 32 (c.debt + q / 4)) t) ∧
      ∀ m : Mr4,
        let r := match m with
          | .below1 => 0
          | .x1 => 0
          | .x2 => 1
          | .x4 => 2
        let due : Prop := s.time.span % 125 * 524288 + g.val = ch.val * 4096000 ∧ s.retraining = false
        (due → ∃ t, exec (.mr4Poll { ch := ch, t := g } m) s = .next t ∧
          lands r c.quarter (if c.rate < r then min 32 (c.debt * (quarters r / quarters c.rate)) else c.debt) t ∧
          (r = 2 → c.rate ≠ 2 → bit t.sys.irqStatus 4 = true)) ∧
        (¬ due → exec (.mr4Poll { ch := ch, t := g } m) s = .next s)) ∧
    (s.dramLive = false →
      exec (.refreshAccrualTick { ch := ch, t := g }) s = .next s ∧ ∀ m, exec (.mr4Poll { ch := ch, t := g } m) s = .next s) ∧
    ∀ tgt : Int, s.sys.state = .ready → ∃ t, exec (.wck2dqOscillatorRead ch tgt) s = .next t ∧
      t.dram.chans.get ch.val = { s.dram.chans.get ch.val with wtarget := tgt }

/-- Writes that reach the host queues: a doorbell moves the tail of a submission queue or the head of a completion queue
within its bounds, or sets the error of R447; a queue context's guarded fields change only while it is disabled, it is
enabled empty with phase 1, and disabled only when R452 admits it, else the write sets refused and HQM_ERR (R451, R452, R575);
HQM_SPILL under R479; fetch_en. -/
def Obligations.QueueWrites : Prop :=
  ∀ (s : State), s.blockOn false = true →
    (∀ (off : BitVec 19) (size : Nat) (v : W64),
      let o := off.toNat
      let q := o / 4096 * 64 + o % 4096 / 8
      let x := s.queue q
      let n := bits v 0 16
      let ok : Prop := x.en = true ∧ n < x.size ∧ (x.isCq = true → (n + x.size - x.head) % x.size ≤ x.fill)
      size = 4 ∨ size = 8 → o % 8 = 0 → o % 4096 < 512 →
      (ok → ∃ t, exec (.doorbellWrite off size v) s = .next t ∧ (∀ p, p ≠ q → t.queue p = s.queue p) ∧
        t.queue q = if x.isCq then { x with head := n } else { x with tail := n }) ∧
      (¬ ok → ∃ t, exec (.doorbellWrite off size v) s = .next t ∧ t.queue q = { x with dbErr := true } ∧
        (∀ p, p ≠ q → t.queue p = s.queue p) ∧
        t.hqm.errQueue = BitVec.ofNat 13 q ∧ t.hqm.errKind = 1 ∧ t.hqm.errEvent = true ∧
        bit t.sys.irqStatus 16 = true)) ∧
    (∀ (q : QueueId) (w : Wr),
      let x := s.queue q.val
      let new := rwMerge qctxCfgRw w x.cfg
      let refuses (t : State) : Prop := t.queue q.val = { x with refused := true } ∧
        t.hqm.errQueue = BitVec.ofNat 13 q.val ∧ t.hqm.errKind = 3 ∧ t.sys = s.sys
      (x.en = true → changes (qctxCfgRw &&& ~~~ fm 0 1) qctxCfgRw w x.cfg = true ∨
          bit new 0 = false ∧ s.disableBad q.val = true →
        ∃ t, exec (.qctxCfgWrite q 1 w) s = .next t ∧ refuses t) ∧
      (x.en = true → changes (qctxCfgRw &&& ~~~ fm 0 1) qctxCfgRw w x.cfg = false →
        bit new 0 = true ∨ s.disableBad q.val = false →
        ∃ t, exec (.qctxCfgWrite q 1 w) s = .next t ∧ t.queue q.val = { x with cfg := new }) ∧
      (x.en = false → bit new 0 = false → ∃ t, exec (.qctxCfgWrite q 1 w) s = .next t ∧
        t.queue q.val = { x with cfg := new }) ∧
      (x.en = false → bit new 0 = true → s.enableOk q.val new = false →
        ∃ t, exec (.qctxCfgWrite q 1 w) s = .next t ∧ refuses t) ∧
      (x.en = false → bit new 0 = true → s.enableOk q.val new = true →
        ∃ t, exec (.qctxCfgWrite q 1 w) s = .next t ∧ (t.queue q.val).cfg = new ∧ (t.queue q.val).head = 0 ∧
          (t.queue q.val).tail = 0 ∧ (t.queue q.val).phase = true ∧ (t.queue q.val).posted = 0 ∧
          (t.queue q.val).halted = false) ∧
      (x.en = true → changes (fm 12 52) (fm 12 52) w x.base = true →
        ∃ t, exec (.qctxCfgWrite q 0 w) s = .next t ∧ refuses t) ∧
      (x.en = false ∨ changes (fm 12 52) (fm 12 52) w x.base = false →
        ∃ t, exec (.qctxCfgWrite q 0 w) s = .next t ∧ t.queue q.val = { x with base := rwMerge (fm 12 52) w x.base })) ∧
    (∀ w : Wr,
      let cur := s.hqm.spillReg
      let new := rwMerge spillRw w cur
      let bad : Prop := changes spillRw spillRw w cur = true ∧
        (s.anyRunning = true ∨ s.hqm.spillEn = true ∧ bit new 0 = false ∧ s.hqm.spill ≠ [])
      (bad → ∃ t, exec (.hqmSpillWrite w) s = .next t ∧ t.hqm = { s.hqm with spillRefused := true }) ∧
      (¬ bad → ∃ t, exec (.hqmSpillWrite w) s = .next t ∧ t.hqm.spillEn = bit new 0 ∧
        t.hqm.spillBase = BitVec.ofNat 22 (bits new 26 22) ∧ t.hqm.spill = s.hqm.spill ∧
        t.hqm.spillRefused = (s.hqm.spillRefused && !(w.lo && bit w.val 1)))) ∧
    ∀ v : W32, ∃ t, exec (.hqmCtrlWrite v) s = .next t ∧ t.hqm = { s.hqm with fetchEn := bit v 0 }

/-- A command's way: fetched into the lowest free slot, waiting or on the delay list, or completed with BAD_DESCRIPTOR;
a read error stops its queue (R448, R453, R455, R466, R468). Due entries leave the delay list (R468). The first ready
command is dispatched, at most 128 a span; in Standby a wake-class one wakes the device (R52, R469). A completed one
whose chain admits it leaves its slot for the host ring, or for the spill ring while the queue is full or has spilled
entries; a spilled entry goes on to its queue when there is room (R450, R472, R477, R478). A message covers every entry
before it (R481). -/
def Obligations.CommandsFlow : Prop :=
  ∀ (s : State),
    let entered (d : Desc) (q : Nat) (u : State) : Prop :=
      let k := freeSlot s.hqm.cmds 0
      let ch := s.hqm.chains.get (chainKey q d)
      let c : Cmd := { ph := if inFuture (descNotBefore d) s.time.span then .delayed else .waiting, desc := d, sq := q,
                       seq := s.hqm.nextSeq, pred := if descChained d then ch.last else none }
      u.hqm.nextSeq = s.hqm.nextSeq + 1 ∧ (∀ j, j ≠ k → u.cmd j = s.cmd j) ∧
      (u.queue q).head = ((s.queue q).head + 1) % (s.queue q).size ∧
      (badDesc s.installed (q / 64) d = none → u.cmd k = c) ∧
      ∀ o, badDesc s.installed (q / 64) d = some o → (u.cmd k).ph = .done ∧ (u.cmd k).status = stBad ∧
        (u.cmd k).result = BitVec.ofNat 32 o ∧ (u.cmd k).desc = d
    let spilled (q k : Nat) (u : State) : Prop :=
      u.hqm.spill = s.hqm.spill ++
        [{ cq := q, entry := entryOf (s.cmd k), irqNow := descIrqNow (s.cmd k).desc }] ∧
      u.host = s.host ∧ u.cmd k = {} ∧ u.hqm.spillWr = s.hqm.spillWr + 1
    let posted (q : Nat) (e : BitVec 128) (flag : Bool) (u : State) : Prop :=
      let x := s.queue q
      wrote (x.base.toNat + 16 * x.tail) (leBytes 16 (setBit (setBit e 120 x.phase) 122 flag).toNat) s.host u.host ∧
      (u.queue q).tail = (x.tail + 1) % x.size ∧ (u.queue q).posted = min (2 ^ 32 - 1) (x.posted + 1) ∧
      (u.queue q).phase = if x.tail + 1 = x.size then !x.phase else x.phase
    (∀ q, s.fetching = true → s.nextFetch = some q →
      (∀ d, (s.queue q).head ≠ (s.queue q).tail → s.opensTooMany q d = false → ∃ u,
        exec (.descriptorFetch [some d]) s = .next (promote (headWriteback q u)) ∧
        entered d q u) ∧
      ∃ u, exec (.descriptorFetch [none]) s = .next (promote (headWriteback q u)) ∧ u.hqm.cmds = s.hqm.cmds ∧
        (u.queue q).fetchErr = true ∧ (u.queue q).halted = true ∧ bit u.sys.irqStatus 16 = true) ∧
    (∃ v, exec .delayListExpiry s = .next (promoteList s.dueDelayed true v) ∧
      (∀ k, k ∈ s.dueDelayed → v.cmd k = { s.cmd k with ph := .waiting }) ∧
      ∀ k, k ∉ s.dueDelayed → v.cmd k = s.cmd k) ∧
    (∀ k rest, s.hqm.readyQ = k :: rest → s.fetching = true → s.cancelDue k = false →
      (s.hqm.dispatched < 128 → ∃ u, exec .commandDispatch s = .next (promote u) ∧
        u.cmd k = { s.cmd k with ph := .dispatched, dspan := s.time.span, dord := s.hqm.dispNo + 1 } ∧
        (∀ j, j ≠ k → u.cmd j = s.cmd j) ∧ u.hqm.readyQ = rest ∧ u.hqm.dispatched = s.hqm.dispatched + 1 ∧
        u.hqm.dispNo = s.hqm.dispNo + 1 ∧
        u.sys.waking = (s.sys.waking || decide (s.sys.state = .standby) && wakeClass (descOp (s.cmd k).desc))) ∧
      (128 ≤ s.hqm.dispatched → exec .commandDispatch s = .next s)) ∧
    (∀ k : CmdSlot,
      let q := s.cqOf (s.cmd k.val).sq
      s.releasable k.val = true →
      ((s.queue q).full = false → s.spilled q = 0 → ∃ u, exec (.completionRelease k) s = .next (promote u) ∧
        u.cmd k.val = {} ∧ posted q (entryOf (s.cmd k.val)) false u ∧ u.hqm.spill = s.hqm.spill) ∧
      ((s.queue q).full = true ∨ 0 < s.spilled q → s.hqm.spillEn = true →
        ∃ u, exec (.completionRelease k) s = .next (promote u) ∧ spilled q k.val u) ∧
      ((s.queue q).full = true ∨ 0 < s.spilled q → s.hqm.spillEn = false →
        exec (.completionRelease k) s = .next s) ∧
      (s.hqm.spillEn = true → ∃ u, exec (.postedCreditTimeout k) s = .next (promote u) ∧ spilled q k.val u)) ∧
    ∀ q : QueueId,
      (∀ l e rest, (s.queue q.val).full = false → s.hqm.spill = l ++ e :: rest → e.cq = q.val →
        (∀ x, x ∈ l → x.cq ≠ q.val) → ∃ t, exec (.spillMove q) s = .next t ∧ t.hqm.spill = l ++ rest ∧
          posted q.val e.entry true t) ∧
      (0 < (s.queue q.val).unsig → (s.queue q.val).unsigSpan < s.time.span →
        (s.queue q.val).unsigSpan + (s.queue q.val).modSpans ≤ s.time.span →
        ∃ t, exec (.msixModerationTimeout q) s = .next t ∧ (t.queue q.val).unsig = 0 ∧
          let v := (s.queue q.val).vector
          ((s.hqm.msix.get v).masked = false → Out.msix v ∈ t.out) ∧
          ((s.hqm.msix.get v).masked = true → (t.hqm.msix.get v).pending = true ∧ t.out = s.out))

/-! ## Monitors, sensors and the configuration memory -/

/-- A sample of an enabled monitor makes a raw decision, filtered by the majority of the last N; a resolved output that
changes is flagged, counted and with action 1 or 2 raised (R426 to R430); a disabled one does not sample. A write of its
configuration that is reserved is refused, one that enables it or changes N empties the filter (R432, R577). The sensors
take their readings and peaks; a level reached is flagged and raised, and at 125 °C every running site and generator is
stopped (R433 to R435). A go write of CAL_ADC starts a request, refused while one runs or for an input that Table 9.5 does
not have; its end gives the sum (R425). An ageing reading gives the median and margin, and in Ready only lowers the
ceiling (R437 to R439). -/
def Obligations.MonitorsAndSensors : Prop :=
  ∀ (s : State),
    (∀ (i : MonId) (uv : Int),
      let m := s.cal.mons.get i.val
      let raw := if ((m.hi * 2000 : Nat) : Int) < uv then true else if uv < ((m.lo * 2000 : Nat) : Int) then false else m.raw
      let hist := (raw :: m.hist).take m.n
      let out := decide (hist.length < 2 * (hist.filter id).length)
      (m.en = false → exec (.monSample i uv) s = .next s) ∧
      (m.en = true → s.sys.state ≠ .reset → ∃ t, exec (.monSample i uv) s = .next t ∧
        let q := t.cal.mons.get i.val
        q.raw = raw ∧ q.hist = hist ∧ q.out = out ∧ q.cfg = m.cfg ∧
        (m.unresolved = true → hist.length = m.n → q.unresolved = false) ∧
        (m.unresolved = false ∧ out ≠ m.out →
          q.rise = (m.rise || out) ∧ q.fall = (m.fall || !out) ∧ q.edges = min 0xFFFF (m.edges + 1) ∧
          (m.action = 1 ∨ m.action = 2 → bit t.sys.irqStatus 13 = true) ∧
          (m.action = 2 → out = m.faultAbove → t.sites = (stopSites (fun n => bit m.sites n) s).sites)) ∧
        (¬ (m.unresolved = false ∧ out ≠ m.out) → q.edges = m.edges ∧ t.sites = s.sites))) ∧
    (s.blockOn true = true → ∀ (i : MonId) (v : W32),
      let m := s.cal.mons.get i.val
      let c : W32 := v &&& 0x0FFFFFFF
      let n : Mon := { m with cfg := c }
      let bad : Prop := n.hi < n.lo ∨ 1000 < n.hi ∨ n.action = 3
      (bad → ∃ t, exec (.calMonCfgWrite i v) s = .next t ∧ t.cal.mons.get i.val = { m with refused := true }) ∧
      (¬ bad → ∃ t, exec (.calMonCfgWrite i v) s = .next t ∧ (t.cal.mons.get i.val).cfg = c ∧
        (t.cal.mons.get i.val).refused = m.refused ∧
        (n.en = true → m.en = false ∨ n.n ≠ m.n →
          (t.cal.mons.get i.val).hist = [] ∧ (t.cal.mons.get i.val).unresolved = true))) ∧
    (∀ temps : List (BitVec 12), s.sys.state ≠ .reset → temps.length = 24 →
      let old (i : Nat) := s.cal.sensors.get i
      let hit (level : Int) : Prop := ∃ i, ∃ h : i < temps.length,
        ((old i).seen = false ∨ (old i).temp.toInt < level) ∧ level ≤ temps[i].toInt
      ∃ t, exec (.thermSample temps) s = .next t ∧
        (∀ i (h : i < temps.length), (t.cal.sensors.get i).temp = temps[i] ∧ (t.cal.sensors.get i).seen = true ∧
          (t.cal.sensors.get i).peak = if (old i).seen = false ∨ (old i).peak.toInt < temps[i].toInt then temps[i]
            else (old i).peak) ∧
        (hit s.cal.warn.toInt → t.cal.warnEvent = true ∧ bit t.sys.irqStatus 14 = true) ∧
        (hit s.cal.crit.toInt → t.cal.critEvent = true ∧ bit t.sys.irqStatus 15 = true) ∧
        ((∃ i, ∃ h : i < temps.length, 1000 ≤ temps[i].toInt) → s.cal.trip = false → t.cal.trip = true ∧
          t.sites = (stopSites (fun _ => true) s).sites ∧
          ∀ g, g < 8 → (s.gen g).running = true →
            (t.gen g).stops = (s.gen g).stops ++ [(s.time.span + 1, true, none)]) ∧
        ((∀ i (h : i < temps.length), temps[i].toInt < 1000) → t.sites = s.sites ∧ t.dds = s.dds ∧
          (t.cal.trip = true → s.cal.trip = true))) ∧
    (s.blockOn true = true → ∀ w : Wr, w.lo = true →
      let kind := bits w.val 0 4
      let index := bits w.val 4 7
      let go := bit w.val 15
      (go = true → s.cal.adcBusy = true → ∃ t, exec (.calAdcGo w) s = .next t ∧
        t.cal = { s.cal with refused := true }) ∧
      (go = true → s.cal.adcBusy = false → ∃ t, exec (.calAdcGo w) s = .next t ∧ t.cal.adcKind = BitVec.ofNat 4 kind ∧
        t.cal.adcIndex = BitVec.ofNat 7 index ∧
        (s.adcInput kind index = true → t.cal.adcBusy = true ∧ t.cal.refused = s.cal.refused) ∧
        (s.adcInput kind index = false → t.cal.adcBusy = false ∧ t.cal.adcDone = true ∧ t.cal.adcSum = 0 ∧
          t.cal.refused = true)) ∧
      (go = false → ∃ t, exec (.calAdcGo w) s = .next t ∧ t.cal.adcBusy = s.cal.adcBusy ∧
        t.cal.adcKind = BitVec.ofNat 4 kind ∧ t.cal.adcSum = s.cal.adcSum ∧ t.cal.refused = s.cal.refused)) ∧
    (s.cal.adcBusy = true → ∀ codes : List (BitVec 12), ∃ t, exec (.calAdcDone codes) s = .next t ∧
      t.cal = { s.cal with
        adcBusy := false, adcDone := true,
        adcSum := BitVec.ofNat 20 (((codes.take (2 ^ min 8 s.cal.adcA.toNat)).map BitVec.toNat).foldl (· + ·) 0) }) ∧
    ∀ (o : OctetId) (bp : Nat), s.sys.state ≠ .reset → s.sys.state ≠ .boot → s.sys.state ≠ .deepStandby → o.val < s.nOct →
      let x := s.octet o.val
      let rs := (bp :: x.readings).take 16
      let d := medianI (rs.map Int.ofNat)
      let m := x.margin0 - (d - x.base0)
      ∃ t, exec (.ageingReading o bp) s = .next t ∧ (t.octet o.val).readings = rs ∧ (t.octet o.val).d = d.toNat ∧
        (t.octet o.val).m = m ∧
        (s.sys.state = .ready → (t.octet o.val).ceiling = min x.ceiling (ceilingAt x.cFab m) ∧
          (ceilingAt x.cFab m < x.ceiling → bit t.sys.irqStatus 1 = true)) ∧
        (s.sys.state ≠ .ready → (t.octet o.val).ceiling = x.ceiling)

/-- CFG_SAVE (R499 to R501) waits for the span after its dispatch; outside its states, without the memory or with the
last number used it completes with PRECONDITION and writes nothing; else it completes with OK and the next number, the
image in the bank that is not in use, which becomes the bank in use with that number and the image's present bits, and no
byte outside the erased sectors changes; a write that fails leaves the bank in use as it was, erased sectors, save_fail and
INTEGRITY. In every state in which the time base runs and the memory is there, a fall of a ceiling and every span that is a
multiple of 2³⁵ append an entry to the ageing log, with its cause, in the next place of the half in use; a full half gives
way to the other, erased, and no other byte changes (R441, R498). -/
def Obligations.ConfigurationMemory : Prop :=
  (∀ (k : CmdSlot) (written : Bool) (s : State), s.holds k.val 0x48 = true →
    let seq := s.cfg.seq.toNat + 1
    let b := s.bank == some false
    let base := if b then 0x400000 else 0
    let im := s.saveImage (pay (s.cmd k.val).desc 0 4) seq
    let room := (im.length + 4095) / 4096 * 4096
    let spares (t : State) : Prop := ∀ x, x < base ∨ base + room ≤ x → Mem.byte t.cfg.flash x = Mem.byte s.cfg.flash x
    (s.time.span ≤ (s.cmd k.val).dspan → exec (.cfgSave k written) s = .next s) ∧
    ((s.cmd k.val).dspan < s.time.span →
      (s.saveOk = false → ∃ t, exec (.cfgSave k written) s = .next t ∧ doneAs k.val stPrecondition 0 s t ∧
        onlySlot k.val s t ∧ t.cfg = s.cfg) ∧
      (s.saveOk = true → written = true → im.length ≤ 3670016 → ∃ t, exec (.cfgSave k written) s = .next t ∧
        doneAs k.val stOK seq s t ∧ onlySlot k.val s t ∧ flBytes t.cfg.flash base im.length = im ∧ spares t ∧
        t.cfg.bank = b ∧ t.cfg.seq = BitVec.ofNat 32 seq ∧ t.cfg.present = hdrPresent t.cfg.flash base ∧
        t.cfg.saveFail = s.cfg.saveFail) ∧
      (s.saveOk = true → written = false ∨ 3670016 < im.length → ∃ t, exec (.cfgSave k written) s = .next t ∧
        doneAs k.val stIntegrity 0 s t ∧ onlySlot k.val s t ∧ spares t ∧ t.cfg.bank = s.cfg.bank ∧
        t.cfg.seq = s.cfg.seq ∧ t.cfg.saveFail = true ∧
        ∀ x, base ≤ x → x < base + room → Mem.byte t.cfg.flash x = 0))) ∧
  ∀ (fall : Bool) (s : State),
    let full : Prop := 2048 ≤ s.cfg.ageEntries
    let half := if full then !s.cfg.ageHalf else s.cfg.ageHalf
    let i := if full then 0 else s.cfg.ageEntries
    let start := ageAddr half 0
    let place := ageAddr half i
    let due : Prop := s.timeOn = true ∧ s.cfg.absent = false ∧ (fall = true ∨ s.time.span % 2 ^ 35 = 0)
    (due → ∃ t, exec (.ageingLogAppend fall) s = .next t ∧
      flBytes t.cfg.flash place 128 = ageEntry (if fall then 2 else 1) s ∧
      t.cfg.ageEntries = i + 1 ∧ t.cfg.ageHalf = half ∧ t.cfg.ageSeq = s.cfg.ageSeq + 1 ∧
      (∀ x, x < start ∨ start + 0x40000 ≤ x → Mem.byte t.cfg.flash x = Mem.byte s.cfg.flash x) ∧
      ∀ x, start ≤ x → x < start + 0x40000 → x < place ∨ place + 128 ≤ x →
        (full → Mem.byte t.cfg.flash x = 0) ∧ (¬ full → Mem.byte t.cfg.flash x = Mem.byte s.cfg.flash x)) ∧
    (¬ due → exec (.ageingLogAppend fall) s = .next s)

/-! ## Performance counters -/

/-- A read of a counter latches its high part (R522). PERF_SEL, PERF_CTRL and PERF_SNAP (R523, R525, R526). A counter that
passes its end wraps, keeps its overflow bit and raises PERF_OVERFLOW where selected (R519, R520). A snapshot that is due
copies every counter with its overflow bit (R527), at cycle 0 of its span (R526). The sampler's configuration is guarded while it is on; switching it on
seeds it (R529, R532); an open occurrence that ends leaves its entry in the buffer, with its latency in core
cycles (R528, Table 12.3), or is dropped and counted when 4,096 wait (R530, R531). -/
def Obligations.CountersAndSampler : Prop :=
  ∀ (s : State), s.blockOn false = true →
    (∀ n : CntId,
      let c := s.perf.cnts.get n.val
      (∃ t, exec (.perfCntRead n) s = .next t ∧
        t.perf.cnts.get n.val = { c with high := BitVec.ofNat 16 (c.count.toNat / 2 ^ 32) } ∧
        ∀ m, m ≠ n.val → t.perf.cnts.get m = s.perf.cnts.get m) ∧
      (∀ v : W32, ∃ t, exec (.perfSelWrite n v) s = .next t ∧
        t.perf.cnts.get n.val = { c with sel := v &&& 0x03FF03FF, count := if bit v 26 then 0 else c.count } ∧
        ∀ m, m ≠ n.val → t.perf.cnts.get m = s.perf.cnts.get m) ∧
      ∀ occ : Nat,
        let wraps : Prop := bit c.sel 24 = true ∧ s.perf.freeze = false ∧ 2 ^ 48 ≤ c.count.toNat + occ
        (wraps → ∃ t, exec (.perfCounterOverflow n occ) s = .next t ∧ bit t.perf.ovf n.val = true ∧
          (bit c.sel 25 = true → bit t.sys.irqStatus 19 = true) ∧
          (bit c.sel 25 = false → t.sys = s.sys ∧
            t.perf.cnts.get n.val = { c with count := BitVec.ofNat 48 (c.count.toNat + occ) })) ∧
        (¬ wraps → exec (.perfCounterOverflow n occ) s = .next s)) ∧
    (∀ v : W32, ∃ t, exec (.perfFreeze v) s = .next t ∧ t.perf = { s.perf with freeze := bit v 0 }) ∧
    (∀ v : W32, ∃ t, exec (.snapshotRequest v) s = .next t ∧ t.perf =
      { s.perf with period := BitVec.ofNat 20 (bits v 12 20),
                    snapGo := if bit v 0 = true ∧ s.perf.snapGo = 0 then s.time.span + 1 else s.perf.snapGo }) ∧
    (s.cycle = 0 → s.perf.snapDue s.time.span = true → ∃ t, exec .perfSnapshot s = .next t ∧
      (∀ n, n < 64 → t.perf.snaps.get n = { count := (s.perf.cnts.get n).count, ovf := bit s.perf.ovf n }) ∧
      t.perf.snapSpan = BitVec.ofNat 48 s.time.span ∧ t.perf.snapSeq = s.perf.snapSeq + 1 ∧
      t.perf.cnts = s.perf.cnts ∧ t.perf.ovf = s.perf.ovf ∧ t.perf.snapDue s.time.span = false) ∧
    (∀ w : Wr,
      let v := rwMerge psCfgRw w s.perf.psCfg
      let bad : Prop := bit s.perf.psCfg 0 = true ∧ changes (psCfgRw &&& ~~~ fm 0 1) psCfgRw w s.perf.psCfg = true
      (bad → ∃ t, exec (.perfPsCfgWrite w) s = .next t ∧ t.perf = { s.perf with psRefused := true }) ∧
      (¬ bad → ∃ t, exec (.perfPsCfgWrite w) s = .next t ∧ t.perf.psCfg = v ∧
        (bit s.perf.psCfg 0 = false → bit v 0 = true → t.perf.psWritten = 0 ∧ t.perf.psDropped = 0 ∧
          t.perf.psSkipped = 0))) ∧
    ∀ r : PsEnd, ((∀ o, o ∈ s.perf.psOpen → o.idx ≠ r.idx) → exec (.preciseSampleEntry r) s = .next s) ∧
      ∀ o, s.perf.psOpen.find? (fun z => z.idx == r.idx) = some o →
      let now := s.time.span * 524288 + r.at_.val
      let lat := now / 2048 - o.start / 2048
      let field := if r.abandoned then 0xFFFFFFFF else min lat 0xFFFFFFFF
      let entry : BitVec 256 := BitVec.ofNat 256 (bits s.perf.psCfg 8 10 + r.engine.toNat * 2 ^ 16 + o.unit * 2 ^ 24 +
        field * 2 ^ 32 + r.instr.toNat * 2 ^ 64 + r.addr.toNat * 2 ^ 128 + o.start / 524288 % 2 ^ 48 * 2 ^ 192 +
        o.start % 524288 / 2048 * 2 ^ 240 + (b2n s.untraceable + 2 * b2n s.perf.psDropFlag + 4 * b2n r.abandoned +
          8 * b2n (!r.abandoned && decide (0xFFFFFFFF < lat))) * 2 ^ 248)
      let ends (t : State) : Prop := ∀ z, z ∈ t.perf.psOpen ↔ z ∈ s.perf.psOpen ∧ z.idx ≠ r.idx
      (s.perf.psBuf.length < 4096 → ∃ t, exec (.preciseSampleEntry r) s = .next t ∧
        t.perf.psBuf = s.perf.psBuf ++ [{ bits := entry, at_ := now }] ∧ ends t ∧ t.perf.psDropFlag = false) ∧
      (4096 ≤ s.perf.psBuf.length → ∃ t, exec (.preciseSampleEntry r) s = .next t ∧ t.perf.psBuf = s.perf.psBuf ∧
        t.perf.psDropped = min (2 ^ 24 - 1) (s.perf.psDropped + 1) ∧ t.perf.psDropFlag = true ∧ ends t)

/-! ## Resets, power states, ticks and register writes -/

/-- Power-on reset and RESET_N (R357, R358, R508, R509, R539): every register at its reset value, whatever stood in it;
the configuration memory is kept. Boot begins once both are over, the rails are good and REF_IN is there (R503, R561);
it ends in Bring-up, or with auto_cal in Calibrate, with ceilings of at most 2,000 Mb/s (R439, R503). Requests of the SYS
block wait for the next tick (R510, R511, R540, R541). A wake ends in Ready, from Deep standby with the UI PLLs of
enabled octets locked (R53, R514). -/
def Obligations.ResetsAndRequests : Prop :=
  ∀ (s : State),
    let fresh (t : State) : Prop := t.sys.state = .reset ∧ t.sys.irqStatus = 0 ∧ t.sys.irqEnable = 0 ∧
      t.sys.disabled = 0 ∧ t.hqm = {} ∧ t.dram = {} ∧ t.vs = {} ∧ t.sites = [] ∧ t.barriers = [] ∧ t.octets = [] ∧
      t.pins = [] ∧ t.timing = {} ∧ t.cap = {} ∧ t.dds = {} ∧ t.halso = {} ∧ t.perf = {} ∧ t.time.span = 0 ∧
      t.time.offset = 0 ∧ t.time.epoch = 0 ∧ t.time.cfg = 0x0064000000000000 ∧ t.cal.cont = 0x5E ∧ t.cal.mode = .none ∧
      t.cfg = { flash := s.cfg.flash } ∧ t.host = s.host ∧ t.pending = s.pending
    let boots (por resetN rails ref : Bool) : DevState :=
      if s.sys.state = .reset ∧ por = false ∧ resetN = false ∧ rails = true ∧ ref = true then .boot else s.sys.state
    (∃ t, exec .powerOnReset s = .next t ∧ fresh t ∧ t.sys.por = true ∧ t.cal.sensors = []) ∧
    (∃ t, exec .resetNAssert s = .next t ∧ fresh t ∧ t.sys.resetN = true ∧
      (s.sys.por = false → ∀ i, (t.cal.sensors.get i).peak = (s.cal.sensors.get i).peak)) ∧
    (∃ t, exec .resetNDeassert s = .next t ∧ t.sys.resetN = false ∧
      t.sys.state = boots s.sys.por false s.sys.railsGood s.time.refPresent) ∧
    (s.sys.por = true → ∃ t, exec .powerOnResetEnd s = .next t ∧ t.sys.por = false ∧ t.time.refPresent = true ∧
      t.sys.state = boots false s.sys.resetN true true) ∧
    (∀ b : BootIn, s.sys.state = .boot → ∃ t, exec (.bootComplete b) s = .next t ∧
      t.sys.state = (if t.cal.autoCal then .calibrate else .bringUp) ∧ t.sys.alertHeld = false ∧
      (s.sys.softBoot = false → t.dram.enabled = b.dramOk) ∧ ∀ o, o < s.nOct → (t.octet o).ceiling ≤ 2000) ∧
    (s.blockOn true = true →
      (∃ t, exec .standbyRequest s = .next t ∧ t.sys = { s.sys with powerReq := 1 }) ∧
      (∃ t, exec .deepStandbyRequest s = .next t ∧ t.sys = { s.sys with powerReq := 2 }) ∧
      (∃ t, exec .wakeRequest s = .next t ∧ t.sys = { s.sys with powerReq := 3 }) ∧
      (∃ t, exec (.softResetRequest 0xD1) s = .next t ∧ t.sys = { s.sys with softReq := true }) ∧
      ∀ key : BitVec 8, key ≠ 0xD1 → exec (.softResetRequest key) s = .next s) ∧
    (s.sys.state ≠ .reset →
      (∃ t, exec .perstN s = .next t ∧ t.sys = { s.sys with pcieReq := true }) ∧
      ∃ t, exec .flr s = .next t ∧ t.sys = { s.sys with pcieReq := true }) ∧
    (s.sys.waking = true → ∃ t, exec .wakeComplete s = .next t ∧ t.sys.state = .ready ∧ t.sys.waking = false ∧
      (s.sys.state = .deepStandby → ∀ o, o < s.nOct → bit s.sys.disabled o = false → (t.octet o).locked = true)) ∧
    (s.sys.waking = false → exec .wakeComplete s = .next s)

/-- A tick after Reset counts the span, but the first one, and opens its allotment of dispatches (R28, R469); at it the
power request written last is tested (R511, R540) and a soft reset leads to Boot (R503, R541). An engine without renewal
for 4 spans running has its leases revoked, flagged, counted and raised; its first renewal ends that (R25, R485, R487). A
write of a register reaches it: read-write fields take the value, write-1-to-clear ones are cleared; a write of another
size changes nothing (R19, R21, R535). -/
def Obligations.TicksLeasesAndWrites : Prop :=
  ∀ (s : State),
    let s1 := countSpan s
    (∀ i : TickIn, s.sys.state ≠ .reset → ∃ t, exec (.spanTick i) s = .next t ∧
      t.time.span = (if s.time.ticked then s.time.span + 1 else s.time.span) ∧ t.hqm.dispatched = 0 ∧
      (s.sys.pcieReq = false → s.sys.softReq = false → s.sys.disTest = 0 →
        (s.sys.powerReq = 1 → t.sys.state = if s.sys.state = .ready ∧ s1.restOk = true then .standby else s.sys.state) ∧
        (s.sys.powerReq = 2 → t.sys.state =
          if (s.sys.state = .ready ∨ s.sys.state = .standby ∧ s.sys.waking = false) ∧ s1.restOk = true
          then .deepStandby else s.sys.state) ∧
        (s.sys.powerReq = 0 ∨ s.sys.powerReq = 3 → t.sys.state = s.sys.state)) ∧
      (s.sys.pcieReq = false → s.sys.softReq = true → t.sys.state = .boot)) ∧
    (∀ e : EngineId,
      (4 ≤ s.cal.missed.get e.val → s.cal.revoked.get e.val = false → ∃ t, exec (.leaseLapse e) s = .next t ∧
        t.cal.revoked.get e.val = true ∧ t.cal.missed.get e.val = 0 ∧ t.hqm.revEngine = BitVec.ofNat 7 e.val ∧
        t.hqm.revEvent = true ∧ t.hqm.revCount = min (2 ^ 32 - 1) (s.hqm.revCount + 1) ∧
        bit t.sys.irqStatus 17 = true) ∧
      (s.cal.missed.get e.val < 4 → exec (.leaseLapse e) s = .next s) ∧
      (s.cal.revoked.get e.val = true → ∃ t, exec (.engineFirstRenewal e) s = .next t ∧
        t.cal.revoked.get e.val = false ∧ t.cal.missed.get e.val = 0)) ∧
    ∀ v : W64,
      (s.blockOn true = true →
        (∃ t, exec (.registerWrite 0x0F0 8 v) s = .next t ∧ t.sys = { s.sys with scratch := v } ∧
          sameBut [.sys] s t) ∧
        (∃ t, exec (.registerWrite 0x040 4 v) s = .next t ∧
          t.sys = { s.sys with irqStatus := s.sys.irqStatus &&& ~~~ (BitVec.ofNat 20 v.toNat) } ∧ sameBut [.sys] s t) ∧
        (∃ t, exec (.registerWrite 0x048 4 v) s = .next t ∧
          t.sys = { s.sys with alertSel := BitVec.ofNat 20 v.toNat } ∧ sameBut [.sys] s t) ∧
        (∃ t, exec (.registerWrite 0xC0028 8 v) s = .next t ∧ t.time = { s.time with gain := v } ∧
          sameBut [.time] s t)) ∧
      ∀ (off : BitVec 22) (size : Nat), size ≠ 4 → size ≠ 8 → exec (.registerWrite off size v) s = .next s
end

