-- ==== Sys2Proof/Laws/Map.lean ====
section
/-!
SUPPORT. Laws of the sparse arrays and of the byte memories: what is read after a write, and that every
operation keeps the canonical form.
-/

namespace Sys2Proof.Machine

section Maps

variable {V : Type} [Inhabited V] [DecidableEq V]

/-- The canonical form as two facts. -/
theorem SMap.wf_iff (m : SMap V) :
    SMap.wf m = true ↔ (m.map Prod.fst).Pairwise (· < ·) ∧ ∀ e ∈ m, e.2 ≠ default := by
  simp [SMap.wf]

theorem SMap.wf_nil : SMap.wf ([] : SMap V) = true := by
  simp [SMap.wf]

theorem SMap.wf_filter (m : SMap V) (p : Nat × V → Bool) (h : SMap.wf m = true) :
    SMap.wf (m.filter p) = true := by
  rw [SMap.wf_iff] at *
  refine ⟨h.1.sublist (List.filter_sublist.map _), fun e he => h.2 e (List.mem_filter.mp he).1⟩

omit [Inhabited V] in
/-- A key of an insertion is the new one or an old one. -/
theorem SMap.mem_ins (n : Nat) (v : V) (m : SMap V) (e : Nat × V) :
    e ∈ SMap.ins n v m ↔ e = (n, v) ∨ e ∈ m := by
  induction m with
  | nil => simp [SMap.ins]
  | cons x xs ih =>
    obtain ⟨k, w⟩ := x
    simp only [SMap.ins]
    split
    · simp
    · simp only [List.mem_cons, ih]
      tauto

omit [Inhabited V] in
/-- An insertion of a new key keeps the keys rising. -/
theorem SMap.ins_sorted (n : Nat) (v : V) (m : SMap V) (h : (m.map Prod.fst).Pairwise (· < ·))
    (hn : ∀ e ∈ m, e.1 ≠ n) : ((SMap.ins n v m).map Prod.fst).Pairwise (· < ·) := by
  induction m with
  | nil => simp [SMap.ins]
  | cons x xs ih =>
    obtain ⟨k, w⟩ := x
    simp only [List.map_cons, List.pairwise_cons] at h
    simp only [SMap.ins]
    split
    next hk =>
      simp only [List.map_cons, List.pairwise_cons, List.mem_cons]
      refine ⟨fun a ha => ?_, h⟩
      rcases ha with rfl | ha
      · exact hk
      · exact lt_trans hk (h.1 a ha)
    next hk =>
      simp only [List.map_cons, List.pairwise_cons]
      refine ⟨fun a ha => ?_, ih h.2 fun e he => hn e (List.mem_cons_of_mem _ he)⟩
      obtain ⟨e, he, rfl⟩ := List.mem_map.mp ha
      rcases (SMap.mem_ins n v xs e).mp he with rfl | he
      · have := hn (k, w) (List.mem_cons_self ..)
        simp only at this ⊢
        omega
      · exact h.1 _ (List.mem_map_of_mem he)

/-- A write keeps the canonical form. -/
theorem SMap.wf_set (m : SMap V) (n : Nat) (v : V) (h : SMap.wf m = true) :
    SMap.wf (SMap.set m n v) = true := by
  have hf := SMap.wf_filter m (fun e => e.1 != n) h
  unfold SMap.set
  split
  · exact hf
  next hv =>
    rw [SMap.wf_iff] at *
    refine ⟨SMap.ins_sorted n v _ hf.1 fun e he => by simpa using (List.mem_filter.mp he).2, fun e he => ?_⟩
    rcases (SMap.mem_ins n v _ e).mp he with rfl | he
    · exact hv
    · exact hf.2 e he

/-- An element changed by a function keeps the canonical form. -/
theorem SMap.wf_mod (m : SMap V) (n : Nat) (f : V → V) (h : SMap.wf m = true) :
    SMap.wf (SMap.mod m n f) = true := SMap.wf_set m n _ h

/-- A change of every listed element lists no other index and no default. -/
theorem SMap.mem_mapAll (m : SMap V) (f : Nat → V → V) (e : Nat × V) (h : e ∈ SMap.mapAll m f) :
    e.1 ∈ m.map Prod.fst ∧ e.2 ≠ default := by
  induction m with
  | nil => simp [SMap.mapAll] at h
  | cons x xs ih =>
    obtain ⟨k, v⟩ := x
    simp only [SMap.mapAll] at h
    split at h
    · obtain ⟨h1, h2⟩ := ih (List.mem_filter.mp h).1
      exact ⟨List.mem_cons_of_mem _ h1, h2⟩
    next hv =>
      rcases List.mem_cons.mp h with rfl | h'
      · exact ⟨List.mem_cons_self .., hv⟩
      · obtain ⟨h1, h2⟩ := ih (List.mem_filter.mp h').1
        exact ⟨List.mem_cons_of_mem _ h1, h2⟩

/-- A change of every listed element keeps the canonical form. -/
theorem SMap.wf_mapAll (m : SMap V) (f : Nat → V → V) (h : SMap.wf m = true) :
    SMap.wf (SMap.mapAll m f) = true := by
  induction m with
  | nil => exact SMap.wf_nil
  | cons x xs ih =>
    obtain ⟨k, v⟩ := x
    obtain ⟨hs, hd⟩ := (SMap.wf_iff _).mp h
    obtain ⟨hk, hs'⟩ := List.pairwise_cons.mp hs
    have hr := SMap.wf_filter _ (fun e => e.1 != k)
      (ih ((SMap.wf_iff _).mpr ⟨hs', fun e he => hd e (List.mem_cons_of_mem _ he)⟩))
    simp only [SMap.mapAll]
    split
    · exact hr
    next hv =>
      rw [SMap.wf_iff] at hr ⊢
      refine ⟨List.pairwise_cons.mpr ⟨fun a ha => ?_, hr.1⟩, fun e he => ?_⟩
      · obtain ⟨e, he, rfl⟩ := List.mem_map.mp ha
        exact hk _ (SMap.mem_mapAll xs f e (List.mem_filter.mp he).1).1
      · rcases List.mem_cons.mp he with rfl | he
        · exact hv
        · exact hr.2 e he

omit [DecidableEq V] in
/-- Reading past an insertion of another index. -/
theorem SMap.get_ins_ne (m : SMap V) (n k : Nat) (v : V) (h : n ≠ k) :
    SMap.get (SMap.ins n v m) k = SMap.get m k := by
  induction m with
  | nil => simp [SMap.ins, SMap.get, h]
  | cons x xs ih =>
    obtain ⟨j, w⟩ := x
    simp only [SMap.ins]
    split
    · simp [SMap.get, h]
    · simp only [SMap.get, ih]

omit [DecidableEq V] in
/-- Reading an inserted index that was not listed. -/
theorem SMap.get_ins_eq (m : SMap V) (n : Nat) (v : V) (h : ∀ e ∈ m, e.1 ≠ n) :
    SMap.get (SMap.ins n v m) n = v := by
  induction m with
  | nil => simp [SMap.ins, SMap.get]
  | cons x xs ih =>
    obtain ⟨j, w⟩ := x
    simp only [SMap.ins]
    split
    · simp [SMap.get]
    · have hj : j ≠ n := h (j, w) (List.mem_cons_self ..)
      simp only [SMap.get, if_neg hj]
      exact ih fun e he => h e (List.mem_cons_of_mem _ he)

omit [DecidableEq V] in
/-- Reading an index that a filter keeps. -/
theorem SMap.get_filter (m : SMap V) (p : Nat → Bool) (k : Nat) :
    SMap.get (m.filter fun e => p e.1) k = if p k then SMap.get m k else default := by
  induction m with
  | nil => simp [SMap.get]
  | cons x xs ih =>
    obtain ⟨j, w⟩ := x
    by_cases hj : p j = true
    · simp only [List.filter_cons, hj, if_true, SMap.get, ih]
      by_cases hk : j = k
      · subst hk
        simp [hj]
      · simp [hk]
    · have hj' : p j = false := by simpa using hj
      simp only [List.filter_cons, hj', SMap.get, ih, Bool.false_eq_true, if_false]
      by_cases hk : j = k
      · subst hk
        simp [hj']
      · simp [hk]

/-- What a change of every listed element leaves at an index, where the default stays the default. -/
theorem SMap.get_mapAll (m : SMap V) (f : Nat → V → V) (n : Nat) (h : f n default = default) :
    SMap.get (SMap.mapAll m f) n = f n (SMap.get m n) := by
  induction m with
  | nil => simp [SMap.mapAll, SMap.get, h]
  | cons x xs ih =>
    obtain ⟨k, v⟩ := x
    have hf := SMap.get_filter (SMap.mapAll xs f) (fun j => j != k) n
    by_cases hk : k = n
    · subst hk
      simp only [bne_self_eq_false, Bool.false_eq_true, if_false] at hf
      simp only [SMap.mapAll]
      split
      next hv => rw [hf]; simp [SMap.get, hv]
      · simp [SMap.get]
    · have hn : (n != k) = true := by simpa using Ne.symm hk
      simp only [hn, if_true] at hf
      simp only [SMap.mapAll]
      split
      · rw [hf, ih]; simp [SMap.get, hk]
      · simp only [SMap.get, if_neg hk]; rw [hf, ih]

/-- A write is read back. -/
@[simp] theorem SMap.get_set_eq (m : SMap V) (n : Nat) (v : V) : SMap.get (SMap.set m n v) n = v := by
  unfold SMap.set
  split
  next hv =>
    have := SMap.get_filter m (fun k => k != n) n
    simp only [bne_self_eq_false, Bool.false_eq_true, if_false] at this
    rw [this, hv]
  · exact SMap.get_ins_eq _ n v fun e he => by simpa using (List.mem_filter.mp he).2

/-- A write leaves every other index alone. -/
theorem SMap.get_set_ne (m : SMap V) (n k : Nat) (v : V) (h : k ≠ n) :
    SMap.get (SMap.set m n v) k = SMap.get m k := by
  have hf := SMap.get_filter m (fun j => j != n) k
  have hk : (k != n) = true := by simpa using h
  simp only [hk, if_true] at hf
  unfold SMap.set
  split
  · exact hf
  · rw [SMap.get_ins_ne _ n k v (Ne.symm h)]
    exact hf

/-- What a write leaves at every index. -/
theorem SMap.get_set (m : SMap V) (n k : Nat) (v : V) :
    SMap.get (SMap.set m n v) k = if k = n then v else SMap.get m k := by
  split
  next h => subst h; simp
  next h => exact SMap.get_set_ne m n k v h

@[simp] theorem SMap.get_mod_eq (m : SMap V) (n : Nat) (f : V → V) :
    SMap.get (SMap.mod m n f) n = f (SMap.get m n) := SMap.get_set_eq m n _

theorem SMap.get_mod_ne (m : SMap V) (n k : Nat) (f : V → V) (h : k ≠ n) :
    SMap.get (SMap.mod m n f) k = SMap.get m k := SMap.get_set_ne m n k _ h

/-- What a change of one element leaves at every index. -/
theorem SMap.get_mod (m : SMap V) (n k : Nat) (f : V → V) :
    SMap.get (SMap.mod m n f) k = if k = n then f (SMap.get m n) else SMap.get m k := SMap.get_set m n k _

end Maps

/-! ## Byte memories -/

theorem Mem.wf_iff (m : Mem) :
    Mem.wf m = true ↔ (m.map Prod.fst).Pairwise (· < ·) ∧ ∀ e ∈ m, e.2 ≠ 0#8 := by
  unfold Mem.wf
  rw [SMap.wf_iff]
  rfl

theorem Mem.wf_nil : Mem.wf [] = true := by
  simp [Mem.wf_iff]

/-- The addresses of the cells of a string lie inside it. -/
theorem Mem.cells_bounds (a : Nat) (bs : List Byte) (e : Nat × Byte) (h : e ∈ Mem.cells a bs) :
    a ≤ e.1 ∧ e.1 < a + bs.length ∧ e.2 ≠ 0#8 := by
  induction bs generalizing a with
  | nil => simp [Mem.cells] at h
  | cons b bs ih =>
    simp only [Mem.cells] at h
    split at h
    · have := ih (a + 1) h
      simp only [List.length_cons]
      exact ⟨by omega, by omega, this.2.2⟩
    next hb =>
      rcases List.mem_cons.mp h with rfl | h
      · simp only [List.length_cons]
        exact ⟨le_refl _, by omega, hb⟩
      · have := ih (a + 1) h
        simp only [List.length_cons]
        exact ⟨by omega, by omega, this.2.2⟩

theorem Mem.cells_sorted (a : Nat) (bs : List Byte) : ((Mem.cells a bs).map Prod.fst).Pairwise (· < ·) := by
  induction bs generalizing a with
  | nil => simp [Mem.cells]
  | cons b bs ih =>
    simp only [Mem.cells]
    split
    · exact ih (a + 1)
    · simp only [List.map_cons, List.pairwise_cons]
      refine ⟨fun x hx => ?_, ih (a + 1)⟩
      obtain ⟨e, he, rfl⟩ := List.mem_map.mp hx
      have := Mem.cells_bounds (a + 1) bs e he
      omega

/-- Cells put between the cells below and above a range keep the canonical form. -/
theorem Mem.wf_splice (m c : Mem) (lo hi : Nat) (hm : Mem.wf m = true) (hlh : lo ≤ hi)
    (hs : (c.map Prod.fst).Pairwise (· < ·)) (hc : ∀ e ∈ c, lo ≤ e.1 ∧ e.1 < hi ∧ e.2 ≠ 0#8) :
    Mem.wf ((m.filter fun e => decide (e.1 < lo)) ++ c ++ m.filter fun e => decide (hi ≤ e.1)) = true := by
  rw [Mem.wf_iff] at *
  constructor
  · simp only [List.map_append, List.pairwise_append]
    refine ⟨⟨hm.1.sublist (List.filter_sublist.map _), hs, ?_⟩, hm.1.sublist (List.filter_sublist.map _), ?_⟩
    · intro a ha b hb
      obtain ⟨x, hx, rfl⟩ := List.mem_map.mp ha
      obtain ⟨y, hy, rfl⟩ := List.mem_map.mp hb
      have h1 := (List.mem_filter.mp hx).2
      have h2 := hc y hy
      simp only [decide_eq_true_eq] at h1
      omega
    · intro a ha b hb
      obtain ⟨y, hy, rfl⟩ := List.mem_map.mp hb
      have h2 := (List.mem_filter.mp hy).2
      simp only [decide_eq_true_eq] at h2
      rcases List.mem_append.mp ha with ha | ha
      · obtain ⟨x, hx, rfl⟩ := List.mem_map.mp ha
        have h1 := (List.mem_filter.mp hx).2
        simp only [decide_eq_true_eq] at h1
        omega
      · obtain ⟨x, hx, rfl⟩ := List.mem_map.mp ha
        have h1 := hc x hx
        omega
  · intro e he
    rcases List.mem_append.mp he with he | he
    · rcases List.mem_append.mp he with he | he
      · exact hm.2 e (List.mem_filter.mp he).1
      · exact (hc e he).2.2
    · exact hm.2 e (List.mem_filter.mp he).1

/-- A string stored keeps the canonical form. -/
theorem Mem.wf_store (m : Mem) (a : Nat) (bs : List Byte) (h : Mem.wf m = true) :
    Mem.wf (Mem.store m a bs) = true :=
  Mem.wf_splice m _ a (a + bs.length) h (by omega) (Mem.cells_sorted a bs) (Mem.cells_bounds a bs)

/-- A range cleared keeps the canonical form. -/
theorem Mem.wf_clear (m : Mem) (a n : Nat) (h : Mem.wf m = true) : Mem.wf (Mem.clear m a n) = true :=
  SMap.wf_filter (V := Byte) m _ h

/-- A range copied from a canonical memory keeps the canonical form. -/
theorem Mem.wf_copyTo (src dst : Mem) (sa n da : Nat) (hs : Mem.wf src = true) (hd : Mem.wf dst = true) :
    Mem.wf (Mem.copyTo src sa n dst da) = true := by
  have hs' := (Mem.wf_iff src).mp hs
  refine Mem.wf_splice dst _ da (da + n) hd (by omega) ?_ ?_
  · simp only [List.map_map]
    have h1 : ((src.filter fun e => decide (sa ≤ e.1) && decide (e.1 < sa + n)).map Prod.fst).Pairwise (· < ·) :=
      hs'.1.sublist (List.filter_sublist.map _)
    rw [List.pairwise_map] at h1 ⊢
    refine h1.imp_of_mem fun {x y} hx hy hxy => ?_
    have h2 := (List.mem_filter.mp hx).2
    simp only [Bool.and_eq_true, decide_eq_true_eq] at h2
    simp only [Function.comp]
    omega
  · intro e he
    obtain ⟨x, hx, rfl⟩ := List.mem_map.mp he
    have h2 := (List.mem_filter.mp hx).2
    simp only [Bool.and_eq_true, decide_eq_true_eq] at h2
    exact ⟨by simp only; omega, by simp only; omega, hs'.2 x (List.mem_filter.mp hx).1⟩

/-- Reading a memory put together from two. -/
theorem Mem.byte_append (m c : Mem) (a : Nat) :
    Mem.byte (m ++ c) a = if a ∈ m.map Prod.fst then Mem.byte m a else Mem.byte c a := by
  unfold Mem.byte
  induction m with
  | nil => simp
  | cons x xs ih =>
    obtain ⟨k, v⟩ := x
    simp only [List.cons_append, SMap.get, List.map_cons, List.mem_cons]
    by_cases hk : k = a
    · simp [hk]
    · have hk' : a ≠ k := fun h => hk h.symm
      simp only [if_neg hk, hk', false_or]
      exact ih

/-- An address with no cell reads zero. -/
theorem Mem.byte_of_not_mem (m : Mem) (a : Nat) (h : a ∉ m.map Prod.fst) : Mem.byte m a = 0#8 := by
  unfold Mem.byte
  induction m with
  | nil => rfl
  | cons x xs ih =>
    obtain ⟨k, v⟩ := x
    simp only [List.map_cons, List.mem_cons, not_or] at h
    simp only [SMap.get, if_neg (fun hk : k = a => h.1 hk.symm)]
    exact ih h.2

/-- A byte of the cells of a string. -/
theorem Mem.byte_cells (a : Nat) (bs : List Byte) (i : Nat) (h : i < bs.length) :
    Mem.byte (Mem.cells a bs) (a + i) = bs[i] := by
  induction bs generalizing a i with
  | nil => simp at h
  | cons b bs ih =>
    cases i with
    | zero =>
      simp only [Mem.cells, Nat.add_zero, List.getElem_cons_zero]
      split
      next hb =>
        rw [hb]
        refine Mem.byte_of_not_mem _ _ fun hm => ?_
        obtain ⟨e, he, h1⟩ := List.mem_map.mp hm
        have := Mem.cells_bounds (a + 1) bs e he
        omega
      · simp [Mem.byte, SMap.get]
    | succ i =>
      have h' : i < bs.length := by simpa using h
      have := ih (a + 1) i h'
      have e1 : a + 1 + i = a + (i + 1) := by omega
      simp only [Mem.cells, List.getElem_cons_succ]
      rw [e1] at this
      split
      · exact this
      · have ne : a ≠ a + (i + 1) := by omega
        simpa [Mem.byte, SMap.get, ne] using this

/-- A byte outside a stored string reads as before. -/
theorem Mem.byte_store_out (m : Mem) (a : Nat) (bs : List Byte) (x : Nat) (h : x < a ∨ a + bs.length ≤ x) :
    Mem.byte (Mem.store m a bs) x = Mem.byte m x := by
  have hc : x ∉ (Mem.cells a bs).map Prod.fst := fun hm => by
    obtain ⟨e, he, h1⟩ := List.mem_map.mp hm
    have := Mem.cells_bounds a bs e he
    omega
  have g1 := SMap.get_filter (V := Byte) m (fun k => decide (k < a)) x
  have g2 := SMap.get_filter (V := Byte) m (fun k => decide (a + bs.length ≤ k)) x
  unfold Mem.store
  rw [Mem.byte_append, Mem.byte_append]
  simp only [List.map_append, List.mem_append, hc, or_false]
  rcases h with h | h
  · split
    · rw [Mem.byte, Mem.byte]
      simpa [h] using g1
    next hn =>
      have n2 : ¬ a + bs.length ≤ x := by omega
      have e2 : Mem.byte (m.filter fun e => decide (a + bs.length ≤ e.1)) x = 0#8 := by
        simp only [decide_eq_true_eq, if_neg n2] at g2
        exact g2
      have e1 := Mem.byte_of_not_mem _ _ hn
      rw [Mem.byte] at e1
      rw [e2, Mem.byte]
      simpa [h] using e1.symm.trans g1
  · have n1 : x ∉ (m.filter fun e => decide (e.1 < a)).map Prod.fst := fun hm => by
      obtain ⟨e, he, h1⟩ := List.mem_map.mp hm
      have := (List.mem_filter.mp he).2
      simp only [decide_eq_true_eq] at this
      omega
    rw [if_neg n1, Mem.byte, Mem.byte]
    simpa [h] using g2

/-- A stored string is read back. -/
theorem Mem.byte_store_in (m : Mem) (a : Nat) (bs : List Byte) (i : Nat) (h : i < bs.length) :
    Mem.byte (Mem.store m a bs) (a + i) = bs[i] := by
  have n1 : a + i ∉ (m.filter fun e => decide (e.1 < a)).map Prod.fst := fun hm => by
    obtain ⟨e, he, h1⟩ := List.mem_map.mp hm
    have := (List.mem_filter.mp he).2
    simp only [decide_eq_true_eq] at this
    omega
  have n2 : ¬ (a + bs.length ≤ a + i) := by omega
  have g2 := SMap.get_filter (V := Byte) m (fun k => decide (a + bs.length ≤ k)) (a + i)
  have e2 : Mem.byte (m.filter fun e => decide (a + bs.length ≤ e.1)) (a + i) = 0#8 := by
    simp only [decide_eq_true_eq, if_neg n2] at g2
    exact g2
  have hb := Mem.byte_cells a bs i h
  unfold Mem.store
  rw [Mem.byte_append, Mem.byte_append]
  simp only [List.map_append, List.mem_append, n1, false_or, if_false]
  split
  · exact hb
  next hn =>
    rw [e2, ← hb]
    exact (Mem.byte_of_not_mem _ _ hn).symm

/-- A byte outside a cleared range reads as before, one inside reads zero. -/
theorem Mem.byte_clear (m : Mem) (a n x : Nat) :
    Mem.byte (Mem.clear m a n) x = if x < a ∨ a + n ≤ x then Mem.byte m x else 0#8 := by
  have g := SMap.get_filter (V := Byte) m (fun k => decide (k < a) || decide (a + n ≤ k)) x
  unfold Mem.byte Mem.clear
  rw [g]
  simp only [Bool.or_eq_true, decide_eq_true_eq]
  rfl

end Sys2Proof.Machine
end

