-- ==== Sys2Proof/Laws/State.lean ====
section
/-!
SUPPORT. One lemma per field per update of State, and the indexed views of the indexed updates.
-/

namespace Sys2Proof.Machine

@[simp] theorem modSys_sys (f : Sys → Sys) (s : State) : (modSys f s).sys = f s.sys := rfl
@[simp] theorem modSys_hqm (f : Sys → Sys) (s : State) : (modSys f s).hqm = s.hqm := rfl
@[simp] theorem modSys_dram (f : Sys → Sys) (s : State) : (modSys f s).dram = s.dram := rfl
@[simp] theorem modSys_vs (f : Sys → Sys) (s : State) : (modSys f s).vs = s.vs := rfl
@[simp] theorem modSys_sites (f : Sys → Sys) (s : State) : (modSys f s).sites = s.sites := rfl
@[simp] theorem modSys_barriers (f : Sys → Sys) (s : State) : (modSys f s).barriers = s.barriers := rfl
@[simp] theorem modSys_octets (f : Sys → Sys) (s : State) : (modSys f s).octets = s.octets := rfl
@[simp] theorem modSys_pins (f : Sys → Sys) (s : State) : (modSys f s).pins = s.pins := rfl
@[simp] theorem modSys_timing (f : Sys → Sys) (s : State) : (modSys f s).timing = s.timing := rfl
@[simp] theorem modSys_cap (f : Sys → Sys) (s : State) : (modSys f s).cap = s.cap := rfl
@[simp] theorem modSys_dds (f : Sys → Sys) (s : State) : (modSys f s).dds = s.dds := rfl
@[simp] theorem modSys_time (f : Sys → Sys) (s : State) : (modSys f s).time = s.time := rfl
@[simp] theorem modSys_halso (f : Sys → Sys) (s : State) : (modSys f s).halso = s.halso := rfl
@[simp] theorem modSys_cal (f : Sys → Sys) (s : State) : (modSys f s).cal = s.cal := rfl
@[simp] theorem modSys_perf (f : Sys → Sys) (s : State) : (modSys f s).perf = s.perf := rfl
@[simp] theorem modSys_cfg (f : Sys → Sys) (s : State) : (modSys f s).cfg = s.cfg := rfl
@[simp] theorem modSys_host (f : Sys → Sys) (s : State) : (modSys f s).host = s.host := rfl
@[simp] theorem modSys_out (f : Sys → Sys) (s : State) : (modSys f s).out = s.out := rfl
@[simp] theorem modSys_free (f : Sys → Sys) (s : State) : (modSys f s).free = s.free := rfl
@[simp] theorem modSys_pending (f : Sys → Sys) (s : State) : (modSys f s).pending = s.pending := rfl

@[simp] theorem modHqm_sys (f : Hqm → Hqm) (s : State) : (modHqm f s).sys = s.sys := rfl
@[simp] theorem modHqm_hqm (f : Hqm → Hqm) (s : State) : (modHqm f s).hqm = f s.hqm := rfl
@[simp] theorem modHqm_dram (f : Hqm → Hqm) (s : State) : (modHqm f s).dram = s.dram := rfl
@[simp] theorem modHqm_vs (f : Hqm → Hqm) (s : State) : (modHqm f s).vs = s.vs := rfl
@[simp] theorem modHqm_sites (f : Hqm → Hqm) (s : State) : (modHqm f s).sites = s.sites := rfl
@[simp] theorem modHqm_barriers (f : Hqm → Hqm) (s : State) : (modHqm f s).barriers = s.barriers := rfl
@[simp] theorem modHqm_octets (f : Hqm → Hqm) (s : State) : (modHqm f s).octets = s.octets := rfl
@[simp] theorem modHqm_pins (f : Hqm → Hqm) (s : State) : (modHqm f s).pins = s.pins := rfl
@[simp] theorem modHqm_timing (f : Hqm → Hqm) (s : State) : (modHqm f s).timing = s.timing := rfl
@[simp] theorem modHqm_cap (f : Hqm → Hqm) (s : State) : (modHqm f s).cap = s.cap := rfl
@[simp] theorem modHqm_dds (f : Hqm → Hqm) (s : State) : (modHqm f s).dds = s.dds := rfl
@[simp] theorem modHqm_time (f : Hqm → Hqm) (s : State) : (modHqm f s).time = s.time := rfl
@[simp] theorem modHqm_halso (f : Hqm → Hqm) (s : State) : (modHqm f s).halso = s.halso := rfl
@[simp] theorem modHqm_cal (f : Hqm → Hqm) (s : State) : (modHqm f s).cal = s.cal := rfl
@[simp] theorem modHqm_perf (f : Hqm → Hqm) (s : State) : (modHqm f s).perf = s.perf := rfl
@[simp] theorem modHqm_cfg (f : Hqm → Hqm) (s : State) : (modHqm f s).cfg = s.cfg := rfl
@[simp] theorem modHqm_host (f : Hqm → Hqm) (s : State) : (modHqm f s).host = s.host := rfl
@[simp] theorem modHqm_out (f : Hqm → Hqm) (s : State) : (modHqm f s).out = s.out := rfl
@[simp] theorem modHqm_free (f : Hqm → Hqm) (s : State) : (modHqm f s).free = s.free := rfl
@[simp] theorem modHqm_pending (f : Hqm → Hqm) (s : State) : (modHqm f s).pending = s.pending := rfl

@[simp] theorem modTime_sys (f : Time → Time) (s : State) : (modTime f s).sys = s.sys := rfl
@[simp] theorem modTime_hqm (f : Time → Time) (s : State) : (modTime f s).hqm = s.hqm := rfl
@[simp] theorem modTime_dram (f : Time → Time) (s : State) : (modTime f s).dram = s.dram := rfl
@[simp] theorem modTime_vs (f : Time → Time) (s : State) : (modTime f s).vs = s.vs := rfl
@[simp] theorem modTime_sites (f : Time → Time) (s : State) : (modTime f s).sites = s.sites := rfl
@[simp] theorem modTime_barriers (f : Time → Time) (s : State) : (modTime f s).barriers = s.barriers := rfl
@[simp] theorem modTime_octets (f : Time → Time) (s : State) : (modTime f s).octets = s.octets := rfl
@[simp] theorem modTime_pins (f : Time → Time) (s : State) : (modTime f s).pins = s.pins := rfl
@[simp] theorem modTime_timing (f : Time → Time) (s : State) : (modTime f s).timing = s.timing := rfl
@[simp] theorem modTime_cap (f : Time → Time) (s : State) : (modTime f s).cap = s.cap := rfl
@[simp] theorem modTime_dds (f : Time → Time) (s : State) : (modTime f s).dds = s.dds := rfl
@[simp] theorem modTime_time (f : Time → Time) (s : State) : (modTime f s).time = f s.time := rfl
@[simp] theorem modTime_halso (f : Time → Time) (s : State) : (modTime f s).halso = s.halso := rfl
@[simp] theorem modTime_cal (f : Time → Time) (s : State) : (modTime f s).cal = s.cal := rfl
@[simp] theorem modTime_perf (f : Time → Time) (s : State) : (modTime f s).perf = s.perf := rfl
@[simp] theorem modTime_cfg (f : Time → Time) (s : State) : (modTime f s).cfg = s.cfg := rfl
@[simp] theorem modTime_host (f : Time → Time) (s : State) : (modTime f s).host = s.host := rfl
@[simp] theorem modTime_out (f : Time → Time) (s : State) : (modTime f s).out = s.out := rfl
@[simp] theorem modTime_free (f : Time → Time) (s : State) : (modTime f s).free = s.free := rfl
@[simp] theorem modTime_pending (f : Time → Time) (s : State) : (modTime f s).pending = s.pending := rfl

@[simp] theorem modVs_sys (f : Vstore → Vstore) (s : State) : (modVs f s).sys = s.sys := rfl
@[simp] theorem modVs_hqm (f : Vstore → Vstore) (s : State) : (modVs f s).hqm = s.hqm := rfl
@[simp] theorem modVs_dram (f : Vstore → Vstore) (s : State) : (modVs f s).dram = s.dram := rfl
@[simp] theorem modVs_vs (f : Vstore → Vstore) (s : State) : (modVs f s).vs = f s.vs := rfl
@[simp] theorem modVs_sites (f : Vstore → Vstore) (s : State) : (modVs f s).sites = s.sites := rfl
@[simp] theorem modVs_barriers (f : Vstore → Vstore) (s : State) : (modVs f s).barriers = s.barriers := rfl
@[simp] theorem modVs_octets (f : Vstore → Vstore) (s : State) : (modVs f s).octets = s.octets := rfl
@[simp] theorem modVs_pins (f : Vstore → Vstore) (s : State) : (modVs f s).pins = s.pins := rfl
@[simp] theorem modVs_timing (f : Vstore → Vstore) (s : State) : (modVs f s).timing = s.timing := rfl
@[simp] theorem modVs_cap (f : Vstore → Vstore) (s : State) : (modVs f s).cap = s.cap := rfl
@[simp] theorem modVs_dds (f : Vstore → Vstore) (s : State) : (modVs f s).dds = s.dds := rfl
@[simp] theorem modVs_time (f : Vstore → Vstore) (s : State) : (modVs f s).time = s.time := rfl
@[simp] theorem modVs_halso (f : Vstore → Vstore) (s : State) : (modVs f s).halso = s.halso := rfl
@[simp] theorem modVs_cal (f : Vstore → Vstore) (s : State) : (modVs f s).cal = s.cal := rfl
@[simp] theorem modVs_perf (f : Vstore → Vstore) (s : State) : (modVs f s).perf = s.perf := rfl
@[simp] theorem modVs_cfg (f : Vstore → Vstore) (s : State) : (modVs f s).cfg = s.cfg := rfl
@[simp] theorem modVs_host (f : Vstore → Vstore) (s : State) : (modVs f s).host = s.host := rfl
@[simp] theorem modVs_out (f : Vstore → Vstore) (s : State) : (modVs f s).out = s.out := rfl
@[simp] theorem modVs_free (f : Vstore → Vstore) (s : State) : (modVs f s).free = s.free := rfl
@[simp] theorem modVs_pending (f : Vstore → Vstore) (s : State) : (modVs f s).pending = s.pending := rfl

@[simp] theorem modDram_sys (f : Dram → Dram) (s : State) : (modDram f s).sys = s.sys := rfl
@[simp] theorem modDram_hqm (f : Dram → Dram) (s : State) : (modDram f s).hqm = s.hqm := rfl
@[simp] theorem modDram_dram (f : Dram → Dram) (s : State) : (modDram f s).dram = f s.dram := rfl
@[simp] theorem modDram_vs (f : Dram → Dram) (s : State) : (modDram f s).vs = s.vs := rfl
@[simp] theorem modDram_sites (f : Dram → Dram) (s : State) : (modDram f s).sites = s.sites := rfl
@[simp] theorem modDram_barriers (f : Dram → Dram) (s : State) : (modDram f s).barriers = s.barriers := rfl
@[simp] theorem modDram_octets (f : Dram → Dram) (s : State) : (modDram f s).octets = s.octets := rfl
@[simp] theorem modDram_pins (f : Dram → Dram) (s : State) : (modDram f s).pins = s.pins := rfl
@[simp] theorem modDram_timing (f : Dram → Dram) (s : State) : (modDram f s).timing = s.timing := rfl
@[simp] theorem modDram_cap (f : Dram → Dram) (s : State) : (modDram f s).cap = s.cap := rfl
@[simp] theorem modDram_dds (f : Dram → Dram) (s : State) : (modDram f s).dds = s.dds := rfl
@[simp] theorem modDram_time (f : Dram → Dram) (s : State) : (modDram f s).time = s.time := rfl
@[simp] theorem modDram_halso (f : Dram → Dram) (s : State) : (modDram f s).halso = s.halso := rfl
@[simp] theorem modDram_cal (f : Dram → Dram) (s : State) : (modDram f s).cal = s.cal := rfl
@[simp] theorem modDram_perf (f : Dram → Dram) (s : State) : (modDram f s).perf = s.perf := rfl
@[simp] theorem modDram_cfg (f : Dram → Dram) (s : State) : (modDram f s).cfg = s.cfg := rfl
@[simp] theorem modDram_host (f : Dram → Dram) (s : State) : (modDram f s).host = s.host := rfl
@[simp] theorem modDram_out (f : Dram → Dram) (s : State) : (modDram f s).out = s.out := rfl
@[simp] theorem modDram_free (f : Dram → Dram) (s : State) : (modDram f s).free = s.free := rfl
@[simp] theorem modDram_pending (f : Dram → Dram) (s : State) : (modDram f s).pending = s.pending := rfl

@[simp] theorem modCal_sys (f : Cal → Cal) (s : State) : (modCal f s).sys = s.sys := rfl
@[simp] theorem modCal_hqm (f : Cal → Cal) (s : State) : (modCal f s).hqm = s.hqm := rfl
@[simp] theorem modCal_dram (f : Cal → Cal) (s : State) : (modCal f s).dram = s.dram := rfl
@[simp] theorem modCal_vs (f : Cal → Cal) (s : State) : (modCal f s).vs = s.vs := rfl
@[simp] theorem modCal_sites (f : Cal → Cal) (s : State) : (modCal f s).sites = s.sites := rfl
@[simp] theorem modCal_barriers (f : Cal → Cal) (s : State) : (modCal f s).barriers = s.barriers := rfl
@[simp] theorem modCal_octets (f : Cal → Cal) (s : State) : (modCal f s).octets = s.octets := rfl
@[simp] theorem modCal_pins (f : Cal → Cal) (s : State) : (modCal f s).pins = s.pins := rfl
@[simp] theorem modCal_timing (f : Cal → Cal) (s : State) : (modCal f s).timing = s.timing := rfl
@[simp] theorem modCal_cap (f : Cal → Cal) (s : State) : (modCal f s).cap = s.cap := rfl
@[simp] theorem modCal_dds (f : Cal → Cal) (s : State) : (modCal f s).dds = s.dds := rfl
@[simp] theorem modCal_time (f : Cal → Cal) (s : State) : (modCal f s).time = s.time := rfl
@[simp] theorem modCal_halso (f : Cal → Cal) (s : State) : (modCal f s).halso = s.halso := rfl
@[simp] theorem modCal_cal (f : Cal → Cal) (s : State) : (modCal f s).cal = f s.cal := rfl
@[simp] theorem modCal_perf (f : Cal → Cal) (s : State) : (modCal f s).perf = s.perf := rfl
@[simp] theorem modCal_cfg (f : Cal → Cal) (s : State) : (modCal f s).cfg = s.cfg := rfl
@[simp] theorem modCal_host (f : Cal → Cal) (s : State) : (modCal f s).host = s.host := rfl
@[simp] theorem modCal_out (f : Cal → Cal) (s : State) : (modCal f s).out = s.out := rfl
@[simp] theorem modCal_free (f : Cal → Cal) (s : State) : (modCal f s).free = s.free := rfl
@[simp] theorem modCal_pending (f : Cal → Cal) (s : State) : (modCal f s).pending = s.pending := rfl

@[simp] theorem modHalso_sys (f : Halso → Halso) (s : State) : (modHalso f s).sys = s.sys := rfl
@[simp] theorem modHalso_hqm (f : Halso → Halso) (s : State) : (modHalso f s).hqm = s.hqm := rfl
@[simp] theorem modHalso_dram (f : Halso → Halso) (s : State) : (modHalso f s).dram = s.dram := rfl
@[simp] theorem modHalso_vs (f : Halso → Halso) (s : State) : (modHalso f s).vs = s.vs := rfl
@[simp] theorem modHalso_sites (f : Halso → Halso) (s : State) : (modHalso f s).sites = s.sites := rfl
@[simp] theorem modHalso_barriers (f : Halso → Halso) (s : State) : (modHalso f s).barriers = s.barriers := rfl
@[simp] theorem modHalso_octets (f : Halso → Halso) (s : State) : (modHalso f s).octets = s.octets := rfl
@[simp] theorem modHalso_pins (f : Halso → Halso) (s : State) : (modHalso f s).pins = s.pins := rfl
@[simp] theorem modHalso_timing (f : Halso → Halso) (s : State) : (modHalso f s).timing = s.timing := rfl
@[simp] theorem modHalso_cap (f : Halso → Halso) (s : State) : (modHalso f s).cap = s.cap := rfl
@[simp] theorem modHalso_dds (f : Halso → Halso) (s : State) : (modHalso f s).dds = s.dds := rfl
@[simp] theorem modHalso_time (f : Halso → Halso) (s : State) : (modHalso f s).time = s.time := rfl
@[simp] theorem modHalso_halso (f : Halso → Halso) (s : State) : (modHalso f s).halso = f s.halso := rfl
@[simp] theorem modHalso_cal (f : Halso → Halso) (s : State) : (modHalso f s).cal = s.cal := rfl
@[simp] theorem modHalso_perf (f : Halso → Halso) (s : State) : (modHalso f s).perf = s.perf := rfl
@[simp] theorem modHalso_cfg (f : Halso → Halso) (s : State) : (modHalso f s).cfg = s.cfg := rfl
@[simp] theorem modHalso_host (f : Halso → Halso) (s : State) : (modHalso f s).host = s.host := rfl
@[simp] theorem modHalso_out (f : Halso → Halso) (s : State) : (modHalso f s).out = s.out := rfl
@[simp] theorem modHalso_free (f : Halso → Halso) (s : State) : (modHalso f s).free = s.free := rfl
@[simp] theorem modHalso_pending (f : Halso → Halso) (s : State) : (modHalso f s).pending = s.pending := rfl

@[simp] theorem modPerf_sys (f : Perf → Perf) (s : State) : (modPerf f s).sys = s.sys := rfl
@[simp] theorem modPerf_hqm (f : Perf → Perf) (s : State) : (modPerf f s).hqm = s.hqm := rfl
@[simp] theorem modPerf_dram (f : Perf → Perf) (s : State) : (modPerf f s).dram = s.dram := rfl
@[simp] theorem modPerf_vs (f : Perf → Perf) (s : State) : (modPerf f s).vs = s.vs := rfl
@[simp] theorem modPerf_sites (f : Perf → Perf) (s : State) : (modPerf f s).sites = s.sites := rfl
@[simp] theorem modPerf_barriers (f : Perf → Perf) (s : State) : (modPerf f s).barriers = s.barriers := rfl
@[simp] theorem modPerf_octets (f : Perf → Perf) (s : State) : (modPerf f s).octets = s.octets := rfl
@[simp] theorem modPerf_pins (f : Perf → Perf) (s : State) : (modPerf f s).pins = s.pins := rfl
@[simp] theorem modPerf_timing (f : Perf → Perf) (s : State) : (modPerf f s).timing = s.timing := rfl
@[simp] theorem modPerf_cap (f : Perf → Perf) (s : State) : (modPerf f s).cap = s.cap := rfl
@[simp] theorem modPerf_dds (f : Perf → Perf) (s : State) : (modPerf f s).dds = s.dds := rfl
@[simp] theorem modPerf_time (f : Perf → Perf) (s : State) : (modPerf f s).time = s.time := rfl
@[simp] theorem modPerf_halso (f : Perf → Perf) (s : State) : (modPerf f s).halso = s.halso := rfl
@[simp] theorem modPerf_cal (f : Perf → Perf) (s : State) : (modPerf f s).cal = s.cal := rfl
@[simp] theorem modPerf_perf (f : Perf → Perf) (s : State) : (modPerf f s).perf = f s.perf := rfl
@[simp] theorem modPerf_cfg (f : Perf → Perf) (s : State) : (modPerf f s).cfg = s.cfg := rfl
@[simp] theorem modPerf_host (f : Perf → Perf) (s : State) : (modPerf f s).host = s.host := rfl
@[simp] theorem modPerf_out (f : Perf → Perf) (s : State) : (modPerf f s).out = s.out := rfl
@[simp] theorem modPerf_free (f : Perf → Perf) (s : State) : (modPerf f s).free = s.free := rfl
@[simp] theorem modPerf_pending (f : Perf → Perf) (s : State) : (modPerf f s).pending = s.pending := rfl

@[simp] theorem modCap_sys (f : Cap → Cap) (s : State) : (modCap f s).sys = s.sys := rfl
@[simp] theorem modCap_hqm (f : Cap → Cap) (s : State) : (modCap f s).hqm = s.hqm := rfl
@[simp] theorem modCap_dram (f : Cap → Cap) (s : State) : (modCap f s).dram = s.dram := rfl
@[simp] theorem modCap_vs (f : Cap → Cap) (s : State) : (modCap f s).vs = s.vs := rfl
@[simp] theorem modCap_sites (f : Cap → Cap) (s : State) : (modCap f s).sites = s.sites := rfl
@[simp] theorem modCap_barriers (f : Cap → Cap) (s : State) : (modCap f s).barriers = s.barriers := rfl
@[simp] theorem modCap_octets (f : Cap → Cap) (s : State) : (modCap f s).octets = s.octets := rfl
@[simp] theorem modCap_pins (f : Cap → Cap) (s : State) : (modCap f s).pins = s.pins := rfl
@[simp] theorem modCap_timing (f : Cap → Cap) (s : State) : (modCap f s).timing = s.timing := rfl
@[simp] theorem modCap_cap (f : Cap → Cap) (s : State) : (modCap f s).cap = f s.cap := rfl
@[simp] theorem modCap_dds (f : Cap → Cap) (s : State) : (modCap f s).dds = s.dds := rfl
@[simp] theorem modCap_time (f : Cap → Cap) (s : State) : (modCap f s).time = s.time := rfl
@[simp] theorem modCap_halso (f : Cap → Cap) (s : State) : (modCap f s).halso = s.halso := rfl
@[simp] theorem modCap_cal (f : Cap → Cap) (s : State) : (modCap f s).cal = s.cal := rfl
@[simp] theorem modCap_perf (f : Cap → Cap) (s : State) : (modCap f s).perf = s.perf := rfl
@[simp] theorem modCap_cfg (f : Cap → Cap) (s : State) : (modCap f s).cfg = s.cfg := rfl
@[simp] theorem modCap_host (f : Cap → Cap) (s : State) : (modCap f s).host = s.host := rfl
@[simp] theorem modCap_out (f : Cap → Cap) (s : State) : (modCap f s).out = s.out := rfl
@[simp] theorem modCap_free (f : Cap → Cap) (s : State) : (modCap f s).free = s.free := rfl
@[simp] theorem modCap_pending (f : Cap → Cap) (s : State) : (modCap f s).pending = s.pending := rfl

@[simp] theorem modCfg_sys (f : Cfg → Cfg) (s : State) : (modCfg f s).sys = s.sys := rfl
@[simp] theorem modCfg_hqm (f : Cfg → Cfg) (s : State) : (modCfg f s).hqm = s.hqm := rfl
@[simp] theorem modCfg_dram (f : Cfg → Cfg) (s : State) : (modCfg f s).dram = s.dram := rfl
@[simp] theorem modCfg_vs (f : Cfg → Cfg) (s : State) : (modCfg f s).vs = s.vs := rfl
@[simp] theorem modCfg_sites (f : Cfg → Cfg) (s : State) : (modCfg f s).sites = s.sites := rfl
@[simp] theorem modCfg_barriers (f : Cfg → Cfg) (s : State) : (modCfg f s).barriers = s.barriers := rfl
@[simp] theorem modCfg_octets (f : Cfg → Cfg) (s : State) : (modCfg f s).octets = s.octets := rfl
@[simp] theorem modCfg_pins (f : Cfg → Cfg) (s : State) : (modCfg f s).pins = s.pins := rfl
@[simp] theorem modCfg_timing (f : Cfg → Cfg) (s : State) : (modCfg f s).timing = s.timing := rfl
@[simp] theorem modCfg_cap (f : Cfg → Cfg) (s : State) : (modCfg f s).cap = s.cap := rfl
@[simp] theorem modCfg_dds (f : Cfg → Cfg) (s : State) : (modCfg f s).dds = s.dds := rfl
@[simp] theorem modCfg_time (f : Cfg → Cfg) (s : State) : (modCfg f s).time = s.time := rfl
@[simp] theorem modCfg_halso (f : Cfg → Cfg) (s : State) : (modCfg f s).halso = s.halso := rfl
@[simp] theorem modCfg_cal (f : Cfg → Cfg) (s : State) : (modCfg f s).cal = s.cal := rfl
@[simp] theorem modCfg_perf (f : Cfg → Cfg) (s : State) : (modCfg f s).perf = s.perf := rfl
@[simp] theorem modCfg_cfg (f : Cfg → Cfg) (s : State) : (modCfg f s).cfg = f s.cfg := rfl
@[simp] theorem modCfg_host (f : Cfg → Cfg) (s : State) : (modCfg f s).host = s.host := rfl
@[simp] theorem modCfg_out (f : Cfg → Cfg) (s : State) : (modCfg f s).out = s.out := rfl
@[simp] theorem modCfg_free (f : Cfg → Cfg) (s : State) : (modCfg f s).free = s.free := rfl
@[simp] theorem modCfg_pending (f : Cfg → Cfg) (s : State) : (modCfg f s).pending = s.pending := rfl

@[simp] theorem modDds_sys (f : Dds → Dds) (s : State) : (modDds f s).sys = s.sys := rfl
@[simp] theorem modDds_hqm (f : Dds → Dds) (s : State) : (modDds f s).hqm = s.hqm := rfl
@[simp] theorem modDds_dram (f : Dds → Dds) (s : State) : (modDds f s).dram = s.dram := rfl
@[simp] theorem modDds_vs (f : Dds → Dds) (s : State) : (modDds f s).vs = s.vs := rfl
@[simp] theorem modDds_sites (f : Dds → Dds) (s : State) : (modDds f s).sites = s.sites := rfl
@[simp] theorem modDds_barriers (f : Dds → Dds) (s : State) : (modDds f s).barriers = s.barriers := rfl
@[simp] theorem modDds_octets (f : Dds → Dds) (s : State) : (modDds f s).octets = s.octets := rfl
@[simp] theorem modDds_pins (f : Dds → Dds) (s : State) : (modDds f s).pins = s.pins := rfl
@[simp] theorem modDds_timing (f : Dds → Dds) (s : State) : (modDds f s).timing = s.timing := rfl
@[simp] theorem modDds_cap (f : Dds → Dds) (s : State) : (modDds f s).cap = s.cap := rfl
@[simp] theorem modDds_dds (f : Dds → Dds) (s : State) : (modDds f s).dds = f s.dds := rfl
@[simp] theorem modDds_time (f : Dds → Dds) (s : State) : (modDds f s).time = s.time := rfl
@[simp] theorem modDds_halso (f : Dds → Dds) (s : State) : (modDds f s).halso = s.halso := rfl
@[simp] theorem modDds_cal (f : Dds → Dds) (s : State) : (modDds f s).cal = s.cal := rfl
@[simp] theorem modDds_perf (f : Dds → Dds) (s : State) : (modDds f s).perf = s.perf := rfl
@[simp] theorem modDds_cfg (f : Dds → Dds) (s : State) : (modDds f s).cfg = s.cfg := rfl
@[simp] theorem modDds_host (f : Dds → Dds) (s : State) : (modDds f s).host = s.host := rfl
@[simp] theorem modDds_out (f : Dds → Dds) (s : State) : (modDds f s).out = s.out := rfl
@[simp] theorem modDds_free (f : Dds → Dds) (s : State) : (modDds f s).free = s.free := rfl
@[simp] theorem modDds_pending (f : Dds → Dds) (s : State) : (modDds f s).pending = s.pending := rfl

@[simp] theorem modTiming_sys (f : Timing → Timing) (s : State) : (modTiming f s).sys = s.sys := rfl
@[simp] theorem modTiming_hqm (f : Timing → Timing) (s : State) : (modTiming f s).hqm = s.hqm := rfl
@[simp] theorem modTiming_dram (f : Timing → Timing) (s : State) : (modTiming f s).dram = s.dram := rfl
@[simp] theorem modTiming_vs (f : Timing → Timing) (s : State) : (modTiming f s).vs = s.vs := rfl
@[simp] theorem modTiming_sites (f : Timing → Timing) (s : State) : (modTiming f s).sites = s.sites := rfl
@[simp] theorem modTiming_barriers (f : Timing → Timing) (s : State) : (modTiming f s).barriers = s.barriers := rfl
@[simp] theorem modTiming_octets (f : Timing → Timing) (s : State) : (modTiming f s).octets = s.octets := rfl
@[simp] theorem modTiming_pins (f : Timing → Timing) (s : State) : (modTiming f s).pins = s.pins := rfl
@[simp] theorem modTiming_timing (f : Timing → Timing) (s : State) : (modTiming f s).timing = f s.timing := rfl
@[simp] theorem modTiming_cap (f : Timing → Timing) (s : State) : (modTiming f s).cap = s.cap := rfl
@[simp] theorem modTiming_dds (f : Timing → Timing) (s : State) : (modTiming f s).dds = s.dds := rfl
@[simp] theorem modTiming_time (f : Timing → Timing) (s : State) : (modTiming f s).time = s.time := rfl
@[simp] theorem modTiming_halso (f : Timing → Timing) (s : State) : (modTiming f s).halso = s.halso := rfl
@[simp] theorem modTiming_cal (f : Timing → Timing) (s : State) : (modTiming f s).cal = s.cal := rfl
@[simp] theorem modTiming_perf (f : Timing → Timing) (s : State) : (modTiming f s).perf = s.perf := rfl
@[simp] theorem modTiming_cfg (f : Timing → Timing) (s : State) : (modTiming f s).cfg = s.cfg := rfl
@[simp] theorem modTiming_host (f : Timing → Timing) (s : State) : (modTiming f s).host = s.host := rfl
@[simp] theorem modTiming_out (f : Timing → Timing) (s : State) : (modTiming f s).out = s.out := rfl
@[simp] theorem modTiming_free (f : Timing → Timing) (s : State) : (modTiming f s).free = s.free := rfl
@[simp] theorem modTiming_pending (f : Timing → Timing) (s : State) : (modTiming f s).pending = s.pending := rfl

@[simp] theorem modSite_sys (n : Nat) (f : Site → Site) (s : State) : (modSite n f s).sys = s.sys := rfl
@[simp] theorem modSite_hqm (n : Nat) (f : Site → Site) (s : State) : (modSite n f s).hqm = s.hqm := rfl
@[simp] theorem modSite_dram (n : Nat) (f : Site → Site) (s : State) : (modSite n f s).dram = s.dram := rfl
@[simp] theorem modSite_vs (n : Nat) (f : Site → Site) (s : State) : (modSite n f s).vs = s.vs := rfl
@[simp] theorem modSite_sites (n : Nat) (f : Site → Site) (s : State) : (modSite n f s).sites = s.sites.mod n f := rfl
@[simp] theorem modSite_barriers (n : Nat) (f : Site → Site) (s : State) : (modSite n f s).barriers = s.barriers := rfl
@[simp] theorem modSite_octets (n : Nat) (f : Site → Site) (s : State) : (modSite n f s).octets = s.octets := rfl
@[simp] theorem modSite_pins (n : Nat) (f : Site → Site) (s : State) : (modSite n f s).pins = s.pins := rfl
@[simp] theorem modSite_timing (n : Nat) (f : Site → Site) (s : State) : (modSite n f s).timing = s.timing := rfl
@[simp] theorem modSite_cap (n : Nat) (f : Site → Site) (s : State) : (modSite n f s).cap = s.cap := rfl
@[simp] theorem modSite_dds (n : Nat) (f : Site → Site) (s : State) : (modSite n f s).dds = s.dds := rfl
@[simp] theorem modSite_time (n : Nat) (f : Site → Site) (s : State) : (modSite n f s).time = s.time := rfl
@[simp] theorem modSite_halso (n : Nat) (f : Site → Site) (s : State) : (modSite n f s).halso = s.halso := rfl
@[simp] theorem modSite_cal (n : Nat) (f : Site → Site) (s : State) : (modSite n f s).cal = s.cal := rfl
@[simp] theorem modSite_perf (n : Nat) (f : Site → Site) (s : State) : (modSite n f s).perf = s.perf := rfl
@[simp] theorem modSite_cfg (n : Nat) (f : Site → Site) (s : State) : (modSite n f s).cfg = s.cfg := rfl
@[simp] theorem modSite_host (n : Nat) (f : Site → Site) (s : State) : (modSite n f s).host = s.host := rfl
@[simp] theorem modSite_out (n : Nat) (f : Site → Site) (s : State) : (modSite n f s).out = s.out := rfl
@[simp] theorem modSite_free (n : Nat) (f : Site → Site) (s : State) : (modSite n f s).free = s.free := rfl
@[simp] theorem modSite_pending (n : Nat) (f : Site → Site) (s : State) : (modSite n f s).pending = s.pending := rfl

@[simp] theorem modPin_sys (n : Nat) (f : Pin → Pin) (s : State) : (modPin n f s).sys = s.sys := rfl
@[simp] theorem modPin_hqm (n : Nat) (f : Pin → Pin) (s : State) : (modPin n f s).hqm = s.hqm := rfl
@[simp] theorem modPin_dram (n : Nat) (f : Pin → Pin) (s : State) : (modPin n f s).dram = s.dram := rfl
@[simp] theorem modPin_vs (n : Nat) (f : Pin → Pin) (s : State) : (modPin n f s).vs = s.vs := rfl
@[simp] theorem modPin_sites (n : Nat) (f : Pin → Pin) (s : State) : (modPin n f s).sites = s.sites := rfl
@[simp] theorem modPin_barriers (n : Nat) (f : Pin → Pin) (s : State) : (modPin n f s).barriers = s.barriers := rfl
@[simp] theorem modPin_octets (n : Nat) (f : Pin → Pin) (s : State) : (modPin n f s).octets = s.octets := rfl
@[simp] theorem modPin_pins (n : Nat) (f : Pin → Pin) (s : State) : (modPin n f s).pins = s.pins.mod n f := rfl
@[simp] theorem modPin_timing (n : Nat) (f : Pin → Pin) (s : State) : (modPin n f s).timing = s.timing := rfl
@[simp] theorem modPin_cap (n : Nat) (f : Pin → Pin) (s : State) : (modPin n f s).cap = s.cap := rfl
@[simp] theorem modPin_dds (n : Nat) (f : Pin → Pin) (s : State) : (modPin n f s).dds = s.dds := rfl
@[simp] theorem modPin_time (n : Nat) (f : Pin → Pin) (s : State) : (modPin n f s).time = s.time := rfl
@[simp] theorem modPin_halso (n : Nat) (f : Pin → Pin) (s : State) : (modPin n f s).halso = s.halso := rfl
@[simp] theorem modPin_cal (n : Nat) (f : Pin → Pin) (s : State) : (modPin n f s).cal = s.cal := rfl
@[simp] theorem modPin_perf (n : Nat) (f : Pin → Pin) (s : State) : (modPin n f s).perf = s.perf := rfl
@[simp] theorem modPin_cfg (n : Nat) (f : Pin → Pin) (s : State) : (modPin n f s).cfg = s.cfg := rfl
@[simp] theorem modPin_host (n : Nat) (f : Pin → Pin) (s : State) : (modPin n f s).host = s.host := rfl
@[simp] theorem modPin_out (n : Nat) (f : Pin → Pin) (s : State) : (modPin n f s).out = s.out := rfl
@[simp] theorem modPin_free (n : Nat) (f : Pin → Pin) (s : State) : (modPin n f s).free = s.free := rfl
@[simp] theorem modPin_pending (n : Nat) (f : Pin → Pin) (s : State) : (modPin n f s).pending = s.pending := rfl

@[simp] theorem modOctet_sys (n : Nat) (f : Octet → Octet) (s : State) : (modOctet n f s).sys = s.sys := rfl
@[simp] theorem modOctet_hqm (n : Nat) (f : Octet → Octet) (s : State) : (modOctet n f s).hqm = s.hqm := rfl
@[simp] theorem modOctet_dram (n : Nat) (f : Octet → Octet) (s : State) : (modOctet n f s).dram = s.dram := rfl
@[simp] theorem modOctet_vs (n : Nat) (f : Octet → Octet) (s : State) : (modOctet n f s).vs = s.vs := rfl
@[simp] theorem modOctet_sites (n : Nat) (f : Octet → Octet) (s : State) : (modOctet n f s).sites = s.sites := rfl
@[simp] theorem modOctet_barriers (n : Nat) (f : Octet → Octet) (s : State) : (modOctet n f s).barriers = s.barriers := rfl
@[simp] theorem modOctet_octets (n : Nat) (f : Octet → Octet) (s : State) : (modOctet n f s).octets = s.octets.mod n f := rfl
@[simp] theorem modOctet_pins (n : Nat) (f : Octet → Octet) (s : State) : (modOctet n f s).pins = s.pins := rfl
@[simp] theorem modOctet_timing (n : Nat) (f : Octet → Octet) (s : State) : (modOctet n f s).timing = s.timing := rfl
@[simp] theorem modOctet_cap (n : Nat) (f : Octet → Octet) (s : State) : (modOctet n f s).cap = s.cap := rfl
@[simp] theorem modOctet_dds (n : Nat) (f : Octet → Octet) (s : State) : (modOctet n f s).dds = s.dds := rfl
@[simp] theorem modOctet_time (n : Nat) (f : Octet → Octet) (s : State) : (modOctet n f s).time = s.time := rfl
@[simp] theorem modOctet_halso (n : Nat) (f : Octet → Octet) (s : State) : (modOctet n f s).halso = s.halso := rfl
@[simp] theorem modOctet_cal (n : Nat) (f : Octet → Octet) (s : State) : (modOctet n f s).cal = s.cal := rfl
@[simp] theorem modOctet_perf (n : Nat) (f : Octet → Octet) (s : State) : (modOctet n f s).perf = s.perf := rfl
@[simp] theorem modOctet_cfg (n : Nat) (f : Octet → Octet) (s : State) : (modOctet n f s).cfg = s.cfg := rfl
@[simp] theorem modOctet_host (n : Nat) (f : Octet → Octet) (s : State) : (modOctet n f s).host = s.host := rfl
@[simp] theorem modOctet_out (n : Nat) (f : Octet → Octet) (s : State) : (modOctet n f s).out = s.out := rfl
@[simp] theorem modOctet_free (n : Nat) (f : Octet → Octet) (s : State) : (modOctet n f s).free = s.free := rfl
@[simp] theorem modOctet_pending (n : Nat) (f : Octet → Octet) (s : State) : (modOctet n f s).pending = s.pending := rfl

@[simp] theorem modGen_sys (n : Nat) (f : Gen → Gen) (s : State) : (modGen n f s).sys = s.sys := rfl
@[simp] theorem modGen_hqm (n : Nat) (f : Gen → Gen) (s : State) : (modGen n f s).hqm = s.hqm := rfl
@[simp] theorem modGen_dram (n : Nat) (f : Gen → Gen) (s : State) : (modGen n f s).dram = s.dram := rfl
@[simp] theorem modGen_vs (n : Nat) (f : Gen → Gen) (s : State) : (modGen n f s).vs = s.vs := rfl
@[simp] theorem modGen_sites (n : Nat) (f : Gen → Gen) (s : State) : (modGen n f s).sites = s.sites := rfl
@[simp] theorem modGen_barriers (n : Nat) (f : Gen → Gen) (s : State) : (modGen n f s).barriers = s.barriers := rfl
@[simp] theorem modGen_octets (n : Nat) (f : Gen → Gen) (s : State) : (modGen n f s).octets = s.octets := rfl
@[simp] theorem modGen_pins (n : Nat) (f : Gen → Gen) (s : State) : (modGen n f s).pins = s.pins := rfl
@[simp] theorem modGen_timing (n : Nat) (f : Gen → Gen) (s : State) : (modGen n f s).timing = s.timing := rfl
@[simp] theorem modGen_cap (n : Nat) (f : Gen → Gen) (s : State) : (modGen n f s).cap = s.cap := rfl
@[simp] theorem modGen_dds (n : Nat) (f : Gen → Gen) (s : State) : (modGen n f s).dds = { s.dds with gens := s.dds.gens.mod n f } := rfl
@[simp] theorem modGen_time (n : Nat) (f : Gen → Gen) (s : State) : (modGen n f s).time = s.time := rfl
@[simp] theorem modGen_halso (n : Nat) (f : Gen → Gen) (s : State) : (modGen n f s).halso = s.halso := rfl
@[simp] theorem modGen_cal (n : Nat) (f : Gen → Gen) (s : State) : (modGen n f s).cal = s.cal := rfl
@[simp] theorem modGen_perf (n : Nat) (f : Gen → Gen) (s : State) : (modGen n f s).perf = s.perf := rfl
@[simp] theorem modGen_cfg (n : Nat) (f : Gen → Gen) (s : State) : (modGen n f s).cfg = s.cfg := rfl
@[simp] theorem modGen_host (n : Nat) (f : Gen → Gen) (s : State) : (modGen n f s).host = s.host := rfl
@[simp] theorem modGen_out (n : Nat) (f : Gen → Gen) (s : State) : (modGen n f s).out = s.out := rfl
@[simp] theorem modGen_free (n : Nat) (f : Gen → Gen) (s : State) : (modGen n f s).free = s.free := rfl
@[simp] theorem modGen_pending (n : Nat) (f : Gen → Gen) (s : State) : (modGen n f s).pending = s.pending := rfl

@[simp] theorem modQueue_sys (n : Nat) (f : Queue → Queue) (s : State) : (modQueue n f s).sys = s.sys := rfl
@[simp] theorem modQueue_hqm (n : Nat) (f : Queue → Queue) (s : State) : (modQueue n f s).hqm = { s.hqm with queues := s.hqm.queues.mod n f } := rfl
@[simp] theorem modQueue_dram (n : Nat) (f : Queue → Queue) (s : State) : (modQueue n f s).dram = s.dram := rfl
@[simp] theorem modQueue_vs (n : Nat) (f : Queue → Queue) (s : State) : (modQueue n f s).vs = s.vs := rfl
@[simp] theorem modQueue_sites (n : Nat) (f : Queue → Queue) (s : State) : (modQueue n f s).sites = s.sites := rfl
@[simp] theorem modQueue_barriers (n : Nat) (f : Queue → Queue) (s : State) : (modQueue n f s).barriers = s.barriers := rfl
@[simp] theorem modQueue_octets (n : Nat) (f : Queue → Queue) (s : State) : (modQueue n f s).octets = s.octets := rfl
@[simp] theorem modQueue_pins (n : Nat) (f : Queue → Queue) (s : State) : (modQueue n f s).pins = s.pins := rfl
@[simp] theorem modQueue_timing (n : Nat) (f : Queue → Queue) (s : State) : (modQueue n f s).timing = s.timing := rfl
@[simp] theorem modQueue_cap (n : Nat) (f : Queue → Queue) (s : State) : (modQueue n f s).cap = s.cap := rfl
@[simp] theorem modQueue_dds (n : Nat) (f : Queue → Queue) (s : State) : (modQueue n f s).dds = s.dds := rfl
@[simp] theorem modQueue_time (n : Nat) (f : Queue → Queue) (s : State) : (modQueue n f s).time = s.time := rfl
@[simp] theorem modQueue_halso (n : Nat) (f : Queue → Queue) (s : State) : (modQueue n f s).halso = s.halso := rfl
@[simp] theorem modQueue_cal (n : Nat) (f : Queue → Queue) (s : State) : (modQueue n f s).cal = s.cal := rfl
@[simp] theorem modQueue_perf (n : Nat) (f : Queue → Queue) (s : State) : (modQueue n f s).perf = s.perf := rfl
@[simp] theorem modQueue_cfg (n : Nat) (f : Queue → Queue) (s : State) : (modQueue n f s).cfg = s.cfg := rfl
@[simp] theorem modQueue_host (n : Nat) (f : Queue → Queue) (s : State) : (modQueue n f s).host = s.host := rfl
@[simp] theorem modQueue_out (n : Nat) (f : Queue → Queue) (s : State) : (modQueue n f s).out = s.out := rfl
@[simp] theorem modQueue_free (n : Nat) (f : Queue → Queue) (s : State) : (modQueue n f s).free = s.free := rfl
@[simp] theorem modQueue_pending (n : Nat) (f : Queue → Queue) (s : State) : (modQueue n f s).pending = s.pending := rfl

@[simp] theorem modCmd_sys (n : Nat) (f : Cmd → Cmd) (s : State) : (modCmd n f s).sys = s.sys := rfl
@[simp] theorem modCmd_hqm (n : Nat) (f : Cmd → Cmd) (s : State) : (modCmd n f s).hqm = { s.hqm with cmds := s.hqm.cmds.mod n f } := rfl
@[simp] theorem modCmd_dram (n : Nat) (f : Cmd → Cmd) (s : State) : (modCmd n f s).dram = s.dram := rfl
@[simp] theorem modCmd_vs (n : Nat) (f : Cmd → Cmd) (s : State) : (modCmd n f s).vs = s.vs := rfl
@[simp] theorem modCmd_sites (n : Nat) (f : Cmd → Cmd) (s : State) : (modCmd n f s).sites = s.sites := rfl
@[simp] theorem modCmd_barriers (n : Nat) (f : Cmd → Cmd) (s : State) : (modCmd n f s).barriers = s.barriers := rfl
@[simp] theorem modCmd_octets (n : Nat) (f : Cmd → Cmd) (s : State) : (modCmd n f s).octets = s.octets := rfl
@[simp] theorem modCmd_pins (n : Nat) (f : Cmd → Cmd) (s : State) : (modCmd n f s).pins = s.pins := rfl
@[simp] theorem modCmd_timing (n : Nat) (f : Cmd → Cmd) (s : State) : (modCmd n f s).timing = s.timing := rfl
@[simp] theorem modCmd_cap (n : Nat) (f : Cmd → Cmd) (s : State) : (modCmd n f s).cap = s.cap := rfl
@[simp] theorem modCmd_dds (n : Nat) (f : Cmd → Cmd) (s : State) : (modCmd n f s).dds = s.dds := rfl
@[simp] theorem modCmd_time (n : Nat) (f : Cmd → Cmd) (s : State) : (modCmd n f s).time = s.time := rfl
@[simp] theorem modCmd_halso (n : Nat) (f : Cmd → Cmd) (s : State) : (modCmd n f s).halso = s.halso := rfl
@[simp] theorem modCmd_cal (n : Nat) (f : Cmd → Cmd) (s : State) : (modCmd n f s).cal = s.cal := rfl
@[simp] theorem modCmd_perf (n : Nat) (f : Cmd → Cmd) (s : State) : (modCmd n f s).perf = s.perf := rfl
@[simp] theorem modCmd_cfg (n : Nat) (f : Cmd → Cmd) (s : State) : (modCmd n f s).cfg = s.cfg := rfl
@[simp] theorem modCmd_host (n : Nat) (f : Cmd → Cmd) (s : State) : (modCmd n f s).host = s.host := rfl
@[simp] theorem modCmd_out (n : Nat) (f : Cmd → Cmd) (s : State) : (modCmd n f s).out = s.out := rfl
@[simp] theorem modCmd_free (n : Nat) (f : Cmd → Cmd) (s : State) : (modCmd n f s).free = s.free := rfl
@[simp] theorem modCmd_pending (n : Nat) (f : Cmd → Cmd) (s : State) : (modCmd n f s).pending = s.pending := rfl

@[simp] theorem modPlan_sys (n : Nat) (f : Plan → Plan) (s : State) : (modPlan n f s).sys = s.sys := rfl
@[simp] theorem modPlan_hqm (n : Nat) (f : Plan → Plan) (s : State) : (modPlan n f s).hqm = s.hqm := rfl
@[simp] theorem modPlan_dram (n : Nat) (f : Plan → Plan) (s : State) : (modPlan n f s).dram = s.dram := rfl
@[simp] theorem modPlan_vs (n : Nat) (f : Plan → Plan) (s : State) : (modPlan n f s).vs = { s.vs with plans := s.vs.plans.mod n (Option.map f) } := rfl
@[simp] theorem modPlan_sites (n : Nat) (f : Plan → Plan) (s : State) : (modPlan n f s).sites = s.sites := rfl
@[simp] theorem modPlan_barriers (n : Nat) (f : Plan → Plan) (s : State) : (modPlan n f s).barriers = s.barriers := rfl
@[simp] theorem modPlan_octets (n : Nat) (f : Plan → Plan) (s : State) : (modPlan n f s).octets = s.octets := rfl
@[simp] theorem modPlan_pins (n : Nat) (f : Plan → Plan) (s : State) : (modPlan n f s).pins = s.pins := rfl
@[simp] theorem modPlan_timing (n : Nat) (f : Plan → Plan) (s : State) : (modPlan n f s).timing = s.timing := rfl
@[simp] theorem modPlan_cap (n : Nat) (f : Plan → Plan) (s : State) : (modPlan n f s).cap = s.cap := rfl
@[simp] theorem modPlan_dds (n : Nat) (f : Plan → Plan) (s : State) : (modPlan n f s).dds = s.dds := rfl
@[simp] theorem modPlan_time (n : Nat) (f : Plan → Plan) (s : State) : (modPlan n f s).time = s.time := rfl
@[simp] theorem modPlan_halso (n : Nat) (f : Plan → Plan) (s : State) : (modPlan n f s).halso = s.halso := rfl
@[simp] theorem modPlan_cal (n : Nat) (f : Plan → Plan) (s : State) : (modPlan n f s).cal = s.cal := rfl
@[simp] theorem modPlan_perf (n : Nat) (f : Plan → Plan) (s : State) : (modPlan n f s).perf = s.perf := rfl
@[simp] theorem modPlan_cfg (n : Nat) (f : Plan → Plan) (s : State) : (modPlan n f s).cfg = s.cfg := rfl
@[simp] theorem modPlan_host (n : Nat) (f : Plan → Plan) (s : State) : (modPlan n f s).host = s.host := rfl
@[simp] theorem modPlan_out (n : Nat) (f : Plan → Plan) (s : State) : (modPlan n f s).out = s.out := rfl
@[simp] theorem modPlan_free (n : Nat) (f : Plan → Plan) (s : State) : (modPlan n f s).free = s.free := rfl
@[simp] theorem modPlan_pending (n : Nat) (f : Plan → Plan) (s : State) : (modPlan n f s).pending = s.pending := rfl

@[simp] theorem modSiteCap_sys (n : Nat) (f : SiteCap → SiteCap) (s : State) : (modSiteCap n f s).sys = s.sys := rfl
@[simp] theorem modSiteCap_hqm (n : Nat) (f : SiteCap → SiteCap) (s : State) : (modSiteCap n f s).hqm = s.hqm := rfl
@[simp] theorem modSiteCap_dram (n : Nat) (f : SiteCap → SiteCap) (s : State) : (modSiteCap n f s).dram = s.dram := rfl
@[simp] theorem modSiteCap_vs (n : Nat) (f : SiteCap → SiteCap) (s : State) : (modSiteCap n f s).vs = s.vs := rfl
@[simp] theorem modSiteCap_sites (n : Nat) (f : SiteCap → SiteCap) (s : State) : (modSiteCap n f s).sites = s.sites := rfl
@[simp] theorem modSiteCap_barriers (n : Nat) (f : SiteCap → SiteCap) (s : State) : (modSiteCap n f s).barriers = s.barriers := rfl
@[simp] theorem modSiteCap_octets (n : Nat) (f : SiteCap → SiteCap) (s : State) : (modSiteCap n f s).octets = s.octets := rfl
@[simp] theorem modSiteCap_pins (n : Nat) (f : SiteCap → SiteCap) (s : State) : (modSiteCap n f s).pins = s.pins := rfl
@[simp] theorem modSiteCap_timing (n : Nat) (f : SiteCap → SiteCap) (s : State) : (modSiteCap n f s).timing = s.timing := rfl
@[simp] theorem modSiteCap_cap (n : Nat) (f : SiteCap → SiteCap) (s : State) : (modSiteCap n f s).cap = { s.cap with sites := s.cap.sites.mod n f } := rfl
@[simp] theorem modSiteCap_dds (n : Nat) (f : SiteCap → SiteCap) (s : State) : (modSiteCap n f s).dds = s.dds := rfl
@[simp] theorem modSiteCap_time (n : Nat) (f : SiteCap → SiteCap) (s : State) : (modSiteCap n f s).time = s.time := rfl
@[simp] theorem modSiteCap_halso (n : Nat) (f : SiteCap → SiteCap) (s : State) : (modSiteCap n f s).halso = s.halso := rfl
@[simp] theorem modSiteCap_cal (n : Nat) (f : SiteCap → SiteCap) (s : State) : (modSiteCap n f s).cal = s.cal := rfl
@[simp] theorem modSiteCap_perf (n : Nat) (f : SiteCap → SiteCap) (s : State) : (modSiteCap n f s).perf = s.perf := rfl
@[simp] theorem modSiteCap_cfg (n : Nat) (f : SiteCap → SiteCap) (s : State) : (modSiteCap n f s).cfg = s.cfg := rfl
@[simp] theorem modSiteCap_host (n : Nat) (f : SiteCap → SiteCap) (s : State) : (modSiteCap n f s).host = s.host := rfl
@[simp] theorem modSiteCap_out (n : Nat) (f : SiteCap → SiteCap) (s : State) : (modSiteCap n f s).out = s.out := rfl
@[simp] theorem modSiteCap_free (n : Nat) (f : SiteCap → SiteCap) (s : State) : (modSiteCap n f s).free = s.free := rfl
@[simp] theorem modSiteCap_pending (n : Nat) (f : SiteCap → SiteCap) (s : State) : (modSiteCap n f s).pending = s.pending := rfl

@[simp] theorem modEng_sys (n : Nat) (f : CapEng → CapEng) (s : State) : (modEng n f s).sys = s.sys := rfl
@[simp] theorem modEng_hqm (n : Nat) (f : CapEng → CapEng) (s : State) : (modEng n f s).hqm = s.hqm := rfl
@[simp] theorem modEng_dram (n : Nat) (f : CapEng → CapEng) (s : State) : (modEng n f s).dram = s.dram := rfl
@[simp] theorem modEng_vs (n : Nat) (f : CapEng → CapEng) (s : State) : (modEng n f s).vs = s.vs := rfl
@[simp] theorem modEng_sites (n : Nat) (f : CapEng → CapEng) (s : State) : (modEng n f s).sites = s.sites := rfl
@[simp] theorem modEng_barriers (n : Nat) (f : CapEng → CapEng) (s : State) : (modEng n f s).barriers = s.barriers := rfl
@[simp] theorem modEng_octets (n : Nat) (f : CapEng → CapEng) (s : State) : (modEng n f s).octets = s.octets := rfl
@[simp] theorem modEng_pins (n : Nat) (f : CapEng → CapEng) (s : State) : (modEng n f s).pins = s.pins := rfl
@[simp] theorem modEng_timing (n : Nat) (f : CapEng → CapEng) (s : State) : (modEng n f s).timing = s.timing := rfl
@[simp] theorem modEng_cap (n : Nat) (f : CapEng → CapEng) (s : State) : (modEng n f s).cap = { s.cap with engs := s.cap.engs.mod n f } := rfl
@[simp] theorem modEng_dds (n : Nat) (f : CapEng → CapEng) (s : State) : (modEng n f s).dds = s.dds := rfl
@[simp] theorem modEng_time (n : Nat) (f : CapEng → CapEng) (s : State) : (modEng n f s).time = s.time := rfl
@[simp] theorem modEng_halso (n : Nat) (f : CapEng → CapEng) (s : State) : (modEng n f s).halso = s.halso := rfl
@[simp] theorem modEng_cal (n : Nat) (f : CapEng → CapEng) (s : State) : (modEng n f s).cal = s.cal := rfl
@[simp] theorem modEng_perf (n : Nat) (f : CapEng → CapEng) (s : State) : (modEng n f s).perf = s.perf := rfl
@[simp] theorem modEng_cfg (n : Nat) (f : CapEng → CapEng) (s : State) : (modEng n f s).cfg = s.cfg := rfl
@[simp] theorem modEng_host (n : Nat) (f : CapEng → CapEng) (s : State) : (modEng n f s).host = s.host := rfl
@[simp] theorem modEng_out (n : Nat) (f : CapEng → CapEng) (s : State) : (modEng n f s).out = s.out := rfl
@[simp] theorem modEng_free (n : Nat) (f : CapEng → CapEng) (s : State) : (modEng n f s).free = s.free := rfl
@[simp] theorem modEng_pending (n : Nat) (f : CapEng → CapEng) (s : State) : (modEng n f s).pending = s.pending := rfl

@[simp] theorem modUnit_sys (n : Nat) (f : TrigUnit → TrigUnit) (s : State) : (modUnit n f s).sys = s.sys := rfl
@[simp] theorem modUnit_hqm (n : Nat) (f : TrigUnit → TrigUnit) (s : State) : (modUnit n f s).hqm = s.hqm := rfl
@[simp] theorem modUnit_dram (n : Nat) (f : TrigUnit → TrigUnit) (s : State) : (modUnit n f s).dram = s.dram := rfl
@[simp] theorem modUnit_vs (n : Nat) (f : TrigUnit → TrigUnit) (s : State) : (modUnit n f s).vs = s.vs := rfl
@[simp] theorem modUnit_sites (n : Nat) (f : TrigUnit → TrigUnit) (s : State) : (modUnit n f s).sites = s.sites := rfl
@[simp] theorem modUnit_barriers (n : Nat) (f : TrigUnit → TrigUnit) (s : State) : (modUnit n f s).barriers = s.barriers := rfl
@[simp] theorem modUnit_octets (n : Nat) (f : TrigUnit → TrigUnit) (s : State) : (modUnit n f s).octets = s.octets := rfl
@[simp] theorem modUnit_pins (n : Nat) (f : TrigUnit → TrigUnit) (s : State) : (modUnit n f s).pins = s.pins := rfl
@[simp] theorem modUnit_timing (n : Nat) (f : TrigUnit → TrigUnit) (s : State) : (modUnit n f s).timing = s.timing := rfl
@[simp] theorem modUnit_cap (n : Nat) (f : TrigUnit → TrigUnit) (s : State) : (modUnit n f s).cap = { s.cap with units := s.cap.units.mod n f } := rfl
@[simp] theorem modUnit_dds (n : Nat) (f : TrigUnit → TrigUnit) (s : State) : (modUnit n f s).dds = s.dds := rfl
@[simp] theorem modUnit_time (n : Nat) (f : TrigUnit → TrigUnit) (s : State) : (modUnit n f s).time = s.time := rfl
@[simp] theorem modUnit_halso (n : Nat) (f : TrigUnit → TrigUnit) (s : State) : (modUnit n f s).halso = s.halso := rfl
@[simp] theorem modUnit_cal (n : Nat) (f : TrigUnit → TrigUnit) (s : State) : (modUnit n f s).cal = s.cal := rfl
@[simp] theorem modUnit_perf (n : Nat) (f : TrigUnit → TrigUnit) (s : State) : (modUnit n f s).perf = s.perf := rfl
@[simp] theorem modUnit_cfg (n : Nat) (f : TrigUnit → TrigUnit) (s : State) : (modUnit n f s).cfg = s.cfg := rfl
@[simp] theorem modUnit_host (n : Nat) (f : TrigUnit → TrigUnit) (s : State) : (modUnit n f s).host = s.host := rfl
@[simp] theorem modUnit_out (n : Nat) (f : TrigUnit → TrigUnit) (s : State) : (modUnit n f s).out = s.out := rfl
@[simp] theorem modUnit_free (n : Nat) (f : TrigUnit → TrigUnit) (s : State) : (modUnit n f s).free = s.free := rfl
@[simp] theorem modUnit_pending (n : Nat) (f : TrigUnit → TrigUnit) (s : State) : (modUnit n f s).pending = s.pending := rfl

@[simp] theorem modGroup_sys (n : Nat) (f : Group → Group) (s : State) : (modGroup n f s).sys = s.sys := rfl
@[simp] theorem modGroup_hqm (n : Nat) (f : Group → Group) (s : State) : (modGroup n f s).hqm = s.hqm := rfl
@[simp] theorem modGroup_dram (n : Nat) (f : Group → Group) (s : State) : (modGroup n f s).dram = s.dram := rfl
@[simp] theorem modGroup_vs (n : Nat) (f : Group → Group) (s : State) : (modGroup n f s).vs = s.vs := rfl
@[simp] theorem modGroup_sites (n : Nat) (f : Group → Group) (s : State) : (modGroup n f s).sites = s.sites := rfl
@[simp] theorem modGroup_barriers (n : Nat) (f : Group → Group) (s : State) : (modGroup n f s).barriers = s.barriers := rfl
@[simp] theorem modGroup_octets (n : Nat) (f : Group → Group) (s : State) : (modGroup n f s).octets = s.octets := rfl
@[simp] theorem modGroup_pins (n : Nat) (f : Group → Group) (s : State) : (modGroup n f s).pins = s.pins := rfl
@[simp] theorem modGroup_timing (n : Nat) (f : Group → Group) (s : State) : (modGroup n f s).timing = s.timing := rfl
@[simp] theorem modGroup_cap (n : Nat) (f : Group → Group) (s : State) : (modGroup n f s).cap = { s.cap with groups := s.cap.groups.mod n f } := rfl
@[simp] theorem modGroup_dds (n : Nat) (f : Group → Group) (s : State) : (modGroup n f s).dds = s.dds := rfl
@[simp] theorem modGroup_time (n : Nat) (f : Group → Group) (s : State) : (modGroup n f s).time = s.time := rfl
@[simp] theorem modGroup_halso (n : Nat) (f : Group → Group) (s : State) : (modGroup n f s).halso = s.halso := rfl
@[simp] theorem modGroup_cal (n : Nat) (f : Group → Group) (s : State) : (modGroup n f s).cal = s.cal := rfl
@[simp] theorem modGroup_perf (n : Nat) (f : Group → Group) (s : State) : (modGroup n f s).perf = s.perf := rfl
@[simp] theorem modGroup_cfg (n : Nat) (f : Group → Group) (s : State) : (modGroup n f s).cfg = s.cfg := rfl
@[simp] theorem modGroup_host (n : Nat) (f : Group → Group) (s : State) : (modGroup n f s).host = s.host := rfl
@[simp] theorem modGroup_out (n : Nat) (f : Group → Group) (s : State) : (modGroup n f s).out = s.out := rfl
@[simp] theorem modGroup_free (n : Nat) (f : Group → Group) (s : State) : (modGroup n f s).free = s.free := rfl
@[simp] theorem modGroup_pending (n : Nat) (f : Group → Group) (s : State) : (modGroup n f s).pending = s.pending := rfl

@[simp] theorem modChan_sys (n : Nat) (f : DramChan → DramChan) (s : State) : (modChan n f s).sys = s.sys := rfl
@[simp] theorem modChan_hqm (n : Nat) (f : DramChan → DramChan) (s : State) : (modChan n f s).hqm = s.hqm := rfl
@[simp] theorem modChan_dram (n : Nat) (f : DramChan → DramChan) (s : State) : (modChan n f s).dram = { s.dram with chans := s.dram.chans.mod n f } := rfl
@[simp] theorem modChan_vs (n : Nat) (f : DramChan → DramChan) (s : State) : (modChan n f s).vs = s.vs := rfl
@[simp] theorem modChan_sites (n : Nat) (f : DramChan → DramChan) (s : State) : (modChan n f s).sites = s.sites := rfl
@[simp] theorem modChan_barriers (n : Nat) (f : DramChan → DramChan) (s : State) : (modChan n f s).barriers = s.barriers := rfl
@[simp] theorem modChan_octets (n : Nat) (f : DramChan → DramChan) (s : State) : (modChan n f s).octets = s.octets := rfl
@[simp] theorem modChan_pins (n : Nat) (f : DramChan → DramChan) (s : State) : (modChan n f s).pins = s.pins := rfl
@[simp] theorem modChan_timing (n : Nat) (f : DramChan → DramChan) (s : State) : (modChan n f s).timing = s.timing := rfl
@[simp] theorem modChan_cap (n : Nat) (f : DramChan → DramChan) (s : State) : (modChan n f s).cap = s.cap := rfl
@[simp] theorem modChan_dds (n : Nat) (f : DramChan → DramChan) (s : State) : (modChan n f s).dds = s.dds := rfl
@[simp] theorem modChan_time (n : Nat) (f : DramChan → DramChan) (s : State) : (modChan n f s).time = s.time := rfl
@[simp] theorem modChan_halso (n : Nat) (f : DramChan → DramChan) (s : State) : (modChan n f s).halso = s.halso := rfl
@[simp] theorem modChan_cal (n : Nat) (f : DramChan → DramChan) (s : State) : (modChan n f s).cal = s.cal := rfl
@[simp] theorem modChan_perf (n : Nat) (f : DramChan → DramChan) (s : State) : (modChan n f s).perf = s.perf := rfl
@[simp] theorem modChan_cfg (n : Nat) (f : DramChan → DramChan) (s : State) : (modChan n f s).cfg = s.cfg := rfl
@[simp] theorem modChan_host (n : Nat) (f : DramChan → DramChan) (s : State) : (modChan n f s).host = s.host := rfl
@[simp] theorem modChan_out (n : Nat) (f : DramChan → DramChan) (s : State) : (modChan n f s).out = s.out := rfl
@[simp] theorem modChan_free (n : Nat) (f : DramChan → DramChan) (s : State) : (modChan n f s).free = s.free := rfl
@[simp] theorem modChan_pending (n : Nat) (f : DramChan → DramChan) (s : State) : (modChan n f s).pending = s.pending := rfl

@[simp] theorem modPort_sys (n : Nat) (f : HPort → HPort) (s : State) : (modPort n f s).sys = s.sys := rfl
@[simp] theorem modPort_hqm (n : Nat) (f : HPort → HPort) (s : State) : (modPort n f s).hqm = s.hqm := rfl
@[simp] theorem modPort_dram (n : Nat) (f : HPort → HPort) (s : State) : (modPort n f s).dram = s.dram := rfl
@[simp] theorem modPort_vs (n : Nat) (f : HPort → HPort) (s : State) : (modPort n f s).vs = s.vs := rfl
@[simp] theorem modPort_sites (n : Nat) (f : HPort → HPort) (s : State) : (modPort n f s).sites = s.sites := rfl
@[simp] theorem modPort_barriers (n : Nat) (f : HPort → HPort) (s : State) : (modPort n f s).barriers = s.barriers := rfl
@[simp] theorem modPort_octets (n : Nat) (f : HPort → HPort) (s : State) : (modPort n f s).octets = s.octets := rfl
@[simp] theorem modPort_pins (n : Nat) (f : HPort → HPort) (s : State) : (modPort n f s).pins = s.pins := rfl
@[simp] theorem modPort_timing (n : Nat) (f : HPort → HPort) (s : State) : (modPort n f s).timing = s.timing := rfl
@[simp] theorem modPort_cap (n : Nat) (f : HPort → HPort) (s : State) : (modPort n f s).cap = s.cap := rfl
@[simp] theorem modPort_dds (n : Nat) (f : HPort → HPort) (s : State) : (modPort n f s).dds = s.dds := rfl
@[simp] theorem modPort_time (n : Nat) (f : HPort → HPort) (s : State) : (modPort n f s).time = s.time := rfl
@[simp] theorem modPort_halso (n : Nat) (f : HPort → HPort) (s : State) : (modPort n f s).halso = { s.halso with ports := s.halso.ports.mod n f } := rfl
@[simp] theorem modPort_cal (n : Nat) (f : HPort → HPort) (s : State) : (modPort n f s).cal = s.cal := rfl
@[simp] theorem modPort_perf (n : Nat) (f : HPort → HPort) (s : State) : (modPort n f s).perf = s.perf := rfl
@[simp] theorem modPort_cfg (n : Nat) (f : HPort → HPort) (s : State) : (modPort n f s).cfg = s.cfg := rfl
@[simp] theorem modPort_host (n : Nat) (f : HPort → HPort) (s : State) : (modPort n f s).host = s.host := rfl
@[simp] theorem modPort_out (n : Nat) (f : HPort → HPort) (s : State) : (modPort n f s).out = s.out := rfl
@[simp] theorem modPort_free (n : Nat) (f : HPort → HPort) (s : State) : (modPort n f s).free = s.free := rfl
@[simp] theorem modPort_pending (n : Nat) (f : HPort → HPort) (s : State) : (modPort n f s).pending = s.pending := rfl

@[simp] theorem emit_sys (o : Out) (s : State) : (emit o s).sys = s.sys := rfl
@[simp] theorem emit_hqm (o : Out) (s : State) : (emit o s).hqm = s.hqm := rfl
@[simp] theorem emit_dram (o : Out) (s : State) : (emit o s).dram = s.dram := rfl
@[simp] theorem emit_vs (o : Out) (s : State) : (emit o s).vs = s.vs := rfl
@[simp] theorem emit_sites (o : Out) (s : State) : (emit o s).sites = s.sites := rfl
@[simp] theorem emit_barriers (o : Out) (s : State) : (emit o s).barriers = s.barriers := rfl
@[simp] theorem emit_octets (o : Out) (s : State) : (emit o s).octets = s.octets := rfl
@[simp] theorem emit_pins (o : Out) (s : State) : (emit o s).pins = s.pins := rfl
@[simp] theorem emit_timing (o : Out) (s : State) : (emit o s).timing = s.timing := rfl
@[simp] theorem emit_cap (o : Out) (s : State) : (emit o s).cap = s.cap := rfl
@[simp] theorem emit_dds (o : Out) (s : State) : (emit o s).dds = s.dds := rfl
@[simp] theorem emit_time (o : Out) (s : State) : (emit o s).time = s.time := rfl
@[simp] theorem emit_halso (o : Out) (s : State) : (emit o s).halso = s.halso := rfl
@[simp] theorem emit_cal (o : Out) (s : State) : (emit o s).cal = s.cal := rfl
@[simp] theorem emit_perf (o : Out) (s : State) : (emit o s).perf = s.perf := rfl
@[simp] theorem emit_cfg (o : Out) (s : State) : (emit o s).cfg = s.cfg := rfl
@[simp] theorem emit_host (o : Out) (s : State) : (emit o s).host = s.host := rfl
@[simp] theorem emit_out (o : Out) (s : State) : (emit o s).out = o :: s.out := rfl
@[simp] theorem emit_free (o : Out) (s : State) : (emit o s).free = s.free := rfl
@[simp] theorem emit_pending (o : Out) (s : State) : (emit o s).pending = s.pending := rfl

@[simp] theorem emitAll_sys (l : List Out) (s : State) : (emitAll l s).sys = s.sys := rfl
@[simp] theorem emitAll_hqm (l : List Out) (s : State) : (emitAll l s).hqm = s.hqm := rfl
@[simp] theorem emitAll_dram (l : List Out) (s : State) : (emitAll l s).dram = s.dram := rfl
@[simp] theorem emitAll_vs (l : List Out) (s : State) : (emitAll l s).vs = s.vs := rfl
@[simp] theorem emitAll_sites (l : List Out) (s : State) : (emitAll l s).sites = s.sites := rfl
@[simp] theorem emitAll_barriers (l : List Out) (s : State) : (emitAll l s).barriers = s.barriers := rfl
@[simp] theorem emitAll_octets (l : List Out) (s : State) : (emitAll l s).octets = s.octets := rfl
@[simp] theorem emitAll_pins (l : List Out) (s : State) : (emitAll l s).pins = s.pins := rfl
@[simp] theorem emitAll_timing (l : List Out) (s : State) : (emitAll l s).timing = s.timing := rfl
@[simp] theorem emitAll_cap (l : List Out) (s : State) : (emitAll l s).cap = s.cap := rfl
@[simp] theorem emitAll_dds (l : List Out) (s : State) : (emitAll l s).dds = s.dds := rfl
@[simp] theorem emitAll_time (l : List Out) (s : State) : (emitAll l s).time = s.time := rfl
@[simp] theorem emitAll_halso (l : List Out) (s : State) : (emitAll l s).halso = s.halso := rfl
@[simp] theorem emitAll_cal (l : List Out) (s : State) : (emitAll l s).cal = s.cal := rfl
@[simp] theorem emitAll_perf (l : List Out) (s : State) : (emitAll l s).perf = s.perf := rfl
@[simp] theorem emitAll_cfg (l : List Out) (s : State) : (emitAll l s).cfg = s.cfg := rfl
@[simp] theorem emitAll_host (l : List Out) (s : State) : (emitAll l s).host = s.host := rfl
@[simp] theorem emitAll_out (l : List Out) (s : State) : (emitAll l s).out = l ++ s.out := rfl
@[simp] theorem emitAll_free (l : List Out) (s : State) : (emitAll l s).free = s.free := rfl
@[simp] theorem emitAll_pending (l : List Out) (s : State) : (emitAll l s).pending = s.pending := rfl

@[simp] theorem setFree_sys (n : Nat) (s : State) : (setFree n s).sys = s.sys := rfl
@[simp] theorem setFree_hqm (n : Nat) (s : State) : (setFree n s).hqm = s.hqm := rfl
@[simp] theorem setFree_dram (n : Nat) (s : State) : (setFree n s).dram = s.dram := rfl
@[simp] theorem setFree_vs (n : Nat) (s : State) : (setFree n s).vs = s.vs := rfl
@[simp] theorem setFree_sites (n : Nat) (s : State) : (setFree n s).sites = s.sites := rfl
@[simp] theorem setFree_barriers (n : Nat) (s : State) : (setFree n s).barriers = s.barriers := rfl
@[simp] theorem setFree_octets (n : Nat) (s : State) : (setFree n s).octets = s.octets := rfl
@[simp] theorem setFree_pins (n : Nat) (s : State) : (setFree n s).pins = s.pins := rfl
@[simp] theorem setFree_timing (n : Nat) (s : State) : (setFree n s).timing = s.timing := rfl
@[simp] theorem setFree_cap (n : Nat) (s : State) : (setFree n s).cap = s.cap := rfl
@[simp] theorem setFree_dds (n : Nat) (s : State) : (setFree n s).dds = s.dds := rfl
@[simp] theorem setFree_time (n : Nat) (s : State) : (setFree n s).time = s.time := rfl
@[simp] theorem setFree_halso (n : Nat) (s : State) : (setFree n s).halso = s.halso := rfl
@[simp] theorem setFree_cal (n : Nat) (s : State) : (setFree n s).cal = s.cal := rfl
@[simp] theorem setFree_perf (n : Nat) (s : State) : (setFree n s).perf = s.perf := rfl
@[simp] theorem setFree_cfg (n : Nat) (s : State) : (setFree n s).cfg = s.cfg := rfl
@[simp] theorem setFree_host (n : Nat) (s : State) : (setFree n s).host = s.host := rfl
@[simp] theorem setFree_out (n : Nat) (s : State) : (setFree n s).out = s.out := rfl
@[simp] theorem setFree_free (n : Nat) (s : State) : (setFree n s).free = n := rfl
@[simp] theorem setFree_pending (n : Nat) (s : State) : (setFree n s).pending = s.pending := rfl

@[simp] theorem setPins_sys (m : SMap Pin) (s : State) : (setPins m s).sys = s.sys := rfl
@[simp] theorem setPins_hqm (m : SMap Pin) (s : State) : (setPins m s).hqm = s.hqm := rfl
@[simp] theorem setPins_dram (m : SMap Pin) (s : State) : (setPins m s).dram = s.dram := rfl
@[simp] theorem setPins_vs (m : SMap Pin) (s : State) : (setPins m s).vs = s.vs := rfl
@[simp] theorem setPins_sites (m : SMap Pin) (s : State) : (setPins m s).sites = s.sites := rfl
@[simp] theorem setPins_barriers (m : SMap Pin) (s : State) : (setPins m s).barriers = s.barriers := rfl
@[simp] theorem setPins_octets (m : SMap Pin) (s : State) : (setPins m s).octets = s.octets := rfl
@[simp] theorem setPins_pins (m : SMap Pin) (s : State) : (setPins m s).pins = m := rfl
@[simp] theorem setPins_timing (m : SMap Pin) (s : State) : (setPins m s).timing = s.timing := rfl
@[simp] theorem setPins_cap (m : SMap Pin) (s : State) : (setPins m s).cap = s.cap := rfl
@[simp] theorem setPins_dds (m : SMap Pin) (s : State) : (setPins m s).dds = s.dds := rfl
@[simp] theorem setPins_time (m : SMap Pin) (s : State) : (setPins m s).time = s.time := rfl
@[simp] theorem setPins_halso (m : SMap Pin) (s : State) : (setPins m s).halso = s.halso := rfl
@[simp] theorem setPins_cal (m : SMap Pin) (s : State) : (setPins m s).cal = s.cal := rfl
@[simp] theorem setPins_perf (m : SMap Pin) (s : State) : (setPins m s).perf = s.perf := rfl
@[simp] theorem setPins_cfg (m : SMap Pin) (s : State) : (setPins m s).cfg = s.cfg := rfl
@[simp] theorem setPins_host (m : SMap Pin) (s : State) : (setPins m s).host = s.host := rfl
@[simp] theorem setPins_out (m : SMap Pin) (s : State) : (setPins m s).out = s.out := rfl
@[simp] theorem setPins_free (m : SMap Pin) (s : State) : (setPins m s).free = s.free := rfl
@[simp] theorem setPins_pending (m : SMap Pin) (s : State) : (setPins m s).pending = s.pending := rfl

@[simp] theorem mapPins_sys (f : Nat → Pin → Pin) (s : State) : (mapPins f s).sys = s.sys := rfl
@[simp] theorem mapPins_hqm (f : Nat → Pin → Pin) (s : State) : (mapPins f s).hqm = s.hqm := rfl
@[simp] theorem mapPins_dram (f : Nat → Pin → Pin) (s : State) : (mapPins f s).dram = s.dram := rfl
@[simp] theorem mapPins_vs (f : Nat → Pin → Pin) (s : State) : (mapPins f s).vs = s.vs := rfl
@[simp] theorem mapPins_sites (f : Nat → Pin → Pin) (s : State) : (mapPins f s).sites = s.sites := rfl
@[simp] theorem mapPins_barriers (f : Nat → Pin → Pin) (s : State) : (mapPins f s).barriers = s.barriers := rfl
@[simp] theorem mapPins_octets (f : Nat → Pin → Pin) (s : State) : (mapPins f s).octets = s.octets := rfl
@[simp] theorem mapPins_pins (f : Nat → Pin → Pin) (s : State) : (mapPins f s).pins = s.pins.mapAll f := rfl
@[simp] theorem mapPins_timing (f : Nat → Pin → Pin) (s : State) : (mapPins f s).timing = s.timing := rfl
@[simp] theorem mapPins_cap (f : Nat → Pin → Pin) (s : State) : (mapPins f s).cap = s.cap := rfl
@[simp] theorem mapPins_dds (f : Nat → Pin → Pin) (s : State) : (mapPins f s).dds = s.dds := rfl
@[simp] theorem mapPins_time (f : Nat → Pin → Pin) (s : State) : (mapPins f s).time = s.time := rfl
@[simp] theorem mapPins_halso (f : Nat → Pin → Pin) (s : State) : (mapPins f s).halso = s.halso := rfl
@[simp] theorem mapPins_cal (f : Nat → Pin → Pin) (s : State) : (mapPins f s).cal = s.cal := rfl
@[simp] theorem mapPins_perf (f : Nat → Pin → Pin) (s : State) : (mapPins f s).perf = s.perf := rfl
@[simp] theorem mapPins_cfg (f : Nat → Pin → Pin) (s : State) : (mapPins f s).cfg = s.cfg := rfl
@[simp] theorem mapPins_host (f : Nat → Pin → Pin) (s : State) : (mapPins f s).host = s.host := rfl
@[simp] theorem mapPins_out (f : Nat → Pin → Pin) (s : State) : (mapPins f s).out = s.out := rfl
@[simp] theorem mapPins_free (f : Nat → Pin → Pin) (s : State) : (mapPins f s).free = s.free := rfl
@[simp] theorem mapPins_pending (f : Nat → Pin → Pin) (s : State) : (mapPins f s).pending = s.pending := rfl

@[simp] theorem mapOctets_sys (f : Nat → Octet → Octet) (s : State) : (mapOctets f s).sys = s.sys := rfl
@[simp] theorem mapOctets_hqm (f : Nat → Octet → Octet) (s : State) : (mapOctets f s).hqm = s.hqm := rfl
@[simp] theorem mapOctets_dram (f : Nat → Octet → Octet) (s : State) : (mapOctets f s).dram = s.dram := rfl
@[simp] theorem mapOctets_vs (f : Nat → Octet → Octet) (s : State) : (mapOctets f s).vs = s.vs := rfl
@[simp] theorem mapOctets_sites (f : Nat → Octet → Octet) (s : State) : (mapOctets f s).sites = s.sites := rfl
@[simp] theorem mapOctets_barriers (f : Nat → Octet → Octet) (s : State) : (mapOctets f s).barriers = s.barriers := rfl
@[simp] theorem mapOctets_octets (f : Nat → Octet → Octet) (s : State) : (mapOctets f s).octets = s.octets.mapAll f := rfl
@[simp] theorem mapOctets_pins (f : Nat → Octet → Octet) (s : State) : (mapOctets f s).pins = s.pins := rfl
@[simp] theorem mapOctets_timing (f : Nat → Octet → Octet) (s : State) : (mapOctets f s).timing = s.timing := rfl
@[simp] theorem mapOctets_cap (f : Nat → Octet → Octet) (s : State) : (mapOctets f s).cap = s.cap := rfl
@[simp] theorem mapOctets_dds (f : Nat → Octet → Octet) (s : State) : (mapOctets f s).dds = s.dds := rfl
@[simp] theorem mapOctets_time (f : Nat → Octet → Octet) (s : State) : (mapOctets f s).time = s.time := rfl
@[simp] theorem mapOctets_halso (f : Nat → Octet → Octet) (s : State) : (mapOctets f s).halso = s.halso := rfl
@[simp] theorem mapOctets_cal (f : Nat → Octet → Octet) (s : State) : (mapOctets f s).cal = s.cal := rfl
@[simp] theorem mapOctets_perf (f : Nat → Octet → Octet) (s : State) : (mapOctets f s).perf = s.perf := rfl
@[simp] theorem mapOctets_cfg (f : Nat → Octet → Octet) (s : State) : (mapOctets f s).cfg = s.cfg := rfl
@[simp] theorem mapOctets_host (f : Nat → Octet → Octet) (s : State) : (mapOctets f s).host = s.host := rfl
@[simp] theorem mapOctets_out (f : Nat → Octet → Octet) (s : State) : (mapOctets f s).out = s.out := rfl
@[simp] theorem mapOctets_free (f : Nat → Octet → Octet) (s : State) : (mapOctets f s).free = s.free := rfl
@[simp] theorem mapOctets_pending (f : Nat → Octet → Octet) (s : State) : (mapOctets f s).pending = s.pending := rfl

@[simp] theorem hostStore_sys (a : Nat) (bs : List Byte) (s : State) : (hostStore a bs s).sys = s.sys := rfl
@[simp] theorem hostStore_hqm (a : Nat) (bs : List Byte) (s : State) : (hostStore a bs s).hqm = s.hqm := rfl
@[simp] theorem hostStore_dram (a : Nat) (bs : List Byte) (s : State) : (hostStore a bs s).dram = s.dram := rfl
@[simp] theorem hostStore_vs (a : Nat) (bs : List Byte) (s : State) : (hostStore a bs s).vs = s.vs := rfl
@[simp] theorem hostStore_sites (a : Nat) (bs : List Byte) (s : State) : (hostStore a bs s).sites = s.sites := rfl
@[simp] theorem hostStore_barriers (a : Nat) (bs : List Byte) (s : State) : (hostStore a bs s).barriers = s.barriers := rfl
@[simp] theorem hostStore_octets (a : Nat) (bs : List Byte) (s : State) : (hostStore a bs s).octets = s.octets := rfl
@[simp] theorem hostStore_pins (a : Nat) (bs : List Byte) (s : State) : (hostStore a bs s).pins = s.pins := rfl
@[simp] theorem hostStore_timing (a : Nat) (bs : List Byte) (s : State) : (hostStore a bs s).timing = s.timing := rfl
@[simp] theorem hostStore_cap (a : Nat) (bs : List Byte) (s : State) : (hostStore a bs s).cap = s.cap := rfl
@[simp] theorem hostStore_dds (a : Nat) (bs : List Byte) (s : State) : (hostStore a bs s).dds = s.dds := rfl
@[simp] theorem hostStore_time (a : Nat) (bs : List Byte) (s : State) : (hostStore a bs s).time = s.time := rfl
@[simp] theorem hostStore_halso (a : Nat) (bs : List Byte) (s : State) : (hostStore a bs s).halso = s.halso := rfl
@[simp] theorem hostStore_cal (a : Nat) (bs : List Byte) (s : State) : (hostStore a bs s).cal = s.cal := rfl
@[simp] theorem hostStore_perf (a : Nat) (bs : List Byte) (s : State) : (hostStore a bs s).perf = s.perf := rfl
@[simp] theorem hostStore_cfg (a : Nat) (bs : List Byte) (s : State) : (hostStore a bs s).cfg = s.cfg := rfl
@[simp] theorem hostStore_host (a : Nat) (bs : List Byte) (s : State) : (hostStore a bs s).host = Mem.store s.host a bs := rfl
@[simp] theorem hostStore_out (a : Nat) (bs : List Byte) (s : State) : (hostStore a bs s).out = s.out := rfl
@[simp] theorem hostStore_free (a : Nat) (bs : List Byte) (s : State) : (hostStore a bs s).free = s.free := rfl
@[simp] theorem hostStore_pending (a : Nat) (bs : List Byte) (s : State) : (hostStore a bs s).pending = s.pending := rfl

@[simp] theorem atGrain_sys (t : Grain) (s : State) : (atGrain t s).sys = s.sys := rfl
@[simp] theorem atGrain_hqm (t : Grain) (s : State) : (atGrain t s).hqm = s.hqm := rfl
@[simp] theorem atGrain_dram (t : Grain) (s : State) : (atGrain t s).dram = s.dram := rfl
@[simp] theorem atGrain_vs (t : Grain) (s : State) : (atGrain t s).vs = s.vs := rfl
@[simp] theorem atGrain_sites (t : Grain) (s : State) : (atGrain t s).sites = s.sites := rfl
@[simp] theorem atGrain_barriers (t : Grain) (s : State) : (atGrain t s).barriers = s.barriers := rfl
@[simp] theorem atGrain_octets (t : Grain) (s : State) : (atGrain t s).octets = s.octets := rfl
@[simp] theorem atGrain_pins (t : Grain) (s : State) : (atGrain t s).pins = s.pins := rfl
@[simp] theorem atGrain_timing (t : Grain) (s : State) : (atGrain t s).timing = s.timing := rfl
@[simp] theorem atGrain_cap (t : Grain) (s : State) : (atGrain t s).cap = s.cap := rfl
@[simp] theorem atGrain_dds (t : Grain) (s : State) : (atGrain t s).dds = s.dds := rfl
@[simp] theorem atGrain_time (t : Grain) (s : State) : (atGrain t s).time = { s.time with grain := t.val } := rfl
@[simp] theorem atGrain_halso (t : Grain) (s : State) : (atGrain t s).halso = s.halso := rfl
@[simp] theorem atGrain_cal (t : Grain) (s : State) : (atGrain t s).cal = s.cal := rfl
@[simp] theorem atGrain_perf (t : Grain) (s : State) : (atGrain t s).perf = s.perf := rfl
@[simp] theorem atGrain_cfg (t : Grain) (s : State) : (atGrain t s).cfg = s.cfg := rfl
@[simp] theorem atGrain_host (t : Grain) (s : State) : (atGrain t s).host = s.host := rfl
@[simp] theorem atGrain_out (t : Grain) (s : State) : (atGrain t s).out = s.out := rfl
@[simp] theorem atGrain_free (t : Grain) (s : State) : (atGrain t s).free = s.free := rfl
@[simp] theorem atGrain_pending (t : Grain) (s : State) : (atGrain t s).pending = s.pending := rfl

/-! ## The indexed views -/

@[simp] theorem modSys_site_view (f : Sys → Sys) (s : State) (k : Nat) : (modSys f s).site k = s.site k := rfl
@[simp] theorem modHqm_site_view (f : Hqm → Hqm) (s : State) (k : Nat) : (modHqm f s).site k = s.site k := rfl
@[simp] theorem modTime_site_view (f : Time → Time) (s : State) (k : Nat) : (modTime f s).site k = s.site k := rfl
@[simp] theorem modVs_site_view (f : Vstore → Vstore) (s : State) (k : Nat) : (modVs f s).site k = s.site k := rfl
@[simp] theorem modDram_site_view (f : Dram → Dram) (s : State) (k : Nat) : (modDram f s).site k = s.site k := rfl
@[simp] theorem modCal_site_view (f : Cal → Cal) (s : State) (k : Nat) : (modCal f s).site k = s.site k := rfl
@[simp] theorem modHalso_site_view (f : Halso → Halso) (s : State) (k : Nat) : (modHalso f s).site k = s.site k := rfl
@[simp] theorem modPerf_site_view (f : Perf → Perf) (s : State) (k : Nat) : (modPerf f s).site k = s.site k := rfl
@[simp] theorem modCap_site_view (f : Cap → Cap) (s : State) (k : Nat) : (modCap f s).site k = s.site k := rfl
@[simp] theorem modCfg_site_view (f : Cfg → Cfg) (s : State) (k : Nat) : (modCfg f s).site k = s.site k := rfl
@[simp] theorem modDds_site_view (f : Dds → Dds) (s : State) (k : Nat) : (modDds f s).site k = s.site k := rfl
@[simp] theorem modTiming_site_view (f : Timing → Timing) (s : State) (k : Nat) : (modTiming f s).site k = s.site k := rfl
@[simp] theorem modPin_site_view (n : Nat) (f : Pin → Pin) (s : State) (k : Nat) : (modPin n f s).site k = s.site k := rfl
@[simp] theorem modOctet_site_view (n : Nat) (f : Octet → Octet) (s : State) (k : Nat) : (modOctet n f s).site k = s.site k := rfl
@[simp] theorem modGen_site_view (n : Nat) (f : Gen → Gen) (s : State) (k : Nat) : (modGen n f s).site k = s.site k := rfl
@[simp] theorem modQueue_site_view (n : Nat) (f : Queue → Queue) (s : State) (k : Nat) : (modQueue n f s).site k = s.site k := rfl
@[simp] theorem modCmd_site_view (n : Nat) (f : Cmd → Cmd) (s : State) (k : Nat) : (modCmd n f s).site k = s.site k := rfl
@[simp] theorem modPlan_site_view (n : Nat) (f : Plan → Plan) (s : State) (k : Nat) : (modPlan n f s).site k = s.site k := rfl
@[simp] theorem modSiteCap_site_view (n : Nat) (f : SiteCap → SiteCap) (s : State) (k : Nat) : (modSiteCap n f s).site k = s.site k := rfl
@[simp] theorem modEng_site_view (n : Nat) (f : CapEng → CapEng) (s : State) (k : Nat) : (modEng n f s).site k = s.site k := rfl
@[simp] theorem modUnit_site_view (n : Nat) (f : TrigUnit → TrigUnit) (s : State) (k : Nat) : (modUnit n f s).site k = s.site k := rfl
@[simp] theorem modGroup_site_view (n : Nat) (f : Group → Group) (s : State) (k : Nat) : (modGroup n f s).site k = s.site k := rfl
@[simp] theorem modChan_site_view (n : Nat) (f : DramChan → DramChan) (s : State) (k : Nat) : (modChan n f s).site k = s.site k := rfl
@[simp] theorem modPort_site_view (n : Nat) (f : HPort → HPort) (s : State) (k : Nat) : (modPort n f s).site k = s.site k := rfl
@[simp] theorem emit_site_view (o : Out) (s : State) (k : Nat) : (emit o s).site k = s.site k := rfl
@[simp] theorem hostStore_site_view (a : Nat) (bs : List Byte) (s : State) (k : Nat) : (hostStore a bs s).site k = s.site k := rfl
@[simp] theorem atGrain_site_view (t : Grain) (s : State) (k : Nat) : (atGrain t s).site k = s.site k := rfl
@[simp] theorem modSite_site_self (n : Nat) (f : Site → Site) (s : State) :
    (modSite n f s).site n = f (s.site n) := SMap.get_mod_eq ..
theorem modSite_site_ne (n k : Nat) (f : Site → Site) (s : State) (h : k ≠ n) :
    (modSite n f s).site k = s.site k := SMap.get_mod_ne _ _ _ _ h
theorem modSite_site (n k : Nat) (f : Site → Site) (s : State) :
    (modSite n f s).site k = if k = n then f (s.site n) else s.site k := SMap.get_mod ..

@[simp] theorem modSys_pin_view (f : Sys → Sys) (s : State) (k : Nat) : (modSys f s).pin k = s.pin k := rfl
@[simp] theorem modHqm_pin_view (f : Hqm → Hqm) (s : State) (k : Nat) : (modHqm f s).pin k = s.pin k := rfl
@[simp] theorem modTime_pin_view (f : Time → Time) (s : State) (k : Nat) : (modTime f s).pin k = s.pin k := rfl
@[simp] theorem modVs_pin_view (f : Vstore → Vstore) (s : State) (k : Nat) : (modVs f s).pin k = s.pin k := rfl
@[simp] theorem modDram_pin_view (f : Dram → Dram) (s : State) (k : Nat) : (modDram f s).pin k = s.pin k := rfl
@[simp] theorem modCal_pin_view (f : Cal → Cal) (s : State) (k : Nat) : (modCal f s).pin k = s.pin k := rfl
@[simp] theorem modHalso_pin_view (f : Halso → Halso) (s : State) (k : Nat) : (modHalso f s).pin k = s.pin k := rfl
@[simp] theorem modPerf_pin_view (f : Perf → Perf) (s : State) (k : Nat) : (modPerf f s).pin k = s.pin k := rfl
@[simp] theorem modCap_pin_view (f : Cap → Cap) (s : State) (k : Nat) : (modCap f s).pin k = s.pin k := rfl
@[simp] theorem modCfg_pin_view (f : Cfg → Cfg) (s : State) (k : Nat) : (modCfg f s).pin k = s.pin k := rfl
@[simp] theorem modDds_pin_view (f : Dds → Dds) (s : State) (k : Nat) : (modDds f s).pin k = s.pin k := rfl
@[simp] theorem modTiming_pin_view (f : Timing → Timing) (s : State) (k : Nat) : (modTiming f s).pin k = s.pin k := rfl
@[simp] theorem modSite_pin_view (n : Nat) (f : Site → Site) (s : State) (k : Nat) : (modSite n f s).pin k = s.pin k := rfl
@[simp] theorem modOctet_pin_view (n : Nat) (f : Octet → Octet) (s : State) (k : Nat) : (modOctet n f s).pin k = s.pin k := rfl
@[simp] theorem modGen_pin_view (n : Nat) (f : Gen → Gen) (s : State) (k : Nat) : (modGen n f s).pin k = s.pin k := rfl
@[simp] theorem modQueue_pin_view (n : Nat) (f : Queue → Queue) (s : State) (k : Nat) : (modQueue n f s).pin k = s.pin k := rfl
@[simp] theorem modCmd_pin_view (n : Nat) (f : Cmd → Cmd) (s : State) (k : Nat) : (modCmd n f s).pin k = s.pin k := rfl
@[simp] theorem modPlan_pin_view (n : Nat) (f : Plan → Plan) (s : State) (k : Nat) : (modPlan n f s).pin k = s.pin k := rfl
@[simp] theorem modSiteCap_pin_view (n : Nat) (f : SiteCap → SiteCap) (s : State) (k : Nat) : (modSiteCap n f s).pin k = s.pin k := rfl
@[simp] theorem modEng_pin_view (n : Nat) (f : CapEng → CapEng) (s : State) (k : Nat) : (modEng n f s).pin k = s.pin k := rfl
@[simp] theorem modUnit_pin_view (n : Nat) (f : TrigUnit → TrigUnit) (s : State) (k : Nat) : (modUnit n f s).pin k = s.pin k := rfl
@[simp] theorem modGroup_pin_view (n : Nat) (f : Group → Group) (s : State) (k : Nat) : (modGroup n f s).pin k = s.pin k := rfl
@[simp] theorem modChan_pin_view (n : Nat) (f : DramChan → DramChan) (s : State) (k : Nat) : (modChan n f s).pin k = s.pin k := rfl
@[simp] theorem modPort_pin_view (n : Nat) (f : HPort → HPort) (s : State) (k : Nat) : (modPort n f s).pin k = s.pin k := rfl
@[simp] theorem emit_pin_view (o : Out) (s : State) (k : Nat) : (emit o s).pin k = s.pin k := rfl
@[simp] theorem hostStore_pin_view (a : Nat) (bs : List Byte) (s : State) (k : Nat) : (hostStore a bs s).pin k = s.pin k := rfl
@[simp] theorem atGrain_pin_view (t : Grain) (s : State) (k : Nat) : (atGrain t s).pin k = s.pin k := rfl
@[simp] theorem modPin_pin_self (n : Nat) (f : Pin → Pin) (s : State) :
    (modPin n f s).pin n = f (s.pin n) := SMap.get_mod_eq ..
theorem modPin_pin_ne (n k : Nat) (f : Pin → Pin) (s : State) (h : k ≠ n) :
    (modPin n f s).pin k = s.pin k := SMap.get_mod_ne _ _ _ _ h
theorem modPin_pin (n k : Nat) (f : Pin → Pin) (s : State) :
    (modPin n f s).pin k = if k = n then f (s.pin n) else s.pin k := SMap.get_mod ..

@[simp] theorem modSys_octet_view (f : Sys → Sys) (s : State) (k : Nat) : (modSys f s).octet k = s.octet k := rfl
@[simp] theorem modHqm_octet_view (f : Hqm → Hqm) (s : State) (k : Nat) : (modHqm f s).octet k = s.octet k := rfl
@[simp] theorem modTime_octet_view (f : Time → Time) (s : State) (k : Nat) : (modTime f s).octet k = s.octet k := rfl
@[simp] theorem modVs_octet_view (f : Vstore → Vstore) (s : State) (k : Nat) : (modVs f s).octet k = s.octet k := rfl
@[simp] theorem modDram_octet_view (f : Dram → Dram) (s : State) (k : Nat) : (modDram f s).octet k = s.octet k := rfl
@[simp] theorem modCal_octet_view (f : Cal → Cal) (s : State) (k : Nat) : (modCal f s).octet k = s.octet k := rfl
@[simp] theorem modHalso_octet_view (f : Halso → Halso) (s : State) (k : Nat) : (modHalso f s).octet k = s.octet k := rfl
@[simp] theorem modPerf_octet_view (f : Perf → Perf) (s : State) (k : Nat) : (modPerf f s).octet k = s.octet k := rfl
@[simp] theorem modCap_octet_view (f : Cap → Cap) (s : State) (k : Nat) : (modCap f s).octet k = s.octet k := rfl
@[simp] theorem modCfg_octet_view (f : Cfg → Cfg) (s : State) (k : Nat) : (modCfg f s).octet k = s.octet k := rfl
@[simp] theorem modDds_octet_view (f : Dds → Dds) (s : State) (k : Nat) : (modDds f s).octet k = s.octet k := rfl
@[simp] theorem modTiming_octet_view (f : Timing → Timing) (s : State) (k : Nat) : (modTiming f s).octet k = s.octet k := rfl
@[simp] theorem modSite_octet_view (n : Nat) (f : Site → Site) (s : State) (k : Nat) : (modSite n f s).octet k = s.octet k := rfl
@[simp] theorem modPin_octet_view (n : Nat) (f : Pin → Pin) (s : State) (k : Nat) : (modPin n f s).octet k = s.octet k := rfl
@[simp] theorem modGen_octet_view (n : Nat) (f : Gen → Gen) (s : State) (k : Nat) : (modGen n f s).octet k = s.octet k := rfl
@[simp] theorem modQueue_octet_view (n : Nat) (f : Queue → Queue) (s : State) (k : Nat) : (modQueue n f s).octet k = s.octet k := rfl
@[simp] theorem modCmd_octet_view (n : Nat) (f : Cmd → Cmd) (s : State) (k : Nat) : (modCmd n f s).octet k = s.octet k := rfl
@[simp] theorem modPlan_octet_view (n : Nat) (f : Plan → Plan) (s : State) (k : Nat) : (modPlan n f s).octet k = s.octet k := rfl
@[simp] theorem modSiteCap_octet_view (n : Nat) (f : SiteCap → SiteCap) (s : State) (k : Nat) : (modSiteCap n f s).octet k = s.octet k := rfl
@[simp] theorem modEng_octet_view (n : Nat) (f : CapEng → CapEng) (s : State) (k : Nat) : (modEng n f s).octet k = s.octet k := rfl
@[simp] theorem modUnit_octet_view (n : Nat) (f : TrigUnit → TrigUnit) (s : State) (k : Nat) : (modUnit n f s).octet k = s.octet k := rfl
@[simp] theorem modGroup_octet_view (n : Nat) (f : Group → Group) (s : State) (k : Nat) : (modGroup n f s).octet k = s.octet k := rfl
@[simp] theorem modChan_octet_view (n : Nat) (f : DramChan → DramChan) (s : State) (k : Nat) : (modChan n f s).octet k = s.octet k := rfl
@[simp] theorem modPort_octet_view (n : Nat) (f : HPort → HPort) (s : State) (k : Nat) : (modPort n f s).octet k = s.octet k := rfl
@[simp] theorem emit_octet_view (o : Out) (s : State) (k : Nat) : (emit o s).octet k = s.octet k := rfl
@[simp] theorem hostStore_octet_view (a : Nat) (bs : List Byte) (s : State) (k : Nat) : (hostStore a bs s).octet k = s.octet k := rfl
@[simp] theorem atGrain_octet_view (t : Grain) (s : State) (k : Nat) : (atGrain t s).octet k = s.octet k := rfl
@[simp] theorem modOctet_octet_self (n : Nat) (f : Octet → Octet) (s : State) :
    (modOctet n f s).octet n = f (s.octet n) := SMap.get_mod_eq ..
theorem modOctet_octet_ne (n k : Nat) (f : Octet → Octet) (s : State) (h : k ≠ n) :
    (modOctet n f s).octet k = s.octet k := SMap.get_mod_ne _ _ _ _ h
theorem modOctet_octet (n k : Nat) (f : Octet → Octet) (s : State) :
    (modOctet n f s).octet k = if k = n then f (s.octet n) else s.octet k := SMap.get_mod ..

@[simp] theorem modSys_gen_view (f : Sys → Sys) (s : State) (k : Nat) : (modSys f s).gen k = s.gen k := rfl
@[simp] theorem modHqm_gen_view (f : Hqm → Hqm) (s : State) (k : Nat) : (modHqm f s).gen k = s.gen k := rfl
@[simp] theorem modTime_gen_view (f : Time → Time) (s : State) (k : Nat) : (modTime f s).gen k = s.gen k := rfl
@[simp] theorem modVs_gen_view (f : Vstore → Vstore) (s : State) (k : Nat) : (modVs f s).gen k = s.gen k := rfl
@[simp] theorem modDram_gen_view (f : Dram → Dram) (s : State) (k : Nat) : (modDram f s).gen k = s.gen k := rfl
@[simp] theorem modCal_gen_view (f : Cal → Cal) (s : State) (k : Nat) : (modCal f s).gen k = s.gen k := rfl
@[simp] theorem modHalso_gen_view (f : Halso → Halso) (s : State) (k : Nat) : (modHalso f s).gen k = s.gen k := rfl
@[simp] theorem modPerf_gen_view (f : Perf → Perf) (s : State) (k : Nat) : (modPerf f s).gen k = s.gen k := rfl
@[simp] theorem modCap_gen_view (f : Cap → Cap) (s : State) (k : Nat) : (modCap f s).gen k = s.gen k := rfl
@[simp] theorem modCfg_gen_view (f : Cfg → Cfg) (s : State) (k : Nat) : (modCfg f s).gen k = s.gen k := rfl
@[simp] theorem modTiming_gen_view (f : Timing → Timing) (s : State) (k : Nat) : (modTiming f s).gen k = s.gen k := rfl
@[simp] theorem modSite_gen_view (n : Nat) (f : Site → Site) (s : State) (k : Nat) : (modSite n f s).gen k = s.gen k := rfl
@[simp] theorem modPin_gen_view (n : Nat) (f : Pin → Pin) (s : State) (k : Nat) : (modPin n f s).gen k = s.gen k := rfl
@[simp] theorem modOctet_gen_view (n : Nat) (f : Octet → Octet) (s : State) (k : Nat) : (modOctet n f s).gen k = s.gen k := rfl
@[simp] theorem modQueue_gen_view (n : Nat) (f : Queue → Queue) (s : State) (k : Nat) : (modQueue n f s).gen k = s.gen k := rfl
@[simp] theorem modCmd_gen_view (n : Nat) (f : Cmd → Cmd) (s : State) (k : Nat) : (modCmd n f s).gen k = s.gen k := rfl
@[simp] theorem modPlan_gen_view (n : Nat) (f : Plan → Plan) (s : State) (k : Nat) : (modPlan n f s).gen k = s.gen k := rfl
@[simp] theorem modSiteCap_gen_view (n : Nat) (f : SiteCap → SiteCap) (s : State) (k : Nat) : (modSiteCap n f s).gen k = s.gen k := rfl
@[simp] theorem modEng_gen_view (n : Nat) (f : CapEng → CapEng) (s : State) (k : Nat) : (modEng n f s).gen k = s.gen k := rfl
@[simp] theorem modUnit_gen_view (n : Nat) (f : TrigUnit → TrigUnit) (s : State) (k : Nat) : (modUnit n f s).gen k = s.gen k := rfl
@[simp] theorem modGroup_gen_view (n : Nat) (f : Group → Group) (s : State) (k : Nat) : (modGroup n f s).gen k = s.gen k := rfl
@[simp] theorem modChan_gen_view (n : Nat) (f : DramChan → DramChan) (s : State) (k : Nat) : (modChan n f s).gen k = s.gen k := rfl
@[simp] theorem modPort_gen_view (n : Nat) (f : HPort → HPort) (s : State) (k : Nat) : (modPort n f s).gen k = s.gen k := rfl
@[simp] theorem emit_gen_view (o : Out) (s : State) (k : Nat) : (emit o s).gen k = s.gen k := rfl
@[simp] theorem hostStore_gen_view (a : Nat) (bs : List Byte) (s : State) (k : Nat) : (hostStore a bs s).gen k = s.gen k := rfl
@[simp] theorem atGrain_gen_view (t : Grain) (s : State) (k : Nat) : (atGrain t s).gen k = s.gen k := rfl
@[simp] theorem modGen_gen_self (n : Nat) (f : Gen → Gen) (s : State) :
    (modGen n f s).gen n = f (s.gen n) := SMap.get_mod_eq ..
theorem modGen_gen_ne (n k : Nat) (f : Gen → Gen) (s : State) (h : k ≠ n) :
    (modGen n f s).gen k = s.gen k := SMap.get_mod_ne _ _ _ _ h
theorem modGen_gen (n k : Nat) (f : Gen → Gen) (s : State) :
    (modGen n f s).gen k = if k = n then f (s.gen n) else s.gen k := SMap.get_mod ..

@[simp] theorem modSys_queue_view (f : Sys → Sys) (s : State) (k : Nat) : (modSys f s).queue k = s.queue k := rfl
@[simp] theorem modTime_queue_view (f : Time → Time) (s : State) (k : Nat) : (modTime f s).queue k = s.queue k := rfl
@[simp] theorem modVs_queue_view (f : Vstore → Vstore) (s : State) (k : Nat) : (modVs f s).queue k = s.queue k := rfl
@[simp] theorem modDram_queue_view (f : Dram → Dram) (s : State) (k : Nat) : (modDram f s).queue k = s.queue k := rfl
@[simp] theorem modCal_queue_view (f : Cal → Cal) (s : State) (k : Nat) : (modCal f s).queue k = s.queue k := rfl
@[simp] theorem modHalso_queue_view (f : Halso → Halso) (s : State) (k : Nat) : (modHalso f s).queue k = s.queue k := rfl
@[simp] theorem modPerf_queue_view (f : Perf → Perf) (s : State) (k : Nat) : (modPerf f s).queue k = s.queue k := rfl
@[simp] theorem modCap_queue_view (f : Cap → Cap) (s : State) (k : Nat) : (modCap f s).queue k = s.queue k := rfl
@[simp] theorem modCfg_queue_view (f : Cfg → Cfg) (s : State) (k : Nat) : (modCfg f s).queue k = s.queue k := rfl
@[simp] theorem modDds_queue_view (f : Dds → Dds) (s : State) (k : Nat) : (modDds f s).queue k = s.queue k := rfl
@[simp] theorem modTiming_queue_view (f : Timing → Timing) (s : State) (k : Nat) : (modTiming f s).queue k = s.queue k := rfl
@[simp] theorem modSite_queue_view (n : Nat) (f : Site → Site) (s : State) (k : Nat) : (modSite n f s).queue k = s.queue k := rfl
@[simp] theorem modPin_queue_view (n : Nat) (f : Pin → Pin) (s : State) (k : Nat) : (modPin n f s).queue k = s.queue k := rfl
@[simp] theorem modOctet_queue_view (n : Nat) (f : Octet → Octet) (s : State) (k : Nat) : (modOctet n f s).queue k = s.queue k := rfl
@[simp] theorem modGen_queue_view (n : Nat) (f : Gen → Gen) (s : State) (k : Nat) : (modGen n f s).queue k = s.queue k := rfl
@[simp] theorem modCmd_queue_view (n : Nat) (f : Cmd → Cmd) (s : State) (k : Nat) : (modCmd n f s).queue k = s.queue k := rfl
@[simp] theorem modPlan_queue_view (n : Nat) (f : Plan → Plan) (s : State) (k : Nat) : (modPlan n f s).queue k = s.queue k := rfl
@[simp] theorem modSiteCap_queue_view (n : Nat) (f : SiteCap → SiteCap) (s : State) (k : Nat) : (modSiteCap n f s).queue k = s.queue k := rfl
@[simp] theorem modEng_queue_view (n : Nat) (f : CapEng → CapEng) (s : State) (k : Nat) : (modEng n f s).queue k = s.queue k := rfl
@[simp] theorem modUnit_queue_view (n : Nat) (f : TrigUnit → TrigUnit) (s : State) (k : Nat) : (modUnit n f s).queue k = s.queue k := rfl
@[simp] theorem modGroup_queue_view (n : Nat) (f : Group → Group) (s : State) (k : Nat) : (modGroup n f s).queue k = s.queue k := rfl
@[simp] theorem modChan_queue_view (n : Nat) (f : DramChan → DramChan) (s : State) (k : Nat) : (modChan n f s).queue k = s.queue k := rfl
@[simp] theorem modPort_queue_view (n : Nat) (f : HPort → HPort) (s : State) (k : Nat) : (modPort n f s).queue k = s.queue k := rfl
@[simp] theorem emit_queue_view (o : Out) (s : State) (k : Nat) : (emit o s).queue k = s.queue k := rfl
@[simp] theorem hostStore_queue_view (a : Nat) (bs : List Byte) (s : State) (k : Nat) : (hostStore a bs s).queue k = s.queue k := rfl
@[simp] theorem atGrain_queue_view (t : Grain) (s : State) (k : Nat) : (atGrain t s).queue k = s.queue k := rfl
@[simp] theorem modQueue_queue_self (n : Nat) (f : Queue → Queue) (s : State) :
    (modQueue n f s).queue n = f (s.queue n) := SMap.get_mod_eq ..
theorem modQueue_queue_ne (n k : Nat) (f : Queue → Queue) (s : State) (h : k ≠ n) :
    (modQueue n f s).queue k = s.queue k := SMap.get_mod_ne _ _ _ _ h
theorem modQueue_queue (n k : Nat) (f : Queue → Queue) (s : State) :
    (modQueue n f s).queue k = if k = n then f (s.queue n) else s.queue k := SMap.get_mod ..

@[simp] theorem modSys_cmd_view (f : Sys → Sys) (s : State) (k : Nat) : (modSys f s).cmd k = s.cmd k := rfl
@[simp] theorem modTime_cmd_view (f : Time → Time) (s : State) (k : Nat) : (modTime f s).cmd k = s.cmd k := rfl
@[simp] theorem modVs_cmd_view (f : Vstore → Vstore) (s : State) (k : Nat) : (modVs f s).cmd k = s.cmd k := rfl
@[simp] theorem modDram_cmd_view (f : Dram → Dram) (s : State) (k : Nat) : (modDram f s).cmd k = s.cmd k := rfl
@[simp] theorem modCal_cmd_view (f : Cal → Cal) (s : State) (k : Nat) : (modCal f s).cmd k = s.cmd k := rfl
@[simp] theorem modHalso_cmd_view (f : Halso → Halso) (s : State) (k : Nat) : (modHalso f s).cmd k = s.cmd k := rfl
@[simp] theorem modPerf_cmd_view (f : Perf → Perf) (s : State) (k : Nat) : (modPerf f s).cmd k = s.cmd k := rfl
@[simp] theorem modCap_cmd_view (f : Cap → Cap) (s : State) (k : Nat) : (modCap f s).cmd k = s.cmd k := rfl
@[simp] theorem modCfg_cmd_view (f : Cfg → Cfg) (s : State) (k : Nat) : (modCfg f s).cmd k = s.cmd k := rfl
@[simp] theorem modDds_cmd_view (f : Dds → Dds) (s : State) (k : Nat) : (modDds f s).cmd k = s.cmd k := rfl
@[simp] theorem modTiming_cmd_view (f : Timing → Timing) (s : State) (k : Nat) : (modTiming f s).cmd k = s.cmd k := rfl
@[simp] theorem modSite_cmd_view (n : Nat) (f : Site → Site) (s : State) (k : Nat) : (modSite n f s).cmd k = s.cmd k := rfl
@[simp] theorem modPin_cmd_view (n : Nat) (f : Pin → Pin) (s : State) (k : Nat) : (modPin n f s).cmd k = s.cmd k := rfl
@[simp] theorem modOctet_cmd_view (n : Nat) (f : Octet → Octet) (s : State) (k : Nat) : (modOctet n f s).cmd k = s.cmd k := rfl
@[simp] theorem modGen_cmd_view (n : Nat) (f : Gen → Gen) (s : State) (k : Nat) : (modGen n f s).cmd k = s.cmd k := rfl
@[simp] theorem modQueue_cmd_view (n : Nat) (f : Queue → Queue) (s : State) (k : Nat) : (modQueue n f s).cmd k = s.cmd k := rfl
@[simp] theorem modPlan_cmd_view (n : Nat) (f : Plan → Plan) (s : State) (k : Nat) : (modPlan n f s).cmd k = s.cmd k := rfl
@[simp] theorem modSiteCap_cmd_view (n : Nat) (f : SiteCap → SiteCap) (s : State) (k : Nat) : (modSiteCap n f s).cmd k = s.cmd k := rfl
@[simp] theorem modEng_cmd_view (n : Nat) (f : CapEng → CapEng) (s : State) (k : Nat) : (modEng n f s).cmd k = s.cmd k := rfl
@[simp] theorem modUnit_cmd_view (n : Nat) (f : TrigUnit → TrigUnit) (s : State) (k : Nat) : (modUnit n f s).cmd k = s.cmd k := rfl
@[simp] theorem modGroup_cmd_view (n : Nat) (f : Group → Group) (s : State) (k : Nat) : (modGroup n f s).cmd k = s.cmd k := rfl
@[simp] theorem modChan_cmd_view (n : Nat) (f : DramChan → DramChan) (s : State) (k : Nat) : (modChan n f s).cmd k = s.cmd k := rfl
@[simp] theorem modPort_cmd_view (n : Nat) (f : HPort → HPort) (s : State) (k : Nat) : (modPort n f s).cmd k = s.cmd k := rfl
@[simp] theorem emit_cmd_view (o : Out) (s : State) (k : Nat) : (emit o s).cmd k = s.cmd k := rfl
@[simp] theorem hostStore_cmd_view (a : Nat) (bs : List Byte) (s : State) (k : Nat) : (hostStore a bs s).cmd k = s.cmd k := rfl
@[simp] theorem atGrain_cmd_view (t : Grain) (s : State) (k : Nat) : (atGrain t s).cmd k = s.cmd k := rfl
@[simp] theorem modCmd_cmd_self (n : Nat) (f : Cmd → Cmd) (s : State) :
    (modCmd n f s).cmd n = f (s.cmd n) := SMap.get_mod_eq ..
theorem modCmd_cmd_ne (n k : Nat) (f : Cmd → Cmd) (s : State) (h : k ≠ n) :
    (modCmd n f s).cmd k = s.cmd k := SMap.get_mod_ne _ _ _ _ h
theorem modCmd_cmd (n k : Nat) (f : Cmd → Cmd) (s : State) :
    (modCmd n f s).cmd k = if k = n then f (s.cmd n) else s.cmd k := SMap.get_mod ..

@[simp] theorem modSys_plan_view (f : Sys → Sys) (s : State) (k : Nat) : (modSys f s).plan k = s.plan k := rfl
@[simp] theorem modHqm_plan_view (f : Hqm → Hqm) (s : State) (k : Nat) : (modHqm f s).plan k = s.plan k := rfl
@[simp] theorem modTime_plan_view (f : Time → Time) (s : State) (k : Nat) : (modTime f s).plan k = s.plan k := rfl
@[simp] theorem modDram_plan_view (f : Dram → Dram) (s : State) (k : Nat) : (modDram f s).plan k = s.plan k := rfl
@[simp] theorem modCal_plan_view (f : Cal → Cal) (s : State) (k : Nat) : (modCal f s).plan k = s.plan k := rfl
@[simp] theorem modHalso_plan_view (f : Halso → Halso) (s : State) (k : Nat) : (modHalso f s).plan k = s.plan k := rfl
@[simp] theorem modPerf_plan_view (f : Perf → Perf) (s : State) (k : Nat) : (modPerf f s).plan k = s.plan k := rfl
@[simp] theorem modCap_plan_view (f : Cap → Cap) (s : State) (k : Nat) : (modCap f s).plan k = s.plan k := rfl
@[simp] theorem modCfg_plan_view (f : Cfg → Cfg) (s : State) (k : Nat) : (modCfg f s).plan k = s.plan k := rfl
@[simp] theorem modDds_plan_view (f : Dds → Dds) (s : State) (k : Nat) : (modDds f s).plan k = s.plan k := rfl
@[simp] theorem modTiming_plan_view (f : Timing → Timing) (s : State) (k : Nat) : (modTiming f s).plan k = s.plan k := rfl
@[simp] theorem modSite_plan_view (n : Nat) (f : Site → Site) (s : State) (k : Nat) : (modSite n f s).plan k = s.plan k := rfl
@[simp] theorem modPin_plan_view (n : Nat) (f : Pin → Pin) (s : State) (k : Nat) : (modPin n f s).plan k = s.plan k := rfl
@[simp] theorem modOctet_plan_view (n : Nat) (f : Octet → Octet) (s : State) (k : Nat) : (modOctet n f s).plan k = s.plan k := rfl
@[simp] theorem modGen_plan_view (n : Nat) (f : Gen → Gen) (s : State) (k : Nat) : (modGen n f s).plan k = s.plan k := rfl
@[simp] theorem modQueue_plan_view (n : Nat) (f : Queue → Queue) (s : State) (k : Nat) : (modQueue n f s).plan k = s.plan k := rfl
@[simp] theorem modCmd_plan_view (n : Nat) (f : Cmd → Cmd) (s : State) (k : Nat) : (modCmd n f s).plan k = s.plan k := rfl
@[simp] theorem modSiteCap_plan_view (n : Nat) (f : SiteCap → SiteCap) (s : State) (k : Nat) : (modSiteCap n f s).plan k = s.plan k := rfl
@[simp] theorem modEng_plan_view (n : Nat) (f : CapEng → CapEng) (s : State) (k : Nat) : (modEng n f s).plan k = s.plan k := rfl
@[simp] theorem modUnit_plan_view (n : Nat) (f : TrigUnit → TrigUnit) (s : State) (k : Nat) : (modUnit n f s).plan k = s.plan k := rfl
@[simp] theorem modGroup_plan_view (n : Nat) (f : Group → Group) (s : State) (k : Nat) : (modGroup n f s).plan k = s.plan k := rfl
@[simp] theorem modChan_plan_view (n : Nat) (f : DramChan → DramChan) (s : State) (k : Nat) : (modChan n f s).plan k = s.plan k := rfl
@[simp] theorem modPort_plan_view (n : Nat) (f : HPort → HPort) (s : State) (k : Nat) : (modPort n f s).plan k = s.plan k := rfl
@[simp] theorem emit_plan_view (o : Out) (s : State) (k : Nat) : (emit o s).plan k = s.plan k := rfl
@[simp] theorem hostStore_plan_view (a : Nat) (bs : List Byte) (s : State) (k : Nat) : (hostStore a bs s).plan k = s.plan k := rfl
@[simp] theorem atGrain_plan_view (t : Grain) (s : State) (k : Nat) : (atGrain t s).plan k = s.plan k := rfl
@[simp] theorem modPlan_plan_self (n : Nat) (f : Plan → Plan) (s : State) :
    (modPlan n f s).plan n = (s.plan n).map f := SMap.get_mod_eq ..
theorem modPlan_plan_ne (n k : Nat) (f : Plan → Plan) (s : State) (h : k ≠ n) :
    (modPlan n f s).plan k = s.plan k := SMap.get_mod_ne _ _ _ _ h
theorem modPlan_plan (n k : Nat) (f : Plan → Plan) (s : State) :
    (modPlan n f s).plan k = if k = n then (s.plan n).map f else s.plan k := SMap.get_mod ..

@[simp] theorem sendOn_sys (ports : List Nat) (t : Int) (c : Nat) (ws : List Nat) (s : State) :
    (sendOn ports t c ws s).sys = s.sys := rfl
@[simp] theorem sendOn_hqm (ports : List Nat) (t : Int) (c : Nat) (ws : List Nat) (s : State) :
    (sendOn ports t c ws s).hqm = s.hqm := rfl
@[simp] theorem sendOn_dram (ports : List Nat) (t : Int) (c : Nat) (ws : List Nat) (s : State) :
    (sendOn ports t c ws s).dram = s.dram := rfl
@[simp] theorem sendOn_vs (ports : List Nat) (t : Int) (c : Nat) (ws : List Nat) (s : State) :
    (sendOn ports t c ws s).vs = s.vs := rfl
@[simp] theorem sendOn_sites (ports : List Nat) (t : Int) (c : Nat) (ws : List Nat) (s : State) :
    (sendOn ports t c ws s).sites = s.sites := rfl
@[simp] theorem sendOn_barriers (ports : List Nat) (t : Int) (c : Nat) (ws : List Nat) (s : State) :
    (sendOn ports t c ws s).barriers = s.barriers := rfl
@[simp] theorem sendOn_octets (ports : List Nat) (t : Int) (c : Nat) (ws : List Nat) (s : State) :
    (sendOn ports t c ws s).octets = s.octets := rfl
@[simp] theorem sendOn_pins (ports : List Nat) (t : Int) (c : Nat) (ws : List Nat) (s : State) :
    (sendOn ports t c ws s).pins = s.pins := rfl
@[simp] theorem sendOn_timing (ports : List Nat) (t : Int) (c : Nat) (ws : List Nat) (s : State) :
    (sendOn ports t c ws s).timing = s.timing := rfl
@[simp] theorem sendOn_cap (ports : List Nat) (t : Int) (c : Nat) (ws : List Nat) (s : State) :
    (sendOn ports t c ws s).cap = s.cap := rfl
@[simp] theorem sendOn_dds (ports : List Nat) (t : Int) (c : Nat) (ws : List Nat) (s : State) :
    (sendOn ports t c ws s).dds = s.dds := rfl
@[simp] theorem sendOn_time (ports : List Nat) (t : Int) (c : Nat) (ws : List Nat) (s : State) :
    (sendOn ports t c ws s).time = s.time := rfl
@[simp] theorem sendOn_halso (ports : List Nat) (t : Int) (c : Nat) (ws : List Nat) (s : State) :
    (sendOn ports t c ws s).halso = s.halso := rfl
@[simp] theorem sendOn_cal (ports : List Nat) (t : Int) (c : Nat) (ws : List Nat) (s : State) :
    (sendOn ports t c ws s).cal = s.cal := rfl
@[simp] theorem sendOn_perf (ports : List Nat) (t : Int) (c : Nat) (ws : List Nat) (s : State) :
    (sendOn ports t c ws s).perf = s.perf := rfl
@[simp] theorem sendOn_cfg (ports : List Nat) (t : Int) (c : Nat) (ws : List Nat) (s : State) :
    (sendOn ports t c ws s).cfg = s.cfg := rfl
@[simp] theorem sendOn_host (ports : List Nat) (t : Int) (c : Nat) (ws : List Nat) (s : State) :
    (sendOn ports t c ws s).host = s.host := rfl
@[simp] theorem sendOn_out (ports : List Nat) (t : Int) (c : Nat) (ws : List Nat) (s : State) :
    (sendOn ports t c ws s).out = ports.foldl (fun l p => putHalso t p c (haBlocks ws) l) s.out := rfl
@[simp] theorem sendOn_free (ports : List Nat) (t : Int) (c : Nat) (ws : List Nat) (s : State) :
    (sendOn ports t c ws s).free = s.free := rfl
@[simp] theorem sendOn_pending (ports : List Nat) (t : Int) (c : Nat) (ws : List Nat) (s : State) :
    (sendOn ports t c ws s).pending = s.pending := rfl
@[simp] theorem sendOn_site_view (ports : List Nat) (t : Int) (c : Nat) (ws : List Nat) (s : State) (k : Nat) :
    (sendOn ports t c ws s).site k = s.site k := rfl
@[simp] theorem sendOn_pin_view (ports : List Nat) (t : Int) (c : Nat) (ws : List Nat) (s : State) (k : Nat) :
    (sendOn ports t c ws s).pin k = s.pin k := rfl
@[simp] theorem sendOn_octet_view (ports : List Nat) (t : Int) (c : Nat) (ws : List Nat) (s : State) (k : Nat) :
    (sendOn ports t c ws s).octet k = s.octet k := rfl
@[simp] theorem sendOn_gen_view (ports : List Nat) (t : Int) (c : Nat) (ws : List Nat) (s : State) (k : Nat) :
    (sendOn ports t c ws s).gen k = s.gen k := rfl
@[simp] theorem sendOn_queue_view (ports : List Nat) (t : Int) (c : Nat) (ws : List Nat) (s : State) (k : Nat) :
    (sendOn ports t c ws s).queue k = s.queue k := rfl
@[simp] theorem sendOn_cmd_view (ports : List Nat) (t : Int) (c : Nat) (ws : List Nat) (s : State) (k : Nat) :
    (sendOn ports t c ws s).cmd k = s.cmd k := rfl
@[simp] theorem sendOn_plan_view (ports : List Nat) (t : Int) (c : Nat) (ws : List Nat) (s : State) (k : Nat) :
    (sendOn ports t c ws s).plan k = s.plan k := rfl

end Sys2Proof.Machine
end

