-- ==== Sys2Proof/Laws/Shared.lean ====
section
/-!
SUPPORT. What raising an interrupt and counting an event can do, once for every caller: status bits, pending bits,
counters and the output record change, and nothing else.
-/

namespace Sys2Proof.Machine

theorem signalled_refl (s : State) : signalled s s := ⟨_, _, _, _, rfl⟩

theorem signalled_trans {s t u : State} (h : signalled s t) (k : signalled t u) : signalled s u := by
  obtain ⟨a, b, c, d, rfl⟩ := h
  obtain ⟨a', b', c', d', rfl⟩ := k
  exact ⟨_, _, _, _, rfl⟩

theorem signalled_perf (f : Perf → Perf) (s : State) : signalled s (modPerf f s) := ⟨_, _, _, _, rfl⟩

theorem signalled_putMsix (v : Nat) (s : State) : signalled s (putMsix v s) := by
  unfold putMsix
  split
  · exact ⟨_, _, _, _, rfl⟩
  · exact ⟨_, _, _, _, rfl⟩

theorem signalled_irq (b : Nat) (s : State) :
    signalled s (modSys (fun y => { y with irqStatus := setBit y.irqStatus b true }) s) := ⟨_, _, _, _, rfl⟩

theorem signalled_sendMsix (v : Nat) (s : State) : signalled s (sendMsix v s) := by
  unfold sendMsix
  dsimp only
  split
  · exact signalled_putMsix v s
  · refine signalled_trans (signalled_putMsix v s) (signalled_trans (signalled_perf
      (fun _ => (perfBump 0x03C 0 1 (putMsix v s).perf).1) _) ?_)
    split
    · refine signalled_trans (signalled_irq 19 _) ?_
      split
      · split
        · exact signalled_putMsix _ _
        · exact signalled_trans (signalled_putMsix _ _) (signalled_perf _ _)
      · exact signalled_refl _
    · exact signalled_refl _

theorem signalled_raiseIrq (b : Nat) (s : State) : signalled s (raiseIrq b s) := by
  unfold raiseIrq
  dsimp only
  split
  · exact signalled_refl s
  · refine signalled_trans (signalled_irq b s) ?_
    split
    · exact signalled_sendMsix _ _
    · exact signalled_refl _

theorem signalled_perfFrom (code unit occ start : Nat) (s : State) : signalled s (perfFrom code unit occ start s) := by
  unfold perfFrom
  dsimp only
  split
  · refine signalled_trans (signalled_perf
      (fun _ => (List.range occ).foldl (fun p _ => psOccur code unit start p) (perfBump code unit occ s.perf).1) s) ?_
    split
    · exact signalled_raiseIrq _ _
    · exact signalled_refl _
  · exact signalled_refl s

theorem signalled_perfEvent (code unit occ : Nat) (s : State) : signalled s (perfEvent code unit occ s) :=
  signalled_perfFrom _ _ _ _ s

section Fields
variable {s t : State} (h : signalled s t)
include h
theorem signalled_dram : t.dram = s.dram := by obtain ⟨_, _, _, _, rfl⟩ := h; rfl
theorem signalled_vs : t.vs = s.vs := by obtain ⟨_, _, _, _, rfl⟩ := h; rfl
theorem signalled_sites : t.sites = s.sites := by obtain ⟨_, _, _, _, rfl⟩ := h; rfl
theorem signalled_barriers : t.barriers = s.barriers := by obtain ⟨_, _, _, _, rfl⟩ := h; rfl
theorem signalled_octets : t.octets = s.octets := by obtain ⟨_, _, _, _, rfl⟩ := h; rfl
theorem signalled_pins : t.pins = s.pins := by obtain ⟨_, _, _, _, rfl⟩ := h; rfl
theorem signalled_timing : t.timing = s.timing := by obtain ⟨_, _, _, _, rfl⟩ := h; rfl
theorem signalled_cap : t.cap = s.cap := by obtain ⟨_, _, _, _, rfl⟩ := h; rfl
theorem signalled_dds : t.dds = s.dds := by obtain ⟨_, _, _, _, rfl⟩ := h; rfl
theorem signalled_time : t.time = s.time := by obtain ⟨_, _, _, _, rfl⟩ := h; rfl
theorem signalled_halso : t.halso = s.halso := by obtain ⟨_, _, _, _, rfl⟩ := h; rfl
theorem signalled_cal : t.cal = s.cal := by obtain ⟨_, _, _, _, rfl⟩ := h; rfl
theorem signalled_cfg : t.cfg = s.cfg := by obtain ⟨_, _, _, _, rfl⟩ := h; rfl
theorem signalled_host : t.host = s.host := by obtain ⟨_, _, _, _, rfl⟩ := h; rfl
theorem signalled_free : t.free = s.free := by obtain ⟨_, _, _, _, rfl⟩ := h; rfl
theorem signalled_pending : t.pending = s.pending := by obtain ⟨_, _, _, _, rfl⟩ := h; rfl
theorem signalled_state : t.sys.state = s.sys.state := by obtain ⟨_, _, _, _, rfl⟩ := h; rfl
theorem signalled_cmds : t.hqm.cmds = s.hqm.cmds := by obtain ⟨_, _, _, _, rfl⟩ := h; rfl

theorem signalled_cmd (k : Nat) : t.cmd k = s.cmd k := by obtain ⟨_, _, _, _, rfl⟩ := h; rfl
theorem signalled_site (n : Nat) : t.site n = s.site n := by obtain ⟨_, _, _, _, rfl⟩ := h; rfl
theorem signalled_pin (n : Nat) : t.pin n = s.pin n := by obtain ⟨_, _, _, _, rfl⟩ := h; rfl
theorem signalled_octet (n : Nat) : t.octet n = s.octet n := by obtain ⟨_, _, _, _, rfl⟩ := h; rfl
theorem signalled_untraceable : t.untraceable = s.untraceable := by obtain ⟨_, _, _, _, rfl⟩ := h; rfl
end Fields

end Sys2Proof.Machine
end

