-- ==== Sys2Proof/Laws/Commands.lean ====
section
/-!
SUPPORT. What the shared operations of a command can do, once for every caller: the guard of a row that runs a
command, the guard of a host write, a completion, a change of one slot, a store into a memory.
-/

namespace Sys2Proof.Machine

/-- A completion gives its slot the status, the result and the span. -/
theorem doneAs_complete (k : Nat) (st : BitVec 8) (r : Nat) (s : State) : doneAs k st r s (complete k st r s) := by
  simp [doneAs, complete]

/-- A change of one slot leaves every other slot and the rest of the queue manager alone. -/
theorem onlySlot_modCmd (k : Nat) (f : Cmd → Cmd) (s : State) : onlySlot k s (modCmd k f s) :=
  ⟨fun _ h => modCmd_cmd_ne _ _ _ _ h, rfl⟩

/-- So does a completion. -/
theorem onlySlot_complete (k : Nat) (st : BitVec 8) (r : Nat) (s : State) : onlySlot k s (complete k st r s) :=
  onlySlot_modCmd ..

/-- A row of an opcode runs on the descriptor of a slot that holds a dispatched command of it. -/
theorem onCmd_pos {k : CmdSlot} {op : Nat} {s : State} {f : Desc → State → State} (h : s.holds k.val op = true) :
    onCmd k op s f = .next (f (s.cmd k.val).desc s) := by simp [onCmd, h]

/-- On any other slot it leaves the state as it is. -/
theorem onCmd_neg {k : CmdSlot} {op : Nat} {s : State} {f : Desc → State → State} (h : s.holds k.val op = false) :
    onCmd k op s f = .next s := by simp [onCmd, h]

/-- A host write reaches a block that answers. -/
theorem onBlock_pos {b : Bool} {s : State} {f : State → State} (h : s.blockOn b = true) :
    onBlock b s f = .next (f s) := by simp [onBlock, h]

/-- It changes nothing where the block does not answer. -/
theorem onBlock_neg {b : Bool} {s : State} {f : State → State} (h : s.blockOn b = false) :
    onBlock b s f = .next s := by simp [onBlock, h]

/-- A store writes its bytes and no others. -/
theorem wrote_store (m : Mem) (a : Nat) (bs : List Byte) : wrote a bs m (Mem.store m a bs) :=
  ⟨fun i h => by rw [Mem.byte_store_in _ _ _ _ h, List.getD_eq_getElem _ _ h],
   fun _ h => Mem.byte_store_out _ _ _ _ h⟩

end Sys2Proof.Machine
end

