-- ==== Sys2Proof/Laws/Kept.lean ====
section
/-!
SUPPORT. What an operation keeps: the parts of State outside a list, the canonical forms, the dispatch
cap. One lemma kept_<operation> per operation says it once, in the files that follow; the lemmas are not
tagged simp and are applied by name.
-/

namespace Sys2Proof.Machine

/-- From s to t only the parts of m have changed, and the canonical forms and the dispatch cap are kept. -/
structure Kept (m : List Part) (s t : State) : Prop where
  same : sameBut m s t
  mems : memsCanonical s → memsCanonical t
  tabs : tablesCanonical s → tablesCanonical t
  cap : dispatchCapped s → dispatchCapped t

variable {m : List Part} {s0 s : State}

theorem Kept.refl (m : List Part) (s : State) : Kept m s s :=
  ⟨fun x _ => by cases x <;> rfl, id, id, id⟩

theorem Part.same_trans (x : Part) {s t u : State} (h : x.same s t) (k : x.same t u) : x.same s u := by
  cases x <;> exact Eq.trans k h

theorem Kept.trans {s t u : State} (h : Kept m s t) (k : Kept m t u) : Kept m s u :=
  ⟨fun x hx => x.same_trans (h.same x hx) (k.same x hx), fun z => k.mems (h.mems z), fun z => k.tabs (h.tabs z),
    fun z => k.cap (h.cap z)⟩

theorem Kept.mono {m' : List Part} {s t : State} (h : Kept m s t) (hm : m ⊆ m') : Kept m' s t :=
  ⟨fun x hx => h.same x fun hy => hx (hm hy), h.mems, h.tabs, h.cap⟩

/-- Parts x changed, and nothing else. -/
theorem Kept.put {t : State} (x : List Part) (hm : x ⊆ m) (h : Kept m s0 s)
    (hs : ∀ y, y ∉ x → y.same s t) (hmem : memsCanonical s → memsCanonical t)
    (htab : tablesCanonical s → tablesCanonical t) (hcap : dispatchCapped s → dispatchCapped t) : Kept m s0 t :=
  h.trans ⟨fun y hy => hs y fun e => hy (hm e), hmem, htab, hcap⟩

theorem kept_modCal (f : Cal → Cal) (hm : [Part.cal] ⊆ m) (h : Kept m s0 s) :
    Kept m s0 (modCal f s) :=
  h.put _ hm (fun y hy => by cases y <;> first | rfl | exact absurd (by decide) hy) id id id

theorem kept_modHalso (f : Halso → Halso) (hm : [Part.halso] ⊆ m) (h : Kept m s0 s) :
    Kept m s0 (modHalso f s) :=
  h.put _ hm (fun y hy => by cases y <;> first | rfl | exact absurd (by decide) hy) id id id

theorem kept_modPerf (f : Perf → Perf) (hm : [Part.perf] ⊆ m) (h : Kept m s0 s) :
    Kept m s0 (modPerf f s) :=
  h.put _ hm (fun y hy => by cases y <;> first | rfl | exact absurd (by decide) hy) id id id

theorem kept_modCap (f : Cap → Cap) (hm : [Part.cap] ⊆ m) (h : Kept m s0 s) :
    Kept m s0 (modCap f s) :=
  h.put _ hm (fun y hy => by cases y <;> first | rfl | exact absurd (by decide) hy) id id id

theorem kept_modDds (f : Dds → Dds) (hm : [Part.dds] ⊆ m) (h : Kept m s0 s) :
    Kept m s0 (modDds f s) :=
  h.put _ hm (fun y hy => by cases y <;> first | rfl | exact absurd (by decide) hy) id id id

theorem kept_modTiming (f : Timing → Timing) (hm : [Part.timing] ⊆ m) (h : Kept m s0 s) :
    Kept m s0 (modTiming f s) :=
  h.put _ hm (fun y hy => by cases y <;> first | rfl | exact absurd (by decide) hy) id id id

theorem kept_modGen (n : Nat) (f : Gen → Gen) (hm : [Part.dds] ⊆ m) (h : Kept m s0 s) :
    Kept m s0 (modGen n f s) :=
  h.put _ hm (fun y hy => by cases y <;> first | rfl | exact absurd (by decide) hy) id id id

theorem kept_modPlan (n : Nat) (f : Plan → Plan) (hm : [Part.vs] ⊆ m) (h : Kept m s0 s) :
    Kept m s0 (modPlan n f s) :=
  h.put _ hm (fun y hy => by cases y <;> first | rfl | exact absurd (by decide) hy) id id id

theorem kept_modSiteCap (n : Nat) (f : SiteCap → SiteCap) (hm : [Part.cap] ⊆ m) (h : Kept m s0 s) :
    Kept m s0 (modSiteCap n f s) :=
  h.put _ hm (fun y hy => by cases y <;> first | rfl | exact absurd (by decide) hy) id id id

theorem kept_modEng (n : Nat) (f : CapEng → CapEng) (hm : [Part.cap] ⊆ m) (h : Kept m s0 s) :
    Kept m s0 (modEng n f s) :=
  h.put _ hm (fun y hy => by cases y <;> first | rfl | exact absurd (by decide) hy) id id id

theorem kept_modUnit (n : Nat) (f : TrigUnit → TrigUnit) (hm : [Part.cap] ⊆ m) (h : Kept m s0 s) :
    Kept m s0 (modUnit n f s) :=
  h.put _ hm (fun y hy => by cases y <;> first | rfl | exact absurd (by decide) hy) id id id

theorem kept_modGroup (n : Nat) (f : Group → Group) (hm : [Part.cap] ⊆ m) (h : Kept m s0 s) :
    Kept m s0 (modGroup n f s) :=
  h.put _ hm (fun y hy => by cases y <;> first | rfl | exact absurd (by decide) hy) id id id

theorem kept_modChan (n : Nat) (f : DramChan → DramChan) (hm : [Part.dram] ⊆ m) (h : Kept m s0 s) :
    Kept m s0 (modChan n f s) :=
  h.put _ hm (fun y hy => by cases y <;> first | rfl | exact absurd (by decide) hy) id id id

theorem kept_modPort (n : Nat) (f : HPort → HPort) (hm : [Part.halso] ⊆ m) (h : Kept m s0 s) :
    Kept m s0 (modPort n f s) :=
  h.put _ hm (fun y hy => by cases y <;> first | rfl | exact absurd (by decide) hy) id id id

theorem kept_modQueue (n : Nat) (f : Queue → Queue) (hm : [Part.hqm] ⊆ m) (h : Kept m s0 s) :
    Kept m s0 (modQueue n f s) :=
  h.put _ hm (fun y hy => by cases y <;> first | rfl | exact absurd (by decide) hy) id id id

theorem kept_modCmd (n : Nat) (f : Cmd → Cmd) (hm : [Part.hqm] ⊆ m) (h : Kept m s0 s) :
    Kept m s0 (modCmd n f s) :=
  h.put _ hm (fun y hy => by cases y <;> first | rfl | exact absurd (by decide) hy) id id id

theorem kept_modSite (n : Nat) (f : Site → Site) (hm : [Part.sites] ⊆ m) (h : Kept m s0 s) :
    Kept m s0 (modSite n f s) :=
  h.put _ hm (fun y hy => by cases y <;> first | rfl | exact absurd (by decide) hy) id (fun z => ⟨SMap.wf_mod _ _ _ z.1, z.2⟩) id

theorem kept_modOctet (n : Nat) (f : Octet → Octet) (hm : [Part.octets] ⊆ m) (h : Kept m s0 s) :
    Kept m s0 (modOctet n f s) :=
  h.put _ hm (fun y hy => by cases y <;> first | rfl | exact absurd (by decide) hy) id (fun z => ⟨z.1, z.2.1, SMap.wf_mod _ _ _ z.2.2.1, z.2.2.2⟩) id

theorem kept_modPin (n : Nat) (f : Pin → Pin) (hm : [Part.pins] ⊆ m) (h : Kept m s0 s) :
    Kept m s0 (modPin n f s) :=
  h.put _ hm (fun y hy => by cases y <;> first | rfl | exact absurd (by decide) hy) id (fun z => ⟨z.1, z.2.1, z.2.2.1, SMap.wf_mod _ _ _ z.2.2.2⟩) id

theorem kept_modSys (f : Sys → Sys) (hm : [Part.sys] ⊆ m) (hd : (f s.sys).state = s.sys.state) (h : Kept m s0 s) :
    Kept m s0 (modSys f s) :=
  h.put _ hm (fun y hy => by cases y <;> first | rfl | exact hd | exact absurd (by decide) hy) id id id

theorem kept_modSysState (f : Sys → Sys) (hm : [Part.sys, Part.devState] ⊆ m) (h : Kept m s0 s) :
    Kept m s0 (modSys f s) :=
  h.put _ hm (fun y hy => by cases y <;> first | rfl | exact absurd (by decide) hy) id id id

theorem kept_modTime (f : Time → Time) (hm : [Part.time] ⊆ m) (hd : (f s.time).span = s.time.span) (h : Kept m s0 s) :
    Kept m s0 (modTime f s) :=
  h.put _ hm (fun y hy => by cases y <;> first | rfl | exact hd | exact absurd (by decide) hy) id id id

theorem kept_modTimeClock (f : Time → Time) (hm : [Part.time, Part.clock] ⊆ m) (h : Kept m s0 s) :
    Kept m s0 (modTime f s) :=
  h.put _ hm (fun y hy => by cases y <;> first | rfl | exact absurd (by decide) hy) id id id

theorem kept_modHqm (f : Hqm → Hqm) (hm : [Part.hqm] ⊆ m) (hd : (f s.hqm).dispatched = s.hqm.dispatched) (h : Kept m s0 s) :
    Kept m s0 (modHqm f s) :=
  h.put _ hm (fun y hy => by cases y <;> first | rfl | exact hd | exact absurd (by decide) hy) id id (fun z => Nat.le_trans (Nat.le_of_eq hd) z)

theorem kept_modHqmCount (f : Hqm → Hqm) (hm : [Part.hqm, Part.dispatched] ⊆ m) (hd : s.hqm.dispatched ≤ 128 → (f s.hqm).dispatched ≤ 128) (h : Kept m s0 s) :
    Kept m s0 (modHqm f s) :=
  h.put _ hm (fun y hy => by cases y <;> first | rfl | exact absurd (by decide) hy) id id hd

theorem kept_modDram (f : Dram → Dram) (hm : [Part.dram] ⊆ m) (hd : (f s.dram).mem = s.dram.mem) (h : Kept m s0 s) :
    Kept m s0 (modDram f s) :=
  h.put _ hm (fun y hy => by cases y <;> first | rfl | exact hd | exact absurd (by decide) hy) (fun z => ⟨(congrArg Mem.wf hd).trans z.1, z.2⟩) id id

theorem kept_modDramMem (f : Dram → Dram) (hm : [Part.dram, Part.dramMem] ⊆ m) (hd : Mem.wf s.dram.mem = true → Mem.wf (f s.dram).mem = true) (h : Kept m s0 s) :
    Kept m s0 (modDram f s) :=
  h.put _ hm (fun y hy => by cases y <;> first | rfl | exact absurd (by decide) hy) (fun z => ⟨hd z.1, z.2⟩) id id

theorem kept_modVs (f : Vstore → Vstore) (hm : [Part.vs] ⊆ m) (hd : (f s.vs).mem = s.vs.mem) (h : Kept m s0 s) :
    Kept m s0 (modVs f s) :=
  h.put _ hm (fun y hy => by cases y <;> first | rfl | exact hd | exact absurd (by decide) hy) (fun z => ⟨z.1, (congrArg Mem.wf hd).trans z.2.1, z.2.2⟩) id id

theorem kept_modVsMem (f : Vstore → Vstore) (hm : [Part.vs, Part.vsMem] ⊆ m) (hd : memsCanonical s → Mem.wf (f s.vs).mem = true) (h : Kept m s0 s) :
    Kept m s0 (modVs f s) :=
  h.put _ hm (fun y hy => by cases y <;> first | rfl | exact absurd (by decide) hy) (fun z => ⟨z.1, hd z, z.2.2⟩) id id

theorem kept_modCfg (f : Cfg → Cfg) (hm : [Part.cfg] ⊆ m) (hd : (f s.cfg).flash = s.cfg.flash) (h : Kept m s0 s) :
    Kept m s0 (modCfg f s) :=
  h.put _ hm (fun y hy => by cases y <;> first | rfl | exact hd | exact absurd (by decide) hy) (fun z => ⟨z.1, z.2.1, z.2.2.1, (congrArg Mem.wf hd).trans z.2.2.2⟩) id id

theorem kept_modCfgFlash (f : Cfg → Cfg) (hm : [Part.cfg, Part.flash] ⊆ m) (hd : Mem.wf s.cfg.flash = true → Mem.wf (f s.cfg).flash = true) (h : Kept m s0 s) :
    Kept m s0 (modCfg f s) :=
  h.put _ hm (fun y hy => by cases y <;> first | rfl | exact absurd (by decide) hy) (fun z => ⟨z.1, z.2.1, z.2.2.1, hd z.2.2.2⟩) id id

theorem kept_emit (o : Out) (hm : [Part.out] ⊆ m) (h : Kept m s0 s) :
    Kept m s0 (emit o s) :=
  h.put _ hm (fun y hy => by cases y <;> first | rfl | exact absurd (by decide) hy) id id id

theorem kept_emitAll (l : List Out) (hm : [Part.out] ⊆ m) (h : Kept m s0 s) :
    Kept m s0 (emitAll l s) :=
  h.put _ hm (fun y hy => by cases y <;> first | rfl | exact absurd (by decide) hy) id id id

theorem kept_sendOn (ports : List Nat) (t : Int) (cls : Nat) (ws : List Nat) (hm : [Part.out] ⊆ m) (h : Kept m s0 s) :
    Kept m s0 (sendOn ports t cls ws s) :=
  h.put _ hm (fun y hy => by cases y <;> first | rfl | exact absurd (by decide) hy) id id id

theorem kept_setFree (n : Nat) (hm : [Part.free] ⊆ m) (h : Kept m s0 s) :
    Kept m s0 (setFree n s) :=
  h.put _ hm (fun y hy => by cases y <;> first | rfl | exact absurd (by decide) hy) id id id

theorem kept_atGrain (t : Grain) (hm : [Part.time] ⊆ m) (h : Kept m s0 s) : Kept m s0 (atGrain t s) :=
  kept_modTime _ hm rfl h

theorem kept_hostStore (a : Nat) (bs : List Byte) (hm : [Part.host] ⊆ m) (h : Kept m s0 s) :
    Kept m s0 (hostStore a bs s) :=
  h.put _ hm (fun y hy => by cases y <;> first | rfl | exact absurd (by decide) hy) (fun z => ⟨z.1, z.2.1, Mem.wf_store _ _ _ z.2.2.1, z.2.2.2⟩) id id

theorem kept_setPins (v : SMap Pin) (hm : [Part.pins] ⊆ m) (hv : tablesCanonical s0 → SMap.wf v = true)
    (h : Kept m s0 s) : Kept m s0 (setPins v s) :=
  ⟨fun x hx => x.same_trans (h.same x hx) (by cases x <;> first | rfl | exact absurd (hm (by decide)) hx), h.mems,
    fun z => ⟨(h.tabs z).1, (h.tabs z).2.1, (h.tabs z).2.2.1, hv z⟩, h.cap⟩

theorem kept_mapPins (f : Nat → Pin → Pin) (hm : [Part.pins] ⊆ m) (h : Kept m s0 s) :
    Kept m s0 (mapPins f s) :=
  h.put _ hm (fun y hy => by cases y <;> first | rfl | exact absurd (by decide) hy) id (fun z => ⟨z.1, z.2.1, z.2.2.1, SMap.wf_mapAll _ _ z.2.2.2⟩) id

theorem kept_mapOctets (f : Nat → Octet → Octet) (hm : [Part.octets] ⊆ m) (h : Kept m s0 s) :
    Kept m s0 (mapOctets f s) :=
  h.put _ hm (fun y hy => by cases y <;> first | rfl | exact absurd (by decide) hy) id (fun z => ⟨z.1, z.2.1, SMap.wf_mapAll _ _ z.2.2.1, z.2.2.2⟩) id

theorem kept_modBarrier (p b : Nat) (f : Barrier → Barrier) (hm : [Part.barriers] ⊆ m) (h : Kept m s0 s) :
    Kept m s0 (modBarrier p b f s) :=
  h.put _ hm (fun y hy => by cases y <;> first | rfl | exact absurd (by decide) hy) id (fun z => ⟨z.1, SMap.wf_mod _ _ _ z.2.1, z.2.2⟩) id

theorem kept_dropBarriers (ns : List Nat) (hm : [Part.barriers] ⊆ m) (h : Kept m s0 s) :
    Kept m s0 (dropBarriers ns s) :=
  h.put _ hm (fun y hy => by cases y <;> first | rfl | exact absurd (by decide) hy) id (fun z => ⟨z.1, SMap.wf_filter _ _ z.2.1, z.2.2⟩) id

theorem kept_noSites  (hm : [Part.sites, Part.barriers] ⊆ m) (h : Kept m s0 s) :
    Kept m s0 (noSites s) :=
  h.put _ hm (fun y hy => by cases y <;> first | rfl | exact absurd (by decide) hy) id (fun z => ⟨SMap.wf_nil, SMap.wf_nil, z.2.2⟩) id

/-! ## Folds -/

theorem kept_foldl {α : Type} (f : State → α → State) (l : List α) (hf : ∀ t a, Kept m s0 t → Kept m s0 (f t a)) :
    ∀ {s : State}, Kept m s0 s → Kept m s0 (l.foldl f s) := by
  induction l with
  | nil => intro s h; exact h
  | cons a l ih => intro s h; exact ih (hf s a h)

theorem kept_foldl_fst {α β : Type} (f : State × β → α → State × β) (l : List α)
    (hf : ∀ t a, Kept m s0 t.1 → Kept m s0 (f t a).1) :
    ∀ {x : State × β}, Kept m s0 x.1 → Kept m s0 (l.foldl f x).1 := by
  induction l with
  | nil => intro s h; exact h
  | cons a l ih => intro s h; exact ih (hf s a h)

theorem kept_foldl_snd {α β : Type} (f : β × State → α → β × State) (l : List α)
    (hf : ∀ t a, Kept m s0 t.2 → Kept m s0 (f t a).2) :
    ∀ {x : β × State}, Kept m s0 x.2 → Kept m s0 (l.foldl f x).2 := by
  induction l with
  | nil => intro s h; exact h
  | cons a l ih => intro s h; exact ih (hf s a h)

theorem kept_elim {α : Type} (o : Option α) {f : α → State} (hf : ∀ v, Kept m s0 (f v)) (h : Kept m s0 s) :
    Kept m s0 (o.elim s f) := by
  cases o
  · exact h
  · exact hf _

/-! ## Answers -/

/-- A state that may be answered is kept. -/
def KeptO (m : List Part) (s0 : State) (o : Option State) : Prop := ∀ t, o = some t → Kept m s0 t

theorem keptO_none : KeptO m s0 none := fun _ h => nomatch h

theorem keptO_map {α : Type} (o : Option α) {f : α → State} (hf : ∀ v, Kept m s0 (f v)) : KeptO m s0 (o.map f) := by
  cases o
  · exact keptO_none
  · exact fun _ e => Option.some.inj e ▸ hf _

theorem keptO_some (h : Kept m s0 s) : KeptO m s0 (some s) := fun _ e => Option.some.inj e ▸ h


/-- A command answers a next state that is kept. -/
def KeptR (m : List Part) (s0 : State) : Res → Prop
  | .next t => Kept m s0 t
  | .fault _ => False
  | .refused _ => False

theorem keptR_next (h : Kept m s0 s) : KeptR m s0 (.next s) := h

theorem keptR_onCmd (k : CmdSlot) (op : Nat) (f : Desc → State → State)
    (hf : ∀ d t, Kept m s0 t → Kept m s0 (f d t)) (h : Kept m s0 s) : KeptR m s0 (onCmd k op s f) := by
  unfold onCmd
  split
  · exact hf _ _ h
  · exact h

theorem keptR_onBlock (b : Bool) (f : State → State) (hf : ∀ t, Kept m s0 t → Kept m s0 (f t)) (h : Kept m s0 s) :
    KeptR m s0 (onBlock b s f) := by
  unfold onBlock
  split
  · exact hf _ h
  · exact h

end Sys2Proof.Machine
end

