-- ==== Sys2Proof/Laws/KeptOps.lean ====
section
/-!
SUPPORT. What the operations of Machine/Ops.lean keep.
-/

namespace Sys2Proof.Machine

set_option linter.unusedTactic false
set_option linter.unreachableTactic false
set_option linter.unusedVariables false

variable {m : List Part} {s0 s : State}

theorem kept_putMsix (v : Nat) (hm : [.hqm, .out] ⊆ m) (h : Kept m s0 s) : Kept m s0 (putMsix v s) := by
  unfold putMsix
  try dsimp only
  repeat' first
    | with_reducible assumption | with_reducible exact List.Subset.trans (by decide) hm
    | with_reducible refine kept_modHqm _ ?_ rfl ?_ | with_reducible apply kept_emit | exact fun z => z | split
    | with_reducible apply kept_foldl | (intro t a ht; try dsimp only) | (intro t ht; try dsimp only)

theorem kept_sendMsix (v : Nat) (hm : [.sys, .hqm, .perf, .out] ⊆ m) (h : Kept m s0 s) : Kept m s0 (sendMsix v
    s) := by
  unfold sendMsix
  try dsimp only
  repeat' first
    | with_reducible assumption | with_reducible exact List.Subset.trans (by decide) hm
    | with_reducible apply kept_putMsix | with_reducible apply kept_modPerf
    | with_reducible refine kept_modSys _ ?_ rfl ?_ | exact fun z => z | split
    | with_reducible apply kept_foldl | (intro t a ht; try dsimp only) | (intro t ht; try dsimp only)

theorem kept_raiseIrq (b : Nat) (hm : [.sys, .hqm, .perf, .out] ⊆ m) (h : Kept m s0 s) : Kept m s0 (raiseIrq b
    s) := by
  unfold raiseIrq
  try dsimp only
  repeat' first
    | with_reducible assumption | with_reducible exact List.Subset.trans (by decide) hm
    | with_reducible refine kept_modSys _ ?_ rfl ?_ | with_reducible apply kept_sendMsix | exact fun z => z
    | split | with_reducible apply kept_foldl | (intro t a ht; try dsimp only) | (intro t ht; try dsimp only)

theorem kept_perfFrom (code : Nat) (unit : Nat) (occ : Nat) (start : Nat) (hm : [.sys, .hqm, .perf, .out] ⊆ m)
    (h : Kept m s0 s) : Kept m s0 (perfFrom code unit occ start s) := by
  unfold perfFrom
  try dsimp only
  repeat' first
    | with_reducible assumption | with_reducible exact List.Subset.trans (by decide) hm
    | with_reducible apply kept_modPerf | with_reducible apply kept_raiseIrq | exact fun z => z | split
    | with_reducible apply kept_foldl | (intro t a ht; try dsimp only) | (intro t ht; try dsimp only)

theorem kept_perfEvent (code : Nat) (unit : Nat) (occ : Nat) (hm : [.sys, .hqm, .perf, .out] ⊆ m) (h : Kept m s0
    s) : Kept m s0 (perfEvent code unit occ s) := by
  unfold perfEvent
  try dsimp only
  repeat' first
    | with_reducible assumption | with_reducible exact List.Subset.trans (by decide) hm
    | with_reducible apply kept_perfFrom | exact fun z => z | split | with_reducible apply kept_foldl
    | (intro t a ht; try dsimp only) | (intro t ht; try dsimp only)

theorem kept_sendSide0 (d : Nat) (t : Int) (ws : List Nat) (hm : [.out] ⊆ m) (h : Kept m s0 s) : Kept m s0
    (sendSide0 d t ws s) := by
  unfold sendSide0
  try dsimp only
  repeat' first
    | with_reducible assumption | with_reducible exact List.Subset.trans (by decide) hm
    | with_reducible apply kept_sendOn | exact fun z => z | split | with_reducible apply kept_foldl
    | (intro t a ht; try dsimp only) | (intro t ht; try dsimp only)

theorem kept_sendSide (d : Nat) (t : Int) (cls : Nat) (ws : List Nat) (hm : [.halso, .out] ⊆ m) (h : Kept m s0
    s) : Kept m s0 (sendSide d t cls ws s) := by
  unfold sendSide
  try dsimp only
  repeat' first
    | with_reducible assumption | with_reducible exact List.Subset.trans (by decide) hm
    | with_reducible apply kept_modHalso | with_reducible apply kept_sendOn | exact fun z => z | split
    | with_reducible apply kept_foldl | (intro t a ht; try dsimp only) | (intro t ht; try dsimp only)

theorem kept_broadcast0 (t : Int) (ws : List Nat) (hm : [.out] ⊆ m) (h : Kept m s0 s) : Kept m s0 (broadcast0 t
    ws s) := by
  unfold broadcast0
  try dsimp only
  repeat' first
    | with_reducible assumption | with_reducible exact List.Subset.trans (by decide) hm
    | with_reducible apply kept_sendSide0 | exact fun z => z | split | with_reducible apply kept_foldl
    | (intro t a ht; try dsimp only) | (intro t ht; try dsimp only)

theorem kept_broadcast2 (t : Int) (ws : List Nat) (hm : [.halso, .out] ⊆ m) (h : Kept m s0 s) : Kept m s0
    (broadcast2 t ws s) := by
  unfold broadcast2
  try dsimp only
  repeat' first
    | with_reducible assumption | with_reducible exact List.Subset.trans (by decide) hm
    | with_reducible apply kept_sendSide | exact fun z => z | split | with_reducible apply kept_foldl
    | (intro t a ht; try dsimp only) | (intro t ht; try dsimp only)

theorem kept_complete (k : Nat) (status : BitVec 8) (result : Nat) (hm : [.hqm] ⊆ m) (h : Kept m s0 s) : Kept m
    s0 (complete k status result s) := by
  unfold complete
  try dsimp only
  repeat' first
    | with_reducible assumption | with_reducible exact List.Subset.trans (by decide) hm
    | with_reducible apply kept_modCmd | exact fun z => z | split | with_reducible apply kept_foldl
    | (intro t a ht; try dsimp only) | (intro t ht; try dsimp only)

theorem kept_completeOpt (k : Option Nat) (status : BitVec 8) (result : Nat) (hm : [.hqm] ⊆ m) (h : Kept m s0 s)
    : Kept m s0 (completeOpt k status result s) := by
  unfold completeOpt
  try dsimp only
  repeat' first
    | with_reducible assumption | with_reducible exact List.Subset.trans (by decide) hm
    | with_reducible apply kept_complete | exact fun z => z | split | with_reducible apply kept_foldl
    | (intro t a ht; try dsimp only) | (intro t ht; try dsimp only)

theorem kept_begin_ (k : Nat) (hm : [.hqm] ⊆ m) (h : Kept m s0 s) : Kept m s0 (begin_ k s) := by
  unfold begin_
  try dsimp only
  repeat' first
    | with_reducible assumption | with_reducible exact List.Subset.trans (by decide) hm
    | with_reducible apply kept_modCmd | exact fun z => z | split | with_reducible apply kept_foldl
    | (intro t a ht; try dsimp only) | (intro t ht; try dsimp only)

theorem kept_restartRefresh (hm : [.dram] ⊆ m) (h : Kept m s0 s) : Kept m s0 (restartRefresh s) := by
  unfold restartRefresh
  try dsimp only
  repeat' first
    | with_reducible assumption | with_reducible exact List.Subset.trans (by decide) hm
    | with_reducible refine kept_modDram _ ?_ rfl ?_ | exact fun z => z | split
    | with_reducible apply kept_foldl | (intro t a ht; try dsimp only) | (intro t ht; try dsimp only)

theorem kept_wakeDram (hm : [.dram] ⊆ m) (h : Kept m s0 s) : Kept m s0 (wakeDram s) := by
  unfold wakeDram
  try dsimp only
  repeat' first
    | with_reducible assumption | with_reducible exact List.Subset.trans (by decide) hm
    | with_reducible apply kept_restartRefresh | exact fun z => z | split | with_reducible apply kept_foldl
    | (intro t a ht; try dsimp only) | (intro t ht; try dsimp only)

theorem kept_restDram (hm : [.dram] ⊆ m) (h : Kept m s0 s) : Kept m s0 (restDram s) := by
  unfold restDram
  try dsimp only
  repeat' first
    | with_reducible assumption | with_reducible exact List.Subset.trans (by decide) hm
    | with_reducible refine kept_modDram _ ?_ rfl ?_ | exact fun z => z | split
    | with_reducible apply kept_foldl | (intro t a ht; try dsimp only) | (intro t ht; try dsimp only)

theorem kept_queueBe (r : BeReq) (hm : [.dram] ⊆ m) (h : Kept m s0 s) : Kept m s0 (queueBe r s) := by
  unfold queueBe
  try dsimp only
  repeat' first
    | with_reducible assumption | with_reducible exact List.Subset.trans (by decide) hm
    | with_reducible refine kept_modDram _ ?_ rfl ?_ | exact fun z => z | split
    | with_reducible apply kept_foldl | (intro t a ht; try dsimp only) | (intro t ht; try dsimp only)

theorem kept_engineStore (a : ℕ) (bs : List Byte) (hm : [.dram, .dramMem] ⊆ m) (h : Kept m s0 s) :
    Kept m s0 (engineStore a bs s) :=
  kept_modDramMem _ hm (fun z => Mem.wf_store _ _ _ z) h

theorem kept_drawFree (hm : [.free] ⊆ m) (h : Kept m s0 s) : Kept m s0 (drawFree s).2 :=
  kept_setFree _ hm h

theorem kept_enterState (d : DevState) (hm : [.sys, .hqm, .perf, .out, .devState] ⊆ m) (h : Kept m s0 s) : Kept
    m s0 (enterState d s) := by
  unfold enterState
  try dsimp only
  repeat' first
    | with_reducible assumption | with_reducible exact List.Subset.trans (by decide) hm
    | with_reducible apply kept_raiseIrq | with_reducible refine kept_modSys _ ?_ rfl ?_
    | with_reducible apply kept_modSysState | exact fun z => z | split | with_reducible apply kept_foldl
    | (intro t a ht; try dsimp only) | (intro t ht; try dsimp only)

theorem kept_refuseReq (code : BitVec 3) (hm : [.sys] ⊆ m) (h : Kept m s0 s) : Kept m s0 (refuseReq code s) :=
    by
  unfold refuseReq
  try dsimp only
  repeat' first
    | with_reducible assumption | with_reducible exact List.Subset.trans (by decide) hm
    | with_reducible refine kept_modSys _ ?_ rfl ?_ | exact fun z => z | split
    | with_reducible apply kept_foldl | (intro t a ht; try dsimp only) | (intro t ht; try dsimp only)

end Sys2Proof.Machine
end

