-- ==== Sys2Proof/Laws/KeptHqm.lean ====
section
/-!
SUPPORT. What the operations of Machine/Hqm.lean keep.
-/

namespace Sys2Proof.Machine

set_option linter.unusedTactic false
set_option linter.unreachableTactic false
set_option linter.unusedVariables false

variable {m : List Part} {s0 s : State}

theorem kept_hqmError (q : Nat) (kind : BitVec 3) (irq : Bool) (hm : [.sys, .hqm, .perf, .out] ⊆ m) (h : Kept m
    s0 s) : Kept m s0 (hqmError q kind irq s) := by
  unfold hqmError
  try dsimp only
  repeat' first
    | with_reducible assumption | with_reducible exact List.Subset.trans (by decide) hm
    | with_reducible refine kept_modHqm _ ?_ rfl ?_ | with_reducible apply kept_raiseIrq | exact fun z => z
    | split | with_reducible apply kept_foldl | (intro t a ht; try dsimp only) | (intro t ht; try dsimp only)

theorem kept_promoteOne (acc : State × List ℕ) (k : ℕ) (hm : [.hqm] ⊆ m) (h : Kept m s0 acc.1) :
    Kept m s0 (promoteOne acc k).1 := by
  unfold promoteOne
  dsimp only
  split
  · exact kept_complete _ _ _ (List.Subset.trans (by decide) hm) h
  · exact h
  · split
    · exact kept_modCmd _ _ (List.Subset.trans (by decide) hm) h
    · exact h

theorem kept_promoteList (ks : List ℕ) (front : Bool) (hm : [.hqm] ⊆ m) (h : Kept m s0 s) :
    Kept m s0 (promoteList ks front s) := by
  unfold promoteList
  dsimp only
  exact kept_modHqm _ hm rfl (kept_foldl_fst promoteOne ks (fun t k ht => kept_promoteOne t k hm ht) h)

theorem kept_promote (hm : [.hqm] ⊆ m) (h : Kept m s0 s) : Kept m s0 (promote s) := by
  unfold promote
  try dsimp only
  repeat' first
    | with_reducible assumption | with_reducible exact List.Subset.trans (by decide) hm
    | with_reducible apply kept_promoteList | exact fun z => z | split | with_reducible apply kept_foldl
    | (intro t a ht; try dsimp only) | (intro t ht; try dsimp only)

theorem kept_takeDesc (q : Nat) (d : Desc) (hm : [.sys, .hqm, .perf, .out] ⊆ m) (h : Kept m s0 s) : Kept m s0
    (takeDesc q d s) := by
  unfold takeDesc
  try dsimp only
  repeat' first
    | with_reducible assumption | with_reducible exact List.Subset.trans (by decide) hm
    | with_reducible refine kept_modHqm _ ?_ rfl ?_ | with_reducible apply kept_modQueue
    | with_reducible apply kept_perfEvent | with_reducible apply kept_complete | exact fun z => z | split
    | with_reducible apply kept_foldl | (intro t a ht; try dsimp only) | (intro t ht; try dsimp only)

theorem kept_takeAll (q : ℕ) (l : List (Option Desc)) (n : ℕ) (hm : [.sys, .hqm, .perf, .out] ⊆ m) :
    ∀ {s : State}, Kept m s0 s → Kept m s0 (takeAll q l n s) := by
  induction l generalizing n with
  | nil => intro s h; cases n <;> exact h
  | cons d ds ih =>
    intro s h
    cases n with
    | zero => cases d <;> exact h
    | succ n =>
      cases d with
      | none =>
        exact kept_hqmError _ _ _ (List.Subset.trans (by decide) hm)
          (kept_modQueue _ _ (List.Subset.trans (by decide) hm) h)
      | some d =>
        unfold takeAll
        split
        · exact h
        · split
          · exact kept_modQueue _ _ (List.Subset.trans (by decide) hm) h
          · exact ih n (kept_takeDesc _ _ (List.Subset.trans (by decide) hm)
              (kept_modQueue _ _ (List.Subset.trans (by decide) hm) h))

theorem kept_headWriteback (q : Nat) (hm : [.hqm, .host] ⊆ m) (h : Kept m s0 s) : Kept m s0 (headWriteback q s)
    := by
  unfold headWriteback
  try dsimp only
  repeat' first
    | with_reducible assumption | with_reducible exact List.Subset.trans (by decide) hm
    | with_reducible apply kept_modQueue | with_reducible apply kept_hostStore | exact fun z => z | split
    | with_reducible apply kept_foldl | (intro t a ht; try dsimp only) | (intro t ht; try dsimp only)

theorem kept_execDescriptorFetch (data : List (Option Desc)) (hm : [.sys, .hqm, .perf, .host, .out] ⊆ m) (h :
    Kept m s0 s) : KeptR m s0 (execDescriptorFetch data s) := by
  unfold execDescriptorFetch
  try dsimp only
  repeat' first
    | with_reducible assumption | with_reducible exact List.Subset.trans (by decide) hm
    | with_reducible refine kept_modHqm _ ?_ rfl ?_ | with_reducible apply kept_promote
    | with_reducible apply kept_headWriteback | with_reducible apply kept_takeAll
    | with_reducible apply keptR_next | exact fun z => z | split | with_reducible apply kept_foldl
    | (intro t a ht; try dsimp only) | (intro t ht; try dsimp only)

theorem kept_expireDelays (hm : [.hqm] ⊆ m) (h : Kept m s0 s) : Kept m s0 (expireDelays s) := by
  unfold expireDelays
  try dsimp only
  repeat' first
    | with_reducible assumption | with_reducible exact List.Subset.trans (by decide) hm
    | with_reducible apply kept_promoteList | with_reducible apply kept_modCmd | exact fun z => z | split
    | with_reducible apply kept_foldl | (intro t a ht; try dsimp only) | (intro t ht; try dsimp only)

theorem kept_execDelayListExpiry (hm : [.hqm] ⊆ m) (h : Kept m s0 s) : KeptR m s0 (execDelayListExpiry s) := by
  unfold execDelayListExpiry
  try dsimp only
  repeat' first
    | with_reducible assumption | with_reducible exact List.Subset.trans (by decide) hm
    | with_reducible apply kept_expireDelays | with_reducible apply keptR_next | exact fun z => z | split
    | with_reducible apply kept_foldl | (intro t a ht; try dsimp only) | (intro t ht; try dsimp only)

theorem kept_execCommandDispatch (hm : [.sys, .hqm, .perf, .out, .dispatched] ⊆ m) (h : Kept m s0 s) :
    KeptR m s0 (execCommandDispatch s) := by
  unfold execCommandDispatch
  split
  · exact h
  · split
    next hc =>
      simp only [Bool.and_eq_true, decide_eq_true_eq] at hc
      dsimp only
      repeat' first
        | with_reducible apply keptR_next | with_reducible assumption
        | with_reducible exact List.Subset.trans (by decide) hm | with_reducible apply kept_promote
        | with_reducible refine kept_modSys _ ?_ rfl ?_ | with_reducible apply kept_perfEvent
        | with_reducible apply kept_modCmd | with_reducible apply kept_modHqmCount | exact fun _ => Nat.succ_le_of_lt hc.1.2
        | split
    next => exact h

theorem kept_signalQueue (q : Nat) (hm : [.sys, .hqm, .perf, .out] ⊆ m) (h : Kept m s0 s) : Kept m s0
    (signalQueue q s) := by
  unfold signalQueue
  try dsimp only
  repeat' first
    | with_reducible assumption | with_reducible exact List.Subset.trans (by decide) hm
    | with_reducible apply kept_sendMsix | with_reducible apply kept_modQueue | exact fun z => z | split
    | with_reducible apply kept_foldl | (intro t a ht; try dsimp only) | (intro t ht; try dsimp only)

theorem kept_postEntry (q : Nat) (entry : BitVec 128) (spilled : Bool) (irqNow : Bool) (hm : [.sys, .hqm, .perf,
    .host, .out] ⊆ m) (h : Kept m s0 s) : Kept m s0 (postEntry q entry spilled irqNow s) := by
  unfold postEntry
  try dsimp only
  repeat' first
    | with_reducible assumption | with_reducible exact List.Subset.trans (by decide) hm
    | with_reducible apply kept_hostStore | with_reducible apply kept_modQueue
    | with_reducible apply kept_perfEvent | with_reducible apply kept_signalQueue | exact fun z => z | split
    | with_reducible apply kept_foldl | (intro t a ht; try dsimp only) | (intro t ht; try dsimp only)

theorem kept_spillEntry (q : Nat) (entry : BitVec 128) (irqNow : Bool) (hm : [.sys, .hqm, .dram, .perf, .out] ⊆
    m) (h : Kept m s0 s) : Kept m s0 (spillEntry q entry irqNow s) := by
  unfold spillEntry
  try dsimp only
  repeat' first
    | with_reducible assumption | with_reducible exact List.Subset.trans (by decide) hm
    | with_reducible refine kept_modHqm _ ?_ rfl ?_ | with_reducible apply kept_queueBe
    | with_reducible apply kept_perfEvent | with_reducible apply kept_raiseIrq | exact fun z => z | split
    | with_reducible apply kept_foldl | (intro t a ht; try dsimp only) | (intro t ht; try dsimp only)

theorem kept_freeCmd (k : Nat) (hm : [.hqm] ⊆ m) (h : Kept m s0 s) : Kept m s0 (freeCmd k s) := by
  unfold freeCmd
  try dsimp only
  repeat' first
    | with_reducible assumption | with_reducible exact List.Subset.trans (by decide) hm
    | with_reducible refine kept_modHqm _ ?_ rfl ?_ | exact fun z => z | split
    | with_reducible apply kept_foldl | (intro t a ht; try dsimp only) | (intro t ht; try dsimp only)

theorem kept_execCompletionRelease (k : CmdSlot) (hm : [.sys, .hqm, .dram, .perf, .host, .out] ⊆ m) (h : Kept m
    s0 s) : KeptR m s0 (execCompletionRelease k s) := by
  unfold execCompletionRelease
  try dsimp only
  repeat' first
    | with_reducible assumption | with_reducible exact List.Subset.trans (by decide) hm
    | with_reducible apply kept_spillEntry | with_reducible apply kept_postEntry
    | with_reducible apply kept_promote | with_reducible apply kept_freeCmd | with_reducible apply keptR_next
    | exact fun z => z | split | with_reducible apply kept_foldl | (intro t a ht; try dsimp only)
    | (intro t ht; try dsimp only)

theorem kept_execPostedCreditTimeout (k : CmdSlot) (hm : [.sys, .hqm, .dram, .perf, .out] ⊆ m) (h : Kept m s0 s)
    : KeptR m s0 (execPostedCreditTimeout k s) := by
  unfold execPostedCreditTimeout
  try dsimp only
  repeat' first
    | with_reducible assumption | with_reducible exact List.Subset.trans (by decide) hm
    | with_reducible apply kept_promote | with_reducible apply kept_freeCmd
    | with_reducible apply kept_spillEntry | with_reducible apply keptR_next | exact fun z => z | split
    | with_reducible apply kept_foldl | (intro t a ht; try dsimp only) | (intro t ht; try dsimp only)

theorem kept_execSpillMove (q : QueueId) (hm : [.sys, .hqm, .perf, .host, .out] ⊆ m) (h : Kept m s0 s) : KeptR m
    s0 (execSpillMove q s) := by
  unfold execSpillMove
  try dsimp only
  repeat' first
    | with_reducible assumption | with_reducible exact List.Subset.trans (by decide) hm
    | with_reducible apply kept_postEntry | with_reducible refine kept_modHqm _ ?_ rfl ?_
    | with_reducible apply keptR_next | exact fun z => z | split | with_reducible apply kept_foldl
    | (intro t a ht; try dsimp only) | (intro t ht; try dsimp only)

theorem kept_execMsixModerationTimeout (q : QueueId) (hm : [.sys, .hqm, .perf, .out] ⊆ m) (h : Kept m s0 s) :
    KeptR m s0 (execMsixModerationTimeout q s) := by
  unfold execMsixModerationTimeout
  try dsimp only
  repeat' first
    | with_reducible assumption | with_reducible exact List.Subset.trans (by decide) hm
    | with_reducible apply kept_signalQueue | with_reducible apply keptR_next | exact fun z => z | split
    | with_reducible apply kept_foldl | (intro t a ht; try dsimp only) | (intro t ht; try dsimp only)

theorem kept_execDoorbellWrite (off : BitVec 19) (size : Nat) (v : W64) (hm : [.sys, .hqm, .perf, .out] ⊆ m) (h
    : Kept m s0 s) : KeptR m s0 (execDoorbellWrite off size v s) := by
  unfold execDoorbellWrite
  try dsimp only
  repeat' first
    | with_reducible assumption | with_reducible exact List.Subset.trans (by decide) hm
    | with_reducible apply kept_modQueue | with_reducible apply kept_hqmError | with_reducible apply keptR_next
    | exact fun z => z | split | with_reducible apply kept_foldl | (intro t a ht; try dsimp only)
    | (intro t ht; try dsimp only)

theorem kept_qctxRefuse (q : Nat) (hm : [.sys, .hqm, .perf, .out] ⊆ m) (h : Kept m s0 s) : Kept m s0 (qctxRefuse
    q s) := by
  unfold qctxRefuse
  try dsimp only
  repeat' first
    | with_reducible assumption | with_reducible exact List.Subset.trans (by decide) hm
    | with_reducible apply kept_hqmError | with_reducible apply kept_modQueue | exact fun z => z | split
    | with_reducible apply kept_foldl | (intro t a ht; try dsimp only) | (intro t ht; try dsimp only)

theorem kept_writeQctxCfg (q : Nat) (w : Wr) (hm : [.sys, .hqm, .perf, .out] ⊆ m) (h : Kept m s0 s) : Kept m s0
    (writeQctxCfg q w s) := by
  unfold writeQctxCfg
  try dsimp only
  repeat' first
    | with_reducible assumption | with_reducible exact List.Subset.trans (by decide) hm
    | with_reducible apply kept_qctxRefuse | with_reducible apply kept_modQueue | exact fun z => z | split
    | with_reducible apply kept_foldl | (intro t a ht; try dsimp only) | (intro t ht; try dsimp only)

theorem kept_writeQctx (n : Nat) (reg : Nat) (w : Wr) (hm : [.sys, .hqm, .perf, .out] ⊆ m) (h : Kept m s0 s) :
    Kept m s0 (writeQctx n reg w s) := by
  unfold writeQctx
  try dsimp only
  repeat' first
    | with_reducible assumption | with_reducible exact List.Subset.trans (by decide) hm
    | with_reducible apply kept_qctxRefuse | with_reducible apply kept_modQueue
    | with_reducible apply kept_writeQctxCfg | exact fun z => z | split | with_reducible apply kept_foldl
    | (intro t a ht; try dsimp only) | (intro t ht; try dsimp only)

theorem kept_execQctxCfgWrite (q : QueueId) (reg : Fin 5) (w : Wr) (hm : [.sys, .hqm, .perf, .out] ⊆ m) (h :
    Kept m s0 s) : KeptR m s0 (execQctxCfgWrite q reg w s) := by
  unfold execQctxCfgWrite
  try dsimp only
  repeat' first
    | with_reducible assumption | with_reducible exact List.Subset.trans (by decide) hm
    | with_reducible apply keptR_onBlock | with_reducible apply kept_writeQctx
    | with_reducible apply keptR_next | exact fun z => z | split | with_reducible apply kept_foldl
    | (intro t a ht; try dsimp only) | (intro t ht; try dsimp only)

theorem kept_writeSpill (w : Wr) (hm : [.hqm] ⊆ m) (h : Kept m s0 s) : Kept m s0 (writeSpill w s) := by
  unfold writeSpill
  try dsimp only
  repeat' first
    | with_reducible assumption | with_reducible exact List.Subset.trans (by decide) hm
    | with_reducible refine kept_modHqm _ ?_ rfl ?_ | exact fun z => z | split
    | with_reducible apply kept_foldl | (intro t a ht; try dsimp only) | (intro t ht; try dsimp only)

theorem kept_execHqmSpillWrite (w : Wr) (hm : [.hqm] ⊆ m) (h : Kept m s0 s) : KeptR m s0 (execHqmSpillWrite w s)
    := by
  unfold execHqmSpillWrite
  try dsimp only
  repeat' first
    | with_reducible assumption | with_reducible exact List.Subset.trans (by decide) hm
    | with_reducible apply keptR_onBlock | with_reducible apply kept_writeSpill
    | with_reducible apply keptR_next | exact fun z => z | split | with_reducible apply kept_foldl
    | (intro t a ht; try dsimp only) | (intro t ht; try dsimp only)

theorem kept_execHqmCtrlWrite (v : W32) (hm : [.hqm] ⊆ m) (h : Kept m s0 s) : KeptR m s0 (execHqmCtrlWrite v s)
    := by
  unfold execHqmCtrlWrite
  try dsimp only
  repeat' first
    | with_reducible assumption | with_reducible exact List.Subset.trans (by decide) hm
    | with_reducible apply keptR_onBlock | with_reducible refine kept_modHqm _ ?_ rfl ?_
    | with_reducible apply keptR_next | exact fun z => z | split | with_reducible apply kept_foldl
    | (intro t a ht; try dsimp only) | (intro t ht; try dsimp only)

theorem kept_execNop (k : CmdSlot) (hm : [.hqm] ⊆ m) (h : Kept m s0 s) : KeptR m s0 (execNop k s) := by
  unfold execNop
  try dsimp only
  repeat' first
    | with_reducible assumption | with_reducible exact List.Subset.trans (by decide) hm
    | with_reducible apply keptR_onCmd | with_reducible apply kept_complete | with_reducible apply keptR_next
    | exact fun z => z | split | with_reducible apply kept_foldl | (intro t a ht; try dsimp only)
    | (intro t ht; try dsimp only)

theorem kept_execFence (k : CmdSlot) (hm : [.hqm] ⊆ m) (h : Kept m s0 s) : KeptR m s0 (execFence k s) := by
  unfold execFence
  try dsimp only
  repeat' first
    | with_reducible assumption | with_reducible exact List.Subset.trans (by decide) hm
    | with_reducible apply keptR_onCmd | with_reducible apply kept_complete | with_reducible apply keptR_next
    | exact fun z => z | split | with_reducible apply kept_foldl | (intro t a ht; try dsimp only)
    | (intro t ht; try dsimp only)

theorem kept_cancelAll (ks : List Nat) (hm : [.hqm] ⊆ m) (h : Kept m s0 s) : Kept m s0 (cancelAll ks s) := by
  unfold cancelAll
  try dsimp only
  repeat' first
    | with_reducible assumption | with_reducible exact List.Subset.trans (by decide) hm
    | with_reducible apply kept_complete | with_reducible refine kept_modHqm _ ?_ rfl ?_ | exact fun z => z
    | split | with_reducible apply kept_foldl | (intro t a ht; try dsimp only) | (intro t ht; try dsimp only)

theorem kept_execCancel (k : CmdSlot) (hm : [.hqm] ⊆ m) (h : Kept m s0 s) : KeptR m s0 (execCancel k s) := by
  unfold execCancel
  try dsimp only
  repeat' first
    | with_reducible assumption | with_reducible exact List.Subset.trans (by decide) hm
    | with_reducible apply keptR_onCmd | with_reducible apply kept_promote | with_reducible apply kept_complete
    | with_reducible apply kept_cancelAll | with_reducible apply keptR_next | exact fun z => z | split
    | with_reducible apply kept_foldl | (intro t a ht; try dsimp only) | (intro t ht; try dsimp only)

end Sys2Proof.Machine
end

