-- ==== Sys2Proof/Laws/KeptSiteOps.lean ====
section
/-!
SUPPORT. What the operations of Machine/SiteOps.lean keep.
-/

namespace Sys2Proof.Machine

set_option linter.unusedTactic false
set_option linter.unreachableTactic false
set_option linter.unusedVariables false

variable {m : List Part} {s0 s : State}

theorem kept_disturbSite (n : Nat) (hm : [.pins] ⊆ m) (h : Kept m s0 s) : Kept m s0 (disturbSite n s) := by
  unfold disturbSite
  try dsimp only
  repeat' first
    | with_reducible assumption | with_reducible exact List.Subset.trans (by decide) hm
    | with_reducible apply kept_modPin | exact fun z => z | split | with_reducible apply kept_foldl
    | (intro t a ht; try dsimp only) | (intro t ht; try dsimp only)

end Sys2Proof.Machine
end

