-- ==== Sys2Proof/Laws/KeptStream.lean ====
section
/-!
SUPPORT. What the operations of Machine/Stream.lean keep.
-/

namespace Sys2Proof.Machine

set_option linter.unusedTactic false
set_option linter.unreachableTactic false
set_option linter.unusedVariables false

variable {m : List Part} {s0 s : State}

theorem kept_issuePeck (r : Refill) (sl : Nat) (hm : [.sys, .hqm, .vs, .perf, .out] ⊆ m) (h : Kept m s0 s) :
    Kept m s0 (issuePeck r sl s) := by
  unfold issuePeck
  try dsimp only
  repeat' first
    | with_reducible assumption | with_reducible exact List.Subset.trans (by decide) hm
    | with_reducible refine kept_modVs _ ?_ rfl ?_ | with_reducible apply kept_perfEvent | exact fun z => z
    | exact fun z => z.2.1 | split | with_reducible apply kept_foldl | (intro t a ht; try dsimp only)
    | (intro t ht; try dsimp only)

theorem kept_issueSlot (slot : Nat) (t : Template) (sl : Nat) (hm : [.sys, .hqm, .vs, .sites, .perf, .out] ⊆ m)
    (h : Kept m s0 s) : Kept m s0 (issueSlot slot t s sl) := by
  unfold issueSlot
  try dsimp only
  repeat' first
    | with_reducible assumption | with_reducible exact List.Subset.trans (by decide) hm
    | with_reducible apply kept_issuePeck | with_reducible apply kept_modSite
    | with_reducible apply kept_modPlan | exact fun z => z | with_reducible apply keptO_getD | split
    | with_reducible apply kept_foldl | (intro t a ht; try dsimp only) | (intro t ht; try dsimp only)

theorem kept_resumeSite (n : Nat) (hm : [.sites] ⊆ m) (h : Kept m s0 s) : Kept m s0 (resumeSite n s) := by
  unfold resumeSite
  try dsimp only
  repeat' first
    | with_reducible assumption | with_reducible exact List.Subset.trans (by decide) hm
    | with_reducible apply kept_modSite | exact fun z => z | split | with_reducible apply kept_foldl
    | (intro t a ht; try dsimp only) | (intro t ht; try dsimp only)

theorem kept_resumeAt (t : Stall) (hm : [.sites] ⊆ m) (h : Kept m s0 s) : Kept m s0 (resumeAt t s) := by
  unfold resumeAt
  try dsimp only
  repeat' first
    | with_reducible assumption | with_reducible exact List.Subset.trans (by decide) hm
    | with_reducible apply kept_resumeSite | exact fun z => z | split | with_reducible apply kept_foldl
    | (intro t a ht; try dsimp only) | (intro t ht; try dsimp only)

theorem kept_execScheduleEntryAdvance (p : PlanSlot) (hm : [.vs] ⊆ m) (h : Kept m s0 s) : KeptR m s0
    (execScheduleEntryAdvance p s) := by
  unfold execScheduleEntryAdvance
  try dsimp only
  repeat' first
    | with_reducible assumption | with_reducible exact List.Subset.trans (by decide) hm
    | with_reducible apply kept_modPlan | with_reducible apply keptR_next | exact fun z => z | split
    | with_reducible apply kept_foldl | (intro t a ht; try dsimp only) | (intro t ht; try dsimp only)

theorem kept_schedulePlan (slot : Nat) (hm : [.sys, .hqm, .vs, .sites, .perf, .out] ⊆ m) (h : Kept m s0 s) :
    Kept m s0 (schedulePlan slot s) := by
  unfold schedulePlan
  try dsimp only
  repeat' first
    | with_reducible assumption | with_reducible exact List.Subset.trans (by decide) hm
    | with_reducible apply kept_modPlan | with_reducible apply kept_resumeAt
    | with_reducible apply kept_issueSlot | exact fun z => z | with_reducible apply keptO_getD | split
    | with_reducible apply kept_foldl | (intro t a ht; try dsimp only) | (intro t ht; try dsimp only)

theorem kept_stopSchedule (slot : Nat) (hm : [.vs] ⊆ m) (h : Kept m s0 s) : Kept m s0 (stopSchedule slot s) :=
    by
  unfold stopSchedule
  try dsimp only
  repeat' first
    | with_reducible assumption | with_reducible exact List.Subset.trans (by decide) hm
    | with_reducible apply kept_modPlan | with_reducible refine kept_modVs _ ?_ rfl ?_ | exact fun z => z
    | exact fun z => z.2.1 | split | with_reducible apply kept_foldl | (intro t a ht; try dsimp only)
    | (intro t ht; try dsimp only)

theorem kept_scheduleEdge (slot : Nat) (hm : [.vs] ⊆ m) (h : Kept m s0 s) : Kept m s0 (scheduleEdge slot s) :=
    by
  unfold scheduleEdge
  try dsimp only
  repeat' first
    | with_reducible assumption | with_reducible exact List.Subset.trans (by decide) hm
    | with_reducible apply kept_stopSchedule | with_reducible apply kept_modPlan | exact fun z => z | split
    | with_reducible apply kept_foldl | (intro t a ht; try dsimp only) | (intro t ht; try dsimp only)

theorem kept_countIdleSlots (hm : [.sys, .hqm, .perf, .out] ⊆ m) (h : Kept m s0 s) : Kept m s0 (countIdleSlots
    s) := by
  unfold countIdleSlots
  try dsimp only
  repeat' first
    | with_reducible assumption | with_reducible exact List.Subset.trans (by decide) hm
    | with_reducible apply kept_perfEvent | exact fun z => z | split | with_reducible apply kept_foldl
    | (intro t a ht; try dsimp only) | (intro t ht; try dsimp only)

theorem kept_scheduleTick (hm : [.sys, .hqm, .vs, .sites, .perf, .out] ⊆ m) (h : Kept m s0 s) : Kept m s0
    (scheduleTick s) := by
  unfold scheduleTick
  try dsimp only
  repeat' first
    | with_reducible assumption | with_reducible exact List.Subset.trans (by decide) hm
    | with_reducible refine kept_modVs _ ?_ rfl ?_ | with_reducible apply kept_scheduleEdge
    | with_reducible apply kept_countIdleSlots | with_reducible apply kept_schedulePlan | exact fun z => z
    | exact fun z => z.2.1 | split | with_reducible apply kept_foldl | (intro t a ht; try dsimp only)
    | (intro t ht; try dsimp only)

theorem kept_freePlan (slot : Nat) (hm : [.vs] ⊆ m) (h : Kept m s0 s) : Kept m s0 (freePlan slot s) := by
  unfold freePlan
  try dsimp only
  repeat' first
    | with_reducible assumption | with_reducible exact List.Subset.trans (by decide) hm
    | with_reducible refine kept_modVs _ ?_ rfl ?_ | exact fun z => z | exact fun z => z.2.1 | split
    | with_reducible apply kept_foldl | (intro t a ht; try dsimp only) | (intro t ht; try dsimp only)

theorem kept_retireTick (hm : [.vs] ⊆ m) (h : Kept m s0 s) : Kept m s0 (retireTick s) := by
  unfold retireTick
  try dsimp only
  repeat' first
    | with_reducible assumption | with_reducible exact List.Subset.trans (by decide) hm
    | with_reducible apply kept_freePlan | exact fun z => z | split | with_reducible apply kept_foldl
    | (intro t a ht; try dsimp only) | (intro t ht; try dsimp only)

theorem kept_dropRefill (id : Nat) (hm : [.vs] ⊆ m) (h : Kept m s0 s) : Kept m s0 (dropRefill id s) := by
  unfold dropRefill
  try dsimp only
  repeat' first
    | with_reducible assumption | with_reducible exact List.Subset.trans (by decide) hm
    | with_reducible refine kept_modVs _ ?_ rfl ?_ | exact fun z => z | exact fun z => z.2.1 | split
    | with_reducible apply kept_foldl | (intro t a ht; try dsimp only) | (intro t ht; try dsimp only)

theorem kept_acceptPeck (r : Refill) (hm : [.sys, .hqm, .vs, .sites, .perf, .out, .vsMem] ⊆ m) (h : Kept m s0 s)
    : Kept m s0 (acceptPeck r s) := by
  unfold acceptPeck
  try dsimp only
  repeat' first
    | with_reducible assumption | with_reducible exact List.Subset.trans (by decide) hm
    | with_reducible apply kept_modSite | with_reducible apply kept_modPlan
    | with_reducible refine kept_modVs _ ?_ rfl ?_ | with_reducible apply kept_modVsMem
    | with_reducible apply kept_perfEvent | with_reducible apply kept_dropRefill | exact fun z => z
    | exact fun z => z.2.1 | exact fun z => Mem.wf_store _ _ _ z.2.1
    | exact fun z => Mem.wf_copyTo _ _ _ _ _ z.1 z.2.1 | exact fun _ => Mem.wf_nil | split
    | with_reducible apply kept_foldl | (intro t a ht; try dsimp only) | (intro t ht; try dsimp only)

theorem kept_badPeck (r : Refill) (hm : [.vs] ⊆ m) (h : Kept m s0 s) : Kept m s0 (badPeck r s) := by
  unfold badPeck
  try dsimp only
  repeat' first
    | with_reducible assumption | with_reducible exact List.Subset.trans (by decide) hm
    | with_reducible apply kept_dropRefill | with_reducible refine kept_modVs _ ?_ rfl ?_
    | with_reducible apply kept_modPlan | exact fun z => z | exact fun z => z.2.1 | split
    | with_reducible apply kept_foldl | (intro t a ht; try dsimp only) | (intro t ht; try dsimp only)

theorem kept_failPeck (r : Refill) (hm : [.sys, .hqm, .vs, .perf, .out] ⊆ m) (h : Kept m s0 s) : Kept m s0
    (failPeck r s) := by
  unfold failPeck
  try dsimp only
  repeat' first
    | with_reducible assumption | with_reducible exact List.Subset.trans (by decide) hm
    | with_reducible apply kept_raiseIrq | with_reducible refine kept_modVs _ ?_ rfl ?_
    | with_reducible apply kept_badPeck | exact fun z => z | exact fun z => z.2.1 | split
    | with_reducible apply kept_foldl | (intro t a ht; try dsimp only) | (intro t ht; try dsimp only)

theorem kept_arrivePeck (linkErr : Bool) (r : Refill) (hm : [.sys, .hqm, .vs, .sites, .perf, .out, .vsMem] ⊆ m)
    (h : Kept m s0 s) : Kept m s0 (arrivePeck linkErr r s) := by
  unfold arrivePeck
  try dsimp only
  repeat' first
    | with_reducible assumption | with_reducible exact List.Subset.trans (by decide) hm
    | with_reducible apply kept_acceptPeck | with_reducible apply kept_failPeck | exact fun z => z | split
    | with_reducible apply kept_foldl | (intro t a ht; try dsimp only) | (intro t ht; try dsimp only)

theorem kept_execPeckArrival (id : Nat) (linkErr : Bool) (hm : [.sys, .hqm, .vs, .sites, .perf, .out, .vsMem] ⊆
    m) (h : Kept m s0 s) : KeptR m s0 (execPeckArrival id linkErr s) := by
  unfold execPeckArrival
  try dsimp only
  repeat' first
    | with_reducible assumption | with_reducible exact List.Subset.trans (by decide) hm
    | with_reducible apply kept_arrivePeck | with_reducible apply keptR_next | exact fun z => z | split
    | with_reducible apply kept_foldl | (intro t a ht; try dsimp only) | (intro t ht; try dsimp only)

theorem kept_peckTick (hm : [.sys, .hqm, .dram, .vs, .sites, .perf, .out, .vsMem] ⊆ m) (h : Kept m s0 s) : Kept
    m s0 (peckTick s) := by
  unfold peckTick
  try dsimp only
  repeat' first
    | with_reducible assumption | with_reducible exact List.Subset.trans (by decide) hm
    | with_reducible refine kept_modDram _ ?_ rfl ?_ | with_reducible refine kept_modVs _ ?_ rfl ?_
    | with_reducible apply kept_arrivePeck | exact fun z => z | exact fun z => z.2.1 | split
    | with_reducible apply kept_foldl | (intro t a ht; try dsimp only) | (intro t ht; try dsimp only)

theorem kept_execPeckRetryIssue (id : Nat) (hm : [.sys, .hqm, .vs, .perf, .out] ⊆ m) (h : Kept m s0 s) : KeptR m
    s0 (execPeckRetryIssue id s) := by
  unfold execPeckRetryIssue
  try dsimp only
  repeat' first
    | with_reducible assumption | with_reducible exact List.Subset.trans (by decide) hm
    | with_reducible refine kept_modVs _ ?_ rfl ?_ | with_reducible apply kept_modPlan
    | with_reducible apply kept_perfEvent | with_reducible apply keptR_next | exact fun z => z
    | exact fun z => z.2.1 | split | with_reducible apply kept_foldl | (intro t a ht; try dsimp only)
    | (intro t ht; try dsimp only)

end Sys2Proof.Machine
end

