-- ==== Sys2Proof/Laws/KeptDds.lean ====
section
/-!
SUPPORT. What the operations of Machine/Dds.lean keep.
-/

namespace Sys2Proof.Machine

set_option linter.unusedTactic false
set_option linter.unreachableTactic false
set_option linter.unusedVariables false

variable {m : List Part} {s0 s : State}

theorem kept_loadLists (k : Nat) (n : Nat) (a : Nat) (linkErr : Bool) (hm : [.hqm, .dds] ⊆ m) (h : Kept m s0 s)
    : Kept m s0 (loadLists k n a linkErr s) := by
  unfold loadLists
  try dsimp only
  repeat' first
    | with_reducible assumption | with_reducible exact List.Subset.trans (by decide) hm
    | with_reducible apply kept_complete | with_reducible apply kept_modGen | exact fun z => z | split
    | with_reducible apply kept_foldl | (intro t a ht; try dsimp only) | (intro t ht; try dsimp only)

theorem kept_execDdsLoad (k : CmdSlot) (linkErr : Bool) (hm : [.hqm, .dram, .dds] ⊆ m) (h : Kept m s0 s) : KeptR
    m s0 (execDdsLoad k linkErr s) := by
  unfold execDdsLoad
  try dsimp only
  repeat' first
    | with_reducible assumption | with_reducible exact List.Subset.trans (by decide) hm
    | with_reducible apply keptR_onCmd | with_reducible apply kept_complete
    | with_reducible apply kept_restDram | with_reducible apply kept_loadLists
    | with_reducible apply kept_wakeDram | with_reducible apply keptR_next | exact fun z => z | split
    | with_reducible apply kept_foldl | (intro t a ht; try dsimp only) | (intro t ht; try dsimp only)

theorem kept_endStops (l : List (Nat × Bool × Option Nat)) (hm : [.hqm] ⊆ m) (h : Kept m s0 s) : Kept m s0
    (endStops l s) := by
  unfold endStops
  try dsimp only
  repeat' first
    | with_reducible assumption | with_reducible exact List.Subset.trans (by decide) hm
    | with_reducible apply kept_completeOpt | exact fun z => z | split | with_reducible apply kept_foldl
    | (intro t a ht; try dsimp only) | (intro t ht; try dsimp only)

theorem kept_parkGen (n : Nat) (t : Int) (hm : [.hqm, .dds] ⊆ m) (h : Kept m s0 s) : Kept m s0 (parkGen n t s)
    := by
  unfold parkGen
  try dsimp only
  repeat' first
    | with_reducible assumption | with_reducible exact List.Subset.trans (by decide) hm
    | with_reducible apply kept_completeOpt | with_reducible apply kept_endStops
    | with_reducible apply kept_modGen | exact fun z => z | split | with_reducible apply kept_foldl
    | (intro t a ht; try dsimp only) | (intro t ht; try dsimp only)

theorem kept_stopGen (n : Nat) (t : Int) (st : Nat × Bool × Option Nat) (hm : [.hqm, .dds] ⊆ m) (h : Kept m s0
    s) : Kept m s0 (stopGen n t st s) := by
  unfold stopGen
  try dsimp only
  repeat' first
    | with_reducible assumption | with_reducible exact List.Subset.trans (by decide) hm
    | with_reducible apply kept_modGen | with_reducible apply kept_completeOpt
    | with_reducible apply kept_endStops | exact fun z => z | split | with_reducible apply kept_foldl
    | (intro t a ht; try dsimp only) | (intro t ht; try dsimp only)

theorem kept_execDdsStart (k : CmdSlot) (hm : [.hqm, .dds] ⊆ m) (h : Kept m s0 s) : KeptR m s0 (execDdsStart k
    s) := by
  unfold execDdsStart
  try dsimp only
  repeat' first
    | with_reducible assumption | with_reducible exact List.Subset.trans (by decide) hm
    | with_reducible apply keptR_onCmd | with_reducible apply kept_begin_ | with_reducible apply kept_modGen
    | with_reducible apply kept_complete | with_reducible apply keptR_next | exact fun z => z | split
    | with_reducible apply kept_foldl | (intro t a ht; try dsimp only) | (intro t ht; try dsimp only)

theorem kept_stopDue (n : Nat) (hm : [.hqm, .dds] ⊆ m) (h : Kept m s0 s) : Kept m s0 (stopDue n s) := by
  unfold stopDue
  try dsimp only
  repeat' first
    | with_reducible assumption | with_reducible exact List.Subset.trans (by decide) hm
    | with_reducible apply kept_stopGen | exact fun z => z | split | with_reducible apply kept_foldl
    | (intro t a ht; try dsimp only) | (intro t ht; try dsimp only)

theorem kept_execDdsRunBegin (n : GenId) (hm : [.hqm, .dds] ⊆ m) (h : Kept m s0 s) : KeptR m s0 (execDdsRunBegin
    n s) := by
  unfold execDdsRunBegin
  try dsimp only
  repeat' first
    | with_reducible assumption | with_reducible exact List.Subset.trans (by decide) hm
    | with_reducible apply kept_parkGen | with_reducible apply kept_stopDue | with_reducible apply kept_modGen
    | with_reducible apply keptR_next | exact fun z => z | split | with_reducible apply kept_foldl
    | (intro t a ht; try dsimp only) | (intro t ht; try dsimp only)

theorem kept_execDdsSegmentBoundary (n : GenId) (hm : [.hqm, .dds] ⊆ m) (h : Kept m s0 s) : KeptR m s0
    (execDdsSegmentBoundary n s) := by
  unfold execDdsSegmentBoundary
  try dsimp only
  repeat' first
    | with_reducible assumption | with_reducible exact List.Subset.trans (by decide) hm
    | with_reducible apply kept_modGen | with_reducible apply kept_stopGen | with_reducible apply kept_parkGen
    | with_reducible apply keptR_next | exact fun z => z | split | with_reducible apply kept_foldl
    | (intro t a ht; try dsimp only) | (intro t ht; try dsimp only)

theorem kept_requestJump (n : Nat) (t : Nat) (target : Nat) (hm : [.dds] ⊆ m) (h : Kept m s0 s) : Kept m s0
    (requestJump n t target s) := by
  unfold requestJump
  try dsimp only
  repeat' first
    | with_reducible assumption | with_reducible exact List.Subset.trans (by decide) hm
    | with_reducible apply kept_modGen | exact fun z => z | split | with_reducible apply kept_foldl
    | (intro t a ht; try dsimp only) | (intro t ht; try dsimp only)

theorem kept_jumpSource (kind : Nat) (idx : Nat) (t : Nat) (hm : [.dds] ⊆ m) (h : Kept m s0 s) : Kept m s0
    (jumpSource kind idx t s) := by
  unfold jumpSource
  try dsimp only
  repeat' first
    | with_reducible assumption | with_reducible exact List.Subset.trans (by decide) hm
    | with_reducible apply kept_requestJump | exact fun z => z | split | with_reducible apply kept_foldl
    | (intro t a ht; try dsimp only) | (intro t ht; try dsimp only)

theorem kept_execDdsJumpWrite (n : GenId) (v : W32) (t : Grain) (hm : [.dds, .time] ⊆ m) (h : Kept m s0 s) :
    KeptR m s0 (execDdsJumpWrite n v t s) := by
  unfold execDdsJumpWrite
  try dsimp only
  repeat' first
    | with_reducible assumption | with_reducible exact List.Subset.trans (by decide) hm
    | with_reducible apply keptR_onBlock | with_reducible apply kept_atGrain | with_reducible apply kept_modGen
    | with_reducible apply kept_requestJump | with_reducible apply keptR_next | exact fun z => z | split
    | with_reducible apply kept_foldl | (intro t a ht; try dsimp only) | (intro t ht; try dsimp only)

theorem kept_execDdsStop (k : CmdSlot) (hm : [.hqm, .dds] ⊆ m) (h : Kept m s0 s) : KeptR m s0 (execDdsStop k s)
    := by
  unfold execDdsStop
  try dsimp only
  repeat' first
    | with_reducible assumption | with_reducible exact List.Subset.trans (by decide) hm
    | with_reducible apply keptR_onCmd | with_reducible apply kept_begin_ | with_reducible apply kept_modGen
    | with_reducible apply kept_complete | with_reducible apply keptR_next | exact fun z => z | split
    | with_reducible apply kept_foldl | (intro t a ht; try dsimp only) | (intro t ht; try dsimp only)

theorem kept_ddsTick (hm : [.hqm, .dds] ⊆ m) (h : Kept m s0 s) : Kept m s0 (ddsTick s) := by
  unfold ddsTick
  try dsimp only
  repeat' first
    | with_reducible assumption | with_reducible exact List.Subset.trans (by decide) hm
    | with_reducible apply kept_stopDue | exact fun z => z | split | with_reducible apply kept_foldl
    | (intro t a ht; try dsimp only) | (intro t ht; try dsimp only)

end Sys2Proof.Machine
end

