-- ==== Sys2Proof/Laws/KeptCapture.lean ====
section
/-!
SUPPORT. What the operations of Machine/Capture.lean keep.
-/

namespace Sys2Proof.Machine

set_option linter.unusedTactic false
set_option linter.unreachableTactic false
set_option linter.unusedVariables false

variable {m : List Part} {s0 s : State}

theorem kept_putStaged (n : Nat) (bits : BitVec 256) (reserved : Bool) (hm : [.sys, .hqm, .cap, .perf, .out] ⊆
    m) (h : Kept m s0 s) : Kept m s0 (putStaged n bits reserved s) := by
  unfold putStaged
  try dsimp only
  repeat' first
    | with_reducible assumption | with_reducible exact List.Subset.trans (by decide) hm
    | with_reducible apply kept_modEng | with_reducible apply kept_perfEvent
    | with_reducible apply kept_modSiteCap | exact fun z => z | split | with_reducible apply kept_foldl
    | (intro t a ht; try dsimp only) | (intro t ht; try dsimp only)

theorem kept_loseEntry (n : Nat) (fail : Bool) (hm : [.sys, .hqm, .cap, .perf, .out] ⊆ m) (h : Kept m s0 s) :
    Kept m s0 (loseEntry n fail s) := by
  unfold loseEntry
  try dsimp only
  repeat' first
    | with_reducible assumption | with_reducible exact List.Subset.trans (by decide) hm
    | with_reducible apply kept_modSiteCap | with_reducible apply kept_modEng
    | with_reducible apply kept_raiseIrq | with_reducible apply kept_perfEvent | exact fun z => z | split
    | with_reducible apply kept_foldl | (intro t a ht; try dsimp only) | (intro t ht; try dsimp only)

theorem kept_putTrunc (n : Nat) (cause : Nat) (p : At) (hm : [.sys, .hqm, .cap, .perf, .out] ⊆ m) (h : Kept m s0
    s) : Kept m s0 (putTrunc n cause p s) := by
  unfold putTrunc
  try dsimp only
  repeat' first
    | with_reducible assumption | with_reducible exact List.Subset.trans (by decide) hm
    | with_reducible apply kept_modSiteCap | with_reducible apply kept_putStaged | exact fun z => z | split
    | with_reducible apply kept_foldl | (intro t a ht; try dsimp only) | (intro t ht; try dsimp only)

theorem kept_stageEntry (n : Nat) (fail : Bool) (bits : BitVec 256) (p : At) (hm : [.sys, .hqm, .cap, .perf,
    .out] ⊆ m) (h : Kept m s0 s) : Kept m s0 (stageEntry n fail bits p s) := by
  unfold stageEntry
  try dsimp only
  repeat' first
    | with_reducible assumption | with_reducible exact List.Subset.trans (by decide) hm
    | with_reducible apply kept_loseEntry | with_reducible apply kept_putStaged
    | with_reducible apply kept_putTrunc | exact fun z => z | split | with_reducible apply kept_foldl
    | (intro t a ht; try dsimp only) | (intro t ht; try dsimp only)

theorem kept_stageFail (n : Nat) (bits : BitVec 256) (p : At) (hm : [.sys, .hqm, .cap, .perf, .out] ⊆ m) (h :
    Kept m s0 s) : Kept m s0 (stageFail n bits p s) := by
  unfold stageFail
  try dsimp only
  repeat' first
    | with_reducible assumption | with_reducible exact List.Subset.trans (by decide) hm
    | with_reducible apply kept_modSiteCap | with_reducible apply kept_stageEntry | exact fun z => z | split
    | with_reducible apply kept_foldl | (intro t a ht; try dsimp only) | (intro t ht; try dsimp only)

theorem kept_stageEnd (n : Nat) (stopped : Bool) (bits : BitVec 256) (p : At) (hm : [.sys, .hqm, .cap, .perf,
    .out] ⊆ m) (h : Kept m s0 s) : Kept m s0 (stageEnd n stopped bits p s) := by
  unfold stageEnd
  try dsimp only
  repeat' first
    | with_reducible assumption | with_reducible exact List.Subset.trans (by decide) hm
    | with_reducible apply kept_modSiteCap | with_reducible apply kept_loseEntry
    | with_reducible apply kept_putTrunc | with_reducible apply kept_putStaged | exact fun z => z | split
    | with_reducible apply kept_foldl | (intro t a ht; try dsimp only) | (intro t ht; try dsimp only)

theorem kept_clearRun (n : Nat) (hm : [.pins, .cap] ⊆ m) (h : Kept m s0 s) : Kept m s0 (clearRun n s) := by
  unfold clearRun
  try dsimp only
  repeat' first
    | with_reducible assumption | with_reducible exact List.Subset.trans (by decide) hm
    | with_reducible apply kept_modSiteCap | with_reducible apply kept_modPin | exact fun z => z | split
    | with_reducible apply kept_foldl | (intro t a ht; try dsimp only) | (intro t ht; try dsimp only)

theorem kept_holdTick (hm : [.sys, .hqm, .cap, .perf, .out] ⊆ m) (h : Kept m s0 s) : Kept m s0 (holdTick s) :=
    by
  unfold holdTick
  try dsimp only
  repeat' first
    | with_reducible assumption | with_reducible exact List.Subset.trans (by decide) hm
    | with_reducible apply kept_perfEvent | with_reducible apply kept_modEng | exact fun z => z | split
    | with_reducible apply kept_foldl | (intro t a ht; try dsimp only) | (intro t ht; try dsimp only)

theorem kept_holdResume (hm : [.sites] ⊆ m) (h : Kept m s0 s) : Kept m s0 (holdResume s) := by
  unfold holdResume
  try dsimp only
  repeat' first
    | with_reducible assumption | with_reducible exact List.Subset.trans (by decide) hm
    | with_reducible apply kept_resumeSite | exact fun z => z | split | with_reducible apply kept_foldl
    | (intro t a ht; try dsimp only) | (intro t ht; try dsimp only)

theorem kept_writeStaged (x : Staged) (hm : [.dram, .cap, .dramMem] ⊆ m) (h : Kept m s0 s) : Kept m s0
    (writeStaged x s) := by
  unfold writeStaged
  try dsimp only
  repeat' first
    | with_reducible assumption | with_reducible exact List.Subset.trans (by decide) hm
    | with_reducible apply kept_modSiteCap | with_reducible apply kept_engineStore | exact fun z => z | split
    | with_reducible apply kept_foldl | (intro t a ht; try dsimp only) | (intro t ht; try dsimp only)

theorem kept_writeLog (xm : Nat) (hm : [.dram, .cap, .dramMem] ⊆ m) (h : Kept m s0 s) : Kept m s0 (writeLog xm
    s) := by
  unfold writeLog
  try dsimp only
  repeat' first
    | with_reducible assumption | with_reducible exact List.Subset.trans (by decide) hm
    | with_reducible apply kept_modEng | with_reducible apply kept_writeStaged | exact fun z => z | split
    | with_reducible apply kept_foldl | (intro t a ht; try dsimp only) | (intro t ht; try dsimp only)

theorem kept_endTail (xm : Nat) (x : Tail) (hm : [.hqm, .cap] ⊆ m) (h : Kept m s0 s) : Kept m s0 (endTail xm x
    s) := by
  unfold endTail
  try dsimp only
  repeat' first
    | with_reducible assumption | with_reducible exact List.Subset.trans (by decide) hm
    | with_reducible apply kept_modGroup | with_reducible apply kept_completeOpt | exact fun z => z | split
    | with_reducible apply kept_foldl | (intro t a ht; try dsimp only) | (intro t ht; try dsimp only)

theorem kept_writeRec (xm : Nat) (hm : [.hqm, .dram, .cap, .dramMem] ⊆ m) (h : Kept m s0 s) : Kept m s0
    (writeRec xm s) := by
  unfold writeRec
  try dsimp only
  repeat' first
    | with_reducible assumption | with_reducible exact List.Subset.trans (by decide) hm
    | with_reducible apply kept_engineStore | with_reducible apply kept_endTail
    | with_reducible apply kept_modGroup | exact fun z => z | split | with_reducible apply kept_foldl
    | (intro t a ht; try dsimp only) | (intro t ht; try dsimp only)

theorem kept_writeBack (xm : Nat) (hm : [.hqm, .dram, .cap, .dramMem] ⊆ m) (h : Kept m s0 s) : Kept m s0
    (writeBack xm s) := by
  unfold writeBack
  try dsimp only
  repeat' first
    | with_reducible assumption | with_reducible exact List.Subset.trans (by decide) hm
    | with_reducible apply kept_writeLog | with_reducible apply kept_writeRec | exact fun z => z | split
    | with_reducible apply kept_foldl | (intro t a ht; try dsimp only) | (intro t ht; try dsimp only)

theorem kept_slotTick (hm : [.cap] ⊆ m) (h : Kept m s0 s) : Kept m s0 (slotTick s) := by
  unfold slotTick
  try dsimp only
  repeat' first
    | with_reducible assumption | with_reducible exact List.Subset.trans (by decide) hm
    | with_reducible apply kept_modCap | exact fun z => z | split | with_reducible apply kept_foldl
    | (intro t a ht; try dsimp only) | (intro t ht; try dsimp only)

theorem kept_serveSlot (w : Nat) (hm : [.sys, .hqm, .dram, .cap, .perf, .out, .dramMem] ⊆ m) (h : Kept m s0 s) :
    Kept m s0 (serveSlot w s) := by
  unfold serveSlot
  try dsimp only
  repeat' first
    | with_reducible assumption | with_reducible exact List.Subset.trans (by decide) hm
    | with_reducible apply kept_perfEvent | with_reducible apply kept_writeBack
    | with_reducible apply kept_modCap | exact fun z => z | split | with_reducible apply kept_foldl
    | (intro t a ht; try dsimp only) | (intro t ht; try dsimp only)

theorem kept_execSableWriteSlot (w : Fin 32) (hm : [.sys, .hqm, .dram, .cap, .perf, .out, .dramMem] ⊆ m) (h :
    Kept m s0 s) : KeptR m s0 (execSableWriteSlot w s) := by
  unfold execSableWriteSlot
  try dsimp only
  repeat' first
    | with_reducible assumption | with_reducible exact List.Subset.trans (by decide) hm
    | with_reducible apply kept_serveSlot | with_reducible apply kept_modCap | with_reducible apply keptR_next
    | exact fun z => z | split | with_reducible apply kept_foldl | (intro t a ht; try dsimp only)
    | (intro t ht; try dsimp only)

theorem kept_countVector (n : Nat) (judged : Nat) (failed : Nat) (supp : Nat) (hm : [.cap] ⊆ m) (h : Kept m s0
    s) : Kept m s0 (countVector n judged failed supp s) := by
  unfold countVector
  try dsimp only
  repeat' first
    | with_reducible assumption | with_reducible exact List.Subset.trans (by decide) hm
    | with_reducible apply kept_modSiteCap | exact fun z => z | split | with_reducible apply kept_foldl
    | (intro t a ht; try dsimp only) | (intro t ht; try dsimp only)

theorem kept_sendMerge (n : Nat) (ended : Bool) (status : BitVec 8) (t : Nat) (hm : [.halso, .out] ⊆ m) (h :
    Kept m s0 s) : Kept m s0 (sendMerge n ended status t s) := by
  unfold sendMerge
  try dsimp only
  repeat' first
    | with_reducible assumption | with_reducible exact List.Subset.trans (by decide) hm
    | with_reducible apply kept_broadcast2 | with_reducible apply kept_modHalso | exact fun z => z | split
    | with_reducible apply kept_foldl | (intro t a ht; try dsimp only) | (intro t ht; try dsimp only)

theorem kept_firstFail (n : Nat) (p : At) (ch : Nat) (hm : [.cap, .halso, .out] ⊆ m) (h : Kept m s0 s) : Kept m
    s0 (firstFail n p ch s) := by
  unfold firstFail
  try dsimp only
  repeat' first
    | with_reducible assumption | with_reducible exact List.Subset.trans (by decide) hm
    | with_reducible apply kept_sendMerge | with_reducible apply kept_modSiteCap | exact fun z => z | split
    | with_reducible apply kept_foldl | (intro t a ht; try dsimp only) | (intro t ht; try dsimp only)

end Sys2Proof.Machine
end

