-- ==== Sys2Proof/Laws/KeptDramCtl.lean ====
section
/-!
SUPPORT. What the operations of Machine/DramCtl.lean keep.
-/

namespace Sys2Proof.Machine

set_option linter.unusedTactic false
set_option linter.unreachableTactic false
set_option linter.unusedVariables false

variable {m : List Part} {s0 s : State}

theorem wf_regrain (g g' : ℕ) (x : Mem) (h : Mem.wf x = true) : Mem.wf (regrain g g' x) = true := by
  unfold regrain
  split
  · exact h
  · generalize hacc : ([] : Mem) = acc
    have ha : SMap.wf (V := Byte) acc = true := hacc ▸ SMap.wf_nil
    clear hacc h
    induction x generalizing acc with
    | nil => exact ha
    | cons e l ih => exact ih _ (SMap.wf_set _ _ _ ha)

theorem wf_setGrain (g : BitVec 3) (d : Dram) (h : Mem.wf d.mem = true) : Mem.wf (setGrain g d).mem = true := by
  unfold setGrain
  split
  · exact h
  · exact wf_regrain _ _ _ h

theorem kept_enterForced (n : Nat) (hm : [.sys, .hqm, .dram, .perf, .out] ⊆ m) (h : Kept m s0 s) : Kept m s0
    (enterForced n s) := by
  unfold enterForced
  try dsimp only
  repeat' first
    | with_reducible assumption | with_reducible exact List.Subset.trans (by decide) hm
    | with_reducible apply kept_raiseIrq | with_reducible apply kept_modChan | exact fun z => z | split
    | with_reducible apply kept_foldl | (intro t a ht; try dsimp only) | (intro t ht; try dsimp only)

theorem kept_refreshOnce (n : Nat) (busy : BitVec 16) (hm : [.sys, .hqm, .dram, .perf, .out] ⊆ m) (h : Kept m s0
    s) : Kept m s0 (refreshOnce n busy s) := by
  unfold refreshOnce
  try dsimp only
  repeat' first
    | with_reducible assumption | with_reducible exact List.Subset.trans (by decide) hm
    | with_reducible apply kept_perfEvent | with_reducible apply kept_modChan | exact fun z => z | split
    | with_reducible apply kept_foldl | (intro t a ht; try dsimp only) | (intro t ht; try dsimp only)

theorem kept_refreshSecond (n : Nat) (hm : [.sys, .hqm, .dram, .perf, .out] ⊆ m) (h : Kept m s0 s) : Kept m s0
    (refreshSecond n s) := by
  unfold refreshSecond
  try dsimp only
  repeat' first
    | with_reducible assumption | with_reducible exact List.Subset.trans (by decide) hm
    | with_reducible apply kept_modChan | with_reducible apply kept_refreshOnce | exact fun z => z | split
    | with_reducible apply kept_foldl | (intro t a ht; try dsimp only) | (intro t ht; try dsimp only)

theorem kept_chanAt (n : Nat) (t : Grain) (hm : [.sys, .hqm, .dram, .perf, .out] ⊆ m) (h : Kept m s0 s) : Kept m
    s0 (chanAt n t s) := by
  unfold chanAt
  try dsimp only
  repeat' first
    | with_reducible assumption | with_reducible exact List.Subset.trans (by decide) hm
    | with_reducible apply kept_refreshSecond | exact fun z => z | split | with_reducible apply kept_foldl
    | (intro t a ht; try dsimp only) | (intro t ht; try dsimp only)

theorem kept_execRefreshAccrualTick (ch : ChanAt) (hm : [.sys, .hqm, .dram, .time, .perf, .out] ⊆ m) (h : Kept m
    s0 s) : KeptR m s0 (execRefreshAccrualTick ch s) := by
  unfold execRefreshAccrualTick
  try dsimp only
  repeat' first
    | with_reducible assumption | with_reducible exact List.Subset.trans (by decide) hm
    | with_reducible apply kept_chanAt | with_reducible apply kept_atGrain
    | with_reducible apply kept_enterForced | with_reducible apply kept_modChan
    | with_reducible apply keptR_next | exact fun z => z | split | with_reducible apply kept_foldl
    | (intro t a ht; try dsimp only) | (intro t ht; try dsimp only)

theorem kept_execMr4Poll (ch : ChanAt) (rate : Mr4) (hm : [.sys, .hqm, .dram, .time, .perf, .out] ⊆ m) (h : Kept
    m s0 s) : KeptR m s0 (execMr4Poll ch rate s) := by
  unfold execMr4Poll
  try dsimp only
  repeat' first
    | with_reducible assumption | with_reducible exact List.Subset.trans (by decide) hm
    | with_reducible apply kept_chanAt | with_reducible apply kept_atGrain | with_reducible apply kept_modChan
    | with_reducible apply kept_raiseIrq | with_reducible apply kept_enterForced
    | with_reducible apply keptR_next | exact fun z => z | split | with_reducible apply kept_foldl
    | (intro t a ht; try dsimp only) | (intro t ht; try dsimp only)

theorem kept_refreshTick (busy : List (DramCh × BitVec 16)) (busy128 : List (DramCh × BitVec 16)) (hm : [.sys,
    .hqm, .dram, .perf, .out] ⊆ m) (h : Kept m s0 s) : Kept m s0 (refreshTick busy busy128 s) := by
  unfold refreshTick
  try dsimp only
  repeat' first
    | with_reducible assumption | with_reducible exact List.Subset.trans (by decide) hm
    | with_reducible apply kept_refreshSecond | with_reducible apply kept_perfEvent
    | with_reducible apply kept_modChan | with_reducible apply kept_refreshOnce | exact fun z => z | split
    | with_reducible apply kept_foldl | (intro t a ht; try dsimp only) | (intro t ht; try dsimp only)

theorem kept_execWck2dqOscillatorRead (ch : DramCh) (target : Int) (hm : [.dram] ⊆ m) (h : Kept m s0 s) : KeptR
    m s0 (execWck2dqOscillatorRead ch target s) := by
  unfold execWck2dqOscillatorRead
  try dsimp only
  repeat' first
    | with_reducible assumption | with_reducible exact List.Subset.trans (by decide) hm
    | with_reducible apply kept_modChan | with_reducible apply keptR_next | exact fun z => z | split
    | with_reducible apply kept_foldl | (intro t a ht; try dsimp only) | (intro t ht; try dsimp only)

theorem kept_writeTimingTick (hm : [.dram] ⊆ m) (h : Kept m s0 s) : Kept m s0 (writeTimingTick s) := by
  unfold writeTimingTick
  try dsimp only
  repeat' first
    | with_reducible assumption | with_reducible exact List.Subset.trans (by decide) hm
    | with_reducible refine kept_modDram _ ?_ rfl ?_ | exact fun z => z | split
    | with_reducible apply kept_foldl | (intro t a ht; try dsimp only) | (intro t ht; try dsimp only)

theorem kept_execDramCtrlWrite (v : W32) (hm : [.dram, .dramMem] ⊆ m) (h : Kept m s0 s) : KeptR m s0
    (execDramCtrlWrite v s) := by
  unfold execDramCtrlWrite
  try dsimp only
  repeat' first
    | with_reducible assumption | with_reducible exact List.Subset.trans (by decide) hm
    | with_reducible apply keptR_onBlock | with_reducible refine kept_modDram _ ?_ rfl ?_
    | with_reducible apply kept_modDramMem | with_reducible apply keptR_next | exact wf_setGrain _ _
    | exact fun z => z | exact fun z => Mem.wf_store _ _ _ z | exact fun _ => Mem.wf_nil | split
    | with_reducible apply kept_foldl | (intro t a ht; try dsimp only) | (intro t ht; try dsimp only)

theorem kept_startCopy (k : Nat) (kind : BeKind) (d : Desc) (hm : [.hqm, .dram] ⊆ m) (h : Kept m s0 s) : Kept m
    s0 (startCopy k kind d s) := by
  unfold startCopy
  try dsimp only
  repeat' first
    | with_reducible assumption | with_reducible exact List.Subset.trans (by decide) hm
    | with_reducible apply kept_complete | with_reducible apply kept_begin_ | with_reducible apply kept_queueBe
    | exact fun z => z | split | with_reducible apply kept_foldl | (intro t a ht; try dsimp only)
    | (intro t ht; try dsimp only)

theorem kept_execMemWrite (k : CmdSlot) (hm : [.hqm, .dram] ⊆ m) (h : Kept m s0 s) : KeptR m s0 (execMemWrite k
    s) := by
  unfold execMemWrite
  try dsimp only
  repeat' first
    | with_reducible assumption | with_reducible exact List.Subset.trans (by decide) hm
    | with_reducible apply keptR_onCmd | with_reducible apply kept_startCopy | with_reducible apply keptR_next
    | exact fun z => z | split | with_reducible apply kept_foldl | (intro t a ht; try dsimp only)
    | (intro t ht; try dsimp only)

theorem kept_execMemRead (k : CmdSlot) (hm : [.hqm, .dram] ⊆ m) (h : Kept m s0 s) : KeptR m s0 (execMemRead k s)
    := by
  unfold execMemRead
  try dsimp only
  repeat' first
    | with_reducible assumption | with_reducible exact List.Subset.trans (by decide) hm
    | with_reducible apply keptR_onCmd | with_reducible apply kept_startCopy | with_reducible apply keptR_next
    | exact fun z => z | split | with_reducible apply kept_foldl | (intro t a ht; try dsimp only)
    | (intro t ht; try dsimp only)

theorem kept_execMemFill (k : CmdSlot) (hm : [.hqm, .dram] ⊆ m) (h : Kept m s0 s) : KeptR m s0 (execMemFill k s)
    := by
  unfold execMemFill
  try dsimp only
  repeat' first
    | with_reducible assumption | with_reducible exact List.Subset.trans (by decide) hm
    | with_reducible apply keptR_onCmd | with_reducible apply kept_startCopy | with_reducible apply keptR_next
    | exact fun z => z | split | with_reducible apply kept_foldl | (intro t a ht; try dsimp only)
    | (intro t ht; try dsimp only)

theorem kept_dropReq (id : Nat) (hm : [.dram] ⊆ m) (h : Kept m s0 s) : Kept m s0 (dropReq id s) := by
  unfold dropReq
  try dsimp only
  repeat' first
    | with_reducible assumption | with_reducible exact List.Subset.trans (by decide) hm
    | with_reducible refine kept_modDram _ ?_ rfl ?_ | exact fun z => z | split
    | with_reducible apply kept_foldl | (intro t a ht; try dsimp only) | (intro t ht; try dsimp only)

theorem kept_moveReq (id : Nat) (hm : [.dram] ⊆ m) (h : Kept m s0 s) : Kept m s0 (moveReq id s) := by
  unfold moveReq
  try dsimp only
  repeat' first
    | with_reducible assumption | with_reducible exact List.Subset.trans (by decide) hm
    | with_reducible refine kept_modDram _ ?_ rfl ?_ | exact fun z => z | split
    | with_reducible apply kept_foldl | (intro t a ht; try dsimp only) | (intro t ht; try dsimp only)

theorem kept_serveData (r : BeReq) (data : Desc) (hm : [.dram, .host, .dramMem] ⊆ m) (h : Kept m s0 s) : Kept m
    s0 (serveData r data s) := by
  unfold serveData
  try dsimp only
  repeat' first
    | with_reducible assumption | with_reducible exact List.Subset.trans (by decide) hm
    | with_reducible apply kept_hostStore | with_reducible refine kept_modDram _ ?_ rfl ?_
    | with_reducible apply kept_modDramMem | with_reducible apply kept_engineStore | exact fun z => z
    | exact fun z => Mem.wf_store _ _ _ z | exact fun _ => Mem.wf_nil | split | with_reducible apply kept_foldl
    | (intro t a ht; try dsimp only) | (intro t ht; try dsimp only)

theorem kept_endReq (r : BeReq) (hm : [.hqm, .dram, .time, .perf] ⊆ m) (h : Kept m s0 s) : Kept m s0 (endReq r
    s) := by
  unfold endReq
  try dsimp only
  repeat' first
    | with_reducible assumption | with_reducible exact List.Subset.trans (by decide) hm
    | with_reducible apply kept_completeOpt | with_reducible apply kept_dropReq
    | with_reducible refine kept_modTime _ ?_ rfl ?_ | with_reducible apply kept_modPerf | exact fun z => z
    | split | with_reducible apply kept_foldl | (intro t a ht; try dsimp only) | (intro t ht; try dsimp only)

theorem kept_failReq (r : BeReq) (hm : [.hqm, .dram, .time, .perf] ⊆ m) (h : Kept m s0 s) : Kept m s0 (failReq r
    s) := by
  unfold failReq
  try dsimp only
  repeat' first
    | with_reducible assumption | with_reducible exact List.Subset.trans (by decide) hm
    | with_reducible refine kept_modTime _ ?_ rfl ?_ | with_reducible apply kept_modPerf
    | with_reducible apply kept_completeOpt | with_reducible apply kept_dropReq | exact fun z => z | split
    | with_reducible apply kept_foldl | (intro t a ht; try dsimp only) | (intro t ht; try dsimp only)

theorem kept_openLine (ch : Nat) (r : BeReq) (aged : Bool) (hm : [.sys, .hqm, .dram, .perf, .out] ⊆ m) (h : Kept
    m s0 s) : Kept m s0 (openLine ch r aged s) := by
  unfold openLine
  try dsimp only
  repeat' first
    | with_reducible assumption | with_reducible exact List.Subset.trans (by decide) hm
    | with_reducible apply kept_perfEvent | with_reducible refine kept_modDram _ ?_ rfl ?_ | exact fun z => z
    | split | with_reducible apply kept_foldl | (intro t a ht; try dsimp only) | (intro t ht; try dsimp only)

theorem kept_serveReq (ch : Nat) (r : BeReq) (aged : Bool) (data : Desc) (err : Bool) (hm : [.sys, .hqm, .dram,
    .time, .perf, .host, .out, .dramMem] ⊆ m) (h : Kept m s0 s) : Kept m s0 (serveReq ch r aged data err s) :=
    by
  unfold serveReq
  try dsimp only
  repeat' first
    | with_reducible assumption | with_reducible exact List.Subset.trans (by decide) hm
    | with_reducible apply kept_perfFrom | with_reducible apply kept_openLine
    | with_reducible apply kept_failReq | with_reducible apply kept_serveData
    | with_reducible apply kept_endReq | with_reducible apply kept_moveReq | exact fun z => z | split
    | with_reducible apply kept_foldl | (intro t a ht; try dsimp only) | (intro t ht; try dsimp only)

theorem kept_execBestEffortRequestServed (ch : DramCh) (ready : List Nat) (data : Desc) (err : Bool) (t : Grain)
    (hm : [.sys, .hqm, .dram, .time, .perf, .host, .out, .dramMem] ⊆ m) (h : Kept m s0 s) : KeptR m s0
    (execBestEffortRequestServed ch ready data err t s) := by
  unfold execBestEffortRequestServed
  try dsimp only
  repeat' first
    | with_reducible assumption | with_reducible exact List.Subset.trans (by decide) hm
    | with_reducible apply kept_atGrain | with_reducible apply kept_openLine
    | with_reducible apply kept_restDram | with_reducible apply kept_serveReq
    | with_reducible apply kept_wakeDram | with_reducible apply keptR_next | exact fun z => z | split
    | with_reducible apply kept_foldl | (intro t a ht; try dsimp only) | (intro t ht; try dsimp only)

end Sys2Proof.Machine
end

