-- ==== Sys2Proof/Laws/KeptWave.lean ====
section
/-!
SUPPORT. What the operations of Machine/Wave.lean keep.
-/

namespace Sys2Proof.Machine

set_option linter.unusedTactic false
set_option linter.unreachableTactic false
set_option linter.unusedVariables false

variable {m : List Part} {s0 s : State}

theorem kept_movePin (c : Nat) (t : Int) (f : Pin → Pin) (hm : [.pins, .out] ⊆ m) (h : Kept m s0 s) : Kept m s0
    (movePin c t f s) := by
  unfold movePin
  try dsimp only
  repeat' first
    | with_reducible assumption | with_reducible exact List.Subset.trans (by decide) hm
    | with_reducible apply kept_emitAll | with_reducible apply kept_modPin | exact fun z => z | split
    | with_reducible apply kept_foldl | (intro t a ht; try dsimp only) | (intro t ht; try dsimp only)

theorem kept_noteTiming (c : Nat) (moved : Nat) (trim : Bool) (hm : [.sys, .hqm, .timing, .perf, .out] ⊆ m) (h :
    Kept m s0 s) : Kept m s0 (noteTiming c moved trim s) := by
  unfold noteTiming
  try dsimp only
  repeat' first
    | with_reducible assumption | with_reducible exact List.Subset.trans (by decide) hm
    | with_reducible apply kept_perfEvent | with_reducible apply kept_modTiming | exact fun z => z | split
    | with_reducible apply kept_foldl | (intro t a ht; try dsimp only) | (intro t ht; try dsimp only)

theorem kept_putLane (c : Nat) (bs : List LinkBlk) (late : Nat) (hm : [.octets] ⊆ m) (h : Kept m s0 s) : Kept m
    s0 (putLane c bs late s) := by
  unfold putLane
  try dsimp only
  repeat' first
    | with_reducible assumption | with_reducible exact List.Subset.trans (by decide) hm
    | with_reducible apply kept_modOctet | exact fun z => z | split | with_reducible apply kept_foldl
    | (intro t a ht; try dsimp only) | (intro t ht; try dsimp only)

theorem kept_playPin (n c t0 sym : ℕ) (data : ℕ → Bool) (judge : Bool) (obs : List Cls)
    (hm : [.sys, .hqm, .octets, .pins, .timing, .perf, .out, .free] ⊆ m) (h : Kept m s0 s) :
    Kept m s0 (playPin n c t0 sym data judge obs s).2 := by
  unfold playPin
  dsimp only
  repeat' first
    | with_reducible assumption | with_reducible exact List.Subset.trans (by decide) hm
    | with_reducible apply kept_noteTiming | with_reducible apply kept_setFree | with_reducible apply kept_emitAll
    | with_reducible apply kept_modPin | with_reducible apply kept_putLane

end Sys2Proof.Machine
end

