-- ==== Sys2Proof/Laws/KeptTrigger.lean ====
section
/-!
SUPPORT. What the operations of Machine/Trigger.lean keep.
-/

namespace Sys2Proof.Machine

set_option linter.unusedTactic false
set_option linter.unreachableTactic false
set_option linter.unusedVariables false

variable {m : List Part} {s0 s : State}

theorem kept_closeRecord (xm : Nat) (extra : Nat) (hm : [.cap] ⊆ m) (h : Kept m s0 s) : Kept m s0 (closeRecord
    xm extra s) := by
  unfold closeRecord
  try dsimp only
  repeat' first
    | with_reducible assumption | with_reducible exact List.Subset.trans (by decide) hm
    | with_reducible apply kept_modGroup | exact fun z => z | with_reducible apply kept_after | split
    | with_reducible apply kept_foldl | (intro t a ht; try dsimp only) | (intro t ht; try dsimp only)

theorem kept_closeIfDone (xm : Nat) (hm : [.cap] ⊆ m) (h : Kept m s0 s) : Kept m s0 (closeIfDone xm s) := by
  unfold closeIfDone
  try dsimp only
  repeat' first
    | with_reducible assumption | with_reducible exact List.Subset.trans (by decide) hm
    | with_reducible apply kept_closeRecord | exact fun z => z | split | with_reducible apply kept_foldl
    | (intro t a ht; try dsimp only) | (intro t ht; try dsimp only)

theorem kept_setLatches (i : Nat) (t : Nat) (hm : [.sites] ⊆ m) (h : Kept m s0 s) : Kept m s0 (setLatches i t s)
    := by
  unfold setLatches
  try dsimp only
  repeat' first
    | with_reducible assumption | with_reducible exact List.Subset.trans (by decide) hm
    | with_reducible apply kept_modSite | exact fun z => z | split | with_reducible apply kept_foldl
    | (intro t a ht; try dsimp only) | (intro t ht; try dsimp only)

theorem kept_sendFiring (g : Group) (u : Nat) (t : Nat) (hm : [.out] ⊆ m) (h : Kept m s0 s) : Kept m s0
    (sendFiring g u t s) := by
  unfold sendFiring
  try dsimp only
  repeat' first
    | with_reducible assumption | with_reducible exact List.Subset.trans (by decide) hm
    | with_reducible apply kept_broadcast0 | exact fun z => z | split | with_reducible apply kept_foldl
    | (intro t a ht; try dsimp only) | (intro t ht; try dsimp only)

theorem kept_holdFor (u : Nat) (t : Nat) (sm : Option Sample) (hm : [.cap] ⊆ m) (h : Kept m s0 s) : Kept m s0
    (holdFor u t sm s) := by
  unfold holdFor
  try dsimp only
  repeat' first
    | with_reducible assumption | with_reducible exact List.Subset.trans (by decide) hm
    | with_reducible apply kept_modUnit | exact fun z => z | split | with_reducible apply kept_foldl
    | (intro t a ht; try dsimp only) | (intro t ht; try dsimp only)

theorem kept_fireEffects (xm : Nat) (u : Nat) (t : Nat) (hm : [.sys, .hqm, .sites, .dds, .perf, .out] ⊆ m) (h :
    Kept m s0 s) : Kept m s0 (fireEffects xm u t s) := by
  unfold fireEffects
  try dsimp only
  repeat' first
    | with_reducible assumption | with_reducible exact List.Subset.trans (by decide) hm
    | with_reducible apply kept_setLatches | with_reducible apply kept_perfEvent
    | with_reducible apply kept_emit | with_reducible apply kept_sendFiring
    | with_reducible apply kept_jumpSource | exact fun z => z | split | with_reducible apply kept_foldl
    | (intro t a ht; try dsimp only) | (intro t ht; try dsimp only)

theorem kept_trigger (xm : Nat) (t : Nat) (causes : BitVec 16) (remotes : BitVec 16) (forced : Bool) (hm :
    [.cap] ⊆ m) (h : Kept m s0 s) : Kept m s0 (trigger xm t causes remotes forced s) := by
  unfold trigger
  try dsimp only
  repeat' first
    | with_reducible assumption | with_reducible exact List.Subset.trans (by decide) hm
    | with_reducible apply kept_closeIfDone | with_reducible apply kept_modGroup | exact fun z => z | split
    | with_reducible apply kept_foldl | (intro t a ht; try dsimp only) | (intro t ht; try dsimp only)

theorem kept_missTrigger (xm : Nat) (u : Nat) (hm : [.sys, .hqm, .cap, .perf, .out] ⊆ m) (h : Kept m s0 s) :
    Kept m s0 (missTrigger xm u s) := by
  unfold missTrigger
  try dsimp only
  repeat' first
    | with_reducible assumption | with_reducible exact List.Subset.trans (by decide) hm
    | with_reducible apply kept_modUnit | with_reducible apply kept_modGroup
    | with_reducible apply kept_perfEvent | exact fun z => z | split | with_reducible apply kept_foldl
    | (intro t a ht; try dsimp only) | (intro t ht; try dsimp only)

theorem kept_conditionMet (u : Nat) (t : Nat) (hm : [.sys, .hqm, .sites, .cap, .dds, .perf, .out] ⊆ m) (h : Kept
    m s0 s) : Kept m s0 (conditionMet u t s) := by
  unfold conditionMet
  try dsimp only
  repeat' first
    | with_reducible assumption | with_reducible exact List.Subset.trans (by decide) hm
    | with_reducible apply kept_missTrigger | with_reducible apply kept_fireEffects
    | with_reducible apply kept_modUnit | with_reducible apply kept_trigger | with_reducible apply kept_holdFor
    | with_reducible apply kept_modGroup | exact fun z => z | split | with_reducible apply kept_foldl
    | (intro t a ht; try dsimp only) | (intro t ht; try dsimp only)

theorem kept_sourceEvent (src : Nat) (sel : Nat) (t : Nat) (hm : [.sys, .hqm, .sites, .cap, .dds, .perf, .out] ⊆
    m) (h : Kept m s0 s) : Kept m s0 (sourceEvent src sel t s) := by
  unfold sourceEvent
  try dsimp only
  repeat' first
    | with_reducible assumption | with_reducible exact List.Subset.trans (by decide) hm
    | with_reducible apply kept_conditionMet | exact fun z => z | split | with_reducible apply kept_foldl
    | (intro t a ht; try dsimp only) | (intro t ht; try dsimp only)

theorem kept_settleTrigger (xm : Nat) (hm : [.cap] ⊆ m) (h : Kept m s0 s) : Kept m s0 (settleTrigger xm s) := by
  unfold settleTrigger
  try dsimp only
  repeat' first
    | with_reducible assumption | with_reducible exact List.Subset.trans (by decide) hm
    | with_reducible apply kept_modUnit | with_reducible apply kept_modGroup | exact fun z => z | split
    | with_reducible apply kept_foldl | (intro t a ht; try dsimp only) | (intro t ht; try dsimp only)

theorem kept_endArming (xm : Nat) (hm : [.hqm, .cap] ⊆ m) (h : Kept m s0 s) : Kept m s0 (endArming xm s) := by
  unfold endArming
  try dsimp only
  repeat' first
    | with_reducible assumption | with_reducible exact List.Subset.trans (by decide) hm
    | with_reducible apply kept_modGroup | with_reducible apply kept_completeOpt | exact fun z => z | split
    | with_reducible apply kept_foldl | (intro t a ht; try dsimp only) | (intro t ht; try dsimp only)

theorem kept_resolveShut (xm : Nat) (hm : [.hqm, .cap] ⊆ m) (h : Kept m s0 s) : Kept m s0 (resolveShut xm s) :=
    by
  unfold resolveShut
  try dsimp only
  repeat' first
    | with_reducible assumption | with_reducible exact List.Subset.trans (by decide) hm
    | with_reducible apply kept_modGroup | with_reducible apply kept_closeRecord
    | with_reducible apply kept_settleTrigger | with_reducible apply kept_endArming | exact fun z => z | split
    | with_reducible apply kept_foldl | (intro t a ht; try dsimp only) | (intro t ht; try dsimp only)

theorem kept_shutGroup (xm : Nat) (flags : Nat) (dis : Bool) (hm : [.hqm, .cap] ⊆ m) (h : Kept m s0 s) : Kept m
    s0 (shutGroup xm flags dis s) := by
  unfold shutGroup
  try dsimp only
  repeat' first
    | with_reducible assumption | with_reducible exact List.Subset.trans (by decide) hm
    | with_reducible apply kept_resolveShut | with_reducible apply kept_modGroup
    | with_reducible apply kept_endArming | exact fun z => z | with_reducible apply keptO_getD | split
    | with_reducible apply kept_foldl | (intro t a ht; try dsimp only) | (intro t ht; try dsimp only)

theorem kept_sampleVector (n : Nat) (t : Nat) (v : Nat) (cls : Nat → Option Cls) (marks : List (Nat × Nat)) (hm
    : [.sys, .hqm, .sites, .cap, .dds, .perf, .out] ⊆ m) (h : Kept m s0 s) : Kept m s0 (sampleVector n t v cls
    marks s) := by
  unfold sampleVector
  try dsimp only
  repeat' first
    | with_reducible assumption | with_reducible exact List.Subset.trans (by decide) hm
    | with_reducible apply kept_settleTrigger | with_reducible apply kept_modGroup
    | with_reducible apply kept_modUnit | with_reducible apply kept_conditionMet
    | with_reducible apply kept_resolveShut | with_reducible apply kept_closeIfDone | exact fun z => z | split
    | with_reducible apply kept_foldl | (intro t a ht; try dsimp only) | (intro t ht; try dsimp only)

theorem kept_execTrigArm (k : CmdSlot) (hm : [.hqm, .cap] ⊆ m) (h : Kept m s0 s) : KeptR m s0 (execTrigArm k s)
    := by
  unfold execTrigArm
  try dsimp only
  repeat' first
    | with_reducible assumption | with_reducible exact List.Subset.trans (by decide) hm
    | with_reducible apply keptR_onCmd | with_reducible apply kept_complete | with_reducible apply kept_modUnit
    | with_reducible apply kept_begin_ | with_reducible apply kept_modGroup | with_reducible apply keptR_next
    | exact fun z => z | split | with_reducible apply kept_foldl | (intro t a ht; try dsimp only)
    | (intro t ht; try dsimp only)

theorem kept_releaseUnits (units : BitVec 16) (hm : [.cap] ⊆ m) (h : Kept m s0 s) : Kept m s0 (releaseUnits
    units s) := by
  unfold releaseUnits
  try dsimp only
  repeat' first
    | with_reducible assumption | with_reducible exact List.Subset.trans (by decide) hm
    | with_reducible apply kept_modUnit | exact fun z => z | split | with_reducible apply kept_foldl
    | (intro t a ht; try dsimp only) | (intro t ht; try dsimp only)

theorem kept_endCount (xm : Nat) (hm : [.hqm, .cap] ⊆ m) (h : Kept m s0 s) : Kept m s0 (endCount xm s) := by
  unfold endCount
  try dsimp only
  repeat' first
    | with_reducible assumption | with_reducible exact List.Subset.trans (by decide) hm
    | with_reducible apply kept_releaseUnits | with_reducible apply kept_modGroup
    | with_reducible apply kept_completeOpt | exact fun z => z | split | with_reducible apply kept_foldl
    | (intro t a ht; try dsimp only) | (intro t ht; try dsimp only)

theorem kept_disarmGroup (xm : Nat) (hm : [.hqm, .cap] ⊆ m) (h : Kept m s0 s) : Kept m s0 (disarmGroup xm s) :=
    by
  unfold disarmGroup
  try dsimp only
  repeat' first
    | with_reducible assumption | with_reducible exact List.Subset.trans (by decide) hm
    | with_reducible apply kept_endCount | with_reducible apply kept_shutGroup
    | with_reducible apply kept_releaseUnits | exact fun z => z | split | with_reducible apply kept_foldl
    | (intro t a ht; try dsimp only) | (intro t ht; try dsimp only)

theorem kept_execTrigDisarm (k : CmdSlot) (hm : [.hqm, .cap] ⊆ m) (h : Kept m s0 s) : KeptR m s0 (execTrigDisarm
    k s) := by
  unfold execTrigDisarm
  try dsimp only
  repeat' first
    | with_reducible assumption | with_reducible exact List.Subset.trans (by decide) hm
    | with_reducible apply keptR_onCmd | with_reducible apply kept_complete | with_reducible apply kept_begin_
    | with_reducible apply kept_modGroup | with_reducible apply keptR_next | exact fun z => z
    | with_reducible apply kept_elim | split | with_reducible apply kept_foldl | (intro t a ht; try dsimp only)
    | (intro t ht; try dsimp only) | (intro v; try dsimp only)

theorem kept_groupTick (hm : [.hqm, .cap] ⊆ m) (h : Kept m s0 s) : Kept m s0 (groupTick s) := by
  unfold groupTick
  try dsimp only
  repeat' first
    | with_reducible assumption | with_reducible exact List.Subset.trans (by decide) hm
    | with_reducible apply kept_modUnit | with_reducible apply kept_modGroup
    | with_reducible apply kept_resolveShut | with_reducible apply kept_disarmGroup | exact fun z => z | split
    | with_reducible apply kept_foldl | (intro t a ht; try dsimp only) | (intro t ht; try dsimp only)

theorem kept_execGroupRearm (xm : UnitId) (hm : [.hqm, .cap] ⊆ m) (h : Kept m s0 s) : KeptR m s0 (execGroupRearm
    xm s) := by
  unfold execGroupRearm
  try dsimp only
  repeat' first
    | with_reducible assumption | with_reducible exact List.Subset.trans (by decide) hm
    | with_reducible apply kept_endCount | with_reducible apply kept_modGroup | with_reducible apply keptR_next
    | exact fun z => z | split | with_reducible apply kept_foldl | (intro t a ht; try dsimp only)
    | (intro t ht; try dsimp only)

theorem kept_execHoldoffExpiry (u : UnitId) (hm : [.cap] ⊆ m) (h : Kept m s0 s) : KeptR m s0 (execHoldoffExpiry
    u s) := by
  unfold execHoldoffExpiry
  try dsimp only
  repeat' first
    | with_reducible assumption | with_reducible exact List.Subset.trans (by decide) hm
    | with_reducible apply kept_modUnit | with_reducible apply keptR_next | exact fun z => z | split
    | with_reducible apply kept_foldl | (intro t a ht; try dsimp only) | (intro t ht; try dsimp only)

theorem kept_execAutoTrigger (xm : UnitId) (hm : [.cap] ⊆ m) (h : Kept m s0 s) : KeptR m s0 (execAutoTrigger xm
    s) := by
  unfold execAutoTrigger
  try dsimp only
  repeat' first
    | with_reducible assumption | with_reducible exact List.Subset.trans (by decide) hm
    | with_reducible apply kept_trigger | with_reducible apply keptR_next | exact fun z => z | split
    | with_reducible apply kept_foldl | (intro t a ht; try dsimp only) | (intro t ht; try dsimp only)

theorem kept_execTrigInEdge (i : Fin 4) (t : Grain) (hm : [.sys, .hqm, .sites, .cap, .dds, .time, .perf, .out] ⊆
    m) (h : Kept m s0 s) : KeptR m s0 (execTrigInEdge i t s) := by
  unfold execTrigInEdge
  try dsimp only
  repeat' first
    | with_reducible assumption | with_reducible exact List.Subset.trans (by decide) hm
    | with_reducible apply kept_atGrain | with_reducible apply kept_sourceEvent
    | with_reducible apply keptR_next | exact fun z => z | split | with_reducible apply kept_foldl
    | (intro t a ht; try dsimp only) | (intro t ht; try dsimp only)

theorem kept_execAcqRead (k : CmdSlot) (hm : [.hqm, .dram] ⊆ m) (h : Kept m s0 s) : KeptR m s0 (execAcqRead k s)
    := by
  unfold execAcqRead
  try dsimp only
  repeat' first
    | with_reducible assumption | with_reducible exact List.Subset.trans (by decide) hm
    | with_reducible apply keptR_onCmd | with_reducible apply kept_complete | with_reducible apply kept_begin_
    | with_reducible apply kept_queueBe | with_reducible apply keptR_next | exact fun z => z | split
    | with_reducible apply kept_foldl | (intro t a ht; try dsimp only) | (intro t ht; try dsimp only)

theorem kept_siteIdleGroups (n : Nat) (hm : [.hqm, .cap] ⊆ m) (h : Kept m s0 s) : Kept m s0 (siteIdleGroups n s)
    := by
  unfold siteIdleGroups
  try dsimp only
  repeat' first
    | with_reducible assumption | with_reducible exact List.Subset.trans (by decide) hm
    | with_reducible apply kept_resolveShut | with_reducible apply kept_closeRecord
    | with_reducible apply kept_settleTrigger | with_reducible apply kept_modGroup | exact fun z => z | split
    | with_reducible apply kept_foldl | (intro t a ht; try dsimp only) | (intro t ht; try dsimp only)

end Sys2Proof.Machine
end

