-- ==== Sys2Proof/Laws/KeptPlayer.lean ====
section
/-!
SUPPORT. What the operations of Machine/Player.lean keep.
-/

namespace Sys2Proof.Machine

set_option linter.unusedTactic false
set_option linter.unreachableTactic false
set_option linter.unusedVariables false

variable {m : List Part} {s0 s : State}

theorem kept_susEntry (n : Nat) (type : Nat) (untr : Bool) (p : At) (e : SusEnt) (hm : [.sys, .hqm, .cap, .perf,
    .out] ⊆ m) (h : Kept m s0 s) : Kept m s0 (susEntry n type untr p s e) := by
  unfold susEntry
  try dsimp only
  repeat' first
    | with_reducible assumption | with_reducible exact List.Subset.trans (by decide) hm
    | with_reducible apply kept_stageEntry | exact fun z => z | split | with_reducible apply kept_foldl
    | (intro t a ht; try dsimp only) | (intro t ht; try dsimp only)

theorem kept_countPin (r : PinRes) (hm : [.sys, .hqm, .pins, .perf, .out] ⊆ m) (h : Kept m s0 s) : Kept m s0
    (countPin s r) := by
  unfold countPin
  try dsimp only
  repeat' first
    | with_reducible assumption | with_reducible exact List.Subset.trans (by decide) hm
    | with_reducible apply kept_perfEvent | with_reducible apply kept_modPin | exact fun z => z | split
    | with_reducible apply kept_foldl | (intro t a ht; try dsimp only) | (intro t ht; try dsimp only)

theorem kept_sendHit (d : MatchDesc) (hit : Bool) (cycle : Nat) (hm : [.out] ⊆ m) (h : Kept m s0 s) : Kept m s0
    (sendHit d hit cycle s) := by
  unfold sendHit
  try dsimp only
  repeat' first
    | with_reducible assumption | with_reducible exact List.Subset.trans (by decide) hm
    | with_reducible apply kept_broadcast0 | exact fun z => z | split | with_reducible apply kept_foldl
    | (intro t a ht; try dsimp only) | (intro t ht; try dsimp only)

theorem kept_noteProbe (n : Nat) (di : Nat) (rs : List PinRes) (hm : [.sites, .out] ⊆ m) (h : Kept m s0 s) :
    Kept m s0 (noteProbe n di rs s) := by
  unfold noteProbe
  try dsimp only
  repeat' first
    | with_reducible assumption | with_reducible exact List.Subset.trans (by decide) hm
    | with_reducible apply kept_sendHit | with_reducible apply kept_modSite | exact fun z => z | split
    | with_reducible apply kept_foldl | (intro t a ht; try dsimp only) | (intro t ht; try dsimp only)

theorem kept_finishVec (n : Nat) (p : At) (ts : Nat) (untr : Bool) (probe : Option Nat) (logM : Bool) (rs : List
    PinRes) (opens : List SusEnt) (closes : List SusEnt) (hm : [.sys, .hqm, .sites, .pins, .cap, .dds, .halso,
    .perf, .out] ⊆ m) (h : Kept m s0 s) : Kept m s0 (finishVec n p ts untr probe logM rs opens closes s) := by
  unfold finishVec
  try dsimp only
  repeat' first
    | with_reducible assumption | with_reducible exact List.Subset.trans (by decide) hm
    | with_reducible apply kept_countPin | with_reducible apply kept_countVector
    | with_reducible apply kept_susEntry | with_reducible apply kept_firstFail
    | with_reducible apply kept_stageFail | with_reducible apply kept_noteProbe
    | with_reducible apply kept_sampleVector | exact fun z => z | split | with_reducible apply kept_foldl
    | (intro t a ht; try dsimp only) | (intro t ht; try dsimp only)

theorem kept_finishRun (n : Nat) (p : At) (stopped : Bool) (status : BitVec 8) (reason : BitVec 8) (untr : Bool)
    (hm : [.sys, .hqm, .cap, .perf, .out] ⊆ m) (h : Kept m s0 s) : Kept m s0 (finishRun n p stopped status
    reason untr s) := by
  unfold finishRun
  try dsimp only
  repeat' first
    | with_reducible assumption | with_reducible exact List.Subset.trans (by decide) hm
    | with_reducible apply kept_siteIdleGroups | with_reducible apply kept_stageEnd | exact fun z => z | split
    | with_reducible apply kept_foldl | (intro t a ht; try dsimp only) | (intro t ht; try dsimp only)

theorem kept_flush (n f : ℕ) (hm : [.sys, .hqm, .sites, .pins, .cap, .dds, .halso, .perf, .out] ⊆ m) :
    ∀ {s : State}, Kept m s0 s → Kept m s0 (flush n f s) := by
  induction f with
  | zero => intro s h; exact h
  | succ f ih =>
    intro s h
    unfold flush
    dsimp only
    repeat' first
      | with_reducible assumption | with_reducible exact List.Subset.trans (by decide) hm
      | with_reducible apply kept_finishVec | with_reducible apply kept_stageEntry | with_reducible apply kept_finishRun
      | with_reducible apply ih | with_reducible apply kept_modSite | split

theorem kept_hold (n : Nat) (xh : Held) (hm : [.sys, .hqm, .sites, .pins, .cap, .dds, .halso, .perf, .out] ⊆ m)
    (h : Kept m s0 s) : Kept m s0 (hold n xh s) := by
  unfold hold
  try dsimp only
  repeat' first
    | with_reducible assumption | with_reducible exact List.Subset.trans (by decide) hm
    | with_reducible apply kept_modSite | with_reducible apply kept_flush | exact fun z => z | split
    | with_reducible apply kept_foldl | (intro t a ht; try dsimp only) | (intro t ht; try dsimp only)

theorem kept_parkWord (n : Nat) (c : Nat) (t : Int) (lvl : Nat) (hm : [.octets, .pins] ⊆ m) (h : Kept m s0 s) :
    Kept m s0 (parkWord n c t lvl s) := by
  unfold parkWord
  try dsimp only
  repeat' first
    | with_reducible assumption | with_reducible exact List.Subset.trans (by decide) hm
    | with_reducible apply kept_putLane | with_reducible apply kept_modPin | exact fun z => z
    | with_reducible apply keptO_getD | split | with_reducible apply kept_foldl
    | (intro t a ht; try dsimp only) | (intro t ht; try dsimp only)

theorem kept_parkPin (n : Nat) (c : Nat) (t : Int) (hm : [.octets, .pins, .out] ⊆ m) (h : Kept m s0 s) : Kept m
    s0 (parkPin n c t s) := by
  unfold parkPin
  try dsimp only
  repeat' first
    | with_reducible assumption | with_reducible exact List.Subset.trans (by decide) hm
    | with_reducible apply kept_parkWord | with_reducible apply kept_movePin | exact fun z => z | split
    | with_reducible apply kept_foldl | (intro t a ht; try dsimp only) | (intro t ht; try dsimp only)

theorem kept_openBall (t : Int) (c : Nat) (hm : [.pins, .out] ⊆ m) (h : Kept m s0 s) : Kept m s0 (openBall t c
    s) := by
  unfold openBall
  try dsimp only
  repeat' first
    | with_reducible assumption | with_reducible exact List.Subset.trans (by decide) hm
    | with_reducible apply kept_movePin | exact fun z => z | split | with_reducible apply kept_foldl
    | (intro t a ht; try dsimp only) | (intro t ht; try dsimp only)

theorem kept_releasePin (t : Int) (c : Nat) (hm : [.pins, .out] ⊆ m) (h : Kept m s0 s) : Kept m s0 (releasePin t
    c s) := by
  unfold releasePin
  try dsimp only
  repeat' first
    | with_reducible assumption | with_reducible exact List.Subset.trans (by decide) hm
    | with_reducible apply kept_openBall | exact fun z => z | split | with_reducible apply kept_foldl
    | (intro t a ht; try dsimp only) | (intro t ht; try dsimp only)

theorem kept_restPin (c : Nat) (hm : [.octets, .pins, .out] ⊆ m) (h : Kept m s0 s) : Kept m s0 (restPin c s) :=
    by
  unfold restPin
  try dsimp only
  repeat' first
    | with_reducible assumption | with_reducible exact List.Subset.trans (by decide) hm
    | with_reducible apply kept_parkPin | with_reducible apply kept_releasePin | exact fun z => z | split
    | with_reducible apply kept_foldl | (intro t a ht; try dsimp only) | (intro t ht; try dsimp only)

theorem kept_endFar (was : Option (Nat × Nat)) (hm : [.octets, .pins, .out] ⊆ m) (h : Kept m s0 s) : Kept m s0
    (endFar was s) := by
  unfold endFar
  try dsimp only
  repeat' first
    | with_reducible assumption | with_reducible exact List.Subset.trans (by decide) hm
    | with_reducible apply kept_restPin | exact fun z => z | split | with_reducible apply kept_foldl
    | (intro t a ht; try dsimp only) | (intro t ht; try dsimp only)

theorem kept_parkPins (n : Nat) (t : Int) (hm : [.octets, .pins, .out] ⊆ m) (h : Kept m s0 s) : Kept m s0
    (parkPins n t s) := by
  unfold parkPins
  try dsimp only
  repeat' first
    | with_reducible assumption | with_reducible exact List.Subset.trans (by decide) hm
    | with_reducible apply kept_parkPin | exact fun z => z | split | with_reducible apply kept_foldl
    | (intro t a ht; try dsimp only) | (intro t ht; try dsimp only)

theorem kept_endRun (n : Nat) (e : EndInfo) (stopped : Bool) (t : Nat) (addr : Nat) (ovl : Nat) (hm : [.sys,
    .hqm, .sites, .octets, .pins, .cap, .dds, .halso, .perf, .out] ⊆ m) (h : Kept m s0 s) : Kept m s0 (endRun n
    e stopped t addr ovl s) := by
  unfold endRun
  try dsimp only
  repeat' first
    | with_reducible assumption | with_reducible exact List.Subset.trans (by decide) hm
    | with_reducible apply kept_parkPins | with_reducible apply kept_modPin | with_reducible apply kept_modSite
    | with_reducible apply kept_flush | exact fun z => z | split | with_reducible apply kept_foldl
    | (intro t a ht; try dsimp only) | (intro t ht; try dsimp only)

theorem kept_cancelSite (n : Nat) (hm : [.hqm] ⊆ m) (h : Kept m s0 s) : Kept m s0 (cancelSite n s) := by
  unfold cancelSite
  try dsimp only
  repeat' first
    | with_reducible assumption | with_reducible exact List.Subset.trans (by decide) hm
    | with_reducible apply kept_promote | with_reducible apply kept_cancelAll | exact fun z => z | split
    | with_reducible apply kept_foldl | (intro t a ht; try dsimp only) | (intro t ht; try dsimp only)

theorem kept_stopRun (n : Nat) (r : StopReq) (k : StopAt) (t : Nat) (addr : Nat) (ovl : Nat) (hm : [.sys, .hqm,
    .sites, .octets, .pins, .cap, .dds, .halso, .perf, .out] ⊆ m) (h : Kept m s0 s) : Kept m s0 (stopRun n r k t
    addr ovl s) := by
  unfold stopRun
  try dsimp only
  repeat' first
    | with_reducible assumption | with_reducible exact List.Subset.trans (by decide) hm
    | with_reducible apply kept_modSite | with_reducible apply kept_cancelSite
    | with_reducible apply kept_endRun | exact fun z => z | with_reducible apply keptO_getD | split
    | with_reducible apply kept_foldl | (intro t a ht; try dsimp only) | (intro t ht; try dsimp only)

theorem kept_stopEffect (n : Nat) (p : StopReq → Bool) (hm : [.sys, .hqm, .sites, .octets, .pins, .cap, .dds,
    .halso, .perf, .out] ⊆ m) (h : Kept m s0 s) : Kept m s0 (stopEffect n p s) := by
  unfold stopEffect
  try dsimp only
  repeat' first
    | with_reducible assumption | with_reducible exact List.Subset.trans (by decide) hm
    | with_reducible apply kept_stopRun | exact fun z => z | split | with_reducible apply kept_foldl
    | (intro t a ht; try dsimp only) | (intro t ht; try dsimp only)

theorem kept_execSiteStopEffect (n : SiteId) (hm : [.sys, .hqm, .sites, .octets, .pins, .cap, .dds, .halso,
    .perf, .out] ⊆ m) (h : Kept m s0 s) : KeptR m s0 (execSiteStopEffect n s) := by
  unfold execSiteStopEffect
  try dsimp only
  repeat' first
    | with_reducible assumption | with_reducible exact List.Subset.trans (by decide) hm
    | with_reducible apply kept_stopEffect | with_reducible apply keptR_next | exact fun z => z | split
    | with_reducible apply kept_foldl | (intro t a ht; try dsimp only) | (intro t ht; try dsimp only)

theorem kept_execSiteParkLimit (n : SiteId) (hm : [.sys, .hqm, .sites, .octets, .pins, .cap, .dds, .halso,
    .perf, .out] ⊆ m) (h : Kept m s0 s) : KeptR m s0 (execSiteParkLimit n s) := by
  unfold execSiteParkLimit
  try dsimp only
  repeat' first
    | with_reducible assumption | with_reducible exact List.Subset.trans (by decide) hm
    | with_reducible apply kept_stopEffect | with_reducible apply keptR_next | exact fun z => z | split
    | with_reducible apply kept_foldl | (intro t a ht; try dsimp only) | (intro t ht; try dsimp only)

theorem kept_halsoEvent (xm : Nat) (t : Nat) (hm : [.sys, .hqm, .sites, .cap, .dds, .perf, .out] ⊆ m) (h : Kept
    m s0 s) : Kept m s0 (halsoEvent xm t s) := by
  unfold halsoEvent
  try dsimp only
  repeat' first
    | with_reducible assumption | with_reducible exact List.Subset.trans (by decide) hm
    | with_reducible apply kept_jumpSource | with_reducible apply kept_sourceEvent
    | with_reducible apply kept_setLatches | exact fun z => z | split | with_reducible apply kept_foldl
    | (intro t a ht; try dsimp only) | (intro t ht; try dsimp only)

theorem kept_signalAt (n : Nat) (dst : Nat) (t : Nat) (hm : [.sys, .hqm, .sites, .cap, .dds, .perf, .out] ⊆ m)
    (h : Kept m s0 s) : Kept m s0 (signalAt n dst t s) := by
  unfold signalAt
  try dsimp only
  repeat' first
    | with_reducible assumption | with_reducible exact List.Subset.trans (by decide) hm
    | with_reducible apply kept_modSite | with_reducible apply kept_sourceEvent
    | with_reducible apply kept_emit | with_reducible apply kept_broadcast0
    | with_reducible apply kept_halsoEvent | exact fun z => z | split | with_reducible apply kept_foldl
    | (intro t a ht; try dsimp only) | (intro t ht; try dsimp only)

theorem kept_popQ (n : Nat) (hm : [.sites] ⊆ m) (h : Kept m s0 s) : Kept m s0 (popQ n s) := by
  unfold popQ
  try dsimp only
  repeat' first
    | with_reducible assumption | with_reducible exact List.Subset.trans (by decide) hm
    | with_reducible apply kept_modSite | exact fun z => z | split | with_reducible apply kept_foldl
    | (intro t a ht; try dsimp only) | (intro t ht; try dsimp only)

theorem kept_newSet (n : Nat) (ts : Nat) (hm : [.sites, .pins] ⊆ m) (h : Kept m s0 s) : Kept m s0 (newSet n ts
    s) := by
  unfold newSet
  try dsimp only
  repeat' first
    | with_reducible assumption | with_reducible exact List.Subset.trans (by decide) hm
    | with_reducible apply kept_disturbSite | with_reducible apply kept_modSite
    | with_reducible apply kept_modPin | exact fun z => z | split | with_reducible apply kept_foldl
    | (intro t a ht; try dsimp only) | (intro t ht; try dsimp only)

theorem kept_dropHits (d : MatchDesc) (hm : [.halso] ⊆ m) (h : Kept m s0 s) : Kept m s0 (dropHits d s) := by
  unfold dropHits
  try dsimp only
  repeat' first
    | with_reducible assumption | with_reducible exact List.Subset.trans (by decide) hm
    | with_reducible apply kept_modHalso | exact fun z => z | split | with_reducible apply kept_foldl
    | (intro t a ht; try dsimp only) | (intro t ht; try dsimp only)

theorem keptO_settleOne (n : Nat) (hm : [.sys, .hqm, .sites, .octets, .pins, .cap, .dds, .halso, .perf, .out] ⊆
    m) (h : Kept m s0 s) : KeptO m s0 (settleOne n s) := by
  unfold settleOne
  try dsimp only
  repeat' first
    | with_reducible assumption | with_reducible exact List.Subset.trans (by decide) hm
    | with_reducible apply kept_newSet | with_reducible apply kept_popQ | with_reducible apply kept_hold
    | with_reducible apply kept_signalAt | with_reducible apply kept_endRun
    | with_reducible apply kept_dropHits | with_reducible apply kept_modSite
    | with_reducible apply kept_parkPins | with_reducible exact keptO_none | with_reducible apply keptO_some
    | with_reducible apply keptO_map | exact fun z => z | split | with_reducible apply kept_foldl
    | (intro t a ht; try dsimp only) | (intro t ht; try dsimp only) | (intro v; try dsimp only)

theorem kept_settleN (n f : ℕ) (hm : [.sys, .hqm, .sites, .octets, .pins, .cap, .dds, .halso, .perf, .out] ⊆ m) :
    ∀ {s : State}, Kept m s0 s → Kept m s0 (settleN n f s) := by
  induction f with
  | zero => intro s h; exact h
  | succ f ih =>
    intro s h
    unfold settleN
    split
    · exact h
    next t e => exact ih (keptO_settleOne n hm h t e)

theorem kept_settle (n : Nat) (hm : [.sys, .hqm, .sites, .octets, .pins, .cap, .dds, .halso, .perf, .out] ⊆ m)
    (h : Kept m s0 s) : Kept m s0 (settle n s) := by
  unfold settle
  try dsimp only
  repeat' first
    | with_reducible assumption | with_reducible exact List.Subset.trans (by decide) hm
    | with_reducible apply kept_settleN | exact fun z => z | split | with_reducible apply kept_foldl
    | (intro t a ht; try dsimp only) | (intro t ht; try dsimp only)

theorem kept_execBundleRead (n : SiteAt) (hm : [.sys, .hqm, .sites, .octets, .pins, .cap, .dds, .time, .halso,
    .perf, .out] ⊆ m) (h : Kept m s0 s) : KeptR m s0 (execBundleRead n s) := by
  unfold execBundleRead
  try dsimp only
  repeat' first
    | with_reducible assumption | with_reducible exact List.Subset.trans (by decide) hm
    | with_reducible apply kept_atGrain | with_reducible apply kept_settle | with_reducible apply kept_modSite
    | with_reducible apply keptR_next | exact fun z => z | split | with_reducible apply kept_foldl
    | (intro t a ht; try dsimp only) | (intro t ht; try dsimp only)

theorem kept_passRanges (n : Nat) (hm : [.pins] ⊆ m) (h : Kept m s0 s) : Kept m s0 (passRanges n s) := by
  unfold passRanges
  try dsimp only
  repeat' first
    | with_reducible assumption | with_reducible exact List.Subset.trans (by decide) hm
    | with_reducible apply kept_modPin | exact fun z => z | split | with_reducible apply kept_foldl
    | (intro t a ht; try dsimp only) | (intro t ht; try dsimp only)

theorem kept_playPins (n t0 rec : ℕ) (judge : Bool) (obs : List Obs)
    (hm : [.sys, .hqm, .octets, .pins, .timing, .perf, .out, .free] ⊆ m) (h : Kept m s0 s) :
    Kept m s0 (playPins n t0 rec judge obs s).2 := by
  unfold playPins
  dsimp only
  apply kept_foldl_snd
  · intro t a ht
    exact kept_playPin _ _ _ _ _ _ _ hm ht
  · exact h

theorem kept_playVector (n : Nat) (addr : Nat) (ovl : Nat) (rec : Nat) (probe : Option Nat) (judge : Bool) (logM
    : Bool) (obs : List Obs) (hm : [.sys, .hqm, .sites, .octets, .pins, .timing, .cap, .dds, .halso, .perf,
    .out, .free] ⊆ m) (h : Kept m s0 s) : Kept m s0 (playVector n addr ovl rec probe judge logM obs s) := by
  unfold playVector
  try dsimp only
  repeat' first
    | with_reducible assumption | with_reducible exact List.Subset.trans (by decide) hm
    | with_reducible apply kept_playPins | with_reducible apply kept_passRanges
    | with_reducible apply kept_modSite | with_reducible apply kept_hold | with_reducible apply kept_perfEvent
    | exact fun z => z | split | with_reducible apply kept_foldl | (intro t a ht; try dsimp only)
    | (intro t ht; try dsimp only)

theorem kept_playBundle (n : Nat) (obs : List Obs) (hm : [.sys, .hqm, .sites, .octets, .pins, .timing, .cap,
    .dds, .halso, .perf, .out, .free] ⊆ m) (h : Kept m s0 s) : Kept m s0 (playBundle n obs s) := by
  unfold playBundle
  try dsimp only
  repeat' first
    | with_reducible assumption | with_reducible exact List.Subset.trans (by decide) hm
    | with_reducible apply kept_settle | with_reducible apply kept_playVector
    | with_reducible apply kept_modSite | exact fun z => z | with_reducible apply keptO_getD | split
    | with_reducible apply kept_foldl | (intro t a ht; try dsimp only) | (intro t ht; try dsimp only)

theorem kept_leaseEnd (n : Nat) (addr : Nat) (ovl : Nat) (pos : Nat) (guard : Nat) (hm : [.sys, .hqm, .sites,
    .octets, .pins, .cap, .dds, .halso, .perf, .out] ⊆ m) (h : Kept m s0 s) : Kept m s0 (leaseEnd n addr ovl pos
    guard s) := by
  unfold leaseEnd
  try dsimp only
  repeat' first
    | with_reducible assumption | with_reducible exact List.Subset.trans (by decide) hm
    | with_reducible apply kept_endRun | exact fun z => z | split | with_reducible apply kept_foldl
    | (intro t a ht; try dsimp only) | (intro t ht; try dsimp only)

theorem kept_playProbe (n : Nat) (obs : List Obs) (hm : [.sys, .hqm, .sites, .octets, .pins, .timing, .cap,
    .dds, .halso, .perf, .out, .free] ⊆ m) (h : Kept m s0 s) : Kept m s0 (playProbe n obs s) := by
  unfold playProbe
  try dsimp only
  repeat' first
    | with_reducible assumption | with_reducible exact List.Subset.trans (by decide) hm
    | with_reducible apply kept_modSite | with_reducible apply kept_leaseEnd
    | with_reducible apply kept_playVector | with_reducible apply kept_perfEvent | exact fun z => z | split
    | with_reducible apply kept_foldl | (intro t a ht; try dsimp only) | (intro t ht; try dsimp only)

theorem kept_playWait (n : Nat) (obs : List Obs) (hm : [.sys, .hqm, .sites, .octets, .pins, .timing, .cap, .dds,
    .halso, .perf, .out, .free] ⊆ m) (h : Kept m s0 s) : Kept m s0 (playWait n obs s) := by
  unfold playWait
  try dsimp only
  repeat' first
    | with_reducible assumption | with_reducible exact List.Subset.trans (by decide) hm
    | with_reducible apply kept_playVector | with_reducible apply kept_modSite | exact fun z => z | split
    | with_reducible apply kept_foldl | (intro t a ht; try dsimp only) | (intro t ht; try dsimp only)

theorem kept_playStall (n : Nat) (obs : List Obs) (hm : [.sys, .hqm, .sites, .octets, .pins, .timing, .cap,
    .dds, .halso, .perf, .out, .free] ⊆ m) (h : Kept m s0 s) : Kept m s0 (playStall n obs s) := by
  unfold playStall
  try dsimp only
  repeat' first
    | with_reducible assumption | with_reducible exact List.Subset.trans (by decide) hm
    | with_reducible apply kept_playVector | with_reducible apply kept_settle
    | with_reducible apply kept_modSite | exact fun z => z | split | with_reducible apply kept_foldl
    | (intro t a ht; try dsimp only) | (intro t ht; try dsimp only)

theorem kept_execVectorPlayed (n : SiteId) (obs : List Obs) (hm : [.sys, .hqm, .sites, .octets, .pins, .timing,
    .cap, .dds, .halso, .perf, .out, .free] ⊆ m) (h : Kept m s0 s) : KeptR m s0 (execVectorPlayed n obs s) := by
  unfold execVectorPlayed
  try dsimp only
  repeat' first
    | with_reducible assumption | with_reducible exact List.Subset.trans (by decide) hm
    | with_reducible apply kept_playBundle | with_reducible apply kept_playProbe
    | with_reducible apply kept_playWait | with_reducible apply kept_playStall
    | with_reducible apply keptR_next | exact fun z => z | split | with_reducible apply kept_foldl
    | (intro t a ht; try dsimp only) | (intro t ht; try dsimp only)

theorem kept_openNine (n : Nat) (hm : [.pins] ⊆ m) (h : Kept m s0 s) : Kept m s0 (openNine n s) := by
  unfold openNine
  try dsimp only
  repeat' first
    | with_reducible assumption | with_reducible exact List.Subset.trans (by decide) hm
    | with_reducible apply kept_modPin | exact fun z => z | split | with_reducible apply kept_foldl
    | (intro t a ht; try dsimp only) | (intro t ht; try dsimp only)

theorem kept_execSiteRunBegin (n : SiteId) (hm : [.sys, .hqm, .sites, .octets, .pins, .cap, .dds, .halso, .perf,
    .out] ⊆ m) (h : Kept m s0 s) : KeptR m s0 (execSiteRunBegin n s) := by
  unfold execSiteRunBegin
  try dsimp only
  repeat' first
    | with_reducible assumption | with_reducible exact List.Subset.trans (by decide) hm
    | with_reducible apply kept_openNine | with_reducible apply kept_modSite | with_reducible apply kept_settle
    | with_reducible apply kept_hold | with_reducible apply keptR_next | exact fun z => z
    | with_reducible apply kept_elim | split | with_reducible apply kept_foldl | (intro t a ht; try dsimp only)
    | (intro t ht; try dsimp only) | (intro v; try dsimp only)

theorem kept_execIssueStarved (n : SiteId) (hm : [.sys, .hqm, .sites, .octets, .pins, .cap, .dds, .halso, .perf,
    .out] ⊆ m) (h : Kept m s0 s) : KeptR m s0 (execIssueStarved n s) := by
  unfold execIssueStarved
  try dsimp only
  repeat' first
    | with_reducible assumption | with_reducible exact List.Subset.trans (by decide) hm
    | with_reducible apply kept_settle | with_reducible apply kept_modSite | with_reducible apply keptR_next
    | exact fun z => z | split | with_reducible apply kept_foldl | (intro t a ht; try dsimp only)
    | (intro t ht; try dsimp only)

theorem kept_execStallPointReached (n : SiteId) (hm : [.sys, .hqm, .sites, .octets, .pins, .cap, .dds, .halso,
    .perf, .out] ⊆ m) (h : Kept m s0 s) : KeptR m s0 (execStallPointReached n s) := by
  unfold execStallPointReached
  try dsimp only
  repeat' first
    | with_reducible assumption | with_reducible exact List.Subset.trans (by decide) hm
    | with_reducible apply kept_stopRun | with_reducible apply kept_perfEvent
    | with_reducible apply kept_modSite | with_reducible apply kept_parkPins | with_reducible apply kept_settle
    | with_reducible apply kept_popQ | with_reducible apply keptR_next | exact fun z => z
    | with_reducible apply kept_elim | split | with_reducible apply kept_foldl | (intro t a ht; try dsimp only)
    | (intro t ht; try dsimp only) | (intro v; try dsimp only)

theorem kept_matchDone (n : Nat) (di : Nat) (addr : Nat) (ovl : Nat) (cyc : Nat) (tgt : Nat) (outB : Bool) (unl
    : Bool) (hm : [.sys, .hqm, .sites, .octets, .pins, .cap, .dds, .halso, .perf, .out] ⊆ m) (h : Kept m s0 s) :
    Kept m s0 (matchDone n di addr ovl cyc tgt outB unl s) := by
  unfold matchDone
  try dsimp only
  repeat' first
    | with_reducible assumption | with_reducible exact List.Subset.trans (by decide) hm
    | with_reducible apply kept_hold | with_reducible apply kept_settle | with_reducible apply kept_modSite
    | exact fun z => z | split | with_reducible apply kept_foldl | (intro t a ht; try dsimp only)
    | (intro t ht; try dsimp only)

theorem kept_execMatchDecision (n : SiteId) (hm : [.sys, .hqm, .sites, .octets, .pins, .cap, .dds, .halso,
    .perf, .out] ⊆ m) (h : Kept m s0 s) : KeptR m s0 (execMatchDecision n s) := by
  unfold execMatchDecision
  try dsimp only
  repeat' first
    | with_reducible assumption | with_reducible exact List.Subset.trans (by decide) hm
    | with_reducible apply kept_modHalso | with_reducible apply kept_endRun
    | with_reducible apply kept_matchDone | with_reducible apply kept_modSite | with_reducible apply keptR_next
    | exact fun z => z | split | with_reducible apply kept_foldl | (intro t a ht; try dsimp only)
    | (intro t ht; try dsimp only)

theorem kept_execWaitTrigSatisfied (n : SiteId) (hm : [.sys, .hqm, .sites, .octets, .pins, .cap, .dds, .halso,
    .perf, .out] ⊆ m) (h : Kept m s0 s) : KeptR m s0 (execWaitTrigSatisfied n s) := by
  unfold execWaitTrigSatisfied
  try dsimp only
  repeat' first
    | with_reducible assumption | with_reducible exact List.Subset.trans (by decide) hm
    | with_reducible apply kept_settle | with_reducible apply kept_perfEvent
    | with_reducible apply kept_modSite | with_reducible apply keptR_next | exact fun z => z | split
    | with_reducible apply kept_foldl | (intro t a ht; try dsimp only) | (intro t ht; try dsimp only)

theorem kept_execWaitTimeout (n : SiteId) (hm : [.sys, .hqm, .sites, .octets, .pins, .cap, .dds, .halso, .perf,
    .out] ⊆ m) (h : Kept m s0 s) : KeptR m s0 (execWaitTimeout n s) := by
  unfold execWaitTimeout
  try dsimp only
  repeat' first
    | with_reducible assumption | with_reducible exact List.Subset.trans (by decide) hm
    | with_reducible apply kept_endRun | with_reducible apply kept_perfEvent | with_reducible apply keptR_next
    | exact fun z => z | split | with_reducible apply kept_foldl | (intro t a ht; try dsimp only)
    | (intro t ht; try dsimp only)

theorem kept_execParkExpiry (n : SiteId) (hm : [.sys, .hqm, .sites, .octets, .pins, .cap, .dds, .halso, .perf,
    .out] ⊆ m) (h : Kept m s0 s) : KeptR m s0 (execParkExpiry n s) := by
  unfold execParkExpiry
  try dsimp only
  repeat' first
    | with_reducible assumption | with_reducible exact List.Subset.trans (by decide) hm
    | with_reducible apply kept_settle | with_reducible apply kept_perfEvent
    | with_reducible apply kept_modSite | with_reducible apply keptR_next | exact fun z => z | split
    | with_reducible apply kept_foldl | (intro t a ht; try dsimp only) | (intro t ht; try dsimp only)

theorem kept_updateBarrier (n : Nat) (b : Nat) (hm : [.barriers, .out] ⊆ m) (h : Kept m s0 s) : Kept m s0
    (updateBarrier n b s) := by
  unfold updateBarrier
  try dsimp only
  repeat' first
    | with_reducible assumption | with_reducible exact List.Subset.trans (by decide) hm
    | with_reducible apply kept_modBarrier | with_reducible apply kept_broadcast0 | exact fun z => z | split
    | with_reducible apply kept_foldl | (intro t a ht; try dsimp only) | (intro t ht; try dsimp only)

theorem kept_execSyncArrival (n : SiteId) (hm : [.sites, .barriers, .octets, .pins, .out] ⊆ m) (h : Kept m s0 s)
    : KeptR m s0 (execSyncArrival n s) := by
  unfold execSyncArrival
  try dsimp only
  repeat' first
    | with_reducible assumption | with_reducible exact List.Subset.trans (by decide) hm
    | with_reducible apply kept_parkPins | with_reducible apply kept_modSite
    | with_reducible apply kept_modBarrier | with_reducible apply kept_updateBarrier
    | with_reducible apply keptR_next | exact fun z => z | split | with_reducible apply kept_foldl
    | (intro t a ht; try dsimp only) | (intro t ht; try dsimp only)

theorem kept_releaseSite (b : Nat) (r : Nat) (n : Nat) (hm : [.sys, .hqm, .sites, .octets, .pins, .cap, .dds,
    .halso, .perf, .out] ⊆ m) (h : Kept m s0 s) : Kept m s0 (releaseSite b r n s) := by
  unfold releaseSite
  try dsimp only
  repeat' first
    | with_reducible assumption | with_reducible exact List.Subset.trans (by decide) hm
    | with_reducible apply kept_settle | with_reducible apply kept_perfEvent
    | with_reducible apply kept_modSite | exact fun z => z | split | with_reducible apply kept_foldl
    | (intro t a ht; try dsimp only) | (intro t ht; try dsimp only)

theorem kept_releaseGroup (ns : List Nat) (b : Nat) (l : Nat) (hm : [.sys, .hqm, .sites, .barriers, .octets,
    .pins, .cap, .dds, .halso, .perf, .out] ⊆ m) (h : Kept m s0 s) : Kept m s0 (releaseGroup ns b l s) := by
  unfold releaseGroup
  try dsimp only
  repeat' first
    | with_reducible assumption | with_reducible exact List.Subset.trans (by decide) hm
    | with_reducible apply kept_modBarrier | with_reducible apply kept_releaseSite | exact fun z => z | split
    | with_reducible apply kept_foldl | (intro t a ht; try dsimp only) | (intro t ht; try dsimp only)

theorem kept_execSyncRelease (p : PlanSlot) (b : Fin 32) (hm : [.sys, .hqm, .sites, .barriers, .octets, .pins,
    .cap, .dds, .halso, .perf, .out] ⊆ m) (h : Kept m s0 s) : KeptR m s0 (execSyncRelease p b s) := by
  unfold execSyncRelease
  try dsimp only
  repeat' first
    | with_reducible assumption | with_reducible exact List.Subset.trans (by decide) hm
    | with_reducible apply kept_releaseGroup | with_reducible apply keptR_next | exact fun z => z | split
    | with_reducible apply kept_foldl | (intro t a ht; try dsimp only) | (intro t ht; try dsimp only)

theorem kept_execSyncTimeout (n : SiteId) (hm : [.sys, .hqm, .sites, .octets, .pins, .cap, .dds, .halso, .perf,
    .out] ⊆ m) (h : Kept m s0 s) : KeptR m s0 (execSyncTimeout n s) := by
  unfold execSyncTimeout
  try dsimp only
  repeat' first
    | with_reducible assumption | with_reducible exact List.Subset.trans (by decide) hm
    | with_reducible apply kept_endRun | with_reducible apply kept_perfEvent | with_reducible apply keptR_next
    | exact fun z => z | split | with_reducible apply kept_foldl | (intro t a ht; try dsimp only)
    | (intro t ht; try dsimp only)

theorem kept_completeRun (n : Nat) (e : EndInfo) (hm : [.hqm, .sites, .halso, .out] ⊆ m) (h : Kept m s0 s) :
    Kept m s0 (completeRun n e s) := by
  unfold completeRun
  try dsimp only
  repeat' first
    | with_reducible assumption | with_reducible exact List.Subset.trans (by decide) hm
    | with_reducible apply kept_sendMerge | with_reducible apply kept_modSite
    | with_reducible apply kept_completeOpt | with_reducible apply kept_modCmd
    | with_reducible apply kept_complete | exact fun z => z | split | with_reducible apply kept_foldl
    | (intro t a ht; try dsimp only) | (intro t ht; try dsimp only)

theorem kept_execSiteCompletion (n : SiteId) (hm : [.hqm, .sites, .halso, .out] ⊆ m) (h : Kept m s0 s) : KeptR m
    s0 (execSiteCompletion n s) := by
  unfold execSiteCompletion
  try dsimp only
  repeat' first
    | with_reducible assumption | with_reducible exact List.Subset.trans (by decide) hm
    | with_reducible apply kept_completeRun | with_reducible apply keptR_next | exact fun z => z | split
    | with_reducible apply kept_foldl | (intro t a ht; try dsimp only) | (intro t ht; try dsimp only)

theorem kept_execVernierMove (c : Chan) (hm : [.sys, .hqm, .pins, .perf, .out] ⊆ m) (h : Kept m s0 s) : KeptR m
    s0 (execVernierMove c s) := by
  unfold execVernierMove
  try dsimp only
  repeat' first
    | with_reducible assumption | with_reducible exact List.Subset.trans (by decide) hm
    | with_reducible apply kept_perfEvent | with_reducible apply kept_modPin | with_reducible apply keptR_next
    | exact fun z => z | split | with_reducible apply kept_foldl | (intro t a ht; try dsimp only)
    | (intro t ht; try dsimp only)

end Sys2Proof.Machine
end

