-- ==== Sys2Proof/Laws/KeptSeqRows.lean ====
section
/-!
SUPPORT. What the operations of Machine/SeqRows.lean keep.
-/

namespace Sys2Proof.Machine

set_option linter.unusedTactic false
set_option linter.unreachableTactic false
set_option linter.unusedVariables false

variable {m : List Part} {s0 s : State}

theorem kept_issueEvents (n : Nat) (op : Nat) (folded : Bool) (hm : [.sys, .hqm, .perf, .out] ⊆ m) (h : Kept m
    s0 s) : Kept m s0 (issueEvents n op folded s) := by
  unfold issueEvents
  try dsimp only
  repeat' first
    | with_reducible assumption | with_reducible exact List.Subset.trans (by decide) hm
    | with_reducible apply kept_perfEvent | exact fun z => z | split | with_reducible apply kept_foldl
    | (intro t a ht; try dsimp only) | (intro t ht; try dsimp only)

theorem kept_issueRow (n : Nat) (op : Nat) (f : Site → Site) (hm : [.sys, .hqm, .sites, .octets, .pins, .cap,
    .dds, .halso, .perf, .out] ⊆ m) (h : Kept m s0 s) : KeptR m s0 (issueRow n op f s) := by
  unfold issueRow
  try dsimp only
  repeat' first
    | with_reducible assumption | with_reducible exact List.Subset.trans (by decide) hm
    | with_reducible apply kept_modSite | with_reducible apply kept_settle
    | with_reducible apply kept_issueEvents | with_reducible apply keptR_next | exact fun z => z | split
    | with_reducible apply kept_foldl | (intro t a ht; try dsimp only) | (intro t ht; try dsimp only)

theorem kept_execVec (n : SiteId) (hm : [.sys, .hqm, .sites, .octets, .pins, .cap, .dds, .halso, .perf, .out] ⊆
    m) (h : Kept m s0 s) : KeptR m s0 (execVec n s) := by
  unfold execVec
  try dsimp only
  repeat' first
    | with_reducible assumption | with_reducible exact List.Subset.trans (by decide) hm
    | with_reducible apply kept_issueRow | with_reducible apply keptR_next | exact fun z => z | split
    | with_reducible apply kept_foldl | (intro t a ht; try dsimp only) | (intro t ht; try dsimp only)

theorem kept_execLoop (n : SiteId) (hm : [.sys, .hqm, .sites, .octets, .pins, .cap, .dds, .halso, .perf, .out] ⊆
    m) (h : Kept m s0 s) : KeptR m s0 (execLoop n s) := by
  unfold execLoop
  try dsimp only
  repeat' first
    | with_reducible assumption | with_reducible exact List.Subset.trans (by decide) hm
    | with_reducible apply kept_issueRow | with_reducible apply keptR_next | exact fun z => z | split
    | with_reducible apply kept_foldl | (intro t a ht; try dsimp only) | (intro t ht; try dsimp only)

theorem kept_execEndloop (n : SiteId) (hm : [.sys, .hqm, .sites, .octets, .pins, .cap, .dds, .halso, .perf,
    .out] ⊆ m) (h : Kept m s0 s) : KeptR m s0 (execEndloop n s) := by
  unfold execEndloop
  try dsimp only
  repeat' first
    | with_reducible assumption | with_reducible exact List.Subset.trans (by decide) hm
    | with_reducible apply kept_issueRow | with_reducible apply keptR_next | exact fun z => z | split
    | with_reducible apply kept_foldl | (intro t a ht; try dsimp only) | (intro t ht; try dsimp only)

theorem kept_execCall (n : SiteId) (hm : [.sys, .hqm, .sites, .octets, .pins, .cap, .dds, .halso, .perf, .out] ⊆
    m) (h : Kept m s0 s) : KeptR m s0 (execCall n s) := by
  unfold execCall
  try dsimp only
  repeat' first
    | with_reducible assumption | with_reducible exact List.Subset.trans (by decide) hm
    | with_reducible apply kept_issueRow | with_reducible apply keptR_next | exact fun z => z | split
    | with_reducible apply kept_foldl | (intro t a ht; try dsimp only) | (intro t ht; try dsimp only)

theorem kept_execRet (n : SiteId) (hm : [.sys, .hqm, .sites, .octets, .pins, .cap, .dds, .halso, .perf, .out] ⊆
    m) (h : Kept m s0 s) : KeptR m s0 (execRet n s) := by
  unfold execRet
  try dsimp only
  repeat' first
    | with_reducible assumption | with_reducible exact List.Subset.trans (by decide) hm
    | with_reducible apply kept_issueRow | with_reducible apply keptR_next | exact fun z => z | split
    | with_reducible apply kept_foldl | (intro t a ht; try dsimp only) | (intro t ht; try dsimp only)

theorem kept_execJump (n : SiteId) (hm : [.sys, .hqm, .sites, .octets, .pins, .cap, .dds, .halso, .perf, .out] ⊆
    m) (h : Kept m s0 s) : KeptR m s0 (execJump n s) := by
  unfold execJump
  try dsimp only
  repeat' first
    | with_reducible assumption | with_reducible exact List.Subset.trans (by decide) hm
    | with_reducible apply kept_issueRow | with_reducible apply keptR_next | exact fun z => z | split
    | with_reducible apply kept_foldl | (intro t a ht; try dsimp only) | (intro t ht; try dsimp only)

theorem kept_execMatchIns (n : SiteId) (hm : [.sys, .hqm, .sites, .octets, .pins, .cap, .dds, .halso, .perf,
    .out] ⊆ m) (h : Kept m s0 s) : KeptR m s0 (execMatchIns n s) := by
  unfold execMatchIns
  try dsimp only
  repeat' first
    | with_reducible assumption | with_reducible exact List.Subset.trans (by decide) hm
    | with_reducible apply kept_issueRow | with_reducible apply keptR_next | exact fun z => z | split
    | with_reducible apply kept_foldl | (intro t a ht; try dsimp only) | (intro t ht; try dsimp only)

theorem kept_execWaitTrig (n : SiteId) (hm : [.sys, .hqm, .sites, .octets, .pins, .cap, .dds, .halso, .perf,
    .out] ⊆ m) (h : Kept m s0 s) : KeptR m s0 (execWaitTrig n s) := by
  unfold execWaitTrig
  try dsimp only
  repeat' first
    | with_reducible assumption | with_reducible exact List.Subset.trans (by decide) hm
    | with_reducible apply kept_issueRow | with_reducible apply keptR_next | exact fun z => z | split
    | with_reducible apply kept_foldl | (intro t a ht; try dsimp only) | (intro t ht; try dsimp only)

theorem kept_execSignal (n : SiteId) (hm : [.sys, .hqm, .sites, .octets, .pins, .cap, .dds, .halso, .perf, .out]
    ⊆ m) (h : Kept m s0 s) : KeptR m s0 (execSignal n s) := by
  unfold execSignal
  try dsimp only
  repeat' first
    | with_reducible assumption | with_reducible exact List.Subset.trans (by decide) hm
    | with_reducible apply kept_issueRow | with_reducible apply keptR_next | exact fun z => z | split
    | with_reducible apply kept_foldl | (intro t a ht; try dsimp only) | (intro t ht; try dsimp only)

theorem kept_execSync (n : SiteId) (hm : [.sys, .hqm, .sites, .octets, .pins, .cap, .dds, .halso, .perf, .out] ⊆
    m) (h : Kept m s0 s) : KeptR m s0 (execSync n s) := by
  unfold execSync
  try dsimp only
  repeat' first
    | with_reducible assumption | with_reducible exact List.Subset.trans (by decide) hm
    | with_reducible apply kept_issueRow | with_reducible apply keptR_next | exact fun z => z | split
    | with_reducible apply kept_foldl | (intro t a ht; try dsimp only) | (intro t ht; try dsimp only)

theorem kept_execSetTs (n : SiteId) (hm : [.sys, .hqm, .sites, .octets, .pins, .cap, .dds, .halso, .perf, .out]
    ⊆ m) (h : Kept m s0 s) : KeptR m s0 (execSetTs n s) := by
  unfold execSetTs
  try dsimp only
  repeat' first
    | with_reducible assumption | with_reducible exact List.Subset.trans (by decide) hm
    | with_reducible apply kept_issueRow | with_reducible apply keptR_next | exact fun z => z | split
    | with_reducible apply kept_foldl | (intro t a ht; try dsimp only) | (intro t ht; try dsimp only)

theorem kept_execMark (n : SiteId) (hm : [.sys, .hqm, .sites, .octets, .pins, .cap, .dds, .halso, .perf, .out] ⊆
    m) (h : Kept m s0 s) : KeptR m s0 (execMark n s) := by
  unfold execMark
  try dsimp only
  repeat' first
    | with_reducible assumption | with_reducible exact List.Subset.trans (by decide) hm
    | with_reducible apply kept_issueRow | with_reducible apply keptR_next | exact fun z => z | split
    | with_reducible apply kept_foldl | (intro t a ht; try dsimp only) | (intro t ht; try dsimp only)

theorem kept_execPark (n : SiteId) (hm : [.sys, .hqm, .sites, .octets, .pins, .cap, .dds, .halso, .perf, .out] ⊆
    m) (h : Kept m s0 s) : KeptR m s0 (execPark n s) := by
  unfold execPark
  try dsimp only
  repeat' first
    | with_reducible assumption | with_reducible exact List.Subset.trans (by decide) hm
    | with_reducible apply kept_issueRow | with_reducible apply keptR_next | exact fun z => z | split
    | with_reducible apply kept_foldl | (intro t a ht; try dsimp only) | (intro t ht; try dsimp only)

theorem kept_execHalt (n : SiteId) (hm : [.sys, .hqm, .sites, .octets, .pins, .cap, .dds, .halso, .perf, .out] ⊆
    m) (h : Kept m s0 s) : KeptR m s0 (execHalt n s) := by
  unfold execHalt
  try dsimp only
  repeat' first
    | with_reducible assumption | with_reducible exact List.Subset.trans (by decide) hm
    | with_reducible apply kept_issueRow | with_reducible apply keptR_next | exact fun z => z | split
    | with_reducible apply kept_foldl | (intro t a ht; try dsimp only) | (intro t ht; try dsimp only)

theorem kept_execIllegalOpcode (n : SiteId) (hm : [.sys, .hqm, .sites, .octets, .pins, .cap, .dds, .halso,
    .perf, .out] ⊆ m) (h : Kept m s0 s) : KeptR m s0 (execIllegalOpcode n s) := by
  unfold execIllegalOpcode
  try dsimp only
  repeat' first
    | with_reducible assumption | with_reducible exact List.Subset.trans (by decide) hm
    | with_reducible apply kept_settle | with_reducible apply kept_modSite | with_reducible apply keptR_next
    | exact fun z => z | split | with_reducible apply kept_foldl | (intro t a ht; try dsimp only)
    | (intro t ht; try dsimp only)

end Sys2Proof.Machine
end

