-- ==== Sys2Proof/Laws/KeptSiteCmd.lean ====
section
/-!
SUPPORT. What the operations of Machine/SiteCmd.lean keep.
-/

namespace Sys2Proof.Machine

set_option linter.unusedTactic false
set_option linter.unreachableTactic false
set_option linter.unusedVariables false

variable {m : List Part} {s0 s : State}

theorem kept_scheduleStart (slot : Nat) (n : Nat) (hm : [.vs] ⊆ m) (h : Kept m s0 s) : Kept m s0 (scheduleStart
    slot n s) := by
  unfold scheduleStart
  try dsimp only
  repeat' first
    | with_reducible assumption | with_reducible exact List.Subset.trans (by decide) hm
    | with_reducible apply kept_modPlan | exact fun z => z | split | with_reducible apply kept_foldl
    | (intro t a ht; try dsimp only) | (intro t ht; try dsimp only)

theorem kept_acceptSite (k : Nat) (n : Nat) (d : Desc) (hm : [.hqm, .vs, .sites, .octets, .pins, .cap, .out] ⊆
    m) (h : Kept m s0 s) : Kept m s0 (acceptSite k n d s) := by
  unfold acceptSite
  try dsimp only
  repeat' first
    | with_reducible assumption | with_reducible exact List.Subset.trans (by decide) hm
    | with_reducible apply kept_scheduleStart | with_reducible apply kept_clearRun
    | with_reducible apply kept_parkPins | with_reducible apply kept_modSite | with_reducible apply kept_begin_
    | with_reducible apply kept_disturbSite | with_reducible apply kept_endFar | exact fun z => z | split
    | with_reducible apply kept_foldl | (intro t a ht; try dsimp only) | (intro t ht; try dsimp only)

theorem kept_execSiteStart (k : CmdSlot) (hm : [.hqm, .vs, .sites, .octets, .pins, .cap, .out] ⊆ m) (h : Kept m
    s0 s) : KeptR m s0 (execSiteStart k s) := by
  unfold execSiteStart
  try dsimp only
  repeat' first
    | with_reducible assumption | with_reducible exact List.Subset.trans (by decide) hm
    | with_reducible apply keptR_onCmd | with_reducible apply kept_complete
    | with_reducible apply kept_acceptSite | with_reducible apply keptR_next | exact fun z => z | split
    | with_reducible apply kept_foldl | (intro t a ht; try dsimp only) | (intro t ht; try dsimp only)

theorem kept_requestStop (n : Nat) (cmd : Option Nat) (isPark : Bool) (p : Nat) (limit : Nat) (hm : [.sites] ⊆
    m) (h : Kept m s0 s) : Kept m s0 (requestStop n cmd isPark p limit s) := by
  unfold requestStop
  try dsimp only
  repeat' first
    | with_reducible assumption | with_reducible exact List.Subset.trans (by decide) hm
    | with_reducible apply kept_modSite | exact fun z => z | split | with_reducible apply kept_foldl
    | (intro t a ht; try dsimp only) | (intro t ht; try dsimp only)

theorem kept_execSiteStop (k : CmdSlot) (hm : [.hqm, .sites] ⊆ m) (h : Kept m s0 s) : KeptR m s0 (execSiteStop k
    s) := by
  unfold execSiteStop
  try dsimp only
  repeat' first
    | with_reducible assumption | with_reducible exact List.Subset.trans (by decide) hm
    | with_reducible apply keptR_onCmd | with_reducible apply kept_complete | with_reducible apply kept_begin_
    | with_reducible apply kept_requestStop | with_reducible apply keptR_next | exact fun z => z | split
    | with_reducible apply kept_foldl | (intro t a ht; try dsimp only) | (intro t ht; try dsimp only)

theorem kept_execSitePark (k : CmdSlot) (hm : [.hqm, .sites] ⊆ m) (h : Kept m s0 s) : KeptR m s0 (execSitePark k
    s) := by
  unfold execSitePark
  try dsimp only
  repeat' first
    | with_reducible assumption | with_reducible exact List.Subset.trans (by decide) hm
    | with_reducible apply keptR_onCmd | with_reducible apply kept_complete | with_reducible apply kept_begin_
    | with_reducible apply kept_requestStop | with_reducible apply keptR_next | exact fun z => z | split
    | with_reducible apply kept_foldl | (intro t a ht; try dsimp only) | (intro t ht; try dsimp only)

theorem kept_execSiteReset (k : CmdSlot) (hm : [.hqm, .sites] ⊆ m) (h : Kept m s0 s) : KeptR m s0 (execSiteReset
    k s) := by
  unfold execSiteReset
  try dsimp only
  repeat' first
    | with_reducible assumption | with_reducible exact List.Subset.trans (by decide) hm
    | with_reducible apply keptR_onCmd | with_reducible apply kept_complete | with_reducible apply kept_modSite
    | with_reducible apply keptR_next | exact fun z => z | split | with_reducible apply kept_foldl
    | (intro t a ht; try dsimp only) | (intro t ht; try dsimp only)

theorem kept_stopSites (p : Nat → Bool) (hm : [.sites] ⊆ m) (h : Kept m s0 s) : Kept m s0 (stopSites p s) := by
  unfold stopSites
  try dsimp only
  repeat' first
    | with_reducible assumption | with_reducible exact List.Subset.trans (by decide) hm
    | with_reducible apply kept_requestStop | exact fun z => z | split | with_reducible apply kept_foldl
    | (intro t a ht; try dsimp only) | (intro t ht; try dsimp only)

end Sys2Proof.Machine
end

