-- ==== Sys2Proof/Laws/KeptTables.lean ====
section
/-!
SUPPORT. What the operations of Machine/Tables.lean keep.
-/

namespace Sys2Proof.Machine

set_option linter.unusedTactic false
set_option linter.unreachableTactic false
set_option linter.unusedVariables false

variable {m : List Part} {s0 s : State}

theorem wf_foldl_mod (f : Pin → Pin) (l : List ℕ) (pins : SMap Pin) (h : SMap.wf pins = true) :
    SMap.wf (l.foldl (fun m c => SMap.mod m c f) pins) = true := by
  induction l generalizing pins with
  | nil => exact h
  | cons c l ih => exact ih _ (SMap.wf_mod _ _ _ h)

theorem wf_applyTabs (rs : List TabRec) (only : BitVec 128) (pins : SMap Pin) (h : SMap.wf pins = true) :
    SMap.wf (applyTabs rs only pins) = true := by
  unfold applyTabs
  induction rs generalizing pins with
  | nil => exact h
  | cons r rs ih => exact ih _ (wf_foldl_mod _ _ _ h)

theorem kept_emitMgmt (o : Nat) (lane : Nat) (addr : Nat) (w : Nat) (hm : [.out] ⊆ m) (h : Kept m s0 s) : Kept m
    s0 (emitMgmt o lane addr w s) := by
  unfold emitMgmt
  try dsimp only
  repeat' first
    | with_reducible assumption | with_reducible exact List.Subset.trans (by decide) hm
    | with_reducible apply kept_emit | exact fun z => z | split | with_reducible apply kept_foldl
    | (intro t a ht; try dsimp only) | (intro t ht; try dsimp only)

theorem kept_sendMgmt (o : Nat) (lane : Nat) (addr : Nat) (w : Nat) (hm : [.octets, .out] ⊆ m) (h : Kept m s0 s)
    : Kept m s0 (sendMgmt o lane addr w s) := by
  unfold sendMgmt
  try dsimp only
  repeat' first
    | with_reducible assumption | with_reducible exact List.Subset.trans (by decide) hm
    | with_reducible apply kept_modOctet | with_reducible apply kept_emitMgmt | exact fun z => z | split
    | with_reducible apply kept_foldl | (intro t a ht; try dsimp only) | (intro t ht; try dsimp only)

theorem kept_sendLevels (touched : BitVec 128) (hm : [.octets, .out] ⊆ m) (h : Kept m s0 s) : Kept m s0
    (sendLevels touched s) := by
  unfold sendLevels
  try dsimp only
  repeat' first
    | with_reducible assumption | with_reducible exact List.Subset.trans (by decide) hm
    | with_reducible apply kept_sendMgmt | exact fun z => z | split | with_reducible apply kept_foldl
    | (intro t a ht; try dsimp only) | (intro t ht; try dsimp only)

theorem kept_loadTables (k : Nat) (linkErr : Bool) (d : Desc) (hm : [.hqm, .octets, .pins, .out] ⊆ m) (h : Kept
    m s0 s) : Kept m s0 (loadTables k linkErr d s) := by
  unfold loadTables
  try dsimp only
  repeat' first
    | with_reducible assumption | with_reducible exact List.Subset.trans (by decide) hm
    | with_reducible apply kept_complete | with_reducible apply kept_sendLevels
    | with_reducible apply kept_mapPins | with_reducible apply kept_setPins | exact fun z => z
    | exact fun z => wf_applyTabs _ _ _ (Kept.tabs (by assumption) z).2.2.2 | split
    | with_reducible apply kept_foldl | (intro t a ht; try dsimp only) | (intro t ht; try dsimp only)

theorem kept_execTableLoad (k : CmdSlot) (linkErr : Bool) (hm : [.hqm, .dram, .octets, .pins, .out] ⊆ m) (h :
    Kept m s0 s) : KeptR m s0 (execTableLoad k linkErr s) := by
  unfold execTableLoad
  try dsimp only
  repeat' first
    | with_reducible assumption | with_reducible exact List.Subset.trans (by decide) hm
    | with_reducible apply keptR_onCmd | with_reducible apply kept_complete
    | with_reducible apply kept_restDram | with_reducible apply kept_loadTables
    | with_reducible apply kept_wakeDram | with_reducible apply keptR_next | exact fun z => z | split
    | with_reducible apply kept_foldl | (intro t a ht; try dsimp only) | (intro t ht; try dsimp only)

end Sys2Proof.Machine
end

