-- ==== Sys2Proof/Laws/KeptPlanLoad.lean ====
section
/-!
SUPPORT. What the operations of Machine/PlanLoad.lean keep.
-/

namespace Sys2Proof.Machine

set_option linter.unusedTactic false
set_option linter.unreachableTactic false
set_option linter.unusedVariables false

variable {m : List Part} {s0 s : State}

theorem kept_setLock (o : Nat) (t : Nat) (b : Bool) (hm : [.octets] ⊆ m) (h : Kept m s0 s) : Kept m s0 (setLock
    o t b s) := by
  unfold setLock
  try dsimp only
  repeat' first
    | with_reducible assumption | with_reducible exact List.Subset.trans (by decide) hm
    | with_reducible apply kept_modOctet | exact fun z => z | split | with_reducible apply kept_foldl
    | (intro t a ht; try dsimp only) | (intro t ht; try dsimp only)

theorem kept_pllDown (mask : BitVec 16) (hm : [.octets] ⊆ m) (h : Kept m s0 s) : Kept m s0 (pllDown mask s) :=
    by
  unfold pllDown
  try dsimp only
  repeat' first
    | with_reducible assumption | with_reducible exact List.Subset.trans (by decide) hm
    | with_reducible apply kept_setLock | with_reducible apply kept_modOctet | exact fun z => z | split
    | with_reducible apply kept_foldl | (intro t a ht; try dsimp only) | (intro t ht; try dsimp only)

theorem kept_pllUp (mask : BitVec 16) (hm : [.octets] ⊆ m) (h : Kept m s0 s) : Kept m s0 (pllUp mask s) := by
  unfold pllUp
  try dsimp only
  repeat' first
    | with_reducible assumption | with_reducible exact List.Subset.trans (by decide) hm
    | with_reducible apply kept_modOctet | exact fun z => z | split | with_reducible apply kept_foldl
    | (intro t a ht; try dsimp only) | (intro t ht; try dsimp only)

theorem kept_copyResident (p : Plan) (b7 : Nat) (hm : [.vs, .vsMem] ⊆ m) (h : Kept m s0 s) : Kept m s0
    (copyResident p b7 s) := by
  unfold copyResident
  try dsimp only
  repeat' first
    | with_reducible assumption | with_reducible exact List.Subset.trans (by decide) hm
    | with_reducible refine kept_modVs _ ?_ rfl ?_ | with_reducible apply kept_modVsMem | exact fun z => z
    | exact fun z => z.2.1 | exact fun z => Mem.wf_store _ _ _ z.2.1
    | exact fun z => Mem.wf_copyTo _ _ _ _ _ z.1 z.2.1 | exact fun _ => Mem.wf_nil | split
    | with_reducible apply kept_foldl | (intro t a ht; try dsimp only) | (intro t ht; try dsimp only)

theorem kept_installPlan (slot : ℕ) (p : Plan) (g : Image) (fs : List SiteFindings) (pins : SMap Pin)
    (hp : tablesCanonical s0 → SMap.wf pins = true) (hm : [.vs, .sites, .octets, .pins, .out, .vsMem] ⊆ m) (h : Kept m s0 s) :
    Kept m s0 (installPlan slot p g fs pins s) := by
  unfold installPlan
  dsimp only
  repeat' first
    | with_reducible assumption | with_reducible exact List.Subset.trans (by decide) hm
    | with_reducible apply kept_sendLevels | with_reducible apply kept_parkPins | with_reducible apply kept_modOctet
    | with_reducible apply kept_setPins | with_reducible apply kept_copyResident | with_reducible apply kept_modSite
    | with_reducible refine kept_modVs _ ?_ rfl ?_ | with_reducible apply kept_foldl
    | (intro t a ht; try dsimp only)

theorem kept_rejectPlan (k : Nat) (cleared : BitVec 16) (r : Reason) (hm : [.hqm, .vs, .octets] ⊆ m) (h : Kept m
    s0 s) : Kept m s0 (rejectPlan k cleared r s) := by
  unfold rejectPlan
  try dsimp only
  repeat' first
    | with_reducible assumption | with_reducible exact List.Subset.trans (by decide) hm
    | with_reducible apply kept_complete | with_reducible apply kept_pllDown
    | with_reducible refine kept_modVs _ ?_ rfl ?_ | exact fun z => z | exact fun z => z.2.1 | split
    | with_reducible apply kept_foldl | (intro t a ht; try dsimp only) | (intro t ht; try dsimp only)

theorem wf_checks2to5 (g : Image) {p : Plan} {fs : List SiteFindings} {pins : SMap Pin}
    (e : checks2to5 g s = .inr (p, fs, pins)) (h : SMap.wf s.pins = true) : SMap.wf pins = true := by
  have : pins = planPins g s := by
    unfold checks2to5 at e
    dsimp only at e
    repeat' split at e
    all_goals first | (simp only [Sum.inr.injEq, Prod.mk.injEq] at e; exact e.2.2.symm) | exact absurd e (by simp)
  rw [this]
  exact wf_applyTabs _ _ _ h

theorem kept_finishLoad (k : ℕ) (rd : ReadOutcome) (cleared : BitVec 16) (x : Header)
    (hm : [.hqm, .vs, .sites, .octets, .pins, .out, .vsMem] ⊆ m) (h : Kept m s0 s) :
    Kept m s0 (finishLoad k rd cleared x s) := by
  unfold finishLoad
  dsimp only
  split
  · exact kept_rejectPlan _ _ _ (List.Subset.trans (by decide) hm) h
  · split
    · exact kept_rejectPlan _ _ _ (List.Subset.trans (by decide) hm) h
    next p fs pins e =>
      repeat' first
        | with_reducible assumption | with_reducible exact List.Subset.trans (by decide) hm
        | with_reducible apply kept_rejectPlan | with_reducible apply kept_complete
        | with_reducible apply kept_installPlan | with_reducible apply kept_modSite | with_reducible refine kept_modVs _ ?_ rfl ?_
        | exact fun z => wf_checks2to5 _ e (h.tabs z).2.2.2 | with_reducible apply kept_foldl
        | split | (intro t a ht; try dsimp only)

theorem kept_readStart (k : Nat) (rd : ReadOutcome) (a : Nat) (hm : [.hqm, .vs, .sites, .octets, .pins, .out,
    .vsMem] ⊆ m) (h : Kept m s0 s) : Kept m s0 (readStart k rd a s) := by
  unfold readStart
  try dsimp only
  repeat' first
    | with_reducible assumption | with_reducible exact List.Subset.trans (by decide) hm
    | with_reducible apply kept_rejectPlan | with_reducible apply kept_finishLoad
    | with_reducible apply kept_pllUp | with_reducible refine kept_modVs _ ?_ rfl ?_ | exact fun z => z
    | exact fun z => z.2.1 | split | with_reducible apply kept_foldl | (intro t a ht; try dsimp only)
    | (intro t ht; try dsimp only)

theorem kept_startLoad (k : Nat) (rd : ReadOutcome) (a : Nat) (hm : [.hqm, .dram, .vs, .sites, .octets, .pins,
    .out, .vsMem] ⊆ m) (h : Kept m s0 s) : Kept m s0 (startLoad k rd a s) := by
  unfold startLoad
  try dsimp only
  repeat' first
    | with_reducible assumption | with_reducible exact List.Subset.trans (by decide) hm
    | with_reducible apply kept_complete | with_reducible apply kept_restDram
    | with_reducible apply kept_readStart | with_reducible apply kept_wakeDram | exact fun z => z | split
    | with_reducible apply kept_foldl | (intro t a ht; try dsimp only) | (intro t ht; try dsimp only)

theorem kept_execPlanLoad (k : CmdSlot) (rd : ReadOutcome) (hm : [.hqm, .dram, .vs, .sites, .octets, .pins,
    .out, .vsMem] ⊆ m) (h : Kept m s0 s) : KeptR m s0 (execPlanLoad k rd s) := by
  unfold execPlanLoad
  try dsimp only
  repeat' first
    | with_reducible assumption | with_reducible exact List.Subset.trans (by decide) hm
    | with_reducible apply keptR_onCmd | with_reducible apply kept_startLoad
    | with_reducible apply kept_restDram | with_reducible apply kept_finishLoad
    | with_reducible apply kept_wakeDram | with_reducible apply keptR_next | exact fun z => z | split
    | with_reducible apply kept_foldl | (intro t a ht; try dsimp only) | (intro t ht; try dsimp only)

theorem kept_execPllLockTimeout (hm : [.hqm, .vs, .octets] ⊆ m) (h : Kept m s0 s) : KeptR m s0
    (execPllLockTimeout s) := by
  unfold execPllLockTimeout
  try dsimp only
  repeat' first
    | with_reducible assumption | with_reducible exact List.Subset.trans (by decide) hm
    | with_reducible apply kept_rejectPlan | with_reducible apply keptR_next | exact fun z => z | split
    | with_reducible apply kept_foldl | (intro t a ht; try dsimp only) | (intro t ht; try dsimp only)

theorem kept_releaseSites (p : Plan) (hm : [.sites, .pins, .out] ⊆ m) (h : Kept m s0 s) : Kept m s0
    (releaseSites p s) := by
  unfold releaseSites
  try dsimp only
  repeat' first
    | with_reducible assumption | with_reducible exact List.Subset.trans (by decide) hm
    | with_reducible apply kept_releasePin | with_reducible apply kept_modSite | exact fun z => z | split
    | with_reducible apply kept_foldl | (intro t a ht; try dsimp only) | (intro t ht; try dsimp only)

theorem kept_execPlanRetire (k : CmdSlot) (hm : [.hqm, .vs, .sites, .barriers, .pins, .out] ⊆ m) (h : Kept m s0
    s) : KeptR m s0 (execPlanRetire k s) := by
  unfold execPlanRetire
  try dsimp only
  repeat' first
    | with_reducible assumption | with_reducible exact List.Subset.trans (by decide) hm
    | with_reducible apply keptR_onCmd | with_reducible apply kept_complete | with_reducible apply kept_modPlan
    | with_reducible apply kept_releaseSites | with_reducible apply kept_dropBarriers
    | with_reducible apply keptR_next | exact fun z => z | split | with_reducible apply kept_foldl
    | (intro t a ht; try dsimp only) | (intro t ht; try dsimp only)

end Sys2Proof.Machine
end

