-- ==== Sys2Proof/Laws/KeptPins.lean ====
section
/-!
SUPPORT. What the operations of Machine/Pins.lean keep.
-/

namespace Sys2Proof.Machine

set_option linter.unusedTactic false
set_option linter.unreachableTactic false
set_option linter.unusedVariables false

variable {m : List Part} {s0 s : State}

theorem kept_openSuspect (c : Nat) (cause : Nat) (lockWin : Nat) (hm : [.pins] ⊆ m) (h : Kept m s0 s) : Kept m
    s0 (openSuspect c cause lockWin s) := by
  unfold openSuspect
  try dsimp only
  repeat' first
    | with_reducible assumption | with_reducible exact List.Subset.trans (by decide) hm
    | with_reducible apply kept_modPin | exact fun z => z | split | with_reducible apply kept_foldl
    | (intro t a ht; try dsimp only) | (intro t ht; try dsimp only)

theorem kept_closeSuspect (c : Nat) (hm : [.sys, .hqm, .sites, .pins, .cap, .dds, .halso, .perf, .out] ⊆ m) (h :
    Kept m s0 s) : Kept m s0 (closeSuspect c s) := by
  unfold closeSuspect
  try dsimp only
  repeat' first
    | with_reducible assumption | with_reducible exact List.Subset.trans (by decide) hm
    | with_reducible apply kept_modPin | with_reducible apply kept_hold | exact fun z => z | split
    | with_reducible apply kept_foldl | (intro t a ht; try dsimp only) | (intro t ht; try dsimp only)

theorem kept_tryReady (o : Nat) (hm : [.octets] ⊆ m) (h : Kept m s0 s) : Kept m s0 (tryReady o s) := by
  unfold tryReady
  try dsimp only
  repeat' first
    | with_reducible assumption | with_reducible exact List.Subset.trans (by decide) hm
    | with_reducible apply kept_modOctet | exact fun z => z | split | with_reducible apply kept_foldl
    | (intro t a ht; try dsimp only) | (intro t ht; try dsimp only)

theorem kept_setLanes (o : Nat) (f : Octet → Octet) (hm : [.sys, .hqm, .sites, .octets, .pins, .cap, .dds,
    .halso, .perf, .out] ⊆ m) (h : Kept m s0 s) : Kept m s0 (setLanes o f s) := by
  unfold setLanes
  try dsimp only
  repeat' first
    | with_reducible assumption | with_reducible exact List.Subset.trans (by decide) hm
    | with_reducible apply kept_modOctet | with_reducible apply kept_tryReady
    | with_reducible apply kept_modPin | with_reducible apply kept_closeSuspect
    | with_reducible apply kept_openSuspect | exact fun z => z | split | with_reducible apply kept_foldl
    | (intro t a ht; try dsimp only) | (intro t ht; try dsimp only)

theorem kept_setRxLane (c : Nat) (locked : Bool) (hm : [.sys, .hqm, .sites, .octets, .pins, .cap, .dds, .halso,
    .perf, .out] ⊆ m) (h : Kept m s0 s) : Kept m s0 (setRxLane c locked s) := by
  unfold setRxLane
  try dsimp only
  repeat' first
    | with_reducible assumption | with_reducible exact List.Subset.trans (by decide) hm
    | with_reducible apply kept_setLanes | exact fun z => z | split | with_reducible apply kept_foldl
    | (intro t a ht; try dsimp only) | (intro t ht; try dsimp only)

theorem kept_unlockPin (c : Nat) (cause : Nat) (hm : [.sys, .hqm, .sites, .octets, .pins, .cap, .dds, .halso,
    .perf, .out] ⊆ m) (h : Kept m s0 s) : Kept m s0 (unlockPin c cause s) := by
  unfold unlockPin
  try dsimp only
  repeat' first
    | with_reducible assumption | with_reducible exact List.Subset.trans (by decide) hm
    | with_reducible apply kept_modPin | with_reducible apply kept_setRxLane
    | with_reducible apply kept_openSuspect | exact fun z => z | split | with_reducible apply kept_foldl
    | (intro t a ht; try dsimp only) | (intro t ht; try dsimp only)

theorem kept_relockPin (c : Nat) (hm : [.sys, .hqm, .sites, .octets, .pins, .cap, .dds, .halso, .perf, .out] ⊆
    m) (h : Kept m s0 s) : Kept m s0 (relockPin c s) := by
  unfold relockPin
  try dsimp only
  repeat' first
    | with_reducible assumption | with_reducible exact List.Subset.trans (by decide) hm
    | with_reducible apply kept_modPin | with_reducible apply kept_setRxLane
    | with_reducible apply kept_closeSuspect | exact fun z => z | split | with_reducible apply kept_foldl
    | (intro t a ht; try dsimp only) | (intro t ht; try dsimp only)

theorem kept_sendFar (rx : Nat) (dx : Nat) (start : Nat) (u : Nat) (sliced : List Bool) (hm : [.pins, .out] ⊆ m)
    (h : Kept m s0 s) : Kept m s0 (sendFar rx dx start u sliced s) := by
  unfold sendFar
  try dsimp only
  repeat' first
    | with_reducible assumption | with_reducible exact List.Subset.trans (by decide) hm
    | with_reducible apply kept_movePin | exact fun z => z | with_reducible apply kept_foldl_snd | split
    | with_reducible apply kept_foldl | (intro t a ht; try dsimp only) | (intro t ht; try dsimp only)

theorem kept_farWindow (c : Nat) (e : Nat) (sliced : List Bool) (hm : [.pins, .out] ⊆ m) (h : Kept m s0 s) :
    Kept m s0 (farWindow c e sliced s) := by
  unfold farWindow
  try dsimp only
  repeat' first
    | with_reducible assumption | with_reducible exact List.Subset.trans (by decide) hm
    | with_reducible apply kept_sendFar | exact fun z => z | split | with_reducible apply kept_foldl
    | (intro t a ht; try dsimp only) | (intro t ht; try dsimp only)

theorem kept_execLockWindowEnd (c : Chan) (ferr : Int) (w : CdrWindow) (hm : [.sys, .hqm, .sites, .octets,
    .pins, .cap, .dds, .time, .halso, .perf, .out] ⊆ m) (h : Kept m s0 s) : KeptR m s0 (execLockWindowEnd c ferr
    w s) := by
  unfold execLockWindowEnd
  try dsimp only
  repeat' first
    | with_reducible assumption | with_reducible exact List.Subset.trans (by decide) hm
    | with_reducible apply kept_farWindow | with_reducible refine kept_modTime _ ?_ rfl ?_
    | with_reducible apply kept_modPin | with_reducible apply kept_unlockPin
    | with_reducible apply kept_relockPin | with_reducible apply keptR_next | exact fun z => z | split
    | with_reducible apply kept_foldl | (intro t a ht; try dsimp only) | (intro t ht; try dsimp only)

theorem kept_execPhaseLimit (c : Chan) (upper : Bool) (t : Grain) (hm : [.sys, .hqm, .sites, .octets, .pins,
    .cap, .dds, .time, .halso, .perf, .out] ⊆ m) (h : Kept m s0 s) : KeptR m s0 (execPhaseLimit c upper t s) :=
    by
  unfold execPhaseLimit
  try dsimp only
  repeat' first
    | with_reducible assumption | with_reducible exact List.Subset.trans (by decide) hm
    | with_reducible apply kept_atGrain | with_reducible apply kept_unlockPin
    | with_reducible apply kept_modPin | with_reducible apply keptR_next | exact fun z => z | split
    | with_reducible apply kept_foldl | (intro t a ht; try dsimp only) | (intro t ht; try dsimp only)

theorem kept_execLosAssert (c : Chan) (t : Grain) (hm : [.sys, .hqm, .sites, .octets, .pins, .cap, .dds, .time,
    .halso, .perf, .out] ⊆ m) (h : Kept m s0 s) : KeptR m s0 (execLosAssert c t s) := by
  unfold execLosAssert
  try dsimp only
  repeat' first
    | with_reducible assumption | with_reducible exact List.Subset.trans (by decide) hm
    | with_reducible apply kept_unlockPin | with_reducible apply kept_modPin
    | with_reducible apply kept_atGrain | with_reducible apply keptR_next | exact fun z => z | split
    | with_reducible apply kept_foldl | (intro t a ht; try dsimp only) | (intro t ht; try dsimp only)

theorem kept_execLosDeassert (c : Chan) (t : Grain) (hm : [.pins, .time] ⊆ m) (h : Kept m s0 s) : KeptR m s0
    (execLosDeassert c t s) := by
  unfold execLosDeassert
  try dsimp only
  repeat' first
    | with_reducible assumption | with_reducible exact List.Subset.trans (by decide) hm
    | with_reducible apply kept_modPin | with_reducible apply kept_atGrain | with_reducible apply keptR_next
    | exact fun z => z | split | with_reducible apply kept_foldl | (intro t a ht; try dsimp only)
    | (intro t ht; try dsimp only)

theorem kept_setCeiling (o : Nat) (v : Nat) (hm : [.sys, .hqm, .octets, .perf, .out] ⊆ m) (h : Kept m s0 s) :
    Kept m s0 (setCeiling o v s) := by
  unfold setCeiling
  try dsimp only
  repeat' first
    | with_reducible assumption | with_reducible exact List.Subset.trans (by decide) hm
    | with_reducible apply kept_modOctet | with_reducible apply kept_raiseIrq
    | with_reducible refine kept_modSys _ ?_ rfl ?_ | exact fun z => z | split
    | with_reducible apply kept_foldl | (intro t a ht; try dsimp only) | (intro t ht; try dsimp only)

theorem kept_execUiPllUnlock (o : OctetId) (t : Grain) (hm : [.sys, .hqm, .sites, .octets, .pins, .cap, .dds,
    .time, .halso, .perf, .out] ⊆ m) (h : Kept m s0 s) : KeptR m s0 (execUiPllUnlock o t s) := by
  unfold execUiPllUnlock
  try dsimp only
  repeat' first
    | with_reducible assumption | with_reducible exact List.Subset.trans (by decide) hm
    | with_reducible apply kept_atGrain | with_reducible apply kept_modOctet
    | with_reducible apply kept_setLock | with_reducible apply kept_openSuspect
    | with_reducible apply kept_unlockPin | with_reducible apply kept_setCeiling
    | with_reducible apply keptR_next | exact fun z => z | split | with_reducible apply kept_foldl
    | (intro t a ht; try dsimp only) | (intro t ht; try dsimp only)

theorem kept_execUiPllLock (o : OctetId) (t : Grain) (hm : [.sys, .hqm, .sites, .octets, .pins, .cap, .dds,
    .time, .halso, .perf, .out] ⊆ m) (h : Kept m s0 s) : KeptR m s0 (execUiPllLock o t s) := by
  unfold execUiPllLock
  try dsimp only
  repeat' first
    | with_reducible assumption | with_reducible exact List.Subset.trans (by decide) hm
    | with_reducible apply kept_atGrain | with_reducible apply kept_modOctet
    | with_reducible apply kept_setLock | with_reducible apply kept_tryReady
    | with_reducible apply kept_closeSuspect | with_reducible apply keptR_next | exact fun z => z | split
    | with_reducible apply kept_foldl | (intro t a ht; try dsimp only) | (intro t ht; try dsimp only)

theorem kept_execTimingOctetCfgWrite (o : OctetId) (v : W32) (hm : [.octets, .timing] ⊆ m) (h : Kept m s0 s) :
    KeptR m s0 (execTimingOctetCfgWrite o v s) := by
  unfold execTimingOctetCfgWrite
  try dsimp only
  repeat' first
    | with_reducible assumption | with_reducible exact List.Subset.trans (by decide) hm
    | with_reducible apply keptR_onBlock | with_reducible apply kept_modTiming
    | with_reducible apply kept_modOctet | with_reducible apply kept_setLock | with_reducible apply keptR_next
    | exact fun z => z | split | with_reducible apply kept_foldl | (intro t a ht; try dsimp only)
    | (intro t ht; try dsimp only)

theorem kept_execTimingPinDeskewWrite (c : Chan) (v : W32) (hm : [.pins, .timing] ⊆ m) (h : Kept m s0 s) : KeptR
    m s0 (execTimingPinDeskewWrite c v s) := by
  unfold execTimingPinDeskewWrite
  try dsimp only
  repeat' first
    | with_reducible assumption | with_reducible exact List.Subset.trans (by decide) hm
    | with_reducible apply keptR_onBlock | with_reducible apply kept_modTiming
    | with_reducible apply kept_modPin | with_reducible apply keptR_next | exact fun z => z | split
    | with_reducible apply kept_foldl | (intro t a ht; try dsimp only) | (intro t ht; try dsimp only)

theorem kept_refusePin (c : Nat) (hm : [.pins] ⊆ m) (h : Kept m s0 s) : Kept m s0 (refusePin c s) := by
  unfold refusePin
  try dsimp only
  repeat' first
    | with_reducible assumption | with_reducible exact List.Subset.trans (by decide) hm
    | with_reducible apply kept_modPin | exact fun z => z | split | with_reducible apply kept_foldl
    | (intro t a ht; try dsimp only) | (intro t ht; try dsimp only)

theorem kept_writePinCfg (c : Nat) (v : W32) (hm : [.octets, .pins, .out] ⊆ m) (h : Kept m s0 s) : Kept m s0
    (writePinCfg c v s) := by
  unfold writePinCfg
  try dsimp only
  repeat' first
    | with_reducible assumption | with_reducible exact List.Subset.trans (by decide) hm
    | with_reducible apply kept_refusePin | with_reducible apply kept_movePin
    | with_reducible apply kept_endFar | exact fun z => z | split | with_reducible apply kept_foldl
    | (intro t a ht; try dsimp only) | (intro t ht; try dsimp only)

theorem kept_writePinAux (c : Nat) (v : W32) (hm : [.pins] ⊆ m) (h : Kept m s0 s) : Kept m s0 (writePinAux c v
    s) := by
  unfold writePinAux
  try dsimp only
  repeat' first
    | with_reducible assumption | with_reducible exact List.Subset.trans (by decide) hm
    | with_reducible apply kept_refusePin | with_reducible apply kept_modPin | exact fun z => z | split
    | with_reducible apply kept_foldl | (intro t a ht; try dsimp only) | (intro t ht; try dsimp only)

theorem kept_writePinCtle (c : Nat) (v : W32) (hm : [.pins] ⊆ m) (h : Kept m s0 s) : Kept m s0 (writePinCtle c v
    s) := by
  unfold writePinCtle
  try dsimp only
  repeat' first
    | with_reducible assumption | with_reducible exact List.Subset.trans (by decide) hm
    | with_reducible apply kept_refusePin | with_reducible apply kept_modPin | exact fun z => z | split
    | with_reducible apply kept_foldl | (intro t a ht; try dsimp only) | (intro t ht; try dsimp only)

theorem kept_execPinCfgWrite (c : Chan) (cfg : Option W32) (aux : Option W32) (ctle : Option W32) (hm :
    [.octets, .pins, .out] ⊆ m) (h : Kept m s0 s) : KeptR m s0 (execPinCfgWrite c cfg aux ctle s) := by
  unfold execPinCfgWrite
  try dsimp only
  repeat' first
    | with_reducible assumption | with_reducible exact List.Subset.trans (by decide) hm
    | with_reducible apply keptR_onBlock | with_reducible apply kept_writePinCfg
    | with_reducible apply kept_writePinAux | with_reducible apply kept_writePinCtle
    | with_reducible apply keptR_next | exact fun z => z | with_reducible apply kept_elim | split
    | with_reducible apply kept_foldl | (intro t a ht; try dsimp only) | (intro t ht; try dsimp only)
    | (intro v; try dsimp only)

theorem kept_laneSend (pick : LinkBlk → Bool) (o : Nat) (hm : [.octets, .out] ⊆ m) (h : Kept m s0 s) : Kept m s0
    (laneSend pick o s) := by
  unfold laneSend
  try dsimp only
  repeat' first
    | with_reducible assumption | with_reducible exact List.Subset.trans (by decide) hm
    | with_reducible apply kept_modOctet | with_reducible apply kept_emitAll | exact fun z => z | split
    | with_reducible apply kept_foldl | (intro t a ht; try dsimp only) | (intro t ht; try dsimp only)

theorem kept_laneFlush (o : Nat) (hm : [.octets, .out] ⊆ m) (h : Kept m s0 s) : Kept m s0 (laneFlush o s) := by
  unfold laneFlush
  try dsimp only
  repeat' first
    | with_reducible assumption | with_reducible exact List.Subset.trans (by decide) hm
    | with_reducible apply kept_laneSend | exact fun z => z | split | with_reducible apply kept_foldl
    | (intro t a ht; try dsimp only) | (intro t ht; try dsimp only)

theorem kept_setLinkEn (o : Nat) (en : Bool) (hm : [.octets, .pins, .out] ⊆ m) (h : Kept m s0 s) : Kept m s0
    (setLinkEn o en s) := by
  unfold setLinkEn
  try dsimp only
  repeat' first
    | with_reducible assumption | with_reducible exact List.Subset.trans (by decide) hm
    | with_reducible apply kept_modPin | with_reducible apply kept_openBall
    | with_reducible apply kept_laneFlush | with_reducible apply kept_modOctet | with_reducible apply kept_emit
    | exact fun z => z | split | with_reducible apply kept_foldl | (intro t a ht; try dsimp only)
    | (intro t ht; try dsimp only)

theorem kept_execPinLinkWrite (o : OctetId) (w : Wr) (hm : [.octets, .pins, .out] ⊆ m) (h : Kept m s0 s) : KeptR
    m s0 (execPinLinkWrite o w s) := by
  unfold execPinLinkWrite
  try dsimp only
  repeat' first
    | with_reducible assumption | with_reducible exact List.Subset.trans (by decide) hm
    | with_reducible apply keptR_onBlock | with_reducible apply kept_refusePin
    | with_reducible apply kept_modOctet | with_reducible apply kept_setLinkEn
    | with_reducible apply kept_sendMgmt | with_reducible apply keptR_next | exact fun z => z | split
    | with_reducible apply kept_foldl | (intro t a ht; try dsimp only) | (intro t ht; try dsimp only)

theorem kept_execLinkMarkEcho (o : OctetId) (lane : Fin 4) (rtt : Nat) (hm : [.octets, .out] ⊆ m) (h : Kept m s0
    s) : KeptR m s0 (execLinkMarkEcho o lane rtt s) := by
  unfold execLinkMarkEcho
  try dsimp only
  repeat' first
    | with_reducible assumption | with_reducible exact List.Subset.trans (by decide) hm
    | with_reducible apply kept_tryReady | with_reducible apply kept_sendMgmt
    | with_reducible apply kept_modOctet | with_reducible apply keptR_next | exact fun z => z | split
    | with_reducible apply kept_foldl | (intro t a ht; try dsimp only) | (intro t ht; try dsimp only)

theorem kept_execLinkStatusBlock (o : OctetId) (lane : Fin 4) (txLocked : Bool) (faults : BitVec 2) (t : Grain)
    (hm : [.sys, .hqm, .sites, .octets, .pins, .cap, .dds, .time, .halso, .perf, .out] ⊆ m) (h : Kept m s0 s) :
    KeptR m s0 (execLinkStatusBlock o lane txLocked faults t s) := by
  unfold execLinkStatusBlock
  try dsimp only
  repeat' first
    | with_reducible assumption | with_reducible exact List.Subset.trans (by decide) hm
    | with_reducible apply kept_setLanes | with_reducible apply kept_atGrain | with_reducible apply keptR_next
    | exact fun z => z | split | with_reducible apply kept_foldl | (intro t a ht; try dsimp only)
    | (intro t ht; try dsimp only)

theorem kept_answerSite (c : Nat) (pick : CmpRes → Bool) (a : Option Cls) (hm : [.sys, .hqm, .sites, .octets,
    .pins, .cap, .dds, .halso, .perf, .out] ⊆ m) (h : Kept m s0 s) : Kept m s0 (answerSite c pick a s) := by
  unfold answerSite
  try dsimp only
  repeat' first
    | with_reducible assumption | with_reducible exact List.Subset.trans (by decide) hm
    | with_reducible apply kept_settle | with_reducible apply kept_flush | with_reducible apply kept_modSite
    | exact fun z => z | split | with_reducible apply kept_foldl | (intro t a ht; try dsimp only)
    | (intro t ht; try dsimp only)

theorem kept_execLinkResultWord (o : OctetId) (lane : Fin 4) (slotB : Bool) (w : W32) (hm : [.sys, .hqm, .sites,
    .octets, .pins, .cap, .dds, .halso, .perf, .out] ⊆ m) (h : Kept m s0 s) : KeptR m s0 (execLinkResultWord o
    lane slotB w s) := by
  unfold execLinkResultWord
  try dsimp only
  repeat' first
    | with_reducible assumption | with_reducible exact List.Subset.trans (by decide) hm
    | with_reducible apply kept_answerSite | with_reducible apply keptR_next | exact fun z => z | split
    | with_reducible apply kept_foldl | (intro t a ht; try dsimp only) | (intro t ht; try dsimp only)

theorem kept_execLinkResultTimeout (c : Chan) (hm : [.sys, .hqm, .sites, .octets, .pins, .cap, .dds, .halso,
    .perf, .out] ⊆ m) (h : Kept m s0 s) : KeptR m s0 (execLinkResultTimeout c s) := by
  unfold execLinkResultTimeout
  try dsimp only
  repeat' first
    | with_reducible assumption | with_reducible exact List.Subset.trans (by decide) hm
    | with_reducible apply kept_answerSite | with_reducible apply keptR_next | exact fun z => z | split
    | with_reducible apply kept_foldl | (intro t a ht; try dsimp only) | (intro t ht; try dsimp only)

theorem kept_execEyeScan (k : CmdSlot) (hm : [.hqm, .pins] ⊆ m) (h : Kept m s0 s) : KeptR m s0 (execEyeScan k s)
    := by
  unfold execEyeScan
  try dsimp only
  repeat' first
    | with_reducible assumption | with_reducible exact List.Subset.trans (by decide) hm
    | with_reducible apply keptR_onCmd | with_reducible apply kept_complete | with_reducible apply kept_begin_
    | with_reducible apply kept_modPin | with_reducible apply keptR_next | exact fun z => z | split
    | with_reducible apply kept_foldl | (intro t a ht; try dsimp only) | (intro t ht; try dsimp only)

theorem kept_execEyeScanPoint (c : Chan) (high : Nat) (low : Nat) (t : Grain) (hm : [.hqm, .dram, .pins, .time,
    .dramMem] ⊆ m) (h : Kept m s0 s) : KeptR m s0 (execEyeScanPoint c high low t s) := by
  unfold execEyeScanPoint
  try dsimp only
  repeat' first
    | with_reducible assumption | with_reducible exact List.Subset.trans (by decide) hm
    | with_reducible apply kept_engineStore | with_reducible apply kept_atGrain
    | with_reducible apply kept_modPin | with_reducible apply kept_complete | with_reducible apply keptR_next
    | exact fun z => z | split | with_reducible apply kept_foldl | (intro t a ht; try dsimp only)
    | (intro t ht; try dsimp only)

end Sys2Proof.Machine
end

