-- ==== Sys2Proof/Laws/KeptTimeBase.lean ====
section
/-!
SUPPORT. What the operations of Machine/TimeBase.lean keep.
-/

namespace Sys2Proof.Machine

set_option linter.unusedTactic false
set_option linter.unreachableTactic false
set_option linter.unusedVariables false

variable {m : List Part} {s0 s : State}

theorem kept_halfOf (v : ℤ) (hm : [.free] ⊆ m) (h : Kept m s0 s) : Kept m s0 (halfOf v s).2 := by
  unfold halfOf
  dsimp only
  split
  · exact h
  · exact kept_drawFree hm h

theorem kept_tsPut (kind : Nat) (msg : Nat) (seq : Nat) (time : Int) (value : Nat) (hm : [.time] ⊆ m) (h : Kept
    m s0 s) : Kept m s0 (tsPut kind msg seq time value s) := by
  unfold tsPut
  try dsimp only
  repeat' first
    | with_reducible assumption | with_reducible exact List.Subset.trans (by decide) hm
    | with_reducible refine kept_modTime _ ?_ rfl ?_ | exact fun z => z | split
    | with_reducible apply kept_foldl | (intro t a ht; try dsimp only) | (intro t ht; try dsimp only)

theorem kept_tsNote (kind : Nat) (value : Nat) (hm : [.time] ⊆ m) (h : Kept m s0 s) : Kept m s0 (tsNote kind
    value s) := by
  unfold tsNote
  try dsimp only
  repeat' first
    | with_reducible assumption | with_reducible exact List.Subset.trans (by decide) hm
    | with_reducible apply kept_tsPut | exact fun z => z | split | with_reducible apply kept_foldl
    | (intro t a ht; try dsimp only) | (intro t ht; try dsimp only)

theorem kept_execTsRingEntryDrop (hm : [.time] ⊆ m) (h : Kept m s0 s) : KeptR m s0 (execTsRingEntryDrop s) := by
  unfold execTsRingEntryDrop
  try dsimp only
  repeat' first
    | with_reducible assumption | with_reducible exact List.Subset.trans (by decide) hm
    | with_reducible refine kept_modTime _ ?_ rfl ?_ | with_reducible apply keptR_next | exact fun z => z
    | split | with_reducible apply kept_foldl | (intro t a ht; try dsimp only) | (intro t ht; try dsimp only)

theorem kept_endSlew (hm : [.time] ⊆ m) (h : Kept m s0 s) : Kept m s0 (endSlew s) := by
  unfold endSlew
  try dsimp only
  repeat' first
    | with_reducible assumption | with_reducible exact List.Subset.trans (by decide) hm
    | with_reducible apply kept_tsNote | with_reducible refine kept_modTime _ ?_ rfl ?_ | exact fun z => z
    | split | with_reducible apply kept_foldl | (intro t a ht; try dsimp only) | (intro t ht; try dsimp only)

theorem kept_enterServo (v : Servo) (cause : Nat) (hm : [.time] ⊆ m) (h : Kept m s0 s) : Kept m s0 (enterServo v
    cause s) := by
  unfold enterServo
  try dsimp only
  repeat' first
    | with_reducible assumption | with_reducible exact List.Subset.trans (by decide) hm
    | with_reducible apply kept_endSlew | with_reducible refine kept_modTime _ ?_ rfl ?_
    | with_reducible apply kept_tsNote | exact fun z => z | split | with_reducible apply kept_foldl
    | (intro t a ht; try dsimp only) | (intro t ht; try dsimp only)

theorem kept_enterAcquire (n : Nat) (step : Bool) (hm : [.time] ⊆ m) (h : Kept m s0 s) : Kept m s0 (enterAcquire
    n step s) := by
  unfold enterAcquire
  try dsimp only
  repeat' first
    | with_reducible assumption | with_reducible exact List.Subset.trans (by decide) hm
    | with_reducible apply kept_enterServo | with_reducible refine kept_modTime _ ?_ rfl ?_ | exact fun z => z
    | split | with_reducible apply kept_foldl | (intro t a ht; try dsimp only) | (intro t ht; try dsimp only)

theorem kept_enterHold (cause : Nat) (hm : [.time] ⊆ m) (h : Kept m s0 s) : Kept m s0 (enterHold cause s) := by
  unfold enterHold
  try dsimp only
  repeat' first
    | with_reducible assumption | with_reducible exact List.Subset.trans (by decide) hm
    | with_reducible apply kept_enterServo | exact fun z => z | split | with_reducible apply kept_foldl
    | (intro t a ht; try dsimp only) | (intro t ht; try dsimp only)

theorem kept_moveOffset (d : Int) (hm : [.time] ⊆ m) (h : Kept m s0 s) : Kept m s0 (moveOffset d s) := by
  unfold moveOffset
  try dsimp only
  repeat' first
    | with_reducible assumption | with_reducible exact List.Subset.trans (by decide) hm
    | with_reducible apply kept_tsNote | with_reducible refine kept_modTime _ ?_ rfl ?_ | exact fun z => z
    | split | with_reducible apply kept_foldl | (intro t a ht; try dsimp only) | (intro t ht; try dsimp only)

theorem kept_applyStep (hm : [.hqm, .time] ⊆ m) (h : Kept m s0 s) : Kept m s0 (applyStep s) := by
  unfold applyStep
  try dsimp only
  repeat' first
    | with_reducible assumption | with_reducible exact List.Subset.trans (by decide) hm
    | with_reducible refine kept_modTime _ ?_ rfl ?_ | with_reducible apply kept_completeOpt
    | with_reducible apply kept_moveOffset | with_reducible apply kept_endSlew
    | with_reducible apply kept_enterAcquire | exact fun z => z | split | with_reducible apply kept_foldl
    | (intro t a ht; try dsimp only) | (intro t ht; try dsimp only)

theorem kept_execTimeStepApply (hm : [.hqm, .time] ⊆ m) (h : Kept m s0 s) : KeptR m s0 (execTimeStepApply s) :=
    by
  unfold execTimeStepApply
  try dsimp only
  repeat' first
    | with_reducible assumption | with_reducible exact List.Subset.trans (by decide) hm
    | with_reducible apply kept_applyStep | with_reducible apply keptR_next | exact fun z => z | split
    | with_reducible apply kept_foldl | (intro t a ht; try dsimp only) | (intro t ht; try dsimp only)

theorem kept_decideStep (v : Int) (isSet : Bool) (cmd : Option Nat) (hm : [.time] ⊆ m) (h : Kept m s0 s) : Kept
    m s0 (decideStep v isSet cmd s) := by
  unfold decideStep
  try dsimp only
  repeat' first
    | with_reducible assumption | with_reducible exact List.Subset.trans (by decide) hm
    | with_reducible refine kept_modTime _ ?_ rfl ?_ | exact fun z => z | split
    | with_reducible apply kept_foldl | (intro t a ht; try dsimp only) | (intro t ht; try dsimp only)

theorem kept_resolveJump (hm : [.time] ⊆ m) (h : Kept m s0 s) : Kept m s0 (resolveJump s) := by
  unfold resolveJump
  try dsimp only
  repeat' first
    | with_reducible assumption | with_reducible exact List.Subset.trans (by decide) hm
    | with_reducible apply kept_decideStep | with_reducible apply kept_endSlew
    | with_reducible refine kept_modTime _ ?_ rfl ?_ | with_reducible apply kept_tsNote
    | with_reducible apply kept_enterServo | exact fun z => z | split | with_reducible apply kept_foldl
    | (intro t a ht; try dsimp only) | (intro t ht; try dsimp only)

theorem kept_newJump (hold : Bool) (e : Int) (hm : [.sys, .hqm, .time, .perf, .out] ⊆ m) (h : Kept m s0 s) :
    Kept m s0 (newJump hold e s) := by
  unfold newJump
  try dsimp only
  repeat' first
    | with_reducible assumption | with_reducible exact List.Subset.trans (by decide) hm
    | with_reducible refine kept_modTime _ ?_ rfl ?_ | with_reducible apply kept_resolveJump
    | with_reducible apply kept_raiseIrq | with_reducible apply kept_enterHold | exact fun z => z | split
    | with_reducible apply kept_foldl | (intro t a ht; try dsimp only) | (intro t ht; try dsimp only)

theorem kept_slewStep (hm : [.time] ⊆ m) (h : Kept m s0 s) : Kept m s0 (slewStep s) := by
  unfold slewStep
  try dsimp only
  repeat' first
    | with_reducible assumption | with_reducible exact List.Subset.trans (by decide) hm
    | with_reducible refine kept_modTime _ ?_ rfl ?_ | with_reducible apply kept_enterServo
    | with_reducible apply kept_tsNote | exact fun z => z | split | with_reducible apply kept_foldl
    | (intro t a ht; try dsimp only) | (intro t ht; try dsimp only)

theorem kept_acceptMeas (e : Int) (hm : [.time] ⊆ m) (h : Kept m s0 s) : Kept m s0 (acceptMeas e s) := by
  unfold acceptMeas
  try dsimp only
  repeat' first
    | with_reducible assumption | with_reducible exact List.Subset.trans (by decide) hm
    | with_reducible refine kept_modTime _ ?_ rfl ?_ | exact fun z => z | split
    | with_reducible apply kept_foldl | (intro t a ht; try dsimp only) | (intro t ht; try dsimp only)

theorem kept_acquireMeas (e : Int) (hm : [.time] ⊆ m) (h : Kept m s0 s) : Kept m s0 (acquireMeas e s) := by
  unfold acquireMeas
  try dsimp only
  repeat' first
    | with_reducible assumption | with_reducible exact List.Subset.trans (by decide) hm
    | with_reducible apply kept_resolveJump | with_reducible refine kept_modTime _ ?_ rfl ?_
    | with_reducible apply kept_enterServo | exact fun z => z | split | with_reducible apply kept_foldl
    | (intro t a ht; try dsimp only) | (intro t ht; try dsimp only)

theorem kept_measure (e : Int) (hm : [.sys, .hqm, .time, .perf, .out] ⊆ m) (h : Kept m s0 s) : Kept m s0
    (measure e s) := by
  unfold measure
  try dsimp only
  repeat' first
    | with_reducible assumption | with_reducible exact List.Subset.trans (by decide) hm
    | with_reducible refine kept_modTime _ ?_ rfl ?_ | with_reducible apply kept_acquireMeas
    | with_reducible apply kept_newJump | with_reducible apply kept_acceptMeas
    | with_reducible apply kept_enterAcquire | exact fun z => z | split | with_reducible apply kept_foldl
    | (intro t a ht; try dsimp only) | (intro t ht; try dsimp only)

theorem kept_servoTick (hm : [.time] ⊆ m) (h : Kept m s0 s) : Kept m s0 (servoTick s) := by
  unfold servoTick
  try dsimp only
  repeat' first
    | with_reducible assumption | with_reducible exact List.Subset.trans (by decide) hm
    | with_reducible refine kept_modTime _ ?_ rfl ?_ | exact fun z => z | split
    | with_reducible apply kept_foldl | (intro t a ht; try dsimp only) | (intro t ht; try dsimp only)

theorem kept_holdoverTick (hm : [.time] ⊆ m) (h : Kept m s0 s) : Kept m s0 (holdoverTick s) := by
  unfold holdoverTick
  try dsimp only
  repeat' first
    | with_reducible assumption | with_reducible exact List.Subset.trans (by decide) hm
    | with_reducible refine kept_modTime _ ?_ rfl ?_ | exact fun z => z | split
    | with_reducible apply kept_foldl | (intro t a ht; try dsimp only) | (intro t ht; try dsimp only)

theorem kept_execTraceableHoldExpiry (hm : [.time] ⊆ m) (h : Kept m s0 s) : KeptR m s0 (execTraceableHoldExpiry
    s) := by
  unfold execTraceableHoldExpiry
  try dsimp only
  repeat' first
    | with_reducible assumption | with_reducible exact List.Subset.trans (by decide) hm
    | with_reducible refine kept_modTime _ ?_ rfl ?_ | with_reducible apply keptR_next | exact fun z => z
    | split | with_reducible apply kept_foldl | (intro t a ht; try dsimp only) | (intro t ht; try dsimp only)

theorem kept_sourceTick (hm : [.time] ⊆ m) (h : Kept m s0 s) : Kept m s0 (sourceTick s) := by
  unfold sourceTick
  try dsimp only
  repeat' first
    | with_reducible assumption | with_reducible exact List.Subset.trans (by decide) hm
    | with_reducible apply kept_enterAcquire | with_reducible apply kept_endSlew
    | with_reducible refine kept_modTime _ ?_ rfl ?_ | exact fun z => z | split
    | with_reducible apply kept_foldl | (intro t a ht; try dsimp only) | (intro t ht; try dsimp only)

theorem kept_ppsLevel (hm : [.time, .out] ⊆ m) (h : Kept m s0 s) : Kept m s0 (ppsLevel s) := by
  unfold ppsLevel
  try dsimp only
  repeat' first
    | with_reducible assumption | with_reducible exact List.Subset.trans (by decide) hm
    | with_reducible apply kept_emit | with_reducible refine kept_modTime _ ?_ rfl ?_ | exact fun z => z
    | split | with_reducible apply kept_foldl | (intro t a ht; try dsimp only) | (intro t ht; try dsimp only)

theorem kept_refOutTick (hm : [.out] ⊆ m) (h : Kept m s0 s) : Kept m s0 (refOutTick s) := by
  unfold refOutTick
  try dsimp only
  repeat' first
    | with_reducible assumption | with_reducible exact List.Subset.trans (by decide) hm
    | with_reducible apply kept_emit | exact fun z => z | split | with_reducible apply kept_foldl
    | (intro t a ht; try dsimp only) | (intro t ht; try dsimp only)

theorem kept_timeTick (hm : [.time, .out] ⊆ m) (h : Kept m s0 s) : Kept m s0 (timeTick s) := by
  unfold timeTick
  try dsimp only
  repeat' first
    | with_reducible assumption | with_reducible exact List.Subset.trans (by decide) hm
    | with_reducible apply kept_refOutTick | with_reducible apply kept_ppsLevel
    | with_reducible apply kept_holdoverTick | with_reducible apply kept_slewStep
    | with_reducible apply kept_resolveJump | with_reducible apply kept_servoTick
    | with_reducible apply kept_sourceTick | exact fun z => z | split | with_reducible apply kept_foldl
    | (intro t a ht; try dsimp only) | (intro t ht; try dsimp only)

theorem kept_execSourceLost (hm : [.time] ⊆ m) (h : Kept m s0 s) : KeptR m s0 (execSourceLost s) := by
  unfold execSourceLost
  try dsimp only
  repeat' first
    | with_reducible assumption | with_reducible exact List.Subset.trans (by decide) hm
    | with_reducible apply kept_enterHold | with_reducible apply kept_endSlew
    | with_reducible refine kept_modTime _ ?_ rfl ?_ | with_reducible apply keptR_next | exact fun z => z
    | split | with_reducible apply kept_foldl | (intro t a ht; try dsimp only) | (intro t ht; try dsimp only)

theorem kept_execTimeSet (k : CmdSlot) (hm : [.hqm, .time] ⊆ m) (h : Kept m s0 s) : KeptR m s0 (execTimeSet k s)
    := by
  unfold execTimeSet
  try dsimp only
  repeat' first
    | with_reducible assumption | with_reducible exact List.Subset.trans (by decide) hm
    | with_reducible apply keptR_onCmd | with_reducible apply kept_complete | with_reducible apply kept_begin_
    | with_reducible apply kept_decideStep | with_reducible apply keptR_next | exact fun z => z | split
    | with_reducible apply kept_foldl | (intro t a ht; try dsimp only) | (intro t ht; try dsimp only)

theorem kept_execTimeAdjust (k : CmdSlot) (hm : [.hqm, .time] ⊆ m) (h : Kept m s0 s) : KeptR m s0
    (execTimeAdjust k s) := by
  unfold execTimeAdjust
  try dsimp only
  repeat' first
    | with_reducible assumption | with_reducible exact List.Subset.trans (by decide) hm
    | with_reducible apply keptR_onCmd | with_reducible apply kept_begin_
    | with_reducible apply kept_decideStep | with_reducible apply kept_complete
    | with_reducible apply kept_enterAcquire | with_reducible refine kept_modTime _ ?_ rfl ?_
    | with_reducible apply keptR_next | exact fun z => z | split | with_reducible apply kept_foldl
    | (intro t a ht; try dsimp only) | (intro t ht; try dsimp only)

theorem kept_execTimeCfgWrite (w : Wr) (hm : [.time] ⊆ m) (h : Kept m s0 s) : KeptR m s0 (execTimeCfgWrite w s)
    := by
  unfold execTimeCfgWrite
  try dsimp only
  repeat' first
    | with_reducible assumption | with_reducible exact List.Subset.trans (by decide) hm
    | with_reducible apply keptR_onBlock | with_reducible refine kept_modTime _ ?_ rfl ?_
    | with_reducible apply keptR_next | exact fun z => z | split | with_reducible apply kept_foldl
    | (intro t a ht; try dsimp only) | (intro t ht; try dsimp only)

theorem kept_execTimePtpAsymWrite (w : Wr) (hm : [.time] ⊆ m) (h : Kept m s0 s) : KeptR m s0
    (execTimePtpAsymWrite w s) := by
  unfold execTimePtpAsymWrite
  try dsimp only
  repeat' first
    | with_reducible assumption | with_reducible exact List.Subset.trans (by decide) hm
    | with_reducible apply keptR_onBlock | with_reducible refine kept_modTime _ ?_ rfl ?_
    | with_reducible apply kept_enterAcquire | with_reducible apply keptR_next | exact fun z => z | split
    | with_reducible apply kept_foldl | (intro t a ht; try dsimp only) | (intro t ht; try dsimp only)

theorem kept_execTimeNowRead (t : Grain) (hm : [.time] ⊆ m) (h : Kept m s0 s) : KeptR m s0 (execTimeNowRead t s)
    := by
  unfold execTimeNowRead
  try dsimp only
  repeat' first
    | with_reducible assumption | with_reducible exact List.Subset.trans (by decide) hm
    | with_reducible apply keptR_onBlock | with_reducible apply kept_atGrain
    | with_reducible refine kept_modTime _ ?_ rfl ?_ | with_reducible apply keptR_next | exact fun z => z
    | split | with_reducible apply kept_foldl | (intro t a ht; try dsimp only) | (intro t ht; try dsimp only)

theorem kept_execPpsInEdge (t : Grain) (hm : [.sys, .hqm, .time, .perf, .out] ⊆ m) (h : Kept m s0 s) : KeptR m
    s0 (execPpsInEdge t s) := by
  unfold execPpsInEdge
  try dsimp only
  repeat' first
    | with_reducible assumption | with_reducible exact List.Subset.trans (by decide) hm
    | with_reducible apply kept_atGrain | with_reducible apply kept_tsPut | with_reducible apply kept_measure
    | with_reducible apply keptR_next | exact fun z => z | split | with_reducible apply kept_foldl
    | (intro t a ht; try dsimp only) | (intro t ht; try dsimp only)

theorem kept_execPpsOutEdge (t : Grain) (hm : [.time, .out] ⊆ m) (h : Kept m s0 s) : KeptR m s0 (execPpsOutEdge
    t s) := by
  unfold execPpsOutEdge
  try dsimp only
  repeat' first
    | with_reducible assumption | with_reducible exact List.Subset.trans (by decide) hm
    | with_reducible apply kept_ppsLevel | with_reducible apply kept_atGrain | with_reducible apply kept_emit
    | with_reducible refine kept_modTime _ ?_ rfl ?_ | with_reducible apply keptR_next | exact fun z => z
    | split | with_reducible apply kept_foldl | (intro t a ht; try dsimp only) | (intro t ht; try dsimp only)

theorem kept_execRefLost (hm : [.sys, .hqm, .time, .perf, .out] ⊆ m) (h : Kept m s0 s) : KeptR m s0 (execRefLost
    s) := by
  unfold execRefLost
  try dsimp only
  repeat' first
    | with_reducible assumption | with_reducible exact List.Subset.trans (by decide) hm
    | with_reducible refine kept_modTime _ ?_ rfl ?_ | with_reducible apply kept_raiseIrq
    | with_reducible apply keptR_next | exact fun z => z | split | with_reducible apply kept_foldl
    | (intro t a ht; try dsimp only) | (intro t ht; try dsimp only)

theorem kept_tryBoot (hm : [.sys, .hqm, .perf, .out, .devState] ⊆ m) (h : Kept m s0 s) : Kept m s0 (tryBoot s)
    := by
  unfold tryBoot
  try dsimp only
  repeat' first
    | with_reducible assumption | with_reducible exact List.Subset.trans (by decide) hm
    | with_reducible apply kept_enterState | exact fun z => z | split | with_reducible apply kept_foldl
    | (intro t a ht; try dsimp only) | (intro t ht; try dsimp only)

theorem kept_execRefInReturn (hm : [.sys, .hqm, .time, .perf, .out, .devState] ⊆ m) (h : Kept m s0 s) : KeptR m
    s0 (execRefInReturn s) := by
  unfold execRefInReturn
  try dsimp only
  repeat' first
    | with_reducible assumption | with_reducible exact List.Subset.trans (by decide) hm
    | with_reducible apply kept_tryBoot | with_reducible refine kept_modTime _ ?_ rfl ?_
    | with_reducible apply keptR_next | exact fun z => z | split | with_reducible apply kept_foldl
    | (intro t a ht; try dsimp only) | (intro t ht; try dsimp only)

theorem kept_sendPtp (msg : Nat) (seq : Nat) (stamp : Int) (hm : [.out] ⊆ m) (h : Kept m s0 s) : Kept m s0
    (sendPtp msg seq stamp s) := by
  unfold sendPtp
  try dsimp only
  repeat' first
    | with_reducible assumption | with_reducible exact List.Subset.trans (by decide) hm
    | with_reducible apply kept_emit | exact fun z => z | split | with_reducible apply kept_foldl
    | (intro t a ht; try dsimp only) | (intro t ht; try dsimp only)

theorem kept_modPtp (f : Ptp → Ptp) (hm : [.time] ⊆ m) (h : Kept m s0 s) : Kept m s0 (modPtp f s) := by
  unfold modPtp
  try dsimp only
  repeat' first
    | with_reducible assumption | with_reducible exact List.Subset.trans (by decide) hm
    | with_reducible refine kept_modTime _ ?_ rfl ?_ | exact fun z => z | split
    | with_reducible apply kept_foldl | (intro t a ht; try dsimp only) | (intro t ht; try dsimp only)

theorem kept_ptpMeasure (o : Int) (xm : Int) (hm : [.sys, .hqm, .time, .perf, .out] ⊆ m) (h : Kept m s0 s) :
    Kept m s0 (ptpMeasure o xm s) := by
  unfold ptpMeasure
  try dsimp only
  repeat' first
    | with_reducible assumption | with_reducible exact List.Subset.trans (by decide) hm
    | with_reducible refine kept_modTime _ ?_ rfl ?_ | with_reducible apply kept_enterHold
    | with_reducible apply kept_raiseIrq | with_reducible apply kept_modPtp | with_reducible apply kept_measure
    | exact fun z => z | split | with_reducible apply kept_foldl | (intro t a ht; try dsimp only)
    | (intro t ht; try dsimp only)

theorem kept_ptpTry (hm : [.sys, .hqm, .time, .perf, .out] ⊆ m) (h : Kept m s0 s) : Kept m s0 (ptpTry s) := by
  unfold ptpTry
  try dsimp only
  repeat' first
    | with_reducible assumption | with_reducible exact List.Subset.trans (by decide) hm
    | with_reducible apply kept_ptpMeasure | with_reducible apply kept_modPtp | exact fun z => z | split
    | with_reducible apply kept_foldl | (intro t a ht; try dsimp only) | (intro t ht; try dsimp only)

theorem kept_ptpDelay (twice : Int) (hm : [.time, .free] ⊆ m) (h : Kept m s0 s) : Kept m s0 (ptpDelay twice s)
    := by
  unfold ptpDelay
  try dsimp only
  repeat' first
    | with_reducible assumption | with_reducible exact List.Subset.trans (by decide) hm
    | with_reducible apply kept_halfOf | with_reducible apply kept_modPtp | exact fun z => z | split
    | with_reducible apply kept_foldl | (intro t a ht; try dsimp only) | (intro t ht; try dsimp only)

theorem kept_txStamp (seq : BitVec 16) (msg : Nat) (t : Int) (keep : Bool) (hm : [.sys, .hqm, .time, .perf,
    .out] ⊆ m) (h : Kept m s0 s) : Kept m s0 (txStamp seq msg t keep s) := by
  unfold txStamp
  try dsimp only
  repeat' first
    | with_reducible assumption | with_reducible exact List.Subset.trans (by decide) hm
    | with_reducible apply kept_raiseIrq | with_reducible refine kept_modTime _ ?_ rfl ?_
    | with_reducible apply kept_modPtp | exact fun z => z | split | with_reducible apply kept_foldl
    | (intro t a ht; try dsimp only) | (intro t ht; try dsimp only)

theorem kept_takeTx (seq : BitVec 16) (msg : ℕ) (hm : [.time] ⊆ m) (h : Kept m s0 s) :
    Kept m s0 (takeTx seq msg s).2 := by
  unfold takeTx
  split
  · dsimp only
    exact kept_modPtp _ hm h
  · exact h

theorem kept_sendTwoStep (msg : Nat) (follow : Nat) (seq : BitVec 16) (receipt : Int) (tx : Int) (hm : [.sys,
    .hqm, .time, .perf, .out] ⊆ m) (h : Kept m s0 s) : Kept m s0 (sendTwoStep msg follow seq receipt tx s) := by
  unfold sendTwoStep
  try dsimp only
  repeat' first
    | with_reducible assumption | with_reducible exact List.Subset.trans (by decide) hm
    | with_reducible apply kept_txStamp | with_reducible apply kept_sendPtp | exact fun z => z | split
    | with_reducible apply kept_foldl | (intro t a ht; try dsimp only) | (intro t ht; try dsimp only)

theorem kept_syncDone (origin : Int) (t2 : Int) (hm : [.sys, .hqm, .time, .perf, .out] ⊆ m) (h : Kept m s0 s) :
    Kept m s0 (syncDone origin t2 s) := by
  unfold syncDone
  try dsimp only
  repeat' first
    | with_reducible assumption | with_reducible exact List.Subset.trans (by decide) hm
    | with_reducible apply kept_ptpTry | with_reducible apply kept_modPtp | exact fun z => z | split
    | with_reducible apply kept_foldl | (intro t a ht; try dsimp only) | (intro t ht; try dsimp only)

theorem kept_pdelayDone (t1 : Int) (t4 : Int) (turn : Int) (corr : Int) (hm : [.sys, .hqm, .time, .perf, .out,
    .free] ⊆ m) (h : Kept m s0 s) : Kept m s0 (pdelayDone t1 t4 turn corr s) := by
  unfold pdelayDone
  try dsimp only
  repeat' first
    | with_reducible assumption | with_reducible exact List.Subset.trans (by decide) hm
    | with_reducible apply kept_ptpTry | with_reducible apply kept_ptpDelay | exact fun z => z | split
    | with_reducible apply kept_foldl | (intro t a ht; try dsimp only) | (intro t ht; try dsimp only)

theorem kept_ptpReceive (xm : PtpEvent) (rx : Int) (hm : [.sys, .hqm, .time, .perf, .out, .free] ⊆ m) (h : Kept
    m s0 s) : Kept m s0 (ptpReceive xm rx s) := by
  unfold ptpReceive
  try dsimp only
  repeat' first
    | with_reducible assumption | with_reducible exact List.Subset.trans (by decide) hm
    | with_reducible apply kept_syncDone | with_reducible apply kept_modPtp | with_reducible apply kept_takeTx
    | with_reducible apply kept_pdelayDone | with_reducible apply kept_sendPtp | exact fun z => z | split
    | with_reducible apply kept_foldl | (intro t a ht; try dsimp only) | (intro t ht; try dsimp only)

theorem kept_ptpTransmit (xm : PtpEvent) (tx : Int) (hm : [.sys, .hqm, .time, .perf, .out] ⊆ m) (h : Kept m s0
    s) : Kept m s0 (ptpTransmit xm tx s) := by
  unfold ptpTransmit
  try dsimp only
  repeat' first
    | with_reducible assumption | with_reducible exact List.Subset.trans (by decide) hm
    | with_reducible apply kept_sendTwoStep | with_reducible apply kept_tsPut
    | with_reducible apply kept_txStamp | with_reducible apply kept_sendPtp | with_reducible apply kept_modPtp
    | exact fun z => z | split | with_reducible apply kept_foldl | (intro t a ht; try dsimp only)
    | (intro t ht; try dsimp only)

theorem kept_execPtpEventMessage (xm : PtpEvent) (p : PtpAt) (hm : [.sys, .hqm, .time, .perf, .out, .free] ⊆ m)
    (h : Kept m s0 s) : KeptR m s0 (execPtpEventMessage xm p s) := by
  unfold execPtpEventMessage
  try dsimp only
  repeat' first
    | with_reducible assumption | with_reducible exact List.Subset.trans (by decide) hm
    | with_reducible apply kept_atGrain | with_reducible apply kept_tsPut
    | with_reducible apply kept_ptpReceive | with_reducible apply kept_ptpTransmit
    | with_reducible apply keptR_next | exact fun z => z | split | with_reducible apply kept_foldl
    | (intro t a ht; try dsimp only) | (intro t ht; try dsimp only)

theorem kept_execPtpGeneralMessage (xm : PtpGeneral) (p : PtpAt) (hm : [.sys, .hqm, .time, .perf, .out, .free] ⊆
    m) (h : Kept m s0 s) : KeptR m s0 (execPtpGeneralMessage xm p s) := by
  unfold execPtpGeneralMessage
  try dsimp only
  repeat' first
    | with_reducible assumption | with_reducible exact List.Subset.trans (by decide) hm
    | with_reducible apply kept_atGrain | with_reducible apply kept_emit | with_reducible apply kept_modPtp
    | with_reducible apply kept_syncDone | with_reducible apply kept_takeTx | with_reducible apply kept_ptpTry
    | with_reducible apply kept_ptpDelay | with_reducible apply kept_pdelayDone
    | with_reducible apply keptR_next | exact fun z => z | split | with_reducible apply kept_foldl
    | (intro t a ht; try dsimp only) | (intro t ht; try dsimp only)

end Sys2Proof.Machine
end

