-- ==== Sys2Proof/Laws/KeptHalso.lean ====
section
/-!
SUPPORT. What the operations of Machine/Halso.lean keep.
-/

namespace Sys2Proof.Machine

set_option linter.unusedTactic false
set_option linter.unreachableTactic false
set_option linter.unusedVariables false

variable {m : List Part} {s0 s : State}

theorem kept_chooseSide (hm : [.sys, .hqm, .time, .halso, .perf, .out] ⊆ m) (h : Kept m s0 s) : Kept m s0
    (chooseSide s) := by
  unfold chooseSide
  try dsimp only
  repeat' first
    | with_reducible assumption | with_reducible exact List.Subset.trans (by decide) hm
    | with_reducible apply kept_modHalso | with_reducible apply kept_raiseIrq
    | with_reducible apply kept_enterHold | exact fun z => z | split | with_reducible apply kept_foldl
    | (intro t a ht; try dsimp only) | (intro t ht; try dsimp only)

theorem kept_passOn0 (p : Nat) (dev : Nat) (ws : List Nat) (hm : [.out] ⊆ m) (h : Kept m s0 s) : Kept m s0
    (passOn0 p dev ws s) := by
  unfold passOn0
  try dsimp only
  repeat' first
    | with_reducible assumption | with_reducible exact List.Subset.trans (by decide) hm
    | with_reducible apply kept_sendSide0 | exact fun z => z | split | with_reducible apply kept_foldl
    | (intro t a ht; try dsimp only) | (intro t ht; try dsimp only)

theorem kept_passOn2 (p : Nat) (dev : Nat) (ws : List Nat) (hm : [.halso, .out] ⊆ m) (h : Kept m s0 s) : Kept m
    s0 (passOn2 p dev ws s) := by
  unfold passOn2
  try dsimp only
  repeat' first
    | with_reducible assumption | with_reducible exact List.Subset.trans (by decide) hm
    | with_reducible apply kept_sendSide | exact fun z => z | split | with_reducible apply kept_foldl
    | (intro t a ht; try dsimp only) | (intro t ht; try dsimp only)

theorem kept_noteCopy (p : Nat) (w : Nat) (hm : [.halso] ⊆ m) (h : Kept m s0 s) : Kept m s0 (noteCopy p w s) :=
    by
  unfold noteCopy
  try dsimp only
  repeat' first
    | with_reducible assumption | with_reducible exact List.Subset.trans (by decide) hm
    | with_reducible apply kept_modHalso | exact fun z => z | split | with_reducible apply kept_foldl
    | (intro t a ht; try dsimp only) | (intro t ht; try dsimp only)

theorem kept_receive0 (p dev w : ℕ) (act : State → State) (hm : [.halso, .out] ⊆ m)
    (ha : ∀ t, Kept m s0 t → Kept m s0 (act t)) (h : Kept m s0 s) : Kept m s0 (receive0 p dev w act s) := by
  unfold receive0
  split
  · exact kept_noteCopy _ _ (List.Subset.trans (by decide) hm) h
  · exact ha _ (kept_passOn0 _ _ _ (List.Subset.trans (by decide) hm)
      (kept_noteCopy _ _ (List.Subset.trans (by decide) hm) h))

theorem kept_sendHello (hm : [.halso, .out] ⊆ m) (h : Kept m s0 s) : Kept m s0 (sendHello s) := by
  unfold sendHello
  try dsimp only
  repeat' first
    | with_reducible assumption | with_reducible exact List.Subset.trans (by decide) hm
    | with_reducible apply kept_broadcast2 | exact fun z => z | split | with_reducible apply kept_foldl
    | (intro t a ht; try dsimp only) | (intro t ht; try dsimp only)

theorem kept_execHalsoLanesLocked (p : PortId) (hm : [.sys, .hqm, .time, .halso, .perf, .out] ⊆ m) (h : Kept m
    s0 s) : KeptR m s0 (execHalsoLanesLocked p s) := by
  unfold execHalsoLanesLocked
  try dsimp only
  repeat' first
    | with_reducible assumption | with_reducible exact List.Subset.trans (by decide) hm
    | with_reducible apply kept_modPort | with_reducible apply kept_modHalso
    | with_reducible apply kept_sendHello | with_reducible apply kept_chooseSide
    | with_reducible apply keptR_next | exact fun z => z | split | with_reducible apply kept_foldl
    | (intro t a ht; try dsimp only) | (intro t ht; try dsimp only)

theorem kept_execHalsoLinkDown (p : PortId) (lanes : BitVec 2) (hm : [.halso] ⊆ m) (h : Kept m s0 s) : KeptR m
    s0 (execHalsoLinkDown p lanes s) := by
  unfold execHalsoLinkDown
  try dsimp only
  repeat' first
    | with_reducible assumption | with_reducible exact List.Subset.trans (by decide) hm
    | with_reducible apply kept_modPort | with_reducible apply kept_modHalso | with_reducible apply keptR_next
    | exact fun z => z | split | with_reducible apply kept_foldl | (intro t a ht; try dsimp only)
    | (intro t ht; try dsimp only)

theorem kept_heardHello (p : Nat) (xh : Hello) (hm : [.sys, .hqm, .time, .halso, .perf, .out] ⊆ m) (h : Kept m
    s0 s) : Kept m s0 (heardHello p xh s) := by
  unfold heardHello
  try dsimp only
  repeat' first
    | with_reducible assumption | with_reducible exact List.Subset.trans (by decide) hm
    | with_reducible apply kept_modPort | with_reducible apply kept_modHalso
    | with_reducible apply kept_chooseSide | exact fun z => z | with_reducible apply keptO_getD | split
    | with_reducible apply kept_foldl | (intro t a ht; try dsimp only) | (intro t ht; try dsimp only)

theorem kept_execHalsoHello (p : PortId) (xh : Hello) (hm : [.sys, .hqm, .time, .halso, .perf, .out] ⊆ m) (h :
    Kept m s0 s) : KeptR m s0 (execHalsoHello p xh s) := by
  unfold execHalsoHello
  try dsimp only
  repeat' first
    | with_reducible assumption | with_reducible exact List.Subset.trans (by decide) hm
    | with_reducible apply kept_raiseIrq | with_reducible apply kept_modHalso
    | with_reducible apply kept_heardHello | with_reducible apply kept_sendSide
    | with_reducible apply kept_sendHello | with_reducible apply keptR_next | exact fun z => z | split
    | with_reducible apply kept_foldl | (intro t a ht; try dsimp only) | (intro t ht; try dsimp only)

theorem kept_execHalsoSpanMark (p : PortId) (xm : MarkIn) (hm : [.sys, .hqm, .halso, .perf, .out] ⊆ m) (h : Kept
    m s0 s) : KeptR m s0 (execHalsoSpanMark p xm s) := by
  unfold execHalsoSpanMark
  try dsimp only
  repeat' first
    | with_reducible assumption | with_reducible exact List.Subset.trans (by decide) hm
    | with_reducible apply kept_perfEvent | with_reducible apply kept_modPort
    | with_reducible apply kept_modHalso | with_reducible apply keptR_next | exact fun z => z | split
    | with_reducible apply kept_foldl | (intro t a ht; try dsimp only) | (intro t ht; try dsimp only)

theorem kept_sendOffset (e : Int) (hm : [.halso, .out] ⊆ m) (h : Kept m s0 s) : Kept m s0 (sendOffset e s) := by
  unfold sendOffset
  try dsimp only
  repeat' first
    | with_reducible assumption | with_reducible exact List.Subset.trans (by decide) hm
    | with_reducible apply kept_sendSide | exact fun z => z | split | with_reducible apply kept_foldl
    | (intro t a ht; try dsimp only) | (intro t ht; try dsimp only)

theorem kept_compareTime (xm : Int) (at_ : Int) (hm : [.sys, .hqm, .time, .perf, .out] ⊆ m) (h : Kept m s0 s) :
    Kept m s0 (compareTime xm at_ s) := by
  unfold compareTime
  try dsimp only
  repeat' first
    | with_reducible assumption | with_reducible exact List.Subset.trans (by decide) hm
    | with_reducible refine kept_modTime _ ?_ rfl ?_ | with_reducible apply kept_tsNote
    | with_reducible apply kept_newJump | exact fun z => z | split | with_reducible apply kept_foldl
    | (intro t a ht; try dsimp only) | (intro t ht; try dsimp only)

theorem kept_tickPair (p : Nat) (t1 : Nat) (t2 : Nat) (t3 : Nat) (t4 : Nat) (dev : Int) (hm : [.sys, .hqm,
    .time, .halso, .perf, .out, .free] ⊆ m) (h : Kept m s0 s) : Kept m s0 (tickPair p t1 t2 t3 t4 dev s) := by
  unfold tickPair
  try dsimp only
  repeat' first
    | with_reducible assumption | with_reducible exact List.Subset.trans (by decide) hm
    | with_reducible apply kept_halfOf | with_reducible apply kept_modPort | with_reducible apply kept_raiseIrq
    | with_reducible apply kept_enterHold | with_reducible apply kept_modHalso
    | with_reducible apply kept_compareTime | with_reducible apply kept_sendOffset
    | with_reducible apply kept_measure | exact fun z => z | with_reducible apply keptO_getD | split
    | with_reducible apply kept_foldl | (intro t a ht; try dsimp only) | (intro t ht; try dsimp only)

theorem kept_forwardTick (p : Nat) (xm : HalsoTick) (hm : [.sys, .hqm, .time, .halso, .perf, .out, .free] ⊆ m)
    (h : Kept m s0 s) : Kept m s0 (forwardTick p xm s) := by
  unfold forwardTick
  try dsimp only
  repeat' first
    | with_reducible assumption | with_reducible exact List.Subset.trans (by decide) hm
    | with_reducible apply kept_tickPair | with_reducible apply kept_modHalso
    | with_reducible apply kept_modPort | exact fun z => z | split | with_reducible apply kept_foldl
    | (intro t a ht; try dsimp only) | (intro t ht; try dsimp only)

theorem kept_execHalsoTimeTick (p : PortId) (xm : HalsoTick) (t : Grain) (hm : [.sys, .hqm, .time, .halso,
    .perf, .out, .free] ⊆ m) (h : Kept m s0 s) : KeptR m s0 (execHalsoTimeTick p xm t s) := by
  unfold execHalsoTimeTick
  try dsimp only
  repeat' first
    | with_reducible assumption | with_reducible exact List.Subset.trans (by decide) hm
    | with_reducible apply kept_atGrain | with_reducible apply kept_modPort
    | with_reducible apply kept_forwardTick | with_reducible apply keptR_next | exact fun z => z | split
    | with_reducible apply kept_foldl | (intro t a ht; try dsimp only) | (intro t ht; try dsimp only)

theorem kept_spanMark (hm : [.out] ⊆ m) (h : Kept m s0 s) : Kept m s0 (spanMark s) := by
  unfold spanMark
  try dsimp only
  repeat' first
    | with_reducible assumption | with_reducible exact List.Subset.trans (by decide) hm
    | with_reducible apply kept_broadcast0 | exact fun z => z | split | with_reducible apply kept_foldl
    | (intro t a ht; try dsimp only) | (intro t ht; try dsimp only)

theorem kept_copyTick (hm : [.halso] ⊆ m) (h : Kept m s0 s) : Kept m s0 (copyTick s) := by
  unfold copyTick
  try dsimp only
  repeat' first
    | with_reducible assumption | with_reducible exact List.Subset.trans (by decide) hm
    | with_reducible apply kept_modHalso | exact fun z => z | split | with_reducible apply kept_foldl
    | (intro t a ht; try dsimp only) | (intro t ht; try dsimp only)

theorem kept_halsoTick (hm : [.halso, .out] ⊆ m) (h : Kept m s0 s) : Kept m s0 (halsoTick s) := by
  unfold halsoTick
  try dsimp only
  repeat' first
    | with_reducible assumption | with_reducible exact List.Subset.trans (by decide) hm
    | with_reducible apply kept_sendOn | with_reducible apply kept_modPort | exact fun z => z | split
    | with_reducible apply kept_foldl | (intro t a ht; try dsimp only) | (intro t ht; try dsimp only)

theorem kept_execHalsoCableWrite (p : PortId) (w : Wr) (hm : [.time, .halso] ⊆ m) (h : Kept m s0 s) : KeptR m s0
    (execHalsoCableWrite p w s) := by
  unfold execHalsoCableWrite
  try dsimp only
  repeat' first
    | with_reducible assumption | with_reducible exact List.Subset.trans (by decide) hm
    | with_reducible apply keptR_onBlock | with_reducible apply kept_modPort
    | with_reducible apply kept_enterAcquire | with_reducible apply keptR_next | exact fun z => z | split
    | with_reducible apply kept_foldl | (intro t a ht; try dsimp only) | (intro t ht; try dsimp only)

theorem kept_joinDomain (hm : [.time, .halso, .clock] ⊆ m) (h : Kept m s0 s) : Kept m s0 (joinDomain s) := by
  unfold joinDomain
  try dsimp only
  repeat' first
    | with_reducible assumption | with_reducible exact List.Subset.trans (by decide) hm
    | with_reducible apply kept_tsNote | with_reducible refine kept_modTime _ ?_ rfl ?_
    | with_reducible apply kept_modTimeClock | with_reducible apply kept_endSlew
    | with_reducible apply kept_enterAcquire | with_reducible apply kept_modHalso | exact fun z => z | split
    | with_reducible apply kept_foldl | (intro t a ht; try dsimp only) | (intro t ht; try dsimp only)

theorem kept_execHalsoJoin (hm : [.time, .halso, .clock] ⊆ m) (h : Kept m s0 s) : KeptR m s0 (execHalsoJoin s)
    := by
  unfold execHalsoJoin
  try dsimp only
  repeat' first
    | with_reducible assumption | with_reducible exact List.Subset.trans (by decide) hm
    | with_reducible apply kept_modHalso | with_reducible apply kept_joinDomain
    | with_reducible apply keptR_next | exact fun z => z | split | with_reducible apply kept_foldl
    | (intro t a ht; try dsimp only) | (intro t ht; try dsimp only)

theorem kept_execHalsoUpstreamLost (otherSide : Bool) (hm : [.sys, .hqm, .time, .halso, .perf, .out] ⊆ m) (h :
    Kept m s0 s) : KeptR m s0 (execHalsoUpstreamLost otherSide s) := by
  unfold execHalsoUpstreamLost
  try dsimp only
  repeat' first
    | with_reducible assumption | with_reducible exact List.Subset.trans (by decide) hm
    | with_reducible apply kept_modHalso | with_reducible apply kept_raiseIrq
    | with_reducible apply kept_enterHold | with_reducible apply keptR_next | exact fun z => z | split
    | with_reducible apply kept_foldl | (intro t a ht; try dsimp only) | (intro t ht; try dsimp only)

theorem kept_execHalsoServoOffset (_p : PortId) (dev : BitVec 4) (state : BitVec 3) (traceable : Bool) (e :
    BitVec 48) (hm : [.halso, .out] ⊆ m) (h : Kept m s0 s) : KeptR m s0 (execHalsoServoOffset _p dev state
    traceable e s) := by
  unfold execHalsoServoOffset
  try dsimp only
  repeat' first
    | with_reducible assumption | with_reducible exact List.Subset.trans (by decide) hm
    | with_reducible apply kept_modHalso | with_reducible apply kept_sendSide | with_reducible apply keptR_next
    | exact fun z => z | split | with_reducible apply kept_foldl | (intro t a ht; try dsimp only)
    | (intro t ht; try dsimp only)

theorem kept_armPlan (dev : Nat) (b : Nat) (span : Nat) (p : Nat) (hm : [.barriers, .out] ⊆ m) (h : Kept m s0 s)
    : Kept m s0 (armPlan dev b span p s) := by
  unfold armPlan
  try dsimp only
  repeat' first
    | with_reducible assumption | with_reducible exact List.Subset.trans (by decide) hm
    | with_reducible apply kept_updateBarrier | with_reducible apply kept_modBarrier | exact fun z => z | split
    | with_reducible apply kept_foldl | (intro t a ht; try dsimp only) | (intro t ht; try dsimp only)

theorem kept_execHalsoArm (p : PortId) (dev : BitVec 4) (barrier : Fin 32) (span : BitVec 32) (hm : [.barriers,
    .halso, .out] ⊆ m) (h : Kept m s0 s) : KeptR m s0 (execHalsoArm p dev barrier span s) := by
  unfold execHalsoArm
  try dsimp only
  repeat' first
    | with_reducible assumption | with_reducible exact List.Subset.trans (by decide) hm
    | with_reducible apply kept_receive0 | with_reducible apply kept_armPlan | with_reducible apply keptR_next
    | exact fun z => z | split | with_reducible apply kept_foldl | (intro t a ht; try dsimp only)
    | (intro t ht; try dsimp only)

theorem kept_missRemote (xm : Nat) (hm : [.cap] ⊆ m) (h : Kept m s0 s) : Kept m s0 (missRemote xm s) := by
  unfold missRemote
  try dsimp only
  repeat' first
    | with_reducible assumption | with_reducible exact List.Subset.trans (by decide) hm
    | with_reducible apply kept_modGroup | with_reducible apply kept_modUnit | exact fun z => z | split
    | with_reducible apply kept_foldl | (intro t a ht; try dsimp only) | (intro t ht; try dsimp only)

theorem kept_remoteFiring (gid : BitVec 8) (dev : Nat) (t : Nat) (xm : Nat) (hm : [.cap] ⊆ m) (h : Kept m s0 s)
    : Kept m s0 (remoteFiring gid dev t xm s) := by
  unfold remoteFiring
  try dsimp only
  repeat' first
    | with_reducible assumption | with_reducible exact List.Subset.trans (by decide) hm
    | with_reducible apply kept_trigger | with_reducible apply kept_missRemote
    | with_reducible apply kept_modGroup | exact fun z => z | with_reducible apply kept_elim | split
    | with_reducible apply kept_foldl | (intro t a ht; try dsimp only) | (intro t ht; try dsimp only)
    | (intro v; try dsimp only)

theorem kept_execHalsoTrigger (p : PortId) (dev : BitVec 4) (xm : HalsoTrig) (span : BitVec 18) (cycle : BitVec
    8) (t : Grain) (hm : [.sys, .hqm, .sites, .cap, .dds, .time, .halso, .perf, .out] ⊆ m) (h : Kept m s0 s) :
    KeptR m s0 (execHalsoTrigger p dev xm span cycle t s) := by
  unfold execHalsoTrigger
  try dsimp only
  repeat' first
    | with_reducible assumption | with_reducible exact List.Subset.trans (by decide) hm
    | with_reducible apply kept_atGrain | with_reducible apply kept_receive0
    | with_reducible apply kept_remoteFiring | with_reducible apply kept_halsoEvent
    | with_reducible apply keptR_next | exact fun z => z | split | with_reducible apply kept_foldl
    | (intro t a ht; try dsimp only) | (intro t ht; try dsimp only)

theorem kept_execHalsoMatchBroadcast (p : PortId) (dev : BitVec 4) (group : BitVec 4) (hit : Bool) (cycle :
    BitVec 25) (hm : [.halso, .out] ⊆ m) (h : Kept m s0 s) : KeptR m s0 (execHalsoMatchBroadcast p dev group hit
    cycle s) := by
  unfold execHalsoMatchBroadcast
  try dsimp only
  repeat' first
    | with_reducible assumption | with_reducible exact List.Subset.trans (by decide) hm
    | with_reducible apply kept_receive0 | with_reducible apply kept_modHalso | with_reducible apply keptR_next
    | exact fun z => z | split | with_reducible apply kept_foldl | (intro t a ht; try dsimp only)
    | (intro t ht; try dsimp only)

theorem kept_execHalsoFailMerge (p : PortId) (group : CntId) (xm : MergeIn) (ended : Bool) (span : BitVec 48)
    (hm : [.halso, .out] ⊆ m) (h : Kept m s0 s) : KeptR m s0 (execHalsoFailMerge p group xm ended span s) := by
  unfold execHalsoFailMerge
  try dsimp only
  repeat' first
    | with_reducible assumption | with_reducible exact List.Subset.trans (by decide) hm
    | with_reducible apply kept_passOn2 | with_reducible apply kept_modHalso | with_reducible apply keptR_next
    | exact fun z => z | split | with_reducible apply kept_foldl | (intro t a ht; try dsimp only)
    | (intro t ht; try dsimp only)

end Sys2Proof.Machine
end

