-- ==== Sys2Proof/Laws/KeptCal.lean ====
section
/-!
SUPPORT. What the operations of Machine/Cal.lean keep.
-/

namespace Sys2Proof.Machine

set_option linter.unusedTactic false
set_option linter.unreachableTactic false
set_option linter.unusedVariables false

variable {m : List Part} {s0 s : State}

theorem kept_openWindow (st : Nat) (u : Nat) (hm : [.pins] ⊆ m) (h : Kept m s0 s) : Kept m s0 (openWindow st u
    s) := by
  unfold openWindow
  try dsimp only
  repeat' first
    | with_reducible assumption | with_reducible exact List.Subset.trans (by decide) hm
    | with_reducible apply kept_modPin | exact fun z => z | split | with_reducible apply kept_foldl
    | (intro t a ht; try dsimp only) | (intro t ht; try dsimp only)

theorem kept_stepEvent (code : Nat) (st : Nat) (u : Nat) (hm : [.sys, .hqm, .perf, .out] ⊆ m) (h : Kept m s0 s)
    : Kept m s0 (stepEvent code st u s) := by
  unfold stepEvent
  try dsimp only
  repeat' first
    | with_reducible assumption | with_reducible exact List.Subset.trans (by decide) hm
    | with_reducible apply kept_perfEvent | exact fun z => z | split | with_reducible apply kept_foldl
    | (intro t a ht; try dsimp only) | (intro t ht; try dsimp only)

theorem kept_recordFail (st : Nat) (u : Nat) (pre : Nat) (cont : Bool) (hm : [.sys, .hqm, .pins, .cal, .perf,
    .out] ⊆ m) (h : Kept m s0 s) : Kept m s0 (recordFail st u pre cont s) := by
  unfold recordFail
  try dsimp only
  repeat' first
    | with_reducible assumption | with_reducible exact List.Subset.trans (by decide) hm
    | with_reducible apply kept_stepEvent | with_reducible apply kept_modPin | with_reducible apply kept_modCal
    | exact fun z => z | split | with_reducible apply kept_foldl | (intro t a ht; try dsimp only)
    | (intro t ht; try dsimp only)

theorem kept_putTarget (c : Nat) (drv : Bool) (v : Int) (hm : [.pins] ⊆ m) (h : Kept m s0 s) : Kept m s0
    (putTarget c drv v s) := by
  unfold putTarget
  try dsimp only
  repeat' first
    | with_reducible assumption | with_reducible exact List.Subset.trans (by decide) hm
    | with_reducible apply kept_modPin | exact fun z => z | split | with_reducible apply kept_foldl
    | (intro t a ht; try dsimp only) | (intro t ht; try dsimp only)

theorem kept_applyDrift (o : Nat) (readings : List Int) (hm : [.octets, .pins] ⊆ m) (h : Kept m s0 s) : Kept m
    s0 (applyDrift o readings s) := by
  unfold applyDrift
  try dsimp only
  repeat' first
    | with_reducible assumption | with_reducible exact List.Subset.trans (by decide) hm
    | with_reducible apply kept_putTarget | with_reducible apply kept_modPin
    | with_reducible apply kept_modOctet | exact fun z => z | split | with_reducible apply kept_foldl
    | (intro t a ht; try dsimp only) | (intro t ht; try dsimp only)

theorem kept_driveResult (full : Bool) (live : Bool) (u : Nat) (a : Int) (b : Int) (hm : [.pins, .free] ⊆ m) (h
    : Kept m s0 s) : Kept m s0 (driveResult full live u a b s) := by
  unfold driveResult
  try dsimp only
  repeat' first
    | with_reducible assumption | with_reducible exact List.Subset.trans (by decide) hm
    | with_reducible apply kept_modPin | with_reducible apply kept_putTarget | with_reducible apply kept_halfOf
    | exact fun z => z | split | with_reducible apply kept_foldl | (intro t a ht; try dsimp only)
    | (intro t ht; try dsimp only)

theorem kept_compareResult (full : Bool) (u : Nat) (a : Int) (b : Int) (hm : [.pins, .free] ⊆ m) (h : Kept m s0
    s) : Kept m s0 (compareResult full u a b s) := by
  unfold compareResult
  try dsimp only
  repeat' first
    | with_reducible assumption | with_reducible exact List.Subset.trans (by decide) hm
    | with_reducible apply kept_halfOf | with_reducible apply kept_modPin | exact fun z => z | split
    | with_reducible apply kept_foldl | (intro t a ht; try dsimp only) | (intro t ht; try dsimp only)

theorem kept_putDac (c : Nat) (d : Nat) (gain : Int) (off : Int) (hm : [.pins] ⊆ m) (h : Kept m s0 s) : Kept m
    s0 (putDac c d gain off s) := by
  unfold putDac
  try dsimp only
  repeat' first
    | with_reducible assumption | with_reducible exact List.Subset.trans (by decide) hm
    | with_reducible apply kept_modPin | exact fun z => z | split | with_reducible apply kept_foldl
    | (intro t a ht; try dsimp only) | (intro t ht; try dsimp only)

theorem kept_applyStepResult (full : Bool) (live : Bool) (st : Nat) (u : Nat) (vals : List Int) (hm : [.dram,
    .octets, .pins, .dds, .cal, .free] ⊆ m) (h : Kept m s0 s) : Kept m s0 (applyStepResult full live st u vals
    s) := by
  unfold applyStepResult
  try dsimp only
  repeat' first
    | with_reducible assumption | with_reducible exact List.Subset.trans (by decide) hm
    | with_reducible apply kept_modCal | with_reducible apply kept_putDac
    | with_reducible apply kept_driveResult | with_reducible apply kept_compareResult
    | with_reducible apply kept_modOctet | with_reducible apply kept_applyDrift
    | with_reducible apply kept_restartRefresh | with_reducible refine kept_modDram _ ?_ rfl ?_
    | with_reducible apply kept_modGen | with_reducible apply kept_halfOf | with_reducible apply kept_modPin
    | exact fun z => z | with_reducible apply keptO_getD | split | with_reducible apply kept_foldl
    | (intro t a ht; try dsimp only) | (intro t ht; try dsimp only)

theorem kept_execAgeingReading (o : OctetId) (bp : Nat) (hm : [.sys, .hqm, .octets, .perf, .out] ⊆ m) (h : Kept
    m s0 s) : KeptR m s0 (execAgeingReading o bp s) := by
  unfold execAgeingReading
  try dsimp only
  repeat' first
    | with_reducible assumption | with_reducible exact List.Subset.trans (by decide) hm
    | with_reducible apply kept_modOctet | with_reducible apply kept_setCeiling
    | with_reducible apply keptR_next | exact fun z => z | split | with_reducible apply kept_foldl
    | (intro t a ht; try dsimp only) | (intro t ht; try dsimp only)

theorem kept_setLoop (c : Nat) (v : Nat) (hm : [.octets, .pins, .out] ⊆ m) (h : Kept m s0 s) : Kept m s0
    (setLoop c v s) := by
  unfold setLoop
  try dsimp only
  repeat' first
    | with_reducible assumption | with_reducible exact List.Subset.trans (by decide) hm
    | with_reducible apply kept_endFar | with_reducible apply kept_movePin | exact fun z => z | split
    | with_reducible apply kept_foldl | (intro t a ht; try dsimp only) | (intro t ht; try dsimp only)

theorem kept_enterCalibrate (cmd : Option Nat) (hm : [.sys, .hqm, .octets, .pins, .cal, .perf, .out, .devState]
    ⊆ m) (h : Kept m s0 s) : Kept m s0 (enterCalibrate cmd s) := by
  unfold enterCalibrate
  try dsimp only
  repeat' first
    | with_reducible assumption | with_reducible exact List.Subset.trans (by decide) hm
    | with_reducible apply kept_openWindow | with_reducible apply kept_setLoop
    | with_reducible apply kept_enterState | with_reducible apply kept_modCal | exact fun z => z | split
    | with_reducible apply kept_foldl | (intro t a ht; try dsimp only) | (intro t ht; try dsimp only)

theorem kept_restoreLoops (hm : [.octets, .pins, .cal, .out] ⊆ m) (h : Kept m s0 s) : Kept m s0 (restoreLoops s)
    := by
  unfold restoreLoops
  try dsimp only
  repeat' first
    | with_reducible assumption | with_reducible exact List.Subset.trans (by decide) hm
    | with_reducible apply kept_modCal | with_reducible apply kept_setLoop | exact fun z => z | split
    | with_reducible apply kept_foldl | (intro t a ht; try dsimp only) | (intro t ht; try dsimp only)

theorem kept_calIdle (hm : [.cal] ⊆ m) (h : Kept m s0 s) : Kept m s0 (calIdle s) := by
  unfold calIdle
  try dsimp only
  repeat' first
    | with_reducible assumption | with_reducible exact List.Subset.trans (by decide) hm
    | with_reducible apply kept_modCal | exact fun z => z | split | with_reducible apply kept_foldl
    | (intro t a ht; try dsimp only) | (intro t ht; try dsimp only)

theorem kept_clearBaselines (hm : [.octets] ⊆ m) (h : Kept m s0 s) : Kept m s0 (clearBaselines s) := by
  unfold clearBaselines
  try dsimp only
  repeat' first
    | with_reducible assumption | with_reducible exact List.Subset.trans (by decide) hm
    | with_reducible apply kept_modOctet | exact fun z => z | split | with_reducible apply kept_foldl
    | (intro t a ht; try dsimp only) | (intro t ht; try dsimp only)

theorem kept_calReady (hm : [.sys, .hqm, .octets, .cal, .perf, .out, .devState] ⊆ m) (h : Kept m s0 s) : Kept m
    s0 (calReady s) := by
  unfold calReady
  try dsimp only
  repeat' first
    | with_reducible assumption | with_reducible exact List.Subset.trans (by decide) hm
    | with_reducible apply kept_clearBaselines | with_reducible apply kept_setCeiling
    | with_reducible apply kept_modOctet | with_reducible apply kept_calIdle
    | with_reducible apply kept_completeOpt | with_reducible apply kept_enterState | exact fun z => z | split
    | with_reducible apply kept_foldl | (intro t a ht; try dsimp only) | (intro t ht; try dsimp only)

theorem kept_calBringUp (st : Nat) (u : Nat) (pre : Nat) (hm : [.sys, .hqm, .dram, .octets, .pins, .cal, .perf,
    .out, .devState] ⊆ m) (h : Kept m s0 s) : Kept m s0 (calBringUp st u pre s) := by
  unfold calBringUp
  try dsimp only
  repeat' first
    | with_reducible assumption | with_reducible exact List.Subset.trans (by decide) hm
    | with_reducible apply kept_restoreLoops | with_reducible apply kept_restartRefresh
    | with_reducible refine kept_modDram _ ?_ rfl ?_ | with_reducible apply kept_clearBaselines
    | with_reducible apply kept_setCeiling | with_reducible apply kept_calIdle
    | with_reducible apply kept_completeOpt | with_reducible apply kept_enterState | exact fun z => z | split
    | with_reducible apply kept_foldl | (intro t a ht; try dsimp only) | (intro t ht; try dsimp only)

theorem kept_calProgress (e : Nat × Nat) (hm : [.sys, .hqm, .octets, .pins, .cal, .perf, .out, .devState] ⊆ m)
    (h : Kept m s0 s) : Kept m s0 (calProgress e s) := by
  unfold calProgress
  try dsimp only
  repeat' first
    | with_reducible assumption | with_reducible exact List.Subset.trans (by decide) hm
    | with_reducible apply kept_modCal | with_reducible apply kept_restoreLoops
    | with_reducible apply kept_calReady | exact fun z => z | split | with_reducible apply kept_foldl
    | (intro t a ht; try dsimp only) | (intro t ht; try dsimp only)

theorem kept_calFailed (e : Nat × Nat) (u : Nat) (pre : Nat) (hm : [.sys, .hqm, .dram, .octets, .pins, .cal,
    .perf, .out, .devState] ⊆ m) (h : Kept m s0 s) : Kept m s0 (calFailed e u pre s) := by
  unfold calFailed
  try dsimp only
  repeat' first
    | with_reducible assumption | with_reducible exact List.Subset.trans (by decide) hm
    | with_reducible apply kept_recordFail | with_reducible apply kept_calProgress
    | with_reducible apply kept_calBringUp | exact fun z => z | split | with_reducible apply kept_foldl
    | (intro t a ht; try dsimp only) | (intro t ht; try dsimp only)

theorem kept_calRefuse (u : Nat) (pre : Nat) (hm : [.cal] ⊆ m) (h : Kept m s0 s) : Kept m s0 (calRefuse u pre s)
    := by
  unfold calRefuse
  try dsimp only
  repeat' first
    | with_reducible assumption | with_reducible exact List.Subset.trans (by decide) hm
    | with_reducible apply kept_modCal | exact fun z => z | split | with_reducible apply kept_foldl
    | (intro t a ht; try dsimp only) | (intro t ht; try dsimp only)

theorem kept_calTurn (a0 : Nat) (hm : [.sys, .hqm, .pins, .cal, .perf, .out] ⊆ m) : ∀ {s : State}, Kept m s0 s →
    Kept m s0 (calTurn a0 s) := by
  induction a0 with
  | zero => intro s h; exact h
  | succ f ih =>
    intro s h
    unfold calTurn
    try dsimp only
    repeat' first
      | with_reducible assumption | with_reducible apply ih | with_reducible exact List.Subset.trans (by decide) hm
      | with_reducible apply kept_calIdle | with_reducible apply kept_completeOpt
      | with_reducible apply kept_openWindow | with_reducible apply kept_modCal
      | with_reducible apply kept_calRefuse | with_reducible apply kept_recordFail | exact fun z => z | split
      | with_reducible apply kept_foldl | (intro t a ht; try dsimp only) | (intro t ht; try dsimp only)

theorem kept_pauseVisits (todo : List (Nat × Nat)) (hm : [.cal] ⊆ m) (h : Kept m s0 s) : Kept m s0 (pauseVisits
    todo s) := by
  unfold pauseVisits
  try dsimp only
  repeat' first
    | with_reducible assumption | with_reducible exact List.Subset.trans (by decide) hm
    | with_reducible apply kept_modCal | exact fun z => z | split | with_reducible apply kept_foldl
    | (intro t a ht; try dsimp only) | (intro t ht; try dsimp only)

theorem kept_startRun (k : Nat) (hm : [.sys, .hqm, .octets, .pins, .cal, .perf, .out, .devState] ⊆ m) (h : Kept
    m s0 s) : Kept m s0 (startRun k s) := by
  unfold startRun
  try dsimp only
  repeat' first
    | with_reducible assumption | with_reducible exact List.Subset.trans (by decide) hm
    | with_reducible apply kept_complete | with_reducible apply kept_enterCalibrate
    | with_reducible apply kept_calTurn | with_reducible apply kept_modCal
    | with_reducible apply kept_pauseVisits | exact fun z => z | split | with_reducible apply kept_foldl
    | (intro t a ht; try dsimp only) | (intro t ht; try dsimp only)

theorem kept_calNext (a0 : Nat) (hm : [.sys, .hqm, .octets, .pins, .cal, .perf, .out, .devState] ⊆ m) : ∀ {s : State},
    Kept m s0 s → Kept m s0 (calNext a0 s) := by
  induction a0 with
  | zero => intro s h; exact h
  | succ f ih =>
    intro s h
    unfold calNext
    try dsimp only
    repeat' first
      | with_reducible assumption | with_reducible apply ih | with_reducible exact List.Subset.trans (by decide) hm
      | with_reducible apply kept_startRun | with_reducible apply kept_modCal | exact fun z => z | split
      | with_reducible apply kept_foldl | (intro t a ht; try dsimp only) | (intro t ht; try dsimp only)

theorem kept_execCalRun (k : CmdSlot) (hm : [.sys, .hqm, .octets, .pins, .cal, .perf, .out, .devState] ⊆ m) (h :
    Kept m s0 s) : KeptR m s0 (execCalRun k s) := by
  unfold execCalRun
  try dsimp only
  repeat' first
    | with_reducible assumption | with_reducible exact List.Subset.trans (by decide) hm
    | with_reducible apply keptR_onCmd | with_reducible apply kept_complete | with_reducible apply kept_begin_
    | with_reducible apply kept_modCal | with_reducible apply kept_calNext | with_reducible apply keptR_next
    | exact fun z => z | split | with_reducible apply kept_foldl | (intro t a ht; try dsimp only)
    | (intro t ht; try dsimp only)

theorem kept_execCalVisit (q : Fin 4) (hm : [.pins, .cal] ⊆ m) (h : Kept m s0 s) : KeptR m s0 (execCalVisit q s)
    := by
  unfold execCalVisit
  try dsimp only
  repeat' first
    | with_reducible assumption | with_reducible exact List.Subset.trans (by decide) hm
    | with_reducible apply kept_modPin | with_reducible apply kept_modCal
    | with_reducible apply kept_openWindow | with_reducible apply keptR_next | exact fun z => z | split
    | with_reducible apply kept_foldl | (intro t a ht; try dsimp only) | (intro t ht; try dsimp only)

theorem kept_visitEnd (r : StepIn) (hm : [.sys, .hqm, .dram, .octets, .pins, .dds, .cal, .perf, .out, .free] ⊆
    m) (h : Kept m s0 s) : Kept m s0 (visitEnd r s) := by
  unfold visitEnd
  try dsimp only
  repeat' first
    | with_reducible assumption | with_reducible exact List.Subset.trans (by decide) hm
    | with_reducible apply kept_stepEvent | with_reducible apply kept_modCal
    | with_reducible apply kept_recordFail | with_reducible apply kept_applyStepResult | exact fun z => z
    | split | with_reducible apply kept_foldl | (intro t a ht; try dsimp only) | (intro t ht; try dsimp only)

theorem kept_execCalStepEnd (r : StepIn) (hm : [.sys, .hqm, .dram, .octets, .pins, .dds, .cal, .perf, .out,
    .free, .devState] ⊆ m) (h : Kept m s0 s) : KeptR m s0 (execCalStepEnd r s) := by
  unfold execCalStepEnd
  try dsimp only
  repeat' first
    | with_reducible assumption | with_reducible exact List.Subset.trans (by decide) hm
    | with_reducible apply kept_stepEvent | with_reducible apply kept_calFailed
    | with_reducible apply kept_calProgress | with_reducible apply kept_openWindow
    | with_reducible apply kept_applyStepResult | with_reducible apply kept_calNext
    | with_reducible apply kept_calRefuse | with_reducible apply kept_recordFail
    | with_reducible apply kept_modCal | with_reducible apply kept_calTurn | with_reducible apply kept_visitEnd
    | with_reducible apply keptR_next | exact fun z => z | split | with_reducible apply kept_foldl
    | (intro t a ht; try dsimp only) | (intro t ht; try dsimp only)

theorem kept_execOctetDriftEval (o : OctetId) (t : Grain) (readings : List Int) (hm : [.sys, .hqm, .octets,
    .pins, .time, .cal, .perf, .out] ⊆ m) (h : Kept m s0 s) : KeptR m s0 (execOctetDriftEval o t readings s) :=
    by
  unfold execOctetDriftEval
  try dsimp only
  repeat' first
    | with_reducible assumption | with_reducible exact List.Subset.trans (by decide) hm
    | with_reducible apply kept_atGrain | with_reducible apply kept_stepEvent
    | with_reducible apply kept_recordFail | with_reducible apply kept_applyDrift
    | with_reducible apply keptR_next | exact fun z => z | split | with_reducible apply kept_foldl
    | (intro t a ht; try dsimp only) | (intro t ht; try dsimp only)

theorem kept_execConvCheckPeriodic (spread : Nat) (mean : Int) (hm : [.sys, .hqm, .pins, .cal, .perf, .out] ⊆ m)
    (h : Kept m s0 s) : KeptR m s0 (execConvCheckPeriodic spread mean s) := by
  unfold execConvCheckPeriodic
  try dsimp only
  repeat' first
    | with_reducible assumption | with_reducible exact List.Subset.trans (by decide) hm
    | with_reducible apply kept_stepEvent | with_reducible apply kept_recordFail
    | with_reducible apply kept_modCal | with_reducible apply keptR_next | exact fun z => z | split
    | with_reducible apply kept_foldl | (intro t a ht; try dsimp only) | (intro t ht; try dsimp only)

theorem kept_calRevoke (eng : Nat) (hm : [.sys, .hqm, .dram, .octets, .pins, .cal, .perf, .out, .devState] ⊆ m)
    (h : Kept m s0 s) : Kept m s0 (calRevoke eng s) := by
  unfold calRevoke
  try dsimp only
  repeat' first
    | with_reducible assumption | with_reducible exact List.Subset.trans (by decide) hm
    | with_reducible apply kept_modCal | with_reducible apply kept_calFailed
    | with_reducible apply kept_calNext | with_reducible apply kept_calRefuse
    | with_reducible apply kept_recordFail | with_reducible apply kept_calTurn | exact fun z => z | split
    | with_reducible apply kept_foldl | (intro t a ht; try dsimp only) | (intro t ht; try dsimp only)

theorem kept_commitAll (map : ℕ) (hm : [.pins] ⊆ m) (h : Kept m s0 s) : Kept m s0 (commitAll map s).1 := by
  unfold commitAll
  apply kept_foldl_fst
  · intro t a ht
    dsimp only
    repeat' first
      | with_reducible assumption | with_reducible apply kept_modPin | split
  · exact h

theorem kept_execCalCommit (k : CmdSlot) (hm : [.hqm, .pins] ⊆ m) (h : Kept m s0 s) : KeptR m s0 (execCalCommit
    k s) := by
  unfold execCalCommit
  try dsimp only
  repeat' first
    | with_reducible assumption | with_reducible exact List.Subset.trans (by decide) hm
    | with_reducible apply keptR_onCmd | with_reducible apply kept_commitAll
    | with_reducible apply kept_complete | with_reducible apply keptR_next | exact fun z => z | split
    | with_reducible apply kept_foldl | (intro t a ht; try dsimp only) | (intro t ht; try dsimp only)

end Sys2Proof.Machine
end

