-- ==== Sys2Proof/Laws/KeptMonitor.lean ====
section
/-!
SUPPORT. What the operations of Machine/Monitor.lean keep.
-/

namespace Sys2Proof.Machine

set_option linter.unusedTactic false
set_option linter.unreachableTactic false
set_option linter.unusedVariables false

variable {m : List Part} {s0 s : State}

theorem kept_execCalAdcGo (v : Wr) (hm : [.cal] ⊆ m) (h : Kept m s0 s) : KeptR m s0 (execCalAdcGo v s) := by
  unfold execCalAdcGo
  try dsimp only
  repeat' first
    | with_reducible assumption | with_reducible exact List.Subset.trans (by decide) hm
    | with_reducible apply keptR_onBlock | with_reducible apply kept_modCal | with_reducible apply keptR_next
    | exact fun z => z | split | with_reducible apply kept_foldl | (intro t a ht; try dsimp only)
    | (intro t ht; try dsimp only)

theorem kept_execCalAdcDone (codes : List (BitVec 12)) (hm : [.cal] ⊆ m) (h : Kept m s0 s) : KeptR m s0
    (execCalAdcDone codes s) := by
  unfold execCalAdcDone
  try dsimp only
  repeat' first
    | with_reducible assumption | with_reducible exact List.Subset.trans (by decide) hm
    | with_reducible apply kept_modCal | with_reducible apply keptR_next | exact fun z => z | split
    | with_reducible apply kept_foldl | (intro t a ht; try dsimp only) | (intro t ht; try dsimp only)

theorem kept_modMon (i : Nat) (f : Mon → Mon) (hm : [.cal] ⊆ m) (h : Kept m s0 s) : Kept m s0 (modMon i f s) :=
    by
  unfold modMon
  try dsimp only
  repeat' first
    | with_reducible assumption | with_reducible exact List.Subset.trans (by decide) hm
    | with_reducible apply kept_modCal | exact fun z => z | split | with_reducible apply kept_foldl
    | (intro t a ht; try dsimp only) | (intro t ht; try dsimp only)

theorem kept_execMonSample (i : MonId) (uv : Int) (hm : [.sys, .hqm, .sites, .cal, .perf, .out] ⊆ m) (h : Kept m
    s0 s) : KeptR m s0 (execMonSample i uv s) := by
  unfold execMonSample
  try dsimp only
  repeat' first
    | with_reducible assumption | with_reducible exact List.Subset.trans (by decide) hm
    | with_reducible apply kept_modMon | with_reducible apply kept_raiseIrq
    | with_reducible apply kept_stopSites | with_reducible apply keptR_next | exact fun z => z | split
    | with_reducible apply kept_foldl | (intro t a ht; try dsimp only) | (intro t ht; try dsimp only)

theorem kept_execCalMonCfgWrite (i : MonId) (v : W32) (hm : [.cal] ⊆ m) (h : Kept m s0 s) : KeptR m s0
    (execCalMonCfgWrite i v s) := by
  unfold execCalMonCfgWrite
  try dsimp only
  repeat' first
    | with_reducible assumption | with_reducible exact List.Subset.trans (by decide) hm
    | with_reducible apply keptR_onBlock | with_reducible apply kept_modMon | with_reducible apply keptR_next
    | exact fun z => z | split | with_reducible apply kept_foldl | (intro t a ht; try dsimp only)
    | (intro t ht; try dsimp only)

theorem kept_stopGens (hm : [.dds] ⊆ m) (h : Kept m s0 s) : Kept m s0 (stopGens s) := by
  unfold stopGens
  try dsimp only
  repeat' first
    | with_reducible assumption | with_reducible exact List.Subset.trans (by decide) hm
    | with_reducible apply kept_modGen | exact fun z => z | split | with_reducible apply kept_foldl
    | (intro t a ht; try dsimp only) | (intro t ht; try dsimp only)

theorem kept_tripNow (hm : [.sites, .dds, .cal] ⊆ m) (h : Kept m s0 s) : Kept m s0 (tripNow s) := by
  unfold tripNow
  try dsimp only
  repeat' first
    | with_reducible assumption | with_reducible exact List.Subset.trans (by decide) hm
    | with_reducible apply kept_stopGens | with_reducible apply kept_stopSites
    | with_reducible apply kept_modCal | exact fun z => z | split | with_reducible apply kept_foldl
    | (intro t a ht; try dsimp only) | (intro t ht; try dsimp only)

theorem kept_noteTemps (hm : [.pins] ⊆ m) (h : Kept m s0 s) : Kept m s0 (noteTemps s) := by
  unfold noteTemps
  try dsimp only
  repeat' first
    | with_reducible assumption | with_reducible exact List.Subset.trans (by decide) hm
    | with_reducible apply kept_mapPins | exact fun z => z | split | with_reducible apply kept_foldl
    | (intro t a ht; try dsimp only) | (intro t ht; try dsimp only)

theorem kept_execThermSample (temps : List (BitVec 12)) (hm : [.sys, .hqm, .sites, .pins, .dds, .cal, .perf,
    .out] ⊆ m) (h : Kept m s0 s) : KeptR m s0 (execThermSample temps s) := by
  unfold execThermSample
  try dsimp only
  repeat' first
    | with_reducible assumption | with_reducible exact List.Subset.trans (by decide) hm
    | with_reducible apply kept_noteTemps | with_reducible apply kept_modCal
    | with_reducible apply kept_raiseIrq | with_reducible apply kept_tripNow | with_reducible apply keptR_next
    | exact fun z => z | split | with_reducible apply kept_foldl | (intro t a ht; try dsimp only)
    | (intro t ht; try dsimp only)

end Sys2Proof.Machine
end

