-- ==== Sys2Proof/Laws/KeptPerf.lean ====
section
/-!
SUPPORT. What the operations of Machine/Perf.lean keep.
-/

namespace Sys2Proof.Machine

set_option linter.unusedTactic false
set_option linter.unreachableTactic false
set_option linter.unusedVariables false

variable {m : List Part} {s0 s : State}

theorem kept_modCnt (n : Nat) (f : Cnt → Cnt) (hm : [.perf] ⊆ m) (h : Kept m s0 s) : Kept m s0 (modCnt n f s) :=
    by
  unfold modCnt
  try dsimp only
  repeat' first
    | with_reducible assumption | with_reducible exact List.Subset.trans (by decide) hm
    | with_reducible apply kept_modPerf | exact fun z => z | split | with_reducible apply kept_foldl
    | (intro t a ht; try dsimp only) | (intro t ht; try dsimp only)

theorem kept_execPerfCntRead (n : CntId) (hm : [.perf] ⊆ m) (h : Kept m s0 s) : KeptR m s0 (execPerfCntRead n s)
    := by
  unfold execPerfCntRead
  try dsimp only
  repeat' first
    | with_reducible assumption | with_reducible exact List.Subset.trans (by decide) hm
    | with_reducible apply keptR_onBlock | with_reducible apply kept_modCnt | with_reducible apply keptR_next
    | exact fun z => z | split | with_reducible apply kept_foldl | (intro t a ht; try dsimp only)
    | (intro t ht; try dsimp only)

theorem kept_execPerfSelWrite (n : CntId) (v : W32) (hm : [.perf] ⊆ m) (h : Kept m s0 s) : KeptR m s0
    (execPerfSelWrite n v s) := by
  unfold execPerfSelWrite
  try dsimp only
  repeat' first
    | with_reducible assumption | with_reducible exact List.Subset.trans (by decide) hm
    | with_reducible apply keptR_onBlock | with_reducible apply kept_modCnt | with_reducible apply keptR_next
    | exact fun z => z | split | with_reducible apply kept_foldl | (intro t a ht; try dsimp only)
    | (intro t ht; try dsimp only)

theorem kept_execPerfFreeze (v : W32) (hm : [.perf] ⊆ m) (h : Kept m s0 s) : KeptR m s0 (execPerfFreeze v s) :=
    by
  unfold execPerfFreeze
  try dsimp only
  repeat' first
    | with_reducible assumption | with_reducible exact List.Subset.trans (by decide) hm
    | with_reducible apply keptR_onBlock | with_reducible apply kept_modPerf | with_reducible apply keptR_next
    | exact fun z => z | split | with_reducible apply kept_foldl | (intro t a ht; try dsimp only)
    | (intro t ht; try dsimp only)

theorem kept_execPerfCounterOverflow (n : CntId) (occ : Nat) (hm : [.sys, .hqm, .perf, .out] ⊆ m) (h : Kept m s0
    s) : KeptR m s0 (execPerfCounterOverflow n occ s) := by
  unfold execPerfCounterOverflow
  try dsimp only
  repeat' first
    | with_reducible assumption | with_reducible exact List.Subset.trans (by decide) hm
    | with_reducible apply kept_modPerf | with_reducible apply kept_raiseIrq | with_reducible apply keptR_next
    | exact fun z => z | split | with_reducible apply kept_foldl | (intro t a ht; try dsimp only)
    | (intro t ht; try dsimp only)

theorem kept_execSnapshotRequest (v : W32) (hm : [.perf] ⊆ m) (h : Kept m s0 s) : KeptR m s0
    (execSnapshotRequest v s) := by
  unfold execSnapshotRequest
  try dsimp only
  repeat' first
    | with_reducible assumption | with_reducible exact List.Subset.trans (by decide) hm
    | with_reducible apply keptR_onBlock | with_reducible apply kept_modPerf | with_reducible apply keptR_next
    | exact fun z => z | split | with_reducible apply kept_foldl | (intro t a ht; try dsimp only)
    | (intro t ht; try dsimp only)

theorem kept_execPerfSnapshot (hm : [.perf] ⊆ m) (h : Kept m s0 s) : KeptR m s0 (execPerfSnapshot s) := by
  unfold execPerfSnapshot
  try dsimp only
  repeat' first
    | with_reducible assumption | with_reducible exact List.Subset.trans (by decide) hm
    | with_reducible apply kept_modPerf | with_reducible apply keptR_next | exact fun z => z | split
    | with_reducible apply kept_foldl | (intro t a ht; try dsimp only) | (intro t ht; try dsimp only)

theorem kept_execPerfPsCfgWrite (w : Wr) (hm : [.perf] ⊆ m) (h : Kept m s0 s) : KeptR m s0 (execPerfPsCfgWrite w
    s) := by
  unfold execPerfPsCfgWrite
  try dsimp only
  repeat' first
    | with_reducible assumption | with_reducible exact List.Subset.trans (by decide) hm
    | with_reducible apply keptR_onBlock | with_reducible apply kept_modPerf | with_reducible apply keptR_next
    | exact fun z => z | split | with_reducible apply kept_foldl | (intro t a ht; try dsimp only)
    | (intro t ht; try dsimp only)

theorem kept_execPreciseSampleEntry (r : PsEnd) (hm : [.time, .perf] ⊆ m) (h : Kept m s0 s) : KeptR m s0
    (execPreciseSampleEntry r s) := by
  unfold execPreciseSampleEntry
  try dsimp only
  repeat' first
    | with_reducible assumption | with_reducible exact List.Subset.trans (by decide) hm
    | with_reducible apply kept_atGrain | with_reducible apply kept_modPerf | with_reducible apply keptR_next
    | exact fun z => z | split | with_reducible apply kept_foldl | (intro t a ht; try dsimp only)
    | (intro t ht; try dsimp only)

end Sys2Proof.Machine
end

