-- ==== Sys2Proof/Laws/KeptRegWrite.lean ====
section
/-!
SUPPORT. What the operations of Machine/RegWrite.lean keep.
-/

namespace Sys2Proof.Machine

set_option linter.unusedTactic false
set_option linter.unreachableTactic false
set_option linter.unusedVariables false

variable {m : List Part} {s0 s : State}

theorem kept_after (r : Res) (h : Kept m s0 s) (hr : KeptR m s0 r) : Kept m s0 (after s r) := by
  unfold after
  split
  · exact hr
  · exact h

theorem kept_ite (c : Prop) [Decidable c] {a b : State} (ha : Kept m s0 a) (hb : Kept m s0 b) :
    Kept m s0 (if c then a else b) := by
  split
  · exact ha
  · exact hb

theorem kept_requestPower (req : BitVec 2) (hm : [.sys] ⊆ m) (h : Kept m s0 s) : Kept m s0 (requestPower req s)
    := by
  unfold requestPower
  try dsimp only
  repeat' first
    | with_reducible assumption | with_reducible exact List.Subset.trans (by decide) hm
    | with_reducible refine kept_modSys _ ?_ rfl ?_ | exact fun z => z | split
    | with_reducible apply kept_foldl | (intro t a ht; try dsimp only) | (intro t ht; try dsimp only)

theorem kept_requestDisable (o : Nat) (hm : [.sys] ⊆ m) (h : Kept m s0 s) : Kept m s0 (requestDisable o s) := by
  unfold requestDisable
  try dsimp only
  repeat' first
    | with_reducible assumption | with_reducible exact List.Subset.trans (by decide) hm
    | with_reducible refine kept_modSys _ ?_ rfl ?_ | exact fun z => z | split
    | with_reducible apply kept_foldl | (intro t a ht; try dsimp only) | (intro t ht; try dsimp only)

theorem kept_reparkOctet (o : Nat) (hm : [.octets, .pins, .out] ⊆ m) (h : Kept m s0 s) : Kept m s0 (reparkOctet
    o s) := by
  unfold reparkOctet
  try dsimp only
  repeat' first
    | with_reducible assumption | with_reducible exact List.Subset.trans (by decide) hm
    | with_reducible apply kept_parkPin | exact fun z => z | split | with_reducible apply kept_foldl
    | (intro t a ht; try dsimp only) | (intro t ht; try dsimp only)

theorem kept_clearDisable (o : Nat) (hm : [.sys, .octets, .pins, .out] ⊆ m) (h : Kept m s0 s) : Kept m s0
    (clearDisable o s) := by
  unfold clearDisable
  try dsimp only
  repeat' first
    | with_reducible assumption | with_reducible exact List.Subset.trans (by decide) hm
    | with_reducible refine kept_modSys _ ?_ rfl ?_ | with_reducible apply kept_reparkOctet
    | with_reducible apply kept_modOctet | exact fun z => z | split | with_reducible apply kept_foldl
    | (intro t a ht; try dsimp only) | (intro t ht; try dsimp only)

theorem kept_writeOctetDis (v : Nat) (hm : [.sys, .octets, .pins, .out] ⊆ m) (h : Kept m s0 s) : Kept m s0
    (writeOctetDis v s) := by
  unfold writeOctetDis
  try dsimp only
  repeat' first
    | with_reducible assumption | with_reducible exact List.Subset.trans (by decide) hm
    | with_reducible apply kept_requestDisable | with_reducible apply kept_clearDisable | exact fun z => z
    | split | with_reducible apply kept_foldl | (intro t a ht; try dsimp only) | (intro t ht; try dsimp only)

theorem kept_execStandbyRequest (hm : [.sys] ⊆ m) (h : Kept m s0 s) : KeptR m s0 (execStandbyRequest s) := by
  unfold execStandbyRequest
  try dsimp only
  repeat' first
    | with_reducible assumption | with_reducible exact List.Subset.trans (by decide) hm
    | with_reducible apply keptR_onBlock | with_reducible apply kept_requestPower
    | with_reducible apply keptR_next | exact fun z => z | split | with_reducible apply kept_foldl
    | (intro t a ht; try dsimp only) | (intro t ht; try dsimp only)

theorem kept_execDeepStandbyRequest (hm : [.sys] ⊆ m) (h : Kept m s0 s) : KeptR m s0 (execDeepStandbyRequest s)
    := by
  unfold execDeepStandbyRequest
  try dsimp only
  repeat' first
    | with_reducible assumption | with_reducible exact List.Subset.trans (by decide) hm
    | with_reducible apply keptR_onBlock | with_reducible apply kept_requestPower
    | with_reducible apply keptR_next | exact fun z => z | split | with_reducible apply kept_foldl
    | (intro t a ht; try dsimp only) | (intro t ht; try dsimp only)

theorem kept_execWakeRequest (hm : [.sys] ⊆ m) (h : Kept m s0 s) : KeptR m s0 (execWakeRequest s) := by
  unfold execWakeRequest
  try dsimp only
  repeat' first
    | with_reducible assumption | with_reducible exact List.Subset.trans (by decide) hm
    | with_reducible apply keptR_onBlock | with_reducible apply kept_requestPower
    | with_reducible apply keptR_next | exact fun z => z | split | with_reducible apply kept_foldl
    | (intro t a ht; try dsimp only) | (intro t ht; try dsimp only)

theorem kept_requestReset (key : Nat) (hm : [.sys] ⊆ m) (h : Kept m s0 s) : Kept m s0 (requestReset key s) := by
  unfold requestReset
  try dsimp only
  repeat' first
    | with_reducible assumption | with_reducible exact List.Subset.trans (by decide) hm
    | with_reducible refine kept_modSys _ ?_ rfl ?_ | exact fun z => z | split
    | with_reducible apply kept_foldl | (intro t a ht; try dsimp only) | (intro t ht; try dsimp only)

theorem kept_execSoftResetRequest (key : BitVec 8) (hm : [.sys] ⊆ m) (h : Kept m s0 s) : KeptR m s0
    (execSoftResetRequest key s) := by
  unfold execSoftResetRequest
  try dsimp only
  repeat' first
    | with_reducible assumption | with_reducible exact List.Subset.trans (by decide) hm
    | with_reducible apply keptR_onBlock | with_reducible apply kept_requestReset
    | with_reducible apply keptR_next | exact fun z => z | split | with_reducible apply kept_foldl
    | (intro t a ht; try dsimp only) | (intro t ht; try dsimp only)

theorem kept_execOctetDisableRequest (o : OctetId) (hm : [.sys] ⊆ m) (h : Kept m s0 s) : KeptR m s0
    (execOctetDisableRequest o s) := by
  unfold execOctetDisableRequest
  try dsimp only
  repeat' first
    | with_reducible assumption | with_reducible exact List.Subset.trans (by decide) hm
    | with_reducible apply keptR_onBlock | with_reducible apply kept_requestDisable
    | with_reducible apply keptR_next | exact fun z => z | split | with_reducible apply kept_foldl
    | (intro t a ht; try dsimp only) | (intro t ht; try dsimp only)

theorem kept_execOctetEnable (o : OctetId) (hm : [.sys, .octets, .pins, .out] ⊆ m) (h : Kept m s0 s) : KeptR m
    s0 (execOctetEnable o s) := by
  unfold execOctetEnable
  try dsimp only
  repeat' first
    | with_reducible assumption | with_reducible exact List.Subset.trans (by decide) hm
    | with_reducible apply keptR_onBlock | with_reducible apply kept_clearDisable
    | with_reducible apply keptR_next | exact fun z => z | split | with_reducible apply kept_foldl
    | (intro t a ht; try dsimp only) | (intro t ht; try dsimp only)

theorem kept_writeIrqEnable (v : Nat) (hm : [.sys, .hqm, .perf, .out] ⊆ m) (h : Kept m s0 s) : Kept m s0
    (writeIrqEnable v s) := by
  unfold writeIrqEnable
  try dsimp only
  repeat' first
    | with_reducible assumption | with_reducible exact List.Subset.trans (by decide) hm
    | with_reducible apply kept_sendMsix | with_reducible refine kept_modSys _ ?_ rfl ?_ | exact fun z => z
    | split | with_reducible apply kept_foldl | (intro t a ht; try dsimp only) | (intro t ht; try dsimp only)

theorem kept_writeSys (o : Nat) (w : Wr) (hm : [.sys, .hqm, .octets, .pins, .perf, .out] ⊆ m) (h : Kept m s0 s)
    : Kept m s0 (writeSys o w s) := by
  unfold writeSys
  try dsimp only
  repeat' first
    | with_reducible assumption | with_reducible exact List.Subset.trans (by decide) hm
    | with_reducible refine kept_modSys _ ?_ rfl ?_ | with_reducible apply kept_requestPower
    | with_reducible apply kept_requestReset | with_reducible apply kept_writeOctetDis
    | with_reducible apply kept_writeIrqEnable | exact fun z => z | split | with_reducible apply kept_foldl
    | (intro t a ht; try dsimp only) | (intro t ht; try dsimp only)

theorem kept_writeHqm (o : Nat) (w : Wr) (hm : [.hqm] ⊆ m) (h : Kept m s0 s) : Kept m s0 (writeHqm o w s) := by
  unfold writeHqm
  try dsimp only
  repeat' first
    | with_reducible assumption | with_reducible exact List.Subset.trans (by decide) hm
    | with_reducible apply kept_execHqmCtrlWrite | with_reducible refine kept_modHqm _ ?_ rfl ?_
    | with_reducible apply kept_writeSpill | exact fun z => z | with_reducible apply kept_after | split
    | with_reducible apply kept_foldl | (intro t a ht; try dsimp only) | (intro t ht; try dsimp only)

theorem kept_writeMsix (v : Nat) (r : Nat) (w : Wr) (hm : [.sys, .hqm, .perf, .out] ⊆ m) (h : Kept m s0 s) :
    Kept m s0 (writeMsix v r w s) := by
  unfold writeMsix
  try dsimp only
  repeat' first
    | with_reducible assumption | with_reducible exact List.Subset.trans (by decide) hm
    | with_reducible refine kept_modHqm _ ?_ rfl ?_ | with_reducible apply kept_sendMsix | exact fun z => z
    | split | with_reducible apply kept_foldl | (intro t a ht; try dsimp only) | (intro t ht; try dsimp only)

theorem kept_writeSeq (n : Nat) (r : Nat) (w : Wr) (hm : [.sites] ⊆ m) (h : Kept m s0 s) : Kept m s0 (writeSeq n
    r w s) := by
  unfold writeSeq
  try dsimp only
  repeat' first
    | with_reducible assumption | with_reducible exact List.Subset.trans (by decide) hm
    | with_reducible apply kept_modSite | exact fun z => z | split | with_reducible apply kept_foldl
    | (intro t a ht; try dsimp only) | (intro t ht; try dsimp only)

theorem kept_writeDram (o : Nat) (w : Wr) (hm : [.dram, .dramMem] ⊆ m) (h : Kept m s0 s) : Kept m s0 (writeDram
    o w s) := by
  unfold writeDram
  try dsimp only
  repeat' first
    | with_reducible assumption | with_reducible exact List.Subset.trans (by decide) hm
    | with_reducible apply kept_execDramCtrlWrite | with_reducible apply kept_modChan | exact fun z => z
    | with_reducible apply kept_after | split | with_reducible apply kept_foldl
    | (intro t a ht; try dsimp only) | (intro t ht; try dsimp only)

theorem kept_writeTiming (o : Nat) (w : Wr) (hm : [.octets, .pins, .timing] ⊆ m) (h : Kept m s0 s) : Kept m s0
    (writeTiming o w s) := by
  unfold writeTiming
  try dsimp only
  repeat' first
    | with_reducible assumption | with_reducible exact List.Subset.trans (by decide) hm
    | with_reducible apply kept_modTiming | with_reducible apply kept_execTimingOctetCfgWrite
    | with_reducible apply kept_execTimingPinDeskewWrite | exact fun z => z | with_reducible apply kept_after
    | split | with_reducible apply kept_foldl | (intro t a ht; try dsimp only) | (intro t ht; try dsimp only)

theorem kept_writePin (c : Nat) (r : Nat) (w : Wr) (hm : [.octets, .pins, .out] ⊆ m) (h : Kept m s0 s) : Kept m
    s0 (writePin c r w s) := by
  unfold writePin
  try dsimp only
  repeat' first
    | with_reducible assumption | with_reducible exact List.Subset.trans (by decide) hm
    | with_reducible apply kept_writePinCfg | with_reducible apply kept_writePinAux
    | with_reducible apply kept_writePinCtle | with_reducible apply kept_modPin
    | with_reducible apply kept_execPinLinkWrite | exact fun z => z | with_reducible apply kept_after | split
    | with_reducible apply kept_foldl | (intro t a ht; try dsimp only) | (intro t ht; try dsimp only)

theorem kept_writeCapSite (n : Nat) (r : Nat) (w : Wr) (hm : [.cap] ⊆ m) (h : Kept m s0 s) : Kept m s0
    (writeCapSite n r w s) := by
  unfold writeCapSite
  try dsimp only
  repeat' first
    | with_reducible assumption | with_reducible exact List.Subset.trans (by decide) hm
    | with_reducible apply kept_modSiteCap | exact fun z => z | split | with_reducible apply kept_foldl
    | (intro t a ht; try dsimp only) | (intro t ht; try dsimp only)

theorem kept_writeTrig (u : Nat) (r : Nat) (w : Wr) (hm : [.cap] ⊆ m) (h : Kept m s0 s) : Kept m s0 (writeTrig u
    r w s) := by
  unfold writeTrig
  try dsimp only
  repeat' first
    | with_reducible assumption | with_reducible exact List.Subset.trans (by decide) hm
    | with_reducible apply kept_modUnit | exact fun z => z | split | with_reducible apply kept_foldl
    | (intro t a ht; try dsimp only) | (intro t ht; try dsimp only)

theorem kept_writeCapEng (xm : Nat) (r : Nat) (w : Wr) (hm : [.cap] ⊆ m) (h : Kept m s0 s) : Kept m s0
    (writeCapEng xm r w s) := by
  unfold writeCapEng
  try dsimp only
  repeat' first
    | with_reducible assumption | with_reducible exact List.Subset.trans (by decide) hm
    | with_reducible apply kept_modEng | exact fun z => z | split | with_reducible apply kept_foldl
    | (intro t a ht; try dsimp only) | (intro t ht; try dsimp only)

theorem kept_writeCap (o : Nat) (w : Wr) (hm : [.cap] ⊆ m) (h : Kept m s0 s) : Kept m s0 (writeCap o w s) := by
  unfold writeCap
  try dsimp only
  repeat' first
    | with_reducible assumption | with_reducible exact List.Subset.trans (by decide) hm
    | with_reducible apply kept_writeCapSite | with_reducible apply kept_writeCapEng
    | with_reducible apply kept_writeTrig | exact fun z => z | split | with_reducible apply kept_foldl
    | (intro t a ht; try dsimp only) | (intro t ht; try dsimp only)

theorem kept_refuseDds (hm : [.dds] ⊆ m) (h : Kept m s0 s) : Kept m s0 (refuseDds s) := by
  unfold refuseDds
  try dsimp only
  repeat' first
    | with_reducible assumption | with_reducible exact List.Subset.trans (by decide) hm
    | with_reducible apply kept_modDds | exact fun z => z | split | with_reducible apply kept_foldl
    | (intro t a ht; try dsimp only) | (intro t ht; try dsimp only)

theorem kept_writeGen (n : Nat) (r : Nat) (w : Wr) (hm : [.dds, .time] ⊆ m) (h : Kept m s0 s) : Kept m s0
    (writeGen n r w s) := by
  unfold writeGen
  try dsimp only
  repeat' first
    | with_reducible assumption | with_reducible exact List.Subset.trans (by decide) hm
    | with_reducible apply kept_refuseDds | with_reducible apply kept_modGen
    | with_reducible apply kept_execDdsJumpWrite | exact fun z => z | with_reducible apply kept_after | split
    | with_reducible apply kept_foldl | (intro t a ht; try dsimp only) | (intro t ht; try dsimp only)

theorem kept_writeDds (o : Nat) (w : Wr) (hm : [.pins, .dds, .time] ⊆ m) (h : Kept m s0 s) : Kept m s0 (writeDds
    o w s) := by
  unfold writeDds
  try dsimp only
  repeat' first
    | with_reducible assumption | with_reducible exact List.Subset.trans (by decide) hm
    | with_reducible apply kept_modDds | with_reducible apply kept_writeGen
    | with_reducible apply kept_refuseDds | with_reducible apply kept_modPin | exact fun z => z | split
    | with_reducible apply kept_foldl | (intro t a ht; try dsimp only) | (intro t ht; try dsimp only)

theorem kept_refuseTime (hm : [.time] ⊆ m) (h : Kept m s0 s) : Kept m s0 (refuseTime s) := by
  unfold refuseTime
  try dsimp only
  repeat' first
    | with_reducible assumption | with_reducible exact List.Subset.trans (by decide) hm
    | with_reducible refine kept_modTime _ ?_ rfl ?_ | exact fun z => z | split
    | with_reducible apply kept_foldl | (intro t a ht; try dsimp only) | (intro t ht; try dsimp only)

theorem kept_writeTsRing (w : Wr) (hm : [.time] ⊆ m) (h : Kept m s0 s) : Kept m s0 (writeTsRing w s) := by
  unfold writeTsRing
  try dsimp only
  repeat' first
    | with_reducible assumption | with_reducible exact List.Subset.trans (by decide) hm
    | with_reducible apply kept_refuseTime | with_reducible refine kept_modTime _ ?_ rfl ?_ | exact fun z => z
    | split | with_reducible apply kept_foldl | (intro t a ht; try dsimp only) | (intro t ht; try dsimp only)

theorem kept_writeHalsoCfg (w : Wr) (hm : [.halso, .out] ⊆ m) (h : Kept m s0 s) : Kept m s0 (writeHalsoCfg w s)
    := by
  unfold writeHalsoCfg
  try dsimp only
  repeat' first
    | with_reducible assumption | with_reducible exact List.Subset.trans (by decide) hm
    | with_reducible apply kept_modHalso | with_reducible apply kept_sendHello | exact fun z => z | split
    | with_reducible apply kept_foldl | (intro t a ht; try dsimp only) | (intro t ht; try dsimp only)

theorem kept_writeTime (o : Nat) (w : Wr) (hm : [.time, .halso, .out] ⊆ m) (h : Kept m s0 s) : Kept m s0
    (writeTime o w s) := by
  unfold writeTime
  try dsimp only
  repeat' first
    | with_reducible assumption | with_reducible exact List.Subset.trans (by decide) hm
    | with_reducible apply kept_execTimeCfgWrite | with_reducible refine kept_modTime _ ?_ rfl ?_
    | with_reducible apply kept_refuseTime | with_reducible apply kept_execTimePtpAsymWrite
    | with_reducible apply kept_writeTsRing | with_reducible apply kept_writeHalsoCfg
    | with_reducible apply kept_modHalso | with_reducible apply kept_execHalsoCableWrite | exact fun z => z
    | with_reducible apply kept_after | split | with_reducible apply kept_foldl
    | (intro t a ht; try dsimp only) | (intro t ht; try dsimp only)

theorem kept_writeCal (o : Nat) (w : Wr) (hm : [.octets, .pins, .cal] ⊆ m) (h : Kept m s0 s) : Kept m s0
    (writeCal o w s) := by
  unfold writeCal
  try dsimp only
  repeat' first
    | with_reducible assumption | with_reducible exact List.Subset.trans (by decide) hm
    | with_reducible apply kept_modCal | with_reducible apply kept_execCalAdcGo
    | with_reducible apply kept_modOctet | with_reducible apply kept_modPin
    | with_reducible apply kept_execCalMonCfgWrite | with_reducible apply kept_modMon | exact fun z => z
    | with_reducible apply kept_after | split | with_reducible apply kept_foldl
    | (intro t a ht; try dsimp only) | (intro t ht; try dsimp only)

theorem kept_writePerf (o : Nat) (w : Wr) (hm : [.perf] ⊆ m) (h : Kept m s0 s) : Kept m s0 (writePerf o w s) :=
    by
  unfold writePerf
  try dsimp only
  repeat' first
    | with_reducible assumption | with_reducible exact List.Subset.trans (by decide) hm
    | with_reducible apply kept_execPerfFreeze | with_reducible apply kept_modPerf
    | with_reducible apply kept_execSnapshotRequest | with_reducible apply kept_execPerfPsCfgWrite
    | with_reducible apply kept_execPerfSelWrite | exact fun z => z | with_reducible apply kept_after | split
    | with_reducible apply kept_foldl | (intro t a ht; try dsimp only) | (intro t ht; try dsimp only)

theorem kept_writeCfg (o : Nat) (w : Wr) (hm : [.cfg] ⊆ m) (h : Kept m s0 s) : Kept m s0 (writeCfg o w s) := by
  unfold writeCfg
  try dsimp only
  repeat' first
    | with_reducible assumption | with_reducible exact List.Subset.trans (by decide) hm
    | with_reducible refine kept_modCfg _ ?_ rfl ?_ | exact fun z => z | split
    | with_reducible apply kept_foldl | (intro t a ht; try dsimp only) | (intro t ht; try dsimp only)

theorem kept_writeReg (o : Nat) (w : Wr) (hm : [.sys, .hqm, .dram, .vs, .sites, .octets, .pins, .timing, .cap,
    .dds, .time, .halso, .cal, .perf, .cfg, .out, .dramMem] ⊆ m) (h : Kept m s0 s) : Kept m s0 (writeReg o w s)
    := by
  unfold writeReg
  try dsimp only
  repeat' first
    | with_reducible assumption | with_reducible exact List.Subset.trans (by decide) hm
    | with_reducible apply kept_writeSys | with_reducible apply kept_writeHqm
    | with_reducible apply kept_writeSeq | with_reducible refine kept_modVs _ ?_ rfl ?_
    | with_reducible apply kept_writeDram | with_reducible apply kept_writeTiming
    | with_reducible apply kept_writePin | with_reducible apply kept_writeCap
    | with_reducible apply kept_writeDds | with_reducible apply kept_writeTime
    | with_reducible apply kept_writeCal | with_reducible apply kept_writePerf
    | with_reducible apply kept_writeCfg | with_reducible apply kept_writeQctx
    | with_reducible apply kept_writeMsix | with_reducible apply kept_ite | exact fun z => z
    | with_reducible apply kept_elim | exact fun z => z.2.1 | split | with_reducible apply kept_foldl
    | (intro t a ht; try dsimp only) | (intro t ht; try dsimp only) | (intro v; try dsimp only)

theorem kept_write32 (o : Nat) (v : W32) (hm : [.sys, .hqm, .dram, .vs, .sites, .octets, .pins, .timing, .cap,
    .dds, .time, .halso, .cal, .perf, .cfg, .out, .dramMem] ⊆ m) (h : Kept m s0 s) : Kept m s0 (write32 o v s)
    := by
  unfold write32
  try dsimp only
  repeat' first
    | with_reducible assumption | with_reducible exact List.Subset.trans (by decide) hm
    | with_reducible apply kept_writeReg | exact fun z => z | split | with_reducible apply kept_foldl
    | (intro t a ht; try dsimp only) | (intro t ht; try dsimp only)

theorem kept_hostWrite (o : Nat) (size : Nat) (v : W64) (hm : [.sys, .hqm, .dram, .vs, .sites, .octets, .pins,
    .timing, .cap, .dds, .time, .halso, .cal, .perf, .cfg, .out, .dramMem] ⊆ m) (h : Kept m s0 s) : Kept m s0
    (hostWrite o size v s) := by
  unfold hostWrite
  try dsimp only
  repeat' first
    | with_reducible assumption | with_reducible exact List.Subset.trans (by decide) hm
    | with_reducible apply kept_write32 | with_reducible apply kept_writeReg | exact fun z => z | split
    | with_reducible apply kept_foldl | (intro t a ht; try dsimp only) | (intro t ht; try dsimp only)

theorem kept_execRegisterWrite (off : BitVec 22) (size : Nat) (v : W64) (hm : [.sys, .hqm, .dram, .vs, .sites,
    .octets, .pins, .timing, .cap, .dds, .time, .halso, .cal, .perf, .cfg, .out, .dramMem] ⊆ m) (h : Kept m s0
    s) : KeptR m s0 (execRegisterWrite off size v s) := by
  unfold execRegisterWrite
  try dsimp only
  repeat' first
    | with_reducible assumption | with_reducible exact List.Subset.trans (by decide) hm
    | with_reducible apply kept_hostWrite | with_reducible apply keptR_next | exact fun z => z | split
    | with_reducible apply kept_foldl | (intro t a ht; try dsimp only) | (intro t ht; try dsimp only)

end Sys2Proof.Machine
end

