-- ==== Sys2Proof/Laws/KeptLease.lean ====
section
/-!
SUPPORT. What the operations of Machine/Lease.lean keep.
-/

namespace Sys2Proof.Machine

set_option linter.unusedTactic false
set_option linter.unreachableTactic false
set_option linter.unusedVariables false

variable {m : List Part} {s0 s : State}

theorem kept_revokeSite (n : Nat) (hm : [.sys, .hqm, .sites, .octets, .pins, .cap, .dds, .halso, .perf, .out] ⊆
    m) (h : Kept m s0 s) : Kept m s0 (revokeSite n s) := by
  unfold revokeSite
  try dsimp only
  repeat' first
    | with_reducible assumption | with_reducible exact List.Subset.trans (by decide) hm
    | with_reducible apply kept_settle | with_reducible apply kept_modSite | exact fun z => z | split
    | with_reducible apply kept_foldl | (intro t a ht; try dsimp only) | (intro t ht; try dsimp only)

theorem kept_revokeCapture (xm : Nat) (hm : [.hqm, .cap] ⊆ m) (h : Kept m s0 s) : Kept m s0 (revokeCapture xm s)
    := by
  unfold revokeCapture
  try dsimp only
  repeat' first
    | with_reducible assumption | with_reducible exact List.Subset.trans (by decide) hm
    | with_reducible apply kept_modEng | with_reducible apply kept_shutGroup | exact fun z => z | split
    | with_reducible apply kept_foldl | (intro t a ht; try dsimp only) | (intro t ht; try dsimp only)

theorem kept_revokeStream (j : Nat) (hm : [.vs] ⊆ m) (h : Kept m s0 s) : Kept m s0 (revokeStream j s) := by
  unfold revokeStream
  try dsimp only
  repeat' first
    | with_reducible assumption | with_reducible exact List.Subset.trans (by decide) hm
    | with_reducible apply kept_badPeck | exact fun z => z | split | with_reducible apply kept_foldl
    | (intro t a ht; try dsimp only) | (intro t ht; try dsimp only)

theorem kept_revokeLoad (hm : [.hqm, .vs, .octets] ⊆ m) (h : Kept m s0 s) : Kept m s0 (revokeLoad s) := by
  unfold revokeLoad
  try dsimp only
  repeat' first
    | with_reducible assumption | with_reducible exact List.Subset.trans (by decide) hm
    | with_reducible apply kept_complete | with_reducible apply kept_pllDown
    | with_reducible refine kept_modVs _ ?_ rfl ?_ | exact fun z => z | exact fun z => z.2.1 | split
    | with_reducible apply kept_foldl | (intro t a ht; try dsimp only) | (intro t ht; try dsimp only)

theorem kept_revokeScans (q : Nat) (hm : [.hqm, .pins] ⊆ m) (h : Kept m s0 s) : Kept m s0 (revokeScans q s) :=
    by
  unfold revokeScans
  try dsimp only
  repeat' first
    | with_reducible assumption | with_reducible exact List.Subset.trans (by decide) hm
    | with_reducible apply kept_complete | with_reducible apply kept_modPin | exact fun z => z | split
    | with_reducible apply kept_foldl | (intro t a ht; try dsimp only) | (intro t ht; try dsimp only)

theorem kept_revokeTime (hm : [.hqm, .time] ⊆ m) (h : Kept m s0 s) : Kept m s0 (revokeTime s) := by
  unfold revokeTime
  try dsimp only
  repeat' first
    | with_reducible assumption | with_reducible exact List.Subset.trans (by decide) hm
    | with_reducible apply kept_complete | with_reducible refine kept_modTime _ ?_ rfl ?_ | exact fun z => z
    | split | with_reducible apply kept_foldl | (intro t a ht; try dsimp only) | (intro t ht; try dsimp only)

theorem kept_revokeUnit (e : Nat) (hm : [.sys, .hqm, .dram, .vs, .sites, .octets, .pins, .cap, .dds, .time,
    .halso, .cal, .perf, .out, .devState] ⊆ m) (h : Kept m s0 s) : Kept m s0 (revokeUnit e s) := by
  unfold revokeUnit
  try dsimp only
  repeat' first
    | with_reducible assumption | with_reducible exact List.Subset.trans (by decide) hm
    | with_reducible apply kept_revokeSite | with_reducible apply kept_revokeCapture
    | with_reducible apply kept_revokeStream | with_reducible apply kept_revokeLoad
    | with_reducible apply kept_revokeScans | with_reducible apply kept_calRevoke
    | with_reducible apply kept_revokeTime | exact fun z => z | split | with_reducible apply kept_foldl
    | (intro t a ht; try dsimp only) | (intro t ht; try dsimp only)

theorem kept_revoke (e : Nat) (hm : [.sys, .hqm, .dram, .vs, .sites, .octets, .pins, .cap, .dds, .time, .halso,
    .cal, .perf, .out, .devState] ⊆ m) (h : Kept m s0 s) : Kept m s0 (revoke e s) := by
  unfold revoke
  try dsimp only
  repeat' first
    | with_reducible assumption | with_reducible exact List.Subset.trans (by decide) hm
    | with_reducible apply kept_modCal | with_reducible refine kept_modHqm _ ?_ rfl ?_
    | with_reducible apply kept_revokeUnit | with_reducible apply kept_raiseIrq
    | with_reducible apply kept_perfEvent | exact fun z => z | split | with_reducible apply kept_foldl
    | (intro t a ht; try dsimp only) | (intro t ht; try dsimp only)

theorem kept_execLeaseLapse (e : EngineId) (hm : [.sys, .hqm, .dram, .vs, .sites, .octets, .pins, .cap, .dds,
    .time, .halso, .cal, .perf, .out, .devState] ⊆ m) (h : Kept m s0 s) : KeptR m s0 (execLeaseLapse e s) := by
  unfold execLeaseLapse
  try dsimp only
  repeat' first
    | with_reducible assumption | with_reducible exact List.Subset.trans (by decide) hm
    | with_reducible apply kept_revoke | with_reducible apply keptR_next | exact fun z => z | split
    | with_reducible apply kept_foldl | (intro t a ht; try dsimp only) | (intro t ht; try dsimp only)

theorem kept_renewCapture (xm : Nat) (hm : [.sys, .hqm, .cap, .perf, .out] ⊆ m) (h : Kept m s0 s) : Kept m s0
    (renewCapture xm s) := by
  unfold renewCapture
  try dsimp only
  repeat' first
    | with_reducible assumption | with_reducible exact List.Subset.trans (by decide) hm
    | with_reducible apply kept_modSiteCap | with_reducible apply kept_putTrunc
    | with_reducible apply kept_modEng | exact fun z => z | split | with_reducible apply kept_foldl
    | (intro t a ht; try dsimp only) | (intro t ht; try dsimp only)

theorem kept_execEngineFirstRenewal (e : EngineId) (hm : [.sys, .hqm, .cap, .cal, .perf, .out] ⊆ m) (h : Kept m
    s0 s) : KeptR m s0 (execEngineFirstRenewal e s) := by
  unfold execEngineFirstRenewal
  try dsimp only
  repeat' first
    | with_reducible assumption | with_reducible exact List.Subset.trans (by decide) hm
    | with_reducible apply kept_modCal | with_reducible apply kept_renewCapture
    | with_reducible apply keptR_next | exact fun z => z | split | with_reducible apply kept_foldl
    | (intro t a ht; try dsimp only) | (intro t ht; try dsimp only)

theorem kept_leaseTick (l : List EngineId) (hm : [.cal] ⊆ m) (h : Kept m s0 s) : Kept m s0 (leaseTick l s) := by
  unfold leaseTick
  try dsimp only
  repeat' first
    | with_reducible assumption | with_reducible exact List.Subset.trans (by decide) hm
    | with_reducible apply kept_modCal | exact fun z => z | split | with_reducible apply kept_foldl
    | (intro t a ht; try dsimp only) | (intro t ht; try dsimp only)

end Sys2Proof.Machine
end

