-- ==== Sys2Proof/Laws/KeptStore.lean ====
section
/-!
SUPPORT. What the operations of Machine/Store.lean keep.
-/

namespace Sys2Proof.Machine

set_option linter.unusedTactic false
set_option linter.unreachableTactic false
set_option linter.unusedVariables false

variable {m : List Part} {s0 s : State}

theorem wf_flStore (x : Mem) (a : ℕ) (bs : List Byte) (h : Mem.wf x = true) : Mem.wf (flStore x a bs) = true :=
  Mem.wf_store _ _ _ h

theorem wf_flErase (x : Mem) (a n : ℕ) (h : Mem.wf x = true) : Mem.wf (flErase x a n) = true := Mem.wf_clear _ _ _ h

theorem keptO_getD {o : Option State} (ho : KeptO m s0 o) (h : Kept m s0 s) : Kept m s0 (o.getD s) := by
  cases o with
  | none => exact h
  | some t => exact ho t rfl

theorem kept_applyKind1 (o : Nat) (v : Nat) (hm : [.sys, .hqm, .dram, .vs, .sites, .octets, .pins, .timing,
    .cap, .dds, .time, .halso, .cal, .perf, .cfg, .out, .dramMem] ⊆ m) (h : Kept m s0 s) : Kept m s0 (applyKind1
    o v s) := by
  unfold applyKind1
  try dsimp only
  repeat' first
    | with_reducible assumption | with_reducible exact List.Subset.trans (by decide) hm
    | with_reducible apply kept_hostWrite | exact fun z => z | split | with_reducible apply kept_foldl
    | (intro t a ht; try dsimp only) | (intro t ht; try dsimp only)

theorem keptO_applyCoef (r : CfgRec) (hm : [.octets, .pins] ⊆ m) (h : Kept m s0 s) : KeptO m s0 (applyCoef r s)
    := by
  unfold applyCoef
  try dsimp only
  repeat' first
    | with_reducible assumption | with_reducible exact List.Subset.trans (by decide) hm
    | with_reducible apply kept_modPin | with_reducible apply kept_modOctet | with_reducible exact keptO_none
    | with_reducible apply keptO_some | with_reducible apply keptO_map | exact fun z => z | split
    | with_reducible apply kept_foldl | (intro t a ht; try dsimp only) | (intro t ht; try dsimp only)
    | (intro v; try dsimp only)

theorem keptO_applyRec (sec : Nat) (r : CfgRec) (hm : [.sys, .hqm, .dram, .vs, .sites, .octets, .pins, .timing,
    .cap, .dds, .time, .halso, .cal, .perf, .cfg, .out, .dramMem] ⊆ m) (h : Kept m s0 s) : KeptO m s0 (applyRec
    sec r s) := by
  unfold applyRec
  try dsimp only
  repeat' first
    | with_reducible assumption | with_reducible exact List.Subset.trans (by decide) hm
    | with_reducible apply keptO_applyCoef | with_reducible apply kept_modOctet
    | with_reducible apply kept_applyKind1 | with_reducible exact keptO_none | with_reducible apply keptO_some
    | with_reducible apply keptO_map | exact fun z => z | split | with_reducible apply kept_foldl
    | (intro t a ht; try dsimp only) | (intro t ht; try dsimp only) | (intro v; try dsimp only)

theorem kept_applyRecs (sec : ℕ) (rs : List CfgRec) (hm : [.sys, .hqm, .dram, .vs, .sites, .octets, .pins, .timing, .cap, .dds, .time, .halso, .cal, .perf, .cfg, .out, .dramMem] ⊆ m) (h : Kept m s0 s) :
    Kept m s0 (applyRecs sec rs s) := by
  unfold applyRecs
  apply kept_foldl
  · intro t r ht
    try dsimp only
    split
    next u e => exact keptO_applyRec sec r (List.Subset.trans (by decide) hm) ht u e
    · exact kept_modCfg _ (List.Subset.trans (by decide) hm) rfl ht
  · exact h

theorem kept_applySection (b : Option Bool) (sec : Nat) (hm : [.sys, .hqm, .dram, .vs, .sites, .octets, .pins,
    .timing, .cap, .dds, .time, .halso, .cal, .perf, .cfg, .out, .dramMem] ⊆ m) (h : Kept m s0 s) : Kept m s0
    (applySection b sec s) := by
  unfold applySection
  try dsimp only
  repeat' first
    | with_reducible assumption | with_reducible exact List.Subset.trans (by decide) hm
    | with_reducible apply kept_applyRecs | exact fun z => z | split | with_reducible apply kept_foldl
    | (intro t a ht; try dsimp only) | (intro t ht; try dsimp only)

theorem kept_applyFactory (r : CfgRec) (hm : [.octets, .time, .halso] ⊆ m) (h : Kept m s0 s) : Kept m s0
    (applyFactory r s) := by
  unfold applyFactory
  try dsimp only
  repeat' first
    | with_reducible assumption | with_reducible exact List.Subset.trans (by decide) hm
    | with_reducible apply kept_modOctet | with_reducible refine kept_modTime _ ?_ rfl ?_
    | with_reducible apply kept_modPort | exact fun z => z | split | with_reducible apply kept_foldl
    | (intro t a ht; try dsimp only) | (intro t ht; try dsimp only)

theorem kept_defaultOctets (hm : [.octets] ⊆ m) (h : Kept m s0 s) : Kept m s0 (defaultOctets s) := by
  unfold defaultOctets
  try dsimp only
  repeat' first
    | with_reducible assumption | with_reducible exact List.Subset.trans (by decide) hm
    | with_reducible apply kept_modOctet | exact fun z => z | split | with_reducible apply kept_foldl
    | (intro t a ht; try dsimp only) | (intro t ht; try dsimp only)

theorem kept_loadFactory (answers : Bool) (hard : Bool) (hm : [.octets, .pins, .time, .halso, .cfg] ⊆ m) (h :
    Kept m s0 s) : Kept m s0 (loadFactory answers hard s) := by
  unfold loadFactory
  try dsimp only
  repeat' first
    | with_reducible assumption | with_reducible exact List.Subset.trans (by decide) hm
    | with_reducible apply kept_defaultOctets | with_reducible refine kept_modCfg _ ?_ rfl ?_
    | with_reducible apply kept_applyFactory | with_reducible apply keptO_applyCoef | exact fun z => z
    | with_reducible apply keptO_getD | split | with_reducible apply kept_foldl
    | (intro t a ht; try dsimp only) | (intro t ht; try dsimp only)

theorem kept_seedAgeing (answers : Bool) (hm : [.octets, .cfg] ⊆ m) (h : Kept m s0 s) : Kept m s0 (seedAgeing
    answers s) := by
  unfold seedAgeing
  try dsimp only
  repeat' first
    | with_reducible assumption | with_reducible exact List.Subset.trans (by decide) hm
    | with_reducible refine kept_modCfg _ ?_ rfl ?_ | with_reducible apply kept_modOctet | exact fun z => z
    | split | with_reducible apply kept_foldl | (intro t a ht; try dsimp only) | (intro t ht; try dsimp only)

theorem kept_execAgeingLogAppend (ceilingFall : Bool) (hm : [.cfg, .flash] ⊆ m) (h : Kept m s0 s) : KeptR m s0
    (execAgeingLogAppend ceilingFall s) := by
  unfold execAgeingLogAppend
  try dsimp only
  repeat' first
    | with_reducible assumption | with_reducible exact List.Subset.trans (by decide) hm
    | with_reducible refine kept_modCfg _ ?_ rfl ?_ | with_reducible apply kept_modCfgFlash
    | with_reducible apply keptR_next | exact fun z => z | exact fun z => wf_flStore _ _ _ z
    | exact fun z => wf_flStore _ _ _ (wf_flErase _ _ _ z) | exact fun z => wf_flErase _ _ _ z | split
    | with_reducible apply kept_foldl | (intro t a ht; try dsimp only) | (intro t ht; try dsimp only)

theorem kept_execCfgSave (k : CmdSlot) (written : Bool) (hm : [.hqm, .cfg, .flash] ⊆ m) (h : Kept m s0 s) :
    KeptR m s0 (execCfgSave k written s) := by
  unfold execCfgSave
  try dsimp only
  repeat' first
    | with_reducible assumption | with_reducible exact List.Subset.trans (by decide) hm
    | with_reducible apply keptR_onCmd | with_reducible apply kept_complete
    | with_reducible refine kept_modCfg _ ?_ rfl ?_ | with_reducible apply kept_modCfgFlash
    | with_reducible apply keptR_next | exact fun z => z | exact fun z => wf_flStore _ _ _ z
    | exact fun z => wf_flStore _ _ _ (wf_flErase _ _ _ z) | exact fun z => wf_flErase _ _ _ z | split
    | with_reducible apply kept_foldl | (intro t a ht; try dsimp only) | (intro t ht; try dsimp only)

end Sys2Proof.Machine
end

