-- ==== Sys2Proof/Laws/KeptReset.lean ====
section
/-!
SUPPORT. What the operations of Machine/Reset.lean keep.
-/

namespace Sys2Proof.Machine

set_option linter.unusedTactic false
set_option linter.unreachableTactic false
set_option linter.unusedVariables false

variable {m : List Part} {s0 s : State}

theorem kept_cutSite (n : Nat) (hm : [.sys, .hqm, .sites, .octets, .pins, .cap, .dds, .halso, .perf, .out] ⊆ m)
    (h : Kept m s0 s) : Kept m s0 (cutSite n s) := by
  unfold cutSite
  try dsimp only
  repeat' first
    | with_reducible assumption | with_reducible exact List.Subset.trans (by decide) hm
    | with_reducible apply kept_endRun | with_reducible apply kept_modSite | with_reducible apply kept_flush
    | exact fun z => z | with_reducible apply kept_elim | split | with_reducible apply kept_foldl
    | (intro t a ht; try dsimp only) | (intro t ht; try dsimp only) | (intro v; try dsimp only)

theorem kept_cutGen (n : Nat) (hm : [.hqm, .dds] ⊆ m) (h : Kept m s0 s) : Kept m s0 (cutGen n s) := by
  unfold cutGen
  try dsimp only
  repeat' first
    | with_reducible assumption | with_reducible exact List.Subset.trans (by decide) hm
    | with_reducible apply kept_stopGen | exact fun z => z | split | with_reducible apply kept_foldl
    | (intro t a ht; try dsimp only) | (intro t ht; try dsimp only)

theorem kept_drainEngine (xm : Nat) (hm : [.dram, .cap, .dramMem] ⊆ m) (h : Kept m s0 s) : Kept m s0
    (drainEngine xm s) := by
  unfold drainEngine
  try dsimp only
  repeat' first
    | with_reducible assumption | with_reducible exact List.Subset.trans (by decide) hm
    | with_reducible apply kept_modEng | with_reducible apply kept_writeStaged | exact fun z => z | split
    | with_reducible apply kept_foldl | (intro t a ht; try dsimp only) | (intro t ht; try dsimp only)

theorem kept_drainGroup (xm : Nat) (hm : [.hqm, .dram, .cap, .dramMem] ⊆ m) (h : Kept m s0 s) : Kept m s0
    (drainGroup xm s) := by
  unfold drainGroup
  try dsimp only
  repeat' first
    | with_reducible assumption | with_reducible exact List.Subset.trans (by decide) hm
    | with_reducible apply kept_writeRec | exact fun z => z | split | with_reducible apply kept_foldl
    | (intro t a ht; try dsimp only) | (intro t ht; try dsimp only)

theorem kept_cutGroup (xm : Nat) (hm : [.hqm, .dram, .cap, .dramMem] ⊆ m) (h : Kept m s0 s) : Kept m s0
    (cutGroup xm s) := by
  unfold cutGroup
  try dsimp only
  repeat' first
    | with_reducible assumption | with_reducible exact List.Subset.trans (by decide) hm
    | with_reducible apply kept_drainGroup | with_reducible apply kept_disarmGroup | exact fun z => z | split
    | with_reducible apply kept_foldl | (intro t a ht; try dsimp only) | (intro t ht; try dsimp only)

theorem kept_idleSite (n : Nat) (hm : [.hqm, .sites, .halso, .out] ⊆ m) (h : Kept m s0 s) : Kept m s0 (idleSite
    n s) := by
  unfold idleSite
  try dsimp only
  repeat' first
    | with_reducible assumption | with_reducible exact List.Subset.trans (by decide) hm
    | with_reducible apply kept_completeRun | exact fun z => z | split | with_reducible apply kept_foldl
    | (intro t a ht; try dsimp only) | (intro t ht; try dsimp only)

theorem kept_stopWork (hm : [.sys, .hqm, .dram, .sites, .octets, .pins, .cap, .dds, .halso, .perf, .out,
    .dramMem] ⊆ m) (h : Kept m s0 s) : Kept m s0 (stopWork s) := by
  unfold stopWork
  try dsimp only
  repeat' first
    | with_reducible assumption | with_reducible exact List.Subset.trans (by decide) hm
    | with_reducible apply kept_cutSite | with_reducible apply kept_cutGen | with_reducible apply kept_cutGroup
    | with_reducible apply kept_drainEngine | with_reducible apply kept_idleSite | exact fun z => z | split
    | with_reducible apply kept_foldl | (intro t a ht; try dsimp only) | (intro t ht; try dsimp only)

theorem kept_dropCommands (keepMsix : Bool) (hm : [.sys, .hqm, .dram, .vs, .octets, .pins, .time, .cal,
    .dispatched] ⊆ m) (h : Kept m s0 s) : Kept m s0 (dropCommands keepMsix s) := by
  unfold dropCommands
  try dsimp only
  repeat' first
    | with_reducible assumption | with_reducible exact List.Subset.trans (by decide) hm
    | with_reducible apply kept_pllDown | with_reducible refine kept_modVs _ ?_ rfl ?_
    | with_reducible refine kept_modTime _ ?_ rfl ?_ | with_reducible apply kept_modCal
    | with_reducible apply kept_calIdle | with_reducible apply kept_mapPins
    | with_reducible refine kept_modDram _ ?_ rfl ?_ | with_reducible refine kept_modSys _ ?_ rfl ?_
    | with_reducible refine kept_modHqm _ ?_ rfl ?_ | with_reducible apply kept_modHqmCount | exact fun z => z
    | exact fun z => z.2.1 | exact fun _ => Nat.zero_le 128 | split | with_reducible apply kept_foldl
    | (intro t a ht; try dsimp only) | (intro t ht; try dsimp only)

theorem kept_releaseAll (hm : [.pins, .out] ⊆ m) (h : Kept m s0 s) : Kept m s0 (releaseAll s) := by
  unfold releaseAll
  try dsimp only
  repeat' first
    | with_reducible assumption | with_reducible exact List.Subset.trans (by decide) hm
    | with_reducible apply kept_openBall | exact fun z => z | split | with_reducible apply kept_foldl
    | (intro t a ht; try dsimp only) | (intro t ht; try dsimp only)

theorem wf_keepDram (d : Dram) (h : Mem.wf d.mem = true) : Mem.wf (keepDram d).mem = true := wf_setGrain 0 d h

theorem kept_loseWork (hm : [.sys, .hqm, .dram, .vs, .sites, .barriers, .octets, .pins, .timing, .cap, .dds, .time, .cal, .perf, .out, .dispatched, .dramMem, .vsMem] ⊆ m) (h : Kept m s0 s) : Kept m s0 (loseWork s) := by
  unfold loseWork
  dsimp only
  repeat' first
    | with_reducible assumption | with_reducible exact List.Subset.trans (by decide) hm
    | with_reducible apply kept_releaseAll | with_reducible apply kept_dropCommands
    | with_reducible apply kept_mapOctets | with_reducible apply kept_mapPins | with_reducible apply kept_noSites
    | with_reducible refine kept_modSys _ ?_ rfl ?_ | with_reducible refine kept_modDramMem _ ?_ (wf_keepDram _) ?_
    | with_reducible apply kept_modCal | with_reducible refine kept_modVsMem _ ?_ (fun _ => Mem.wf_nil) ?_
    | with_reducible apply kept_modCap | with_reducible apply kept_modDds | with_reducible apply kept_modPerf
    | with_reducible apply kept_modTiming

theorem kept_hardReset (hm : [.sys, .hqm, .dram, .vs, .sites, .barriers, .octets, .pins, .timing, .cap, .dds, .time, .halso, .cal, .perf, .cfg, .out, .devState, .clock, .dispatched, .dramMem, .vsMem] ⊆ m) (h : Kept m s0 s) : Kept m s0 (hardReset s) := by
  refine h.trans ⟨fun x hx => ?_, fun z => ⟨Mem.wf_nil, Mem.wf_nil, z.2.2⟩,
    fun _ => ⟨SMap.wf_nil, SMap.wf_nil, SMap.wf_nil, SMap.wf_nil⟩, fun _ => Nat.zero_le 128⟩
  cases x <;> first | exact absurd (hm (by decide)) hx | rfl

theorem kept_execPowerOnReset (hm : [.sys, .hqm, .dram, .vs, .sites, .barriers, .octets, .pins, .timing, .cap,
    .dds, .time, .halso, .cal, .perf, .cfg, .out, .devState, .clock, .dispatched, .dramMem, .vsMem] ⊆ m) (h :
    Kept m s0 s) : KeptR m s0 (execPowerOnReset s) := by
  unfold execPowerOnReset
  try dsimp only
  repeat' first
    | with_reducible assumption | with_reducible exact List.Subset.trans (by decide) hm
    | with_reducible apply kept_hardReset | with_reducible refine kept_modTime _ ?_ rfl ?_
    | with_reducible refine kept_modSys _ ?_ rfl ?_ | with_reducible apply keptR_next | exact fun z => z
    | split | with_reducible apply kept_foldl | (intro t a ht; try dsimp only) | (intro t ht; try dsimp only)

theorem kept_execResetNAssert (hm : [.sys, .hqm, .dram, .vs, .sites, .barriers, .octets, .pins, .timing, .cap,
    .dds, .time, .halso, .cal, .perf, .cfg, .out, .devState, .clock, .dispatched, .dramMem, .vsMem] ⊆ m) (h :
    Kept m s0 s) : KeptR m s0 (execResetNAssert s) := by
  unfold execResetNAssert
  try dsimp only
  repeat' first
    | with_reducible assumption | with_reducible exact List.Subset.trans (by decide) hm
    | with_reducible apply kept_hardReset | with_reducible refine kept_modSys _ ?_ rfl ?_
    | with_reducible apply keptR_next | exact fun z => z | split | with_reducible apply kept_foldl
    | (intro t a ht; try dsimp only) | (intro t ht; try dsimp only)

theorem kept_execResetNDeassert (hm : [.sys, .hqm, .perf, .out, .devState] ⊆ m) (h : Kept m s0 s) : KeptR m s0
    (execResetNDeassert s) := by
  unfold execResetNDeassert
  try dsimp only
  repeat' first
    | with_reducible assumption | with_reducible exact List.Subset.trans (by decide) hm
    | with_reducible apply kept_tryBoot | with_reducible refine kept_modSys _ ?_ rfl ?_
    | with_reducible apply keptR_next | exact fun z => z | split | with_reducible apply kept_foldl
    | (intro t a ht; try dsimp only) | (intro t ht; try dsimp only)

theorem kept_execPowerOnResetEnd (hm : [.sys, .hqm, .time, .perf, .out, .devState] ⊆ m) (h : Kept m s0 s) :
    KeptR m s0 (execPowerOnResetEnd s) := by
  unfold execPowerOnResetEnd
  try dsimp only
  repeat' first
    | with_reducible assumption | with_reducible exact List.Subset.trans (by decide) hm
    | with_reducible apply kept_tryBoot | with_reducible refine kept_modTime _ ?_ rfl ?_
    | with_reducible refine kept_modSys _ ?_ rfl ?_ | with_reducible apply keptR_next | exact fun z => z
    | split | with_reducible apply kept_foldl | (intro t a ht; try dsimp only) | (intro t ht; try dsimp only)

theorem kept_execPerstN (hm : [.sys] ⊆ m) (h : Kept m s0 s) : KeptR m s0 (execPerstN s) := by
  unfold execPerstN
  try dsimp only
  repeat' first
    | with_reducible assumption | with_reducible exact List.Subset.trans (by decide) hm
    | with_reducible refine kept_modSys _ ?_ rfl ?_ | with_reducible apply keptR_next | exact fun z => z
    | split | with_reducible apply kept_foldl | (intro t a ht; try dsimp only) | (intro t ht; try dsimp only)

theorem kept_execFlr (hm : [.sys] ⊆ m) (h : Kept m s0 s) : KeptR m s0 (execFlr s) := by
  unfold execFlr
  try dsimp only
  repeat' first
    | with_reducible assumption | with_reducible exact List.Subset.trans (by decide) hm
    | with_reducible refine kept_modSys _ ?_ rfl ?_ | with_reducible apply keptR_next | exact fun z => z
    | split | with_reducible apply kept_foldl | (intro t a ht; try dsimp only) | (intro t ht; try dsimp only)

theorem kept_pcieTick (hm : [.sys, .hqm, .dram, .vs, .sites, .octets, .pins, .cap, .dds, .time, .halso, .cal,
    .perf, .out, .dispatched, .dramMem] ⊆ m) (h : Kept m s0 s) : Kept m s0 (pcieTick s) := by
  unfold pcieTick
  try dsimp only
  repeat' first
    | with_reducible assumption | with_reducible exact List.Subset.trans (by decide) hm
    | with_reducible apply kept_modPerf | with_reducible apply kept_dropCommands
    | with_reducible apply kept_stopWork | with_reducible refine kept_modSys _ ?_ rfl ?_ | exact fun z => z
    | split | with_reducible apply kept_foldl | (intro t a ht; try dsimp only) | (intro t ht; try dsimp only)

theorem kept_softReset (hm : [.sys, .hqm, .dram, .vs, .sites, .barriers, .octets, .pins, .timing, .cap, .dds,
    .time, .halso, .cal, .perf, .out, .devState, .dispatched, .dramMem, .vsMem] ⊆ m) (h : Kept m s0 s) : Kept m
    s0 (softReset s) := by
  unfold softReset
  try dsimp only
  repeat' first
    | with_reducible assumption | with_reducible exact List.Subset.trans (by decide) hm
    | with_reducible apply kept_loseWork | with_reducible apply kept_stopWork
    | with_reducible refine kept_modSys _ ?_ rfl ?_ | with_reducible apply kept_restartRefresh
    | with_reducible apply kept_mapOctets | with_reducible apply kept_enterState | exact fun z => z | split
    | with_reducible apply kept_foldl | (intro t a ht; try dsimp only) | (intro t ht; try dsimp only)

theorem kept_bootSections (hard : Bool) (b : Option Bool) (hm : [.sys, .hqm, .dram, .vs, .sites, .octets, .pins,
    .timing, .cap, .dds, .time, .halso, .cal, .perf, .cfg, .out, .dramMem] ⊆ m) (h : Kept m s0 s) : Kept m s0
    (bootSections hard b s) := by
  unfold bootSections
  try dsimp only
  repeat' first
    | with_reducible assumption | with_reducible exact List.Subset.trans (by decide) hm
    | with_reducible apply kept_modOctet | with_reducible apply kept_applySection
    | with_reducible refine kept_modSys _ ?_ rfl ?_ | exact fun z => z | split
    | with_reducible apply kept_foldl | (intro t a ht; try dsimp only) | (intro t ht; try dsimp only)

theorem kept_bootStatus (b : BootIn) (u : Option Bool) (hm : [.cfg] ⊆ m) (h : Kept m s0 s) : Kept m s0
    (bootStatus b u s) := by
  unfold bootStatus
  try dsimp only
  repeat' first
    | with_reducible assumption | with_reducible exact List.Subset.trans (by decide) hm
    | with_reducible refine kept_modCfg _ ?_ rfl ?_ | exact fun z => z | with_reducible apply keptO_getD
    | split | with_reducible apply kept_foldl | (intro t a ht; try dsimp only) | (intro t ht; try dsimp only)

theorem kept_bootIdentity (u : Option Bool) (hm : [.sys, .cal] ⊆ m) (h : Kept m s0 s) : Kept m s0 (bootIdentity
    u s) := by
  unfold bootIdentity
  try dsimp only
  repeat' first
    | with_reducible assumption | with_reducible exact List.Subset.trans (by decide) hm
    | with_reducible apply kept_modCal | with_reducible refine kept_modSys _ ?_ rfl ?_ | exact fun z => z
    | split | with_reducible apply kept_foldl | (intro t a ht; try dsimp only) | (intro t ht; try dsimp only)

theorem kept_bootHardware (b : BootIn) (hm : [.dram, .octets] ⊆ m) (h : Kept m s0 s) : Kept m s0 (bootHardware b
    s) := by
  unfold bootHardware
  try dsimp only
  repeat' first
    | with_reducible assumption | with_reducible exact List.Subset.trans (by decide) hm
    | with_reducible apply kept_setLock | with_reducible refine kept_modDram _ ?_ rfl ?_ | exact fun z => z
    | split | with_reducible apply kept_foldl | (intro t a ht; try dsimp only) | (intro t ht; try dsimp only)

theorem kept_bringUpCeilings (hm : [.sys, .hqm, .octets, .perf, .out] ⊆ m) (h : Kept m s0 s) : Kept m s0
    (bringUpCeilings s) := by
  unfold bringUpCeilings
  try dsimp only
  repeat' first
    | with_reducible assumption | with_reducible exact List.Subset.trans (by decide) hm
    | with_reducible apply kept_setCeiling | exact fun z => z | split | with_reducible apply kept_foldl
    | (intro t a ht; try dsimp only) | (intro t ht; try dsimp only)

theorem kept_bootServo (hm : [.time] ⊆ m) (h : Kept m s0 s) : Kept m s0 (bootServo s) := by
  unfold bootServo
  try dsimp only
  repeat' first
    | with_reducible assumption | with_reducible exact List.Subset.trans (by decide) hm
    | with_reducible apply kept_enterAcquire | exact fun z => z | split | with_reducible apply kept_foldl
    | (intro t a ht; try dsimp only) | (intro t ht; try dsimp only)

theorem kept_execBootComplete (b : BootIn) (hm : [.sys, .hqm, .dram, .vs, .sites, .octets, .pins, .timing, .cap,
    .dds, .time, .halso, .cal, .perf, .cfg, .out, .devState, .dramMem] ⊆ m) (h : Kept m s0 s) : KeptR m s0
    (execBootComplete b s) := by
  unfold execBootComplete
  try dsimp only
  repeat' first
    | with_reducible assumption | with_reducible exact List.Subset.trans (by decide) hm
    | with_reducible apply kept_loadFactory | with_reducible apply kept_bootIdentity
    | with_reducible apply kept_bootStatus | with_reducible apply kept_seedAgeing
    | with_reducible apply kept_bootHardware | with_reducible apply kept_bringUpCeilings
    | with_reducible apply kept_bootSections | with_reducible apply kept_bootServo
    | with_reducible apply kept_enterState | with_reducible refine kept_modSys _ ?_ rfl ?_
    | with_reducible apply kept_enterCalibrate | with_reducible apply keptR_next | exact fun z => z | split
    | with_reducible apply kept_foldl | (intro t a ht; try dsimp only) | (intro t ht; try dsimp only)

theorem kept_dropPorts (hm : [.time, .halso] ⊆ m) (h : Kept m s0 s) : Kept m s0 (dropPorts s) := by
  unfold dropPorts
  try dsimp only
  repeat' first
    | with_reducible assumption | with_reducible exact List.Subset.trans (by decide) hm
    | with_reducible refine kept_modTime _ ?_ rfl ?_ | with_reducible apply kept_modHalso | exact fun z => z
    | split | with_reducible apply kept_foldl | (intro t a ht; try dsimp only) | (intro t ht; try dsimp only)

theorem kept_sleepDram (hm : [.dram] ⊆ m) (h : Kept m s0 s) : Kept m s0 (sleepDram s) := by
  unfold sleepDram
  try dsimp only
  repeat' first
    | with_reducible assumption | with_reducible exact List.Subset.trans (by decide) hm
    | with_reducible refine kept_modDram _ ?_ rfl ?_ | exact fun z => z | split
    | with_reducible apply kept_foldl | (intro t a ht; try dsimp only) | (intro t ht; try dsimp only)

theorem kept_enterDeep (hm : [.sys, .hqm, .dram, .vs, .sites, .barriers, .octets, .pins, .timing, .cap, .dds,
    .time, .halso, .cal, .perf, .out, .devState, .dispatched, .dramMem, .vsMem] ⊆ m) (h : Kept m s0 s) : Kept m
    s0 (enterDeep s) := by
  unfold enterDeep
  try dsimp only
  repeat' first
    | with_reducible assumption | with_reducible exact List.Subset.trans (by decide) hm
    | with_reducible apply kept_sleepDram | with_reducible apply kept_loseWork
    | with_reducible apply kept_setLock | with_reducible apply kept_enterState
    | with_reducible apply kept_enterHold | with_reducible apply kept_dropPorts | exact fun z => z | split
    | with_reducible apply kept_foldl | (intro t a ht; try dsimp only) | (intro t ht; try dsimp only)

theorem kept_enterStandby (hm : [.sys, .hqm, .dram, .perf, .out, .devState] ⊆ m) (h : Kept m s0 s) : Kept m s0
    (enterStandby s) := by
  unfold enterStandby
  try dsimp only
  repeat' first
    | with_reducible assumption | with_reducible exact List.Subset.trans (by decide) hm
    | with_reducible apply kept_enterState | with_reducible apply kept_sleepDram | exact fun z => z | split
    | with_reducible apply kept_foldl | (intro t a ht; try dsimp only) | (intro t ht; try dsimp only)

theorem kept_powerTick (hm : [.sys, .hqm, .dram, .vs, .sites, .barriers, .octets, .pins, .timing, .cap, .dds,
    .time, .halso, .cal, .perf, .out, .devState, .dispatched, .dramMem, .vsMem] ⊆ m) (h : Kept m s0 s) : Kept m
    s0 (powerTick s) := by
  unfold powerTick
  try dsimp only
  repeat' first
    | with_reducible assumption | with_reducible exact List.Subset.trans (by decide) hm
    | with_reducible refine kept_modSys _ ?_ rfl ?_ | with_reducible apply kept_enterStandby
    | with_reducible apply kept_refuseReq | with_reducible apply kept_enterDeep | exact fun z => z | split
    | with_reducible apply kept_foldl | (intro t a ht; try dsimp only) | (intro t ht; try dsimp only)

theorem kept_wakeServo (hm : [.time] ⊆ m) (h : Kept m s0 s) : Kept m s0 (wakeServo s) := by
  unfold wakeServo
  try dsimp only
  repeat' first
    | with_reducible assumption | with_reducible exact List.Subset.trans (by decide) hm
    | with_reducible apply kept_enterServo | exact fun z => z | split | with_reducible apply kept_foldl
    | (intro t a ht; try dsimp only) | (intro t ht; try dsimp only)

theorem kept_execWakeComplete (hm : [.sys, .hqm, .dram, .vs, .sites, .octets, .pins, .timing, .cap, .dds, .time,
    .halso, .cal, .perf, .cfg, .out, .devState, .dramMem] ⊆ m) (h : Kept m s0 s) : KeptR m s0 (execWakeComplete
    s) := by
  unfold execWakeComplete
  try dsimp only
  repeat' first
    | with_reducible assumption | with_reducible exact List.Subset.trans (by decide) hm
    | with_reducible apply kept_restartRefresh | with_reducible apply kept_enterState
    | with_reducible refine kept_modSys _ ?_ rfl ?_ | with_reducible apply kept_setLock
    | with_reducible apply kept_wakeServo | with_reducible apply kept_applySection
    | with_reducible refine kept_modDram _ ?_ rfl ?_ | with_reducible apply keptR_next | exact fun z => z
    | split | with_reducible apply kept_foldl | (intro t a ht; try dsimp only) | (intro t ht; try dsimp only)

theorem kept_skipOctet (o : Nat) (hm : [.sys, .hqm, .octets, .pins, .cal, .perf, .out, .devState] ⊆ m) (h : Kept
    m s0 s) : Kept m s0 (skipOctet o s) := by
  unfold skipOctet
  try dsimp only
  repeat' first
    | with_reducible assumption | with_reducible exact List.Subset.trans (by decide) hm
    | with_reducible apply kept_modCal | with_reducible apply kept_restoreLoops
    | with_reducible apply kept_calReady | exact fun z => z | split | with_reducible apply kept_foldl
    | (intro t a ht; try dsimp only) | (intro t ht; try dsimp only)

theorem kept_disableOctet (o : Nat) (hm : [.sys, .hqm, .sites, .octets, .pins, .cap, .dds, .halso, .cal, .perf,
    .out, .devState] ⊆ m) (h : Kept m s0 s) : Kept m s0 (disableOctet o s) := by
  unfold disableOctet
  try dsimp only
  repeat' first
    | with_reducible assumption | with_reducible exact List.Subset.trans (by decide) hm
    | with_reducible refine kept_modSys _ ?_ rfl ?_ | with_reducible apply kept_modPin
    | with_reducible apply kept_releasePin | with_reducible apply kept_setLanes
    | with_reducible apply kept_skipOctet | with_reducible apply kept_setLock
    | with_reducible apply kept_modOctet | exact fun z => z | split | with_reducible apply kept_foldl
    | (intro t a ht; try dsimp only) | (intro t ht; try dsimp only)

theorem kept_testDisable (o : Nat) (hm : [.sys, .hqm, .sites, .octets, .pins, .cap, .dds, .halso, .cal, .perf,
    .out, .devState] ⊆ m) (h : Kept m s0 s) : Kept m s0 (testDisable o s) := by
  unfold testDisable
  try dsimp only
  repeat' first
    | with_reducible assumption | with_reducible exact List.Subset.trans (by decide) hm
    | with_reducible refine kept_modSys _ ?_ rfl ?_ | with_reducible apply kept_refuseReq
    | with_reducible apply kept_disableOctet | exact fun z => z | split | with_reducible apply kept_foldl
    | (intro t a ht; try dsimp only) | (intro t ht; try dsimp only)

theorem kept_requestTick (hm : [.sys, .hqm, .dram, .vs, .sites, .barriers, .octets, .pins, .timing, .cap, .dds,
    .time, .halso, .cal, .perf, .out, .devState, .dispatched, .dramMem, .vsMem] ⊆ m) (h : Kept m s0 s) : Kept m
    s0 (requestTick s) := by
  unfold requestTick
  try dsimp only
  repeat' first
    | with_reducible assumption | with_reducible exact List.Subset.trans (by decide) hm
    | with_reducible apply kept_pcieTick | with_reducible apply kept_softReset
    | with_reducible apply kept_powerTick | with_reducible apply kept_testDisable | exact fun z => z | split
    | with_reducible apply kept_foldl | (intro t a ht; try dsimp only) | (intro t ht; try dsimp only)

end Sys2Proof.Machine
end

