-- ==== Sys2Proof/Laws/KeptSpan.lean ====
section
/-!
SUPPORT. What the operations of Machine/Span.lean keep.
-/

namespace Sys2Proof.Machine

set_option linter.unusedTactic false
set_option linter.unreachableTactic false
set_option linter.unusedVariables false

variable {m : List Part} {s0 s : State}

theorem kept_countSpan (hm : [.sys, .time, .clock] ⊆ m) (h : Kept m s0 s) : Kept m s0 (countSpan s) := by
  unfold countSpan
  try dsimp only
  repeat' first
    | with_reducible assumption | with_reducible exact List.Subset.trans (by decide) hm
    | with_reducible refine kept_modSys _ ?_ rfl ?_ | with_reducible refine kept_modTime _ ?_ rfl ?_
    | with_reducible apply kept_modTimeClock | exact fun z => z | split | with_reducible apply kept_foldl
    | (intro t a ht; try dsimp only) | (intro t ht; try dsimp only)

theorem kept_dispatchTick (hm : [.hqm, .dispatched] ⊆ m) (h : Kept m s0 s) : Kept m s0 (dispatchTick s) := by
  unfold dispatchTick
  try dsimp only
  repeat' first
    | with_reducible assumption | with_reducible exact List.Subset.trans (by decide) hm
    | with_reducible refine kept_modHqm _ ?_ rfl ?_ | with_reducible apply kept_modHqmCount | exact fun z => z
    | exact fun _ => Nat.zero_le 128 | split | with_reducible apply kept_foldl | (intro t a ht; try dsimp only)
    | (intro t ht; try dsimp only)

theorem kept_headTick (hm : [.hqm, .host] ⊆ m) (h : Kept m s0 s) : Kept m s0 (headTick s) := by
  unfold headTick
  try dsimp only
  repeat' first
    | with_reducible assumption | with_reducible exact List.Subset.trans (by decide) hm
    | with_reducible apply kept_headWriteback | exact fun z => z | split | with_reducible apply kept_foldl
    | (intro t a ht; try dsimp only) | (intro t ht; try dsimp only)

theorem kept_dacTick (hm : [.pins] ⊆ m) (h : Kept m s0 s) : Kept m s0 (dacTick s) := by
  unfold dacTick
  try dsimp only
  repeat' first
    | with_reducible assumption | with_reducible exact List.Subset.trans (by decide) hm
    | with_reducible apply kept_mapPins | exact fun z => z | split | with_reducible apply kept_foldl
    | (intro t a ht; try dsimp only) | (intro t ht; try dsimp only)

theorem kept_dfeStep (d : DfeStat) (hm : [.sys, .hqm, .pins, .cal, .perf, .out] ⊆ m) (h : Kept m s0 s) : Kept m
    s0 (dfeStep d s) := by
  unfold dfeStep
  try dsimp only
  repeat' first
    | with_reducible assumption | with_reducible exact List.Subset.trans (by decide) hm
    | with_reducible apply kept_recordFail | with_reducible apply kept_modPin
    | with_reducible apply kept_perfEvent | exact fun z => z | split | with_reducible apply kept_foldl
    | (intro t a ht; try dsimp only) | (intro t ht; try dsimp only)

theorem kept_eqTick (l : List DfeStat) (hm : [.sys, .hqm, .pins, .cal, .perf, .out] ⊆ m) (h : Kept m s0 s) :
    Kept m s0 (eqTick l s) := by
  unfold eqTick
  try dsimp only
  repeat' first
    | with_reducible assumption | with_reducible exact List.Subset.trans (by decide) hm
    | with_reducible apply kept_mapPins | with_reducible apply kept_dfeStep | exact fun z => z | split
    | with_reducible apply kept_foldl | (intro t a ht; try dsimp only) | (intro t ht; try dsimp only)

theorem kept_linkMarks (hm : [.octets, .out] ⊆ m) (h : Kept m s0 s) : Kept m s0 (linkMarks s) := by
  unfold linkMarks
  try dsimp only
  repeat' first
    | with_reducible assumption | with_reducible exact List.Subset.trans (by decide) hm
    | with_reducible apply kept_laneSend | with_reducible apply kept_emit | exact fun z => z | split
    | with_reducible apply kept_foldl | (intro t a ht; try dsimp only) | (intro t ht; try dsimp only)

theorem kept_mgmtTick (hm : [.octets, .out] ⊆ m) (h : Kept m s0 s) : Kept m s0 (mgmtTick s) := by
  unfold mgmtTick
  try dsimp only
  repeat' first
    | with_reducible assumption | with_reducible exact List.Subset.trans (by decide) hm
    | with_reducible apply kept_tryReady | with_reducible apply kept_emitMgmt
    | with_reducible apply kept_modOctet | exact fun z => z | split | with_reducible apply kept_foldl
    | (intro t a ht; try dsimp only) | (intro t ht; try dsimp only)

theorem kept_countTick (hm : [.sys, .hqm, .perf, .out] ⊆ m) (h : Kept m s0 s) : Kept m s0 (countTick s) := by
  unfold countTick
  try dsimp only
  repeat' first
    | with_reducible assumption | with_reducible exact List.Subset.trans (by decide) hm
    | with_reducible apply kept_perfEvent | exact fun z => z | split | with_reducible apply kept_foldl
    | (intro t a ht; try dsimp only) | (intro t ht; try dsimp only)

theorem kept_snapTick (hm : [.perf] ⊆ m) (h : Kept m s0 s) : Kept m s0 (snapTick s) := by
  unfold snapTick
  try dsimp only
  repeat' first
    | with_reducible assumption | with_reducible exact List.Subset.trans (by decide) hm
    | with_reducible apply kept_execPerfSnapshot | exact fun z => z | with_reducible apply kept_after | split
    | with_reducible apply kept_foldl | (intro t a ht; try dsimp only) | (intro t ht; try dsimp only)

theorem kept_settleAll (hm : [.sys, .hqm, .sites, .octets, .pins, .cap, .dds, .halso, .perf, .out] ⊆ m) (h :
    Kept m s0 s) : Kept m s0 (settleAll s) := by
  unfold settleAll
  try dsimp only
  repeat' first
    | with_reducible assumption | with_reducible exact List.Subset.trans (by decide) hm
    | with_reducible apply kept_settle | exact fun z => z | split | with_reducible apply kept_foldl
    | (intro t a ht; try dsimp only) | (intro t ht; try dsimp only)

theorem kept_timeAllot (i : TickIn) (hm : [.sys, .hqm, .octets, .pins, .time, .halso, .cal, .perf, .out] ⊆ m) (h
    : Kept m s0 s) : Kept m s0 (timeAllot i s) := by
  unfold timeAllot
  try dsimp only
  repeat' first
    | with_reducible assumption | with_reducible exact List.Subset.trans (by decide) hm
    | with_reducible apply kept_copyTick | with_reducible apply kept_halsoTick
    | with_reducible apply kept_spanMark | with_reducible apply kept_linkMarks
    | with_reducible apply kept_mgmtTick | with_reducible apply kept_eqTick | with_reducible apply kept_dacTick
    | with_reducible apply kept_timeTick | with_reducible apply kept_applyStep | exact fun z => z | split
    | with_reducible apply kept_foldl | (intro t a ht; try dsimp only) | (intro t ht; try dsimp only)

theorem kept_planAllot (i : TickIn) (hm : [.sys, .hqm, .dram, .vs, .sites, .cap, .dds, .perf, .out, .vsMem] ⊆ m)
    (h : Kept m s0 s) : Kept m s0 (planAllot i s) := by
  unfold planAllot
  try dsimp only
  repeat' first
    | with_reducible assumption | with_reducible exact List.Subset.trans (by decide) hm
    | with_reducible apply kept_writeTimingTick | with_reducible apply kept_refreshTick
    | with_reducible apply kept_ddsTick | with_reducible apply kept_groupTick
    | with_reducible apply kept_scheduleTick | with_reducible apply kept_holdResume
    | with_reducible apply kept_holdTick | with_reducible apply kept_slotTick
    | with_reducible apply kept_retireTick | with_reducible apply kept_peckTick | exact fun z => z | split
    | with_reducible apply kept_foldl | (intro t a ht; try dsimp only) | (intro t ht; try dsimp only)

theorem kept_execSpanTick (i : TickIn) (hm : [.sys, .hqm, .dram, .vs, .sites, .barriers, .octets, .pins,
    .timing, .cap, .dds, .time, .halso, .cal, .perf, .host, .out, .devState, .clock, .dispatched, .dramMem,
    .vsMem] ⊆ m) (h : Kept m s0 s) : KeptR m s0 (execSpanTick i s) := by
  unfold execSpanTick
  try dsimp only
  repeat' first
    | with_reducible assumption | with_reducible exact List.Subset.trans (by decide) hm
    | with_reducible apply kept_requestTick | with_reducible apply kept_leaseTick
    | with_reducible apply kept_snapTick | with_reducible apply kept_countSpan
    | with_reducible apply kept_planAllot | with_reducible apply kept_timeAllot
    | with_reducible apply kept_settleAll | with_reducible apply kept_countTick
    | with_reducible apply kept_headTick | with_reducible apply kept_expireDelays
    | with_reducible apply kept_dispatchTick | with_reducible apply keptR_next | exact fun z => z | split
    | with_reducible apply kept_foldl | (intro t a ht; try dsimp only) | (intro t ht; try dsimp only)

end Sys2Proof.Machine
end

