-- ==== Sys2Proof/Laws/KeptExec.lean ====
section
/-!
SUPPORT. What a command can do to State, said once for every command: it answers a next state, it changes the
parts that touched lists, and it keeps the canonical forms and the dispatch cap.
-/

namespace Sys2Proof.Machine

/-- Every command answers a next state that keeps what its row of touched keeps. -/
theorem kept_exec (i : Instr) (s : State) : KeptR (touched i) s (exec i s) := by
  cases i with
  | spanTick inp => exact kept_execSpanTick inp (fun _ h => h) (Kept.refl _ s)
  | delayListExpiry => exact kept_execDelayListExpiry (fun _ h => h) (Kept.refl _ s)
  | scheduleEntryAdvance p => exact kept_execScheduleEntryAdvance p (fun _ h => h) (Kept.refl _ s)
  | peckArrival id linkErr => exact kept_execPeckArrival id linkErr (fun _ h => h) (Kept.refl _ s)
  | peckRetryIssue id => exact kept_execPeckRetryIssue id (fun _ h => h) (Kept.refl _ s)
  | refreshAccrualTick ch => exact kept_execRefreshAccrualTick ch (fun _ h => h) (Kept.refl _ s)
  | mr4Poll ch rate => exact kept_execMr4Poll ch rate (fun _ h => h) (Kept.refl _ s)
  | wck2dqOscillatorRead ch target => exact kept_execWck2dqOscillatorRead ch target (fun _ h => h) (Kept.refl _ s)
  | vernierMove c => exact kept_execVernierMove c (fun _ h => h) (Kept.refl _ s)
  | leaseLapse e => exact kept_execLeaseLapse e (fun _ h => h) (Kept.refl _ s)
  | engineFirstRenewal e => exact kept_execEngineFirstRenewal e (fun _ h => h) (Kept.refl _ s)
  | nop k => exact kept_execNop k (fun _ h => h) (Kept.refl _ s)
  | fence k => exact kept_execFence k (fun _ h => h) (Kept.refl _ s)
  | cancel k => exact kept_execCancel k (fun _ h => h) (Kept.refl _ s)
  | memWrite k => exact kept_execMemWrite k (fun _ h => h) (Kept.refl _ s)
  | memRead k => exact kept_execMemRead k (fun _ h => h) (Kept.refl _ s)
  | memFill k => exact kept_execMemFill k (fun _ h => h) (Kept.refl _ s)
  | planLoad k rd => exact kept_execPlanLoad k rd (fun _ h => h) (Kept.refl _ s)
  | planRetire k => exact kept_execPlanRetire k (fun _ h => h) (Kept.refl _ s)
  | tableLoad k linkErr => exact kept_execTableLoad k linkErr (fun _ h => h) (Kept.refl _ s)
  | siteStart k => exact kept_execSiteStart k (fun _ h => h) (Kept.refl _ s)
  | siteStop k => exact kept_execSiteStop k (fun _ h => h) (Kept.refl _ s)
  | sitePark k => exact kept_execSitePark k (fun _ h => h) (Kept.refl _ s)
  | siteReset k => exact kept_execSiteReset k (fun _ h => h) (Kept.refl _ s)
  | trigArm k => exact kept_execTrigArm k (fun _ h => h) (Kept.refl _ s)
  | trigDisarm k => exact kept_execTrigDisarm k (fun _ h => h) (Kept.refl _ s)
  | acqRead k => exact kept_execAcqRead k (fun _ h => h) (Kept.refl _ s)
  | ddsLoad k linkErr => exact kept_execDdsLoad k linkErr (fun _ h => h) (Kept.refl _ s)
  | ddsStart k => exact kept_execDdsStart k (fun _ h => h) (Kept.refl _ s)
  | ddsStop k => exact kept_execDdsStop k (fun _ h => h) (Kept.refl _ s)
  | calRun k => exact kept_execCalRun k (fun _ h => h) (Kept.refl _ s)
  | calCommit k => exact kept_execCalCommit k (fun _ h => h) (Kept.refl _ s)
  | eyeScan k => exact kept_execEyeScan k (fun _ h => h) (Kept.refl _ s)
  | eyeScanPoint c high low t => exact kept_execEyeScanPoint c high low t (fun _ h => h) (Kept.refl _ s)
  | timeSet k => exact kept_execTimeSet k (fun _ h => h) (Kept.refl _ s)
  | timeAdjust k => exact kept_execTimeAdjust k (fun _ h => h) (Kept.refl _ s)
  | cfgSave k written => exact kept_execCfgSave k written (fun _ h => h) (Kept.refl _ s)
  | vec n => exact kept_execVec n (fun _ h => h) (Kept.refl _ s)
  | loop n => exact kept_execLoop n (fun _ h => h) (Kept.refl _ s)
  | endloop n => exact kept_execEndloop n (fun _ h => h) (Kept.refl _ s)
  | call n => exact kept_execCall n (fun _ h => h) (Kept.refl _ s)
  | ret n => exact kept_execRet n (fun _ h => h) (Kept.refl _ s)
  | jump n => exact kept_execJump n (fun _ h => h) (Kept.refl _ s)
  | matchIns n => exact kept_execMatchIns n (fun _ h => h) (Kept.refl _ s)
  | matchDecision n => exact kept_execMatchDecision n (fun _ h => h) (Kept.refl _ s)
  | waitTrig n => exact kept_execWaitTrig n (fun _ h => h) (Kept.refl _ s)
  | waitTrigSatisfied n => exact kept_execWaitTrigSatisfied n (fun _ h => h) (Kept.refl _ s)
  | waitTimeout n => exact kept_execWaitTimeout n (fun _ h => h) (Kept.refl _ s)
  | signal n => exact kept_execSignal n (fun _ h => h) (Kept.refl _ s)
  | sync n => exact kept_execSync n (fun _ h => h) (Kept.refl _ s)
  | syncArrival n => exact kept_execSyncArrival n (fun _ h => h) (Kept.refl _ s)
  | syncRelease p b => exact kept_execSyncRelease p b (fun _ h => h) (Kept.refl _ s)
  | syncTimeout n => exact kept_execSyncTimeout n (fun _ h => h) (Kept.refl _ s)
  | setTs n => exact kept_execSetTs n (fun _ h => h) (Kept.refl _ s)
  | mark n => exact kept_execMark n (fun _ h => h) (Kept.refl _ s)
  | park n => exact kept_execPark n (fun _ h => h) (Kept.refl _ s)
  | parkExpiry n => exact kept_execParkExpiry n (fun _ h => h) (Kept.refl _ s)
  | halt n => exact kept_execHalt n (fun _ h => h) (Kept.refl _ s)
  | illegalOpcode n => exact kept_execIllegalOpcode n (fun _ h => h) (Kept.refl _ s)
  | siteRunBegin n => exact kept_execSiteRunBegin n (fun _ h => h) (Kept.refl _ s)
  | bundleRead n => exact kept_execBundleRead n (fun _ h => h) (Kept.refl _ s)
  | issueStarved n => exact kept_execIssueStarved n (fun _ h => h) (Kept.refl _ s)
  | vectorPlayed n obs => exact kept_execVectorPlayed n obs (fun _ h => h) (Kept.refl _ s)
  | stallPointReached n => exact kept_execStallPointReached n (fun _ h => h) (Kept.refl _ s)
  | siteStopEffect n => exact kept_execSiteStopEffect n (fun _ h => h) (Kept.refl _ s)
  | siteParkLimit n => exact kept_execSiteParkLimit n (fun _ h => h) (Kept.refl _ s)
  | siteCompletion n => exact kept_execSiteCompletion n (fun _ h => h) (Kept.refl _ s)
  | sableWriteSlot w => exact kept_execSableWriteSlot w (fun _ h => h) (Kept.refl _ s)
  | trigInEdge pin g => exact kept_execTrigInEdge pin g (fun _ h => h) (Kept.refl _ s)
  | holdoffExpiry u => exact kept_execHoldoffExpiry u (fun _ h => h) (Kept.refl _ s)
  | autoTrigger u => exact kept_execAutoTrigger u (fun _ h => h) (Kept.refl _ s)
  | groupRearm u => exact kept_execGroupRearm u (fun _ h => h) (Kept.refl _ s)
  | ddsRunBegin g => exact kept_execDdsRunBegin g (fun _ h => h) (Kept.refl _ s)
  | ddsSegmentBoundary g => exact kept_execDdsSegmentBoundary g (fun _ h => h) (Kept.refl _ s)
  | ddsJumpWrite g v t => exact kept_execDdsJumpWrite g v t (fun _ h => h) (Kept.refl _ s)
  | ppsInEdge t => exact kept_execPpsInEdge t (fun _ h => h) (Kept.refl _ s)
  | ppsOutEdge t => exact kept_execPpsOutEdge t (fun _ h => h) (Kept.refl _ s)
  | ptpEventMessage m p => exact kept_execPtpEventMessage m p (fun _ h => h) (Kept.refl _ s)
  | timeStepApply => exact kept_execTimeStepApply (fun _ h => h) (Kept.refl _ s)
  | sourceLost => exact kept_execSourceLost (fun _ h => h) (Kept.refl _ s)
  | traceableHoldExpiry => exact kept_execTraceableHoldExpiry (fun _ h => h) (Kept.refl _ s)
  | refLost => exact kept_execRefLost (fun _ h => h) (Kept.refl _ s)
  | refInReturn => exact kept_execRefInReturn (fun _ h => h) (Kept.refl _ s)
  | tsRingEntryDrop => exact kept_execTsRingEntryDrop (fun _ h => h) (Kept.refl _ s)
  | halsoSpanMark p m => exact kept_execHalsoSpanMark p m (fun _ h => h) (Kept.refl _ s)
  | halsoTimeTick p m t => exact kept_execHalsoTimeTick p m t (fun _ h => h) (Kept.refl _ s)
  | halsoServoOffset p dev state traceable e => exact kept_execHalsoServoOffset p dev state traceable e (fun _ h => h) (Kept.refl _ s)
  | halsoArm p dev barrier span => exact kept_execHalsoArm p dev barrier span (fun _ h => h) (Kept.refl _ s)
  | halsoTrigger p dev m span cycle t => exact kept_execHalsoTrigger p dev m span cycle t (fun _ h => h) (Kept.refl _ s)
  | halsoMatchBroadcast p dev group hit cycle => exact kept_execHalsoMatchBroadcast p dev group hit cycle (fun _ h => h) (Kept.refl _ s)
  | halsoFailMerge p group m ended span => exact kept_execHalsoFailMerge p group m ended span (fun _ h => h) (Kept.refl _ s)
  | halsoHello p h => exact kept_execHalsoHello p h (fun _ h => h) (Kept.refl _ s)
  | halsoJoin => exact kept_execHalsoJoin (fun _ h => h) (Kept.refl _ s)
  | halsoUpstreamLost otherSide => exact kept_execHalsoUpstreamLost otherSide (fun _ h => h) (Kept.refl _ s)
  | uiPllUnlock o t => exact kept_execUiPllUnlock o t (fun _ h => h) (Kept.refl _ s)
  | uiPllLock o t => exact kept_execUiPllLock o t (fun _ h => h) (Kept.refl _ s)
  | lockWindowEnd c ferr w => exact kept_execLockWindowEnd c ferr w (fun _ h => h) (Kept.refl _ s)
  | phaseLimit c upper t => exact kept_execPhaseLimit c upper t (fun _ h => h) (Kept.refl _ s)
  | losAssert c t => exact kept_execLosAssert c t (fun _ h => h) (Kept.refl _ s)
  | losDeassert c t => exact kept_execLosDeassert c t (fun _ h => h) (Kept.refl _ s)
  | linkMarkEcho o lane rtt => exact kept_execLinkMarkEcho o lane rtt (fun _ h => h) (Kept.refl _ s)
  | linkResultWord o lane slotB w => exact kept_execLinkResultWord o lane slotB w (fun _ h => h) (Kept.refl _ s)
  | linkResultTimeout c => exact kept_execLinkResultTimeout c (fun _ h => h) (Kept.refl _ s)
  | linkStatusBlock o lane txLocked faults t => exact kept_execLinkStatusBlock o lane txLocked faults t (fun _ h => h) (Kept.refl _ s)
  | calVisit q => exact kept_execCalVisit q (fun _ h => h) (Kept.refl _ s)
  | octetDriftEval o t readings => exact kept_execOctetDriftEval o t readings (fun _ h => h) (Kept.refl _ s)
  | convCheckPeriodic spread mean => exact kept_execConvCheckPeriodic spread mean (fun _ h => h) (Kept.refl _ s)
  | calStepEnd r => exact kept_execCalStepEnd r (fun _ h => h) (Kept.refl _ s)
  | ageingReading o bp => exact kept_execAgeingReading o bp (fun _ h => h) (Kept.refl _ s)
  | ageingLogAppend ceilingFall => exact kept_execAgeingLogAppend ceilingFall (fun _ h => h) (Kept.refl _ s)
  | calAdcGo v => exact kept_execCalAdcGo v (fun _ h => h) (Kept.refl _ s)
  | calAdcDone codes => exact kept_execCalAdcDone codes (fun _ h => h) (Kept.refl _ s)
  | monSample m uv => exact kept_execMonSample m uv (fun _ h => h) (Kept.refl _ s)
  | calMonCfgWrite m v => exact kept_execCalMonCfgWrite m v (fun _ h => h) (Kept.refl _ s)
  | thermSample temps => exact kept_execThermSample temps (fun _ h => h) (Kept.refl _ s)
  | doorbellWrite off size v => exact kept_execDoorbellWrite off size v (fun _ h => h) (Kept.refl _ s)
  | descriptorFetch data => exact kept_execDescriptorFetch data (fun _ h => h) (Kept.refl _ s)
  | commandDispatch => exact kept_execCommandDispatch (fun _ h => h) (Kept.refl _ s)
  | completionRelease k => exact kept_execCompletionRelease k (fun _ h => h) (Kept.refl _ s)
  | spillMove q => exact kept_execSpillMove q (fun _ h => h) (Kept.refl _ s)
  | postedCreditTimeout k => exact kept_execPostedCreditTimeout k (fun _ h => h) (Kept.refl _ s)
  | msixModerationTimeout q => exact kept_execMsixModerationTimeout q (fun _ h => h) (Kept.refl _ s)
  | qctxCfgWrite q reg w => exact kept_execQctxCfgWrite q reg w (fun _ h => h) (Kept.refl _ s)
  | hqmSpillWrite w => exact kept_execHqmSpillWrite w (fun _ h => h) (Kept.refl _ s)
  | hqmCtrlWrite v => exact kept_execHqmCtrlWrite v (fun _ h => h) (Kept.refl _ s)
  | standbyRequest => exact kept_execStandbyRequest (fun _ h => h) (Kept.refl _ s)
  | deepStandbyRequest => exact kept_execDeepStandbyRequest (fun _ h => h) (Kept.refl _ s)
  | wakeRequest => exact kept_execWakeRequest (fun _ h => h) (Kept.refl _ s)
  | wakeComplete => exact kept_execWakeComplete (fun _ h => h) (Kept.refl _ s)
  | softResetRequest key => exact kept_execSoftResetRequest key (fun _ h => h) (Kept.refl _ s)
  | octetDisableRequest o => exact kept_execOctetDisableRequest o (fun _ h => h) (Kept.refl _ s)
  | octetEnable o => exact kept_execOctetEnable o (fun _ h => h) (Kept.refl _ s)
  | pinCfgWrite c cfg aux ctle => exact kept_execPinCfgWrite c cfg aux ctle (fun _ h => h) (Kept.refl _ s)
  | pinLinkWrite o w => exact kept_execPinLinkWrite o w (fun _ h => h) (Kept.refl _ s)
  | timingOctetCfgWrite o v => exact kept_execTimingOctetCfgWrite o v (fun _ h => h) (Kept.refl _ s)
  | timingPinDeskewWrite c v => exact kept_execTimingPinDeskewWrite c v (fun _ h => h) (Kept.refl _ s)
  | dramCtrlWrite v => exact kept_execDramCtrlWrite v (fun _ h => h) (Kept.refl _ s)
  | timeCfgWrite w => exact kept_execTimeCfgWrite w (fun _ h => h) (Kept.refl _ s)
  | timePtpAsymWrite w => exact kept_execTimePtpAsymWrite w (fun _ h => h) (Kept.refl _ s)
  | halsoCableWrite p w => exact kept_execHalsoCableWrite p w (fun _ h => h) (Kept.refl _ s)
  | timeNowRead t => exact kept_execTimeNowRead t (fun _ h => h) (Kept.refl _ s)
  | perfCntRead n => exact kept_execPerfCntRead n (fun _ h => h) (Kept.refl _ s)
  | perfSelWrite n v => exact kept_execPerfSelWrite n v (fun _ h => h) (Kept.refl _ s)
  | perfFreeze v => exact kept_execPerfFreeze v (fun _ h => h) (Kept.refl _ s)
  | perfCounterOverflow n occ => exact kept_execPerfCounterOverflow n occ (fun _ h => h) (Kept.refl _ s)
  | snapshotRequest v => exact kept_execSnapshotRequest v (fun _ h => h) (Kept.refl _ s)
  | perfSnapshot => exact kept_execPerfSnapshot (fun _ h => h) (Kept.refl _ s)
  | perfPsCfgWrite w => exact kept_execPerfPsCfgWrite w (fun _ h => h) (Kept.refl _ s)
  | preciseSampleEntry r => exact kept_execPreciseSampleEntry r (fun _ h => h) (Kept.refl _ s)
  | registerWrite off size v => exact kept_execRegisterWrite off size v (fun _ h => h) (Kept.refl _ s)
  | powerOnReset => exact kept_execPowerOnReset (fun _ h => h) (Kept.refl _ s)
  | resetNAssert => exact kept_execResetNAssert (fun _ h => h) (Kept.refl _ s)
  | resetNDeassert => exact kept_execResetNDeassert (fun _ h => h) (Kept.refl _ s)
  | bootComplete b => exact kept_execBootComplete b (fun _ h => h) (Kept.refl _ s)
  | perstN => exact kept_execPerstN (fun _ h => h) (Kept.refl _ s)
  | flr => exact kept_execFlr (fun _ h => h) (Kept.refl _ s)
  | powerOnResetEnd => exact kept_execPowerOnResetEnd (fun _ h => h) (Kept.refl _ s)
  | halsoLinkDown p lanes => exact kept_execHalsoLinkDown p lanes (fun _ h => h) (Kept.refl _ s)
  | halsoLanesLocked p => exact kept_execHalsoLanesLocked p (fun _ h => h) (Kept.refl _ s)
  | ptpGeneralMessage m p => exact kept_execPtpGeneralMessage m p (fun _ h => h) (Kept.refl _ s)
  | pllLockTimeout => exact kept_execPllLockTimeout (fun _ h => h) (Kept.refl _ s)
  | bestEffortRequestServed ch ready data err t => exact kept_execBestEffortRequestServed ch ready data err t (fun _ h => h) (Kept.refl _ s)

end Sys2Proof.Machine
end

