-- ==== Sys2Proof/Laws/PerInstr.lean ====
section
/-!
SUPPORT. What holds of every command as syntax, one lemma per constructor: no word spells it, for the table gives
its rows no bits, and the queue of waiting commands is no part that it changes.
-/

namespace Sys2Proof.Laws.NoWord

open Sys2Proof.Machine

/-- No word spells the command, and the parts that it may change leave the queue out. -/
def Statement (i : Instr) : Prop := (∀ n w, decodeTableWord n w ≠ some i) ∧ Part.pending ∉ touched i

/-- No word spells a command. -/
theorem no_word (i : Instr) (n w : Nat) : decodeTableWord n w ≠ some i := by simp [decodeTableWord]

/-- No row changes the queue. -/
theorem queue_untouched (i : Instr) : Part.pending ∉ touched i := by cases i <;> simp [touched]

theorem spanTick (inp : TickIn) : Statement (.spanTick inp) := ⟨no_word _, queue_untouched _⟩
theorem delayListExpiry : Statement .delayListExpiry := ⟨no_word _, queue_untouched _⟩
theorem scheduleEntryAdvance (p : PlanSlot) : Statement (.scheduleEntryAdvance p) := ⟨no_word _, queue_untouched _⟩
theorem peckArrival (id : Nat) (linkErr : Bool) : Statement (.peckArrival id linkErr) := ⟨no_word _, queue_untouched _⟩
theorem peckRetryIssue (id : Nat) : Statement (.peckRetryIssue id) := ⟨no_word _, queue_untouched _⟩
theorem refreshAccrualTick (ch : ChanAt) : Statement (.refreshAccrualTick ch) := ⟨no_word _, queue_untouched _⟩
theorem mr4Poll (ch : ChanAt) (rate : Mr4) : Statement (.mr4Poll ch rate) := ⟨no_word _, queue_untouched _⟩
theorem wck2dqOscillatorRead (ch : DramCh) (target : Int) : Statement (.wck2dqOscillatorRead ch target) := ⟨no_word _, queue_untouched _⟩
theorem vernierMove (c : Chan) : Statement (.vernierMove c) := ⟨no_word _, queue_untouched _⟩
theorem leaseLapse (e : EngineId) : Statement (.leaseLapse e) := ⟨no_word _, queue_untouched _⟩
theorem engineFirstRenewal (e : EngineId) : Statement (.engineFirstRenewal e) := ⟨no_word _, queue_untouched _⟩
theorem nop (k : CmdSlot) : Statement (.nop k) := ⟨no_word _, queue_untouched _⟩
theorem fence (k : CmdSlot) : Statement (.fence k) := ⟨no_word _, queue_untouched _⟩
theorem cancel (k : CmdSlot) : Statement (.cancel k) := ⟨no_word _, queue_untouched _⟩
theorem memWrite (k : CmdSlot) : Statement (.memWrite k) := ⟨no_word _, queue_untouched _⟩
theorem memRead (k : CmdSlot) : Statement (.memRead k) := ⟨no_word _, queue_untouched _⟩
theorem memFill (k : CmdSlot) : Statement (.memFill k) := ⟨no_word _, queue_untouched _⟩
theorem planLoad (k : CmdSlot) (rd : ReadOutcome) : Statement (.planLoad k rd) := ⟨no_word _, queue_untouched _⟩
theorem planRetire (k : CmdSlot) : Statement (.planRetire k) := ⟨no_word _, queue_untouched _⟩
theorem tableLoad (k : CmdSlot) (linkErr : Bool) : Statement (.tableLoad k linkErr) := ⟨no_word _, queue_untouched _⟩
theorem siteStart (k : CmdSlot) : Statement (.siteStart k) := ⟨no_word _, queue_untouched _⟩
theorem siteStop (k : CmdSlot) : Statement (.siteStop k) := ⟨no_word _, queue_untouched _⟩
theorem sitePark (k : CmdSlot) : Statement (.sitePark k) := ⟨no_word _, queue_untouched _⟩
theorem siteReset (k : CmdSlot) : Statement (.siteReset k) := ⟨no_word _, queue_untouched _⟩
theorem trigArm (k : CmdSlot) : Statement (.trigArm k) := ⟨no_word _, queue_untouched _⟩
theorem trigDisarm (k : CmdSlot) : Statement (.trigDisarm k) := ⟨no_word _, queue_untouched _⟩
theorem acqRead (k : CmdSlot) : Statement (.acqRead k) := ⟨no_word _, queue_untouched _⟩
theorem ddsLoad (k : CmdSlot) (linkErr : Bool) : Statement (.ddsLoad k linkErr) := ⟨no_word _, queue_untouched _⟩
theorem ddsStart (k : CmdSlot) : Statement (.ddsStart k) := ⟨no_word _, queue_untouched _⟩
theorem ddsStop (k : CmdSlot) : Statement (.ddsStop k) := ⟨no_word _, queue_untouched _⟩
theorem calRun (k : CmdSlot) : Statement (.calRun k) := ⟨no_word _, queue_untouched _⟩
theorem calCommit (k : CmdSlot) : Statement (.calCommit k) := ⟨no_word _, queue_untouched _⟩
theorem eyeScan (k : CmdSlot) : Statement (.eyeScan k) := ⟨no_word _, queue_untouched _⟩
theorem eyeScanPoint (c : Chan) (high low : Nat) (t : Grain) : Statement (.eyeScanPoint c high low t) := ⟨no_word _, queue_untouched _⟩
theorem timeSet (k : CmdSlot) : Statement (.timeSet k) := ⟨no_word _, queue_untouched _⟩
theorem timeAdjust (k : CmdSlot) : Statement (.timeAdjust k) := ⟨no_word _, queue_untouched _⟩
theorem cfgSave (k : CmdSlot) (written : Bool) : Statement (.cfgSave k written) := ⟨no_word _, queue_untouched _⟩
theorem vec (n : SiteId) : Statement (.vec n) := ⟨no_word _, queue_untouched _⟩
theorem loop (n : SiteId) : Statement (.loop n) := ⟨no_word _, queue_untouched _⟩
theorem endloop (n : SiteId) : Statement (.endloop n) := ⟨no_word _, queue_untouched _⟩
theorem call (n : SiteId) : Statement (.call n) := ⟨no_word _, queue_untouched _⟩
theorem ret (n : SiteId) : Statement (.ret n) := ⟨no_word _, queue_untouched _⟩
theorem jump (n : SiteId) : Statement (.jump n) := ⟨no_word _, queue_untouched _⟩
theorem matchIns (n : SiteId) : Statement (.matchIns n) := ⟨no_word _, queue_untouched _⟩
theorem matchDecision (n : SiteId) : Statement (.matchDecision n) := ⟨no_word _, queue_untouched _⟩
theorem waitTrig (n : SiteId) : Statement (.waitTrig n) := ⟨no_word _, queue_untouched _⟩
theorem waitTrigSatisfied (n : SiteId) : Statement (.waitTrigSatisfied n) := ⟨no_word _, queue_untouched _⟩
theorem waitTimeout (n : SiteId) : Statement (.waitTimeout n) := ⟨no_word _, queue_untouched _⟩
theorem signal (n : SiteId) : Statement (.signal n) := ⟨no_word _, queue_untouched _⟩
theorem sync (n : SiteId) : Statement (.sync n) := ⟨no_word _, queue_untouched _⟩
theorem syncArrival (n : SiteId) : Statement (.syncArrival n) := ⟨no_word _, queue_untouched _⟩
theorem syncRelease (p : PlanSlot) (b : Fin 32) : Statement (.syncRelease p b) := ⟨no_word _, queue_untouched _⟩
theorem syncTimeout (n : SiteId) : Statement (.syncTimeout n) := ⟨no_word _, queue_untouched _⟩
theorem setTs (n : SiteId) : Statement (.setTs n) := ⟨no_word _, queue_untouched _⟩
theorem mark (n : SiteId) : Statement (.mark n) := ⟨no_word _, queue_untouched _⟩
theorem park (n : SiteId) : Statement (.park n) := ⟨no_word _, queue_untouched _⟩
theorem parkExpiry (n : SiteId) : Statement (.parkExpiry n) := ⟨no_word _, queue_untouched _⟩
theorem halt (n : SiteId) : Statement (.halt n) := ⟨no_word _, queue_untouched _⟩
theorem illegalOpcode (n : SiteId) : Statement (.illegalOpcode n) := ⟨no_word _, queue_untouched _⟩
theorem siteRunBegin (n : SiteId) : Statement (.siteRunBegin n) := ⟨no_word _, queue_untouched _⟩
theorem bundleRead (n : SiteAt) : Statement (.bundleRead n) := ⟨no_word _, queue_untouched _⟩
theorem issueStarved (n : SiteId) : Statement (.issueStarved n) := ⟨no_word _, queue_untouched _⟩
theorem vectorPlayed (n : SiteId) (obs : List Obs) : Statement (.vectorPlayed n obs) := ⟨no_word _, queue_untouched _⟩
theorem stallPointReached (n : SiteId) : Statement (.stallPointReached n) := ⟨no_word _, queue_untouched _⟩
theorem siteStopEffect (n : SiteId) : Statement (.siteStopEffect n) := ⟨no_word _, queue_untouched _⟩
theorem siteParkLimit (n : SiteId) : Statement (.siteParkLimit n) := ⟨no_word _, queue_untouched _⟩
theorem siteCompletion (n : SiteId) : Statement (.siteCompletion n) := ⟨no_word _, queue_untouched _⟩
theorem sableWriteSlot (w : Fin 32) : Statement (.sableWriteSlot w) := ⟨no_word _, queue_untouched _⟩
theorem trigInEdge (pin : Fin 4) (g : Grain) : Statement (.trigInEdge pin g) := ⟨no_word _, queue_untouched _⟩
theorem holdoffExpiry (u : UnitId) : Statement (.holdoffExpiry u) := ⟨no_word _, queue_untouched _⟩
theorem autoTrigger (u : UnitId) : Statement (.autoTrigger u) := ⟨no_word _, queue_untouched _⟩
theorem groupRearm (u : UnitId) : Statement (.groupRearm u) := ⟨no_word _, queue_untouched _⟩
theorem ddsRunBegin (g : GenId) : Statement (.ddsRunBegin g) := ⟨no_word _, queue_untouched _⟩
theorem ddsSegmentBoundary (g : GenId) : Statement (.ddsSegmentBoundary g) := ⟨no_word _, queue_untouched _⟩
theorem ddsJumpWrite (g : GenId) (v : W32) (t : Grain) : Statement (.ddsJumpWrite g v t) := ⟨no_word _, queue_untouched _⟩
theorem ppsInEdge (t : Grain) : Statement (.ppsInEdge t) := ⟨no_word _, queue_untouched _⟩
theorem ppsOutEdge (t : Grain) : Statement (.ppsOutEdge t) := ⟨no_word _, queue_untouched _⟩
theorem ptpEventMessage (m : PtpEvent) (p : PtpAt) : Statement (.ptpEventMessage m p) := ⟨no_word _, queue_untouched _⟩
theorem timeStepApply : Statement .timeStepApply := ⟨no_word _, queue_untouched _⟩
theorem sourceLost : Statement .sourceLost := ⟨no_word _, queue_untouched _⟩
theorem traceableHoldExpiry : Statement .traceableHoldExpiry := ⟨no_word _, queue_untouched _⟩
theorem refLost : Statement .refLost := ⟨no_word _, queue_untouched _⟩
theorem refInReturn : Statement .refInReturn := ⟨no_word _, queue_untouched _⟩
theorem tsRingEntryDrop : Statement .tsRingEntryDrop := ⟨no_word _, queue_untouched _⟩
theorem halsoSpanMark (p : PortId) (m : MarkIn) : Statement (.halsoSpanMark p m) := ⟨no_word _, queue_untouched _⟩
theorem halsoTimeTick (p : PortId) (m : HalsoTick) (t : Grain) : Statement (.halsoTimeTick p m t) := ⟨no_word _, queue_untouched _⟩
theorem halsoServoOffset (p : PortId) (dev : BitVec 4) (state : BitVec 3) (traceable : Bool) (e : BitVec 48) : Statement (.halsoServoOffset p dev state traceable e) := ⟨no_word _, queue_untouched _⟩
theorem halsoArm (p : PortId) (dev : BitVec 4) (barrier : Fin 32) (span : BitVec 32) : Statement (.halsoArm p dev barrier span) := ⟨no_word _, queue_untouched _⟩
theorem halsoTrigger (p : PortId) (dev : BitVec 4) (m : HalsoTrig) (span : BitVec 18) (cycle : BitVec 8) (t : Grain) : Statement (.halsoTrigger p dev m span cycle t) := ⟨no_word _, queue_untouched _⟩
theorem halsoMatchBroadcast (p : PortId) (dev : BitVec 4) (group : BitVec 4) (hit : Bool) (cycle : BitVec 25) : Statement (.halsoMatchBroadcast p dev group hit cycle) := ⟨no_word _, queue_untouched _⟩
theorem halsoFailMerge (p : PortId) (group : CntId) (m : MergeIn) (ended : Bool) (span : BitVec 48) :
    Statement (.halsoFailMerge p group m ended span) := ⟨no_word _, queue_untouched _⟩
theorem halsoHello (p : PortId) (h : Hello) : Statement (.halsoHello p h) := ⟨no_word _, queue_untouched _⟩
theorem halsoJoin : Statement .halsoJoin := ⟨no_word _, queue_untouched _⟩
theorem halsoUpstreamLost (otherSide : Bool) : Statement (.halsoUpstreamLost otherSide) := ⟨no_word _, queue_untouched _⟩
theorem uiPllUnlock (o : OctetId) (t : Grain) : Statement (.uiPllUnlock o t) := ⟨no_word _, queue_untouched _⟩
theorem uiPllLock (o : OctetId) (t : Grain) : Statement (.uiPllLock o t) := ⟨no_word _, queue_untouched _⟩
theorem lockWindowEnd (c : Chan) (ferr : Int) (w : CdrWindow) : Statement (.lockWindowEnd c ferr w) := ⟨no_word _, queue_untouched _⟩
theorem phaseLimit (c : Chan) (upper : Bool) (t : Grain) : Statement (.phaseLimit c upper t) := ⟨no_word _, queue_untouched _⟩
theorem losAssert (c : Chan) (t : Grain) : Statement (.losAssert c t) := ⟨no_word _, queue_untouched _⟩
theorem losDeassert (c : Chan) (t : Grain) : Statement (.losDeassert c t) := ⟨no_word _, queue_untouched _⟩
theorem linkMarkEcho (o : OctetId) (lane : Fin 4) (rtt : Nat) : Statement (.linkMarkEcho o lane rtt) := ⟨no_word _, queue_untouched _⟩
theorem linkResultWord (o : OctetId) (lane : Fin 4) (slotB : Bool) (w : W32) : Statement (.linkResultWord o lane slotB w) := ⟨no_word _, queue_untouched _⟩
theorem linkResultTimeout (c : Chan) : Statement (.linkResultTimeout c) := ⟨no_word _, queue_untouched _⟩
theorem linkStatusBlock (o : OctetId) (lane : Fin 4) (txLocked : Bool) (faults : BitVec 2) (t : Grain) : Statement (.linkStatusBlock o lane txLocked faults t) := ⟨no_word _, queue_untouched _⟩
theorem calVisit (q : Fin 4) : Statement (.calVisit q) := ⟨no_word _, queue_untouched _⟩
theorem octetDriftEval (o : OctetId) (t : Grain) (readings : List Int) : Statement (.octetDriftEval o t readings) := ⟨no_word _, queue_untouched _⟩
theorem convCheckPeriodic (spread : Nat) (mean : Int) : Statement (.convCheckPeriodic spread mean) := ⟨no_word _, queue_untouched _⟩
theorem calStepEnd (r : StepIn) : Statement (.calStepEnd r) := ⟨no_word _, queue_untouched _⟩
theorem ageingReading (o : OctetId) (bp : Nat) : Statement (.ageingReading o bp) := ⟨no_word _, queue_untouched _⟩
theorem ageingLogAppend (ceilingFall : Bool) : Statement (.ageingLogAppend ceilingFall) := ⟨no_word _, queue_untouched _⟩
theorem calAdcGo (v : Wr) : Statement (.calAdcGo v) := ⟨no_word _, queue_untouched _⟩
theorem calAdcDone (codes : List (BitVec 12)) : Statement (.calAdcDone codes) := ⟨no_word _, queue_untouched _⟩
theorem monSample (m : MonId) (uv : Int) : Statement (.monSample m uv) := ⟨no_word _, queue_untouched _⟩
theorem calMonCfgWrite (i : MonId) (v : W32) : Statement (.calMonCfgWrite i v) := ⟨no_word _, queue_untouched _⟩
theorem thermSample (temps : List (BitVec 12)) : Statement (.thermSample temps) := ⟨no_word _, queue_untouched _⟩
theorem doorbellWrite (off : BitVec 19) (size : Nat) (v : W64) : Statement (.doorbellWrite off size v) := ⟨no_word _, queue_untouched _⟩
theorem descriptorFetch (data : List (Option Desc)) : Statement (.descriptorFetch data) := ⟨no_word _, queue_untouched _⟩
theorem commandDispatch : Statement .commandDispatch := ⟨no_word _, queue_untouched _⟩
theorem completionRelease (k : CmdSlot) : Statement (.completionRelease k) := ⟨no_word _, queue_untouched _⟩
theorem spillMove (q : QueueId) : Statement (.spillMove q) := ⟨no_word _, queue_untouched _⟩
theorem postedCreditTimeout (k : CmdSlot) : Statement (.postedCreditTimeout k) := ⟨no_word _, queue_untouched _⟩
theorem msixModerationTimeout (q : QueueId) : Statement (.msixModerationTimeout q) := ⟨no_word _, queue_untouched _⟩
theorem qctxCfgWrite (q : QueueId) (reg : Fin 5) (w : Wr) : Statement (.qctxCfgWrite q reg w) := ⟨no_word _, queue_untouched _⟩
theorem hqmSpillWrite (w : Wr) : Statement (.hqmSpillWrite w) := ⟨no_word _, queue_untouched _⟩
theorem hqmCtrlWrite (v : W32) : Statement (.hqmCtrlWrite v) := ⟨no_word _, queue_untouched _⟩
theorem standbyRequest : Statement .standbyRequest := ⟨no_word _, queue_untouched _⟩
theorem deepStandbyRequest : Statement .deepStandbyRequest := ⟨no_word _, queue_untouched _⟩
theorem wakeRequest : Statement .wakeRequest := ⟨no_word _, queue_untouched _⟩
theorem wakeComplete : Statement .wakeComplete := ⟨no_word _, queue_untouched _⟩
theorem softResetRequest (key : BitVec 8) : Statement (.softResetRequest key) := ⟨no_word _, queue_untouched _⟩
theorem octetDisableRequest (o : OctetId) : Statement (.octetDisableRequest o) := ⟨no_word _, queue_untouched _⟩
theorem octetEnable (o : OctetId) : Statement (.octetEnable o) := ⟨no_word _, queue_untouched _⟩
theorem pinCfgWrite (c : Chan) (cfg aux ctle : Option W32) : Statement (.pinCfgWrite c cfg aux ctle) := ⟨no_word _, queue_untouched _⟩
theorem pinLinkWrite (o : OctetId) (w : Wr) : Statement (.pinLinkWrite o w) := ⟨no_word _, queue_untouched _⟩
theorem timingOctetCfgWrite (o : OctetId) (v : W32) : Statement (.timingOctetCfgWrite o v) := ⟨no_word _, queue_untouched _⟩
theorem timingPinDeskewWrite (c : Chan) (v : W32) : Statement (.timingPinDeskewWrite c v) := ⟨no_word _, queue_untouched _⟩
theorem dramCtrlWrite (v : W32) : Statement (.dramCtrlWrite v) := ⟨no_word _, queue_untouched _⟩
theorem timeCfgWrite (w : Wr) : Statement (.timeCfgWrite w) := ⟨no_word _, queue_untouched _⟩
theorem timePtpAsymWrite (w : Wr) : Statement (.timePtpAsymWrite w) := ⟨no_word _, queue_untouched _⟩
theorem halsoCableWrite (p : PortId) (w : Wr) : Statement (.halsoCableWrite p w) := ⟨no_word _, queue_untouched _⟩
theorem timeNowRead (t : Grain) : Statement (.timeNowRead t) := ⟨no_word _, queue_untouched _⟩
theorem perfCntRead (n : CntId) : Statement (.perfCntRead n) := ⟨no_word _, queue_untouched _⟩
theorem perfSelWrite (n : CntId) (v : W32) : Statement (.perfSelWrite n v) := ⟨no_word _, queue_untouched _⟩
theorem perfFreeze (v : W32) : Statement (.perfFreeze v) := ⟨no_word _, queue_untouched _⟩
theorem perfCounterOverflow (n : CntId) (occ : Nat) : Statement (.perfCounterOverflow n occ) := ⟨no_word _, queue_untouched _⟩
theorem snapshotRequest (v : W32) : Statement (.snapshotRequest v) := ⟨no_word _, queue_untouched _⟩
theorem perfSnapshot : Statement .perfSnapshot := ⟨no_word _, queue_untouched _⟩
theorem perfPsCfgWrite (w : Wr) : Statement (.perfPsCfgWrite w) := ⟨no_word _, queue_untouched _⟩
theorem preciseSampleEntry (r : PsEnd) : Statement (.preciseSampleEntry r) := ⟨no_word _, queue_untouched _⟩
theorem registerWrite (off : BitVec 22) (size : Nat) (v : W64) : Statement (.registerWrite off size v) := ⟨no_word _, queue_untouched _⟩
theorem powerOnReset : Statement .powerOnReset := ⟨no_word _, queue_untouched _⟩
theorem resetNAssert : Statement .resetNAssert := ⟨no_word _, queue_untouched _⟩
theorem resetNDeassert : Statement .resetNDeassert := ⟨no_word _, queue_untouched _⟩
theorem bootComplete (b : BootIn) : Statement (.bootComplete b) := ⟨no_word _, queue_untouched _⟩
theorem perstN : Statement .perstN := ⟨no_word _, queue_untouched _⟩
theorem flr : Statement .flr := ⟨no_word _, queue_untouched _⟩
theorem powerOnResetEnd : Statement .powerOnResetEnd := ⟨no_word _, queue_untouched _⟩
theorem halsoLinkDown (p : PortId) (lanes : BitVec 2) : Statement (.halsoLinkDown p lanes) := ⟨no_word _, queue_untouched _⟩
theorem halsoLanesLocked (p : PortId) : Statement (.halsoLanesLocked p) := ⟨no_word _, queue_untouched _⟩
theorem ptpGeneralMessage (m : PtpGeneral) (p : PtpAt) : Statement (.ptpGeneralMessage m p) := ⟨no_word _, queue_untouched _⟩
theorem pllLockTimeout : Statement .pllLockTimeout := ⟨no_word _, queue_untouched _⟩
theorem bestEffortRequestServed (ch : DramCh) (ready : List Nat) (data : Desc) (err : Bool) (t : Grain) : Statement (.bestEffortRequestServed ch ready data err t) := ⟨no_word _, queue_untouched _⟩

end Sys2Proof.Laws.NoWord
end

