-- ==== Sys2Proof/Laws/SiteLog.lean ====
section
/-!
SUPPORT. What the fail log, the trigger units and the event latches can do to a site: what waits for the log, the
latches, and the hit and suspect mark of a probe cycle, and nothing else of it; and what ending a run leaves.
-/

namespace Sys2Proof.Machine

theorem Play.sameBut_refl (p : Play) : p.sameBut p := by
  unfold Play.sameBut
  split
  · exact ⟨_, _, rfl⟩
  · rfl

theorem Play.sameBut_trans {p q r : Play} (h : p.sameBut q) (k : q.sameBut r) : p.sameBut r := by
  unfold Play.sameBut at h
  split at h
  · obtain ⟨a, b, rfl⟩ := h
    exact k
  · subst h
    exact k

theorem Site.sameRun_refl (x : Site) : x.sameRun x := ⟨_, _, _, rfl, Play.sameBut_refl _⟩

theorem Site.sameRun_trans {x y z : Site} (h : x.sameRun y) (k : y.sameRun z) : x.sameRun z := by
  obtain ⟨a, b, c, rfl, hp⟩ := h
  obtain ⟨a', b', c', rfl, hq⟩ := k
  exact ⟨_, _, _, rfl, Play.sameBut_trans hp hq⟩

/-- Every site of t is that of s, but for log, latches and probe marks. -/
def Ran (s t : State) : Prop := ∀ n, (s.site n).sameRun (t.site n)

theorem Ran.refl (s : State) : Ran s s := fun _ => Site.sameRun_refl _

theorem Ran.trans {s t u : State} (h : Ran s t) (k : Ran t u) : Ran s u := fun n => Site.sameRun_trans (h n) (k n)

theorem Ran.ofSites {s t : State} (h : t.sites = s.sites) : Ran s t := fun n => by
  have : t.site n = s.site n := by unfold State.site; rw [h]
  rw [this]
  exact Site.sameRun_refl _

theorem Ran.ofKept {m : List Part} {s t : State} (h : Kept m s t) (hm : Part.sites ∉ m) : Ran s t :=
  Ran.ofSites (h.same .sites hm)

variable {s0 s : State}

theorem Ran.foldl {α : Type} (f : State → α → State) (l : List α) (hf : ∀ t a, Ran s0 t → Ran s0 (f t a))
    (h : Ran s0 s) : Ran s0 (l.foldl f s) := by
  induction l generalizing s with
  | nil => exact h
  | cons a l ih => exact ih (hf s a h)

theorem ran_modSite (n : Nat) (f : Site → Site) (hf : (s.site n).sameRun (f (s.site n))) (h : Ran s0 s) :
    Ran s0 (modSite n f s) := h.trans fun j => by
  by_cases e : j = n
  · subst e
    rw [modSite_site_self]
    exact hf
  · rw [modSite_site_ne _ _ _ _ e]
    exact Site.sameRun_refl _

theorem ran_modCap (f : Cap → Cap) (h : Ran s0 s) : Ran s0 (modCap f s) := h
theorem ran_modUnit (n : Nat) (f : TrigUnit → TrigUnit) (h : Ran s0 s) : Ran s0 (modUnit n f s) := h
theorem ran_modGroup (n : Nat) (f : Group → Group) (h : Ran s0 s) : Ran s0 (modGroup n f s) := h
theorem ran_emit (o : Out) (h : Ran s0 s) : Ran s0 (emit o s) := h
theorem ran_countVector (n a b c : Nat) (h : Ran s0 s) : Ran s0 (countVector n a b c s) := h
theorem ran_holdFor (u t : Nat) (sm : Option Sample) (h : Ran s0 s) : Ran s0 (holdFor u t sm s) := h

theorem ran_perfEvent (c u o : Nat) (h : Ran s0 s) : Ran s0 (perfEvent c u o s) :=
  h.trans (Ran.ofSites (signalled_sites (signalled_perfEvent c u o s)))

theorem ran_jumpSource (k i t : Nat) (h : Ran s0 s) : Ran s0 (jumpSource k i t s) :=
  h.trans (Ran.ofKept (kept_jumpSource (m := [.dds]) k i t (fun _ h => h) (Kept.refl _ s)) (by decide))

theorem ran_sendFiring (g : Group) (u t : Nat) (h : Ran s0 s) : Ran s0 (sendFiring g u t s) :=
  h.trans (Ran.ofKept (kept_sendFiring (m := [.out]) g u t (fun _ h => h) (Kept.refl _ s)) (by decide))

theorem ran_missTrigger (m u : Nat) (h : Ran s0 s) : Ran s0 (missTrigger m u s) :=
  h.trans (Ran.ofKept (kept_missTrigger (m := [.sys, .hqm, .cap, .perf, .out]) m u (fun _ h => h) (Kept.refl _ s))
    (by decide))

theorem ran_trigger (m t : Nat) (a b : BitVec 16) (f : Bool) (h : Ran s0 s) : Ran s0 (trigger m t a b f s) :=
  h.trans (Ran.ofKept (kept_trigger (m := [.cap]) m t a b f (fun _ h => h) (Kept.refl _ s)) (by decide))

theorem ran_settleTrigger (m : Nat) (h : Ran s0 s) : Ran s0 (settleTrigger m s) :=
  h.trans (Ran.ofKept (kept_settleTrigger (m := [.cap]) m (fun _ h => h) (Kept.refl _ s)) (by decide))

theorem ran_closeIfDone (m : Nat) (h : Ran s0 s) : Ran s0 (closeIfDone m s) :=
  h.trans (Ran.ofKept (kept_closeIfDone (m := [.cap]) m (fun _ h => h) (Kept.refl _ s)) (by decide))

theorem ran_resolveShut (m : Nat) (h : Ran s0 s) : Ran s0 (resolveShut m s) :=
  h.trans (Ran.ofKept (kept_resolveShut (m := [.hqm, .cap]) m (fun _ h => h) (Kept.refl _ s)) (by decide))

theorem ran_stageEntry (n : Nat) (f : Bool) (b : BitVec 256) (p : At) (h : Ran s0 s) :
    Ran s0 (stageEntry n f b p s) :=
  h.trans (Ran.ofKept (kept_stageEntry (m := [.sys, .hqm, .cap, .perf, .out]) n f b p (fun _ h => h)
    (Kept.refl _ s)) (by decide))

theorem ran_stageFail (n : Nat) (b : BitVec 256) (p : At) (h : Ran s0 s) : Ran s0 (stageFail n b p s) :=
  h.trans (Ran.ofKept (kept_stageFail (m := [.sys, .hqm, .cap, .perf, .out]) n b p (fun _ h => h)
    (Kept.refl _ s)) (by decide))

theorem ran_susEntry (n ty : Nat) (u : Bool) (p : At) (e : SusEnt) (h : Ran s0 s) :
    Ran s0 (susEntry n ty u p s e) := ran_stageEntry _ _ _ _ h

theorem ran_countPin (r : PinRes) (h : Ran s0 s) : Ran s0 (countPin s r) :=
  h.trans (Ran.ofKept (kept_countPin (m := [.sys, .hqm, .pins, .perf, .out]) r (fun _ h => h) (Kept.refl _ s))
    (by decide))

theorem ran_firstFail (n : Nat) (p : At) (c : Nat) (h : Ran s0 s) : Ran s0 (firstFail n p c s) :=
  h.trans (Ran.ofKept (kept_firstFail (m := [.cap, .halso, .out]) n p c (fun _ h => h) (Kept.refl _ s)) (by decide))

theorem ran_finishRun (n : Nat) (p : At) (b : Bool) (st re : BitVec 8) (u : Bool) (h : Ran s0 s) :
    Ran s0 (finishRun n p b st re u s) :=
  h.trans (Ran.ofKept (kept_finishRun (m := [.sys, .hqm, .cap, .perf, .out]) n p b st re u (fun _ h => h)
    (Kept.refl _ s)) (by decide))

theorem ran_sendHit (d : MatchDesc) (b : Bool) (c : Nat) (h : Ran s0 s) : Ran s0 (sendHit d b c s) :=
  h.trans (Ran.ofKept (kept_sendHit (m := [.out]) d b c (fun _ h => h) (Kept.refl _ s)) (by decide))

theorem ran_parkPins (n : Nat) (t : Int) (h : Ran s0 s) : Ran s0 (parkPins n t s) :=
  h.trans (Ran.ofKept (kept_parkPins (m := [.octets, .pins, .out]) n t (fun _ h => h) (Kept.refl _ s)) (by decide))

theorem ran_setLatches (i t : Nat) (h : Ran s0 s) : Ran s0 (setLatches i t s) := by
  refine Ran.foldl _ _ (fun x n hx => ?_) h
  exact ran_modSite n _ ⟨_, _, _, rfl, Play.sameBut_refl _⟩ hx

theorem ran_fireEffects (m u t : Nat) (h : Ran s0 s) : Ran s0 (fireEffects m u t s) := by
  unfold fireEffects
  dsimp only
  repeat' first
    | with_reducible assumption | with_reducible apply ran_sendFiring | with_reducible apply ran_jumpSource
    | with_reducible apply ran_emit | with_reducible apply ran_setLatches | with_reducible apply ran_perfEvent | split

theorem ran_conditionMet (u t : Nat) (h : Ran s0 s) : Ran s0 (conditionMet u t s) := by
  unfold conditionMet
  dsimp only
  repeat' first
    | with_reducible assumption | with_reducible apply ran_missTrigger | with_reducible apply ran_trigger
    | with_reducible apply ran_fireEffects | with_reducible apply ran_modUnit | with_reducible apply ran_modGroup
    | with_reducible apply ran_holdFor | split

theorem ran_sourceEvent (src sel t : Nat) (h : Ran s0 s) : Ran s0 (sourceEvent src sel t s) := by
  refine Ran.foldl _ _ (fun x u hx => ?_) h
  dsimp only
  split
  · exact ran_conditionMet u t hx
  · exact hx

theorem ran_sampleVector (n t v : Nat) (cls : Nat → Option Cls) (marks : List (Nat × Nat)) (h : Ran s0 s) :
    Ran s0 (sampleVector n t v cls marks s) := by
  unfold sampleVector
  dsimp only
  repeat' first
    | with_reducible assumption | with_reducible apply ran_closeIfDone | with_reducible apply ran_resolveShut | with_reducible apply ran_settleTrigger
    | with_reducible apply ran_conditionMet | with_reducible apply ran_modUnit | with_reducible apply ran_modGroup
    | split | with_reducible apply Ran.foldl | (intro t a ht; try dsimp only)

theorem ran_noteProbe (n di : Nat) (rs : List PinRes) (h : Ran s0 s) : Ran s0 (noteProbe n di rs s) := by
  unfold noteProbe
  dsimp only
  split
  next hp =>
    refine ran_sendHit _ _ _ (ran_modSite n _ ⟨_, _, _, rfl, ?_⟩ h)
    rw [hp]
    exact ⟨_, _, rfl⟩
  · exact h

theorem ran_finishVec (n : Nat) (p : At) (ts : Nat) (untr : Bool) (probe : Option Nat) (logM : Bool)
    (rs : List PinRes) (opens closes : List SusEnt) (h : Ran s0 s) :
    Ran s0 (finishVec n p ts untr probe logM rs opens closes s) := by
  unfold finishVec
  dsimp only
  repeat' first
    | with_reducible assumption | with_reducible apply ran_sampleVector | with_reducible apply ran_noteProbe
    | with_reducible apply ran_susEntry | with_reducible apply ran_stageFail | with_reducible apply ran_firstFail
    | with_reducible apply ran_countPin | with_reducible apply ran_countVector
    | split | with_reducible apply Ran.foldl | (intro t a ht; try dsimp only)

theorem ran_flush (n f : Nat) (h : Ran s0 s) : Ran s0 (flush n f s) := by
  induction f generalizing s with
  | zero => exact h
  | succ f ih =>
    have hd : ∀ r, Ran s0 (modSite n (fun x => { x with held := r }) s) := fun r =>
      ran_modSite n _ ⟨_, _, _, rfl, Play.sameBut_refl _⟩ h
    unfold flush
    dsimp only
    split
    · exact h
    · split
      · split
        · exact h
        · exact ih (ran_finishVec _ _ _ _ _ _ _ _ _ (hd _))
      · split
        · exact h
        · exact ih (ran_stageEntry _ _ _ _ (hd _))
      · exact ih (ran_finishRun _ _ _ _ _ _ (hd _))

theorem ran_hold (n : Nat) (x : Held) (h : Ran s0 s) : Ran s0 (hold n x s) :=
  ran_flush n _ (ran_modSite n _ ⟨_, _, _, rfl, Play.sameBut_refl _⟩ h)

theorem ran_halsoEvent (m t : Nat) (h : Ran s0 s) : Ran s0 (halsoEvent m t s) :=
  ran_jumpSource _ _ _ (ran_sourceEvent _ _ _ (ran_setLatches _ _ h))

/-- What the end of a run leaves of its site and of the others. -/
theorem ranOut_endRun (n : Nat) (e : EndInfo) (stopped : Bool) (t addr ovl : Nat) :
    ranOut n e s (endRun n e stopped t addr ovl s) := by
  unfold endRun
  dsimp only
  have h2 : ∀ (l : List Nat) (u : State), (l.foldl (fun u c => modPin c (fun p =>
      { p.disturb with suspect := p.suspect.filter fun v => v.site != n }) u) u).sites = u.sites := by
    intro l
    induction l with
    | nil => intro u; rfl
    | cons a l ih => intro u; rw [List.foldl_cons, ih]; rfl
  have h1 : (parkPins n t s).sites = s.sites :=
    (kept_parkPins (m := [.octets, .pins, .out]) n t (fun _ h => h) (Kept.refl _ s)).same .sites (by decide)
  generalize hs2 : ((s.site n).chans.foldl (fun u c => modPin c (fun p =>
      { p.disturb with suspect := p.suspect.filter fun v => v.site != n }) u) (parkPins n t s)) = s2
  have e2 : ∀ j, s2.site j = s.site j := fun j => by
    unfold State.site
    rw [← hs2, h2, h1]
  generalize hs3 : modSite n _ s2 = s3
  have r := ran_flush n (s3.site n).held.length (Ran.refl s3)
  obtain ⟨a, b, c, hn, hp⟩ := r n
  rw [← hs3, modSite_site_self, e2] at hp hn
  have hc : c = .ended := hp
  unfold ranOut
  rw [← hs3] at r ⊢
  rw [modSite_site_self, e2, hn, hc]
  refine ⟨rfl, rfl, rfl, rfl, rfl, rfl, rfl, rfl, rfl, fun j hj => ?_⟩
  have := r j
  rw [modSite_site_ne _ _ _ _ hj, e2] at this
  rw [modSite_site_self, e2] at this
  exact this

end Sys2Proof.Machine
end

