-- ==== Sys2Proof/Tests/Slice0.lean ====
section
/-!
SUPPORT. Tests. Small states built by helpers; an ill-formed term that each check refuses; values of the spec's own
tables and examples; and, for every statement of Obligations.lean with hypotheses, a concrete state and operands
that meet them together, clause by clause (the theorems test_meets_…; h1, h2, … number the clauses).
-/

namespace Sys2Proof.Tests

open Sys2Proof.Machine

set_option Elab.async false

/-! ## States -/

/-- A device in Ready at span 9 with DRAM usable and the spill ring enabled. -/
def ready : State :=
  { State.reset with
    sys := { State.reset.sys with state := .ready, por := false, railsGood := true, alertHeld := false }
    dram := { State.reset.dram with enabled := true }
    hqm := { State.reset.hqm with spillEn := true }
    time := { State.reset.time with span := 9, ticked := true, refPresent := true, refLostNow := false } }

/-- Slot 0 holds a command of an opcode with a payload, dispatched in the span before. -/
def withCmd (op payload : Nat) (s : State) : State :=
  modCmd 0 (fun _ => { ph := .dispatched, desc := BitVec.ofNat 512 (op + payload * 2 ^ 128), dspan := 8 }) s

/-- Data memory of a site that owns the channels of a number. -/
def dmemOf (pins : Nat) : Mem := Mem.store (Mem.store [] 0xC00 (leBytes 16 pins)) 0xC38 (leBytes 2 256)

/-- A running site of plan 0 that owns ch0. -/
def runner : Site :=
  { mode := 1, running := true, plan := 0, dmem := dmemOf 1, issuing := true, play := .run, nextT := 9 * 524288,
    cmd := some 0, vcount := 3 }

/-- It is idle. -/
def idler : Site := { mode := 1, plan := 0, dmem := dmemOf 1 }

/-- Plan 0 with site 0. -/
def plan0 : Plan := { sites := [0], rates := List.replicate 16 1000 }

/-- A state in which slot 0 holds a plan. -/
def withPlan (p : Plan) (s : State) : State := { s with vs := { s.vs with plans := [(0, some p)] } }

/-- A state in which site 0, of plan 0, is as given. -/
def withSite (x : Site) (s : State) : State := modSite 0 (fun _ => x) (withPlan plan0 s)

/-- Site 0 runs with an item queued. -/
def queued (i : QItem) : State := withSite { runner with q := [i] } ready

/-- Site 0 plays so. -/
def playing (p : Play) : State := withSite { runner with play := p } ready

/-- Site 0 stands at a word of its instruction memory. -/
def atWord (w : Nat) (x : Site) : State := withSite { x with pc := 5, imem := [(5, BitVec.ofNat 64 w)] } ready

/-- A state with its time base changed. -/
def tm (f : Time → Time) (s : State) : State := { s with time := f s.time }

/-- A state with its Halso block changed, the link enabled. -/
def ha (f : Halso → Halso) (s : State) : State := { s with halso := f { s.halso with cfg := 0x400800 } }

/-- A whole-register write. -/
def wr (v : Nat) : Wr := { val := BitVec.ofNat 64 v }

/-- The outcome is a next state with a property. -/
def nextHas (r : Host.Outcome State Fault Refusal) (f : State → Bool) : Bool :=
  match r with
  | .next t => f t
  | _ => false

/-- DRAM disabled. -/
def noDram (s : State) : State := modDram (fun d => { d with enabled := false }) s

/-- A device state. -/
def inState (d : DevState) (s : State) : State := { s with sys := { s.sys with state := d } }

/-- A bundle of two vectors at address 5, read or not. -/
def bundleAt (read : Bool) : QItem := .bundle 5 0 0 0 2 0 read false [] none

/-- Site 0 plays its bundle. -/
def runs : State := queued (bundleAt true)

/-! ## Ill-formed terms, one for each check of WellFormed -/

theorem test_illformed_tick : Instr.wellFormed (.spanTick { missed := [3, 3] }) = false ∧
    Instr.wellFormed (.spanTick { busy := [(1, 1), (1, 2)] }) = false ∧
    Instr.wellFormed (.spanTick { dfe := [{ ch := 1, c := 0, n := 1, changed := 2, split := [] }] }) = false ∧
    Instr.wellFormed (.spanTick { dfe := List.replicate 2 { ch := 1, c := 0, n := 1, changed := 1, split := [] } }) = false := by
  decide

theorem test_illformed_sizes : Instr.wellFormed (.registerWrite 0 3 0) = false ∧
    Instr.wellFormed (.doorbellWrite 0 16 0) = false ∧ Instr.wellFormed (.descriptorFetch []) = false ∧
    Instr.wellFormed (.thermSample [1, 2]) = false ∧ Instr.wellFormed (.calAdcDone []) = false ∧
    Instr.wellFormed (.perfCounterOverflow 1 0) = false ∧
    Instr.wellFormed (.octetDriftEval 0 0 (List.replicate 65 0)) = false := by decide

theorem test_illformed_values :
    Instr.wellFormed (.calStepEnd { step := 0, unit := 0, live := false, vals := [] }) = false ∧
    Instr.wellFormed (.lockWindowEnd 0 0 { phase := 40000, sliced := [] }) = false ∧
    Instr.wellFormed (.bootComplete { logSize := 27 }) = false ∧
    Instr.wellFormed (.pinCfgWrite 0 none none none) = false ∧
    Instr.wellFormed (.vectorPlayed 0 [{ ch := 1, cls := [] }, { ch := 1, cls := [] }]) = false ∧
    Instr.wellFormed (.bestEffortRequestServed 0 [4, 4] 0 false 0) = false := by decide

/-- A write that carries no half of its register, in every row that takes one. -/
theorem test_illformed_writes : (let w : Wr := { lo := false, hi := false, val := 0 }
    [Instr.calAdcGo w, .qctxCfgWrite 0 0 w, .hqmSpillWrite w, .pinLinkWrite 0 w, .timeCfgWrite w, .timePtpAsymWrite w,
     .halsoCableWrite 0 w, .perfPsCfgWrite w].map Instr.wellFormed) = List.replicate 8 false := by decide

/-- Nothing spells a command: the table gives its rows no bits. -/
theorem test_no_word : decodeTableWord 8 0 = none ∧ State.withFetchWord ready 8 0 = ready := by decide +kernel

/-! ## Values of the spec's tables and examples -/

/-- Table 4.9. -/
theorem test_octet_ui :
    [16000, 15500, 12800, 8000, 2000, 100].map octetUi = [256, 265, 320, 512, 2048, 40960] := by decide

/-- The example after R189: A = 0x12345640 with 256 B of interleave is channel 6, bank 0 of group 0, row 0x246. -/
theorem test_dram_map : ready.dramMap 0x12345640 = (6, 0, 0x246) := by decide

/-- The example after R240: +1.2 V with g = +33 and o = -4 is code 10,001. -/
theorem test_dac_code : rawCode { gain := 33, off := -4 } (nomCode 0 12000) = 10001 := by decide

/-- The example after R440: c_fab 16,000 with margins +1 and -1, and the margins at which the ceiling falls next. -/
theorem test_ceiling : ceilingAt 16000 1 = 16000 ∧ ceilingAt 16000 (-1) = 15500 ∧ ceilingAt 16000 (-322) = 15500 ∧
    ceilingAt 16000 (-323) = 15000 ∧ nextMargin 16000 (-1) = -323 := by decide

/-- The examples after Table 13.4: SYS_REV of a ZK96-128 and of a ZK96-64 of stepping B1. -/
theorem test_sys_rev : ready.read 0x4 4 = 0x10800142 ∧
    (modSys (fun y => { y with is64 := true }) ready).read 0x4 4 = 0x08400142 := by decide +kernel

/-- Table 3.15: a debt of 5 at 1 times, an MR4 poll of 2 times: debt 10, FORCED. -/
theorem test_refresh_forced : nextHas (exec (.mr4Poll { ch := 0, t := 0 } .x2)
    (modDram (fun d => { d with chans := [(0, { debt := 5 })] }) { ready with time := { ready.time with span := 125 } }))
    (fun t => (t.dram.chans.get 0).debt == 10 && (t.dram.chans.get 0).forced && bit t.sys.irqStatus 2) = true := by decide +kernel

/-- The example after R522: the low part of 0x0001FFFFFFFE is read, and the high part latched. -/
theorem test_counter_read : nextHas (exec (.perfCntRead 12) { ready with perf := { ready.perf with cnts := [(12, { count := 0x0001FFFFFFFE })] } })
    (fun t => (t.perf.cnts.get 12).high == 1 && (t.perf.cnts.get 12).count == 0x0001FFFFFFFE) = true := by decide +kernel

/-- Generator 2 of Table 7.5 at the end of segment 0, with a jump to 5 requested in a cycle of span S + 9. -/
def jumping (cycle : Nat) : State :=
  { ready with dds := { gens := [(2, {
      running := true, cmd := some 0, pc := 2, loops := [(1, 100, 0)], len := 1000,
      segs := [{ t0 := 2 * 524288, on := true, w := 0x19999999999A }], jump := some (9 * 524288 + 2048 * cycle, 5),
      seq := [(0, 0x2000000000000063), (1, 0x1000000000000000), (2, 0x1000000000000001), (3, 0x3000000000000000),
              (5, 0x1000000000000002)],
      seg := [(0, 999), (1, 599 + 2 ^ 32), (2, 1999 + 2 * 2 ^ 32 + 2 ^ 62)],
      freq := [(0, 0x19999999999A), (1, 0x200000000000), (2, 0x0CCCCCCCCCCD)] })] } }

/-- Table 7.6: a request at sample 984 is in time for boundary 1, and segment 2 begins with a = w times 1,000. -/
theorem test_jump_in_time : nextHas (exec (.ddsSegmentBoundary 2) (jumping 176)) (fun t =>
    let g := t.gen 2
    g.pc == 6 && g.loops.isEmpty && g.jumpBoundary == 1 && g.jump.isNone && g.len == 2000 &&
      (g.segs.headD {}).acc == BitVec.ofNat 48 (0x0CCCCCCCCCCD * 1000) && (g.segs.headD {}).n0 == 1000) = true := by
  decide +kernel

/-- The text after Table 7.6: one at sample 985 is late, and segment 1 plays. -/
theorem test_jump_late : nextHas (exec (.ddsSegmentBoundary 2) (jumping 178)) (fun t =>
    let g := t.gen 2
    g.pc == 3 && g.loops == [(1, 100, 0)] && g.jump.isSome && g.len == 600) = true := by decide +kernel

/-! ## Witnesses: the machine (part 1 of Obligations) -/

theorem test_meets_StepRunsTheFrontCommand :
    ({ ready with pending := [.flr, .perstN] } : State).pending = .flr :: [.perstN] := rfl

theorem test_meets_EmptyQueueIdles : ready.pending = [] := rfl

theorem test_meets_QueueIsFirstInFirstOut :
    nextHas (step { ready with pending := [.flr, .perstN] }) (fun t => t.pending == [.perstN]) = true := by decide +kernel

/-- A byte in each memory. -/
def stored : State :=
  { ready with pending := [.powerOnReset], host := [(7, 1)], dram := { ready.dram with mem := [(3, 1), (9, 2)] },
               vs := { ready.vs with mem := [(4, 1)] }, cfg := { ready.cfg with flash := [(9, 5)], bank := true } }

theorem test_meets_StepKeepsMemories : memsCanonical stored ∧ nextHas (step stored) (fun t => t.dram.mem.isEmpty) = true := by
  unfold memsCanonical; decide +kernel

theorem test_meets_StepKeepsTables : tablesCanonical { runs with pending := [.vectorPlayed 0 []] } ∧
    nextHas (step { runs with pending := [.vectorPlayed 0 []] }) (fun t => (t.site 0).vcount == 4) = true := by
  unfold tablesCanonical; decide +kernel

theorem test_meets_StepKeepsDispatchCap :
    (let s : State := { ready with hqm := { ready.hqm with dispatched := 127, readyQ := [0], cmds := [(0, { ph := .ready })] }
                                   pending := [.commandDispatch] }
    dispatchCapped s ∧ nextHas (step s) (fun t => t.hqm.dispatched == 128) = true) := by
  unfold dispatchCapped; decide +kernel

theorem test_meets_FrameOfEveryCommand : nextHas (exec .refLost ready) (fun t => t.time.refLost) = true := by decide +kernel

theorem test_meets_OnlyTheseRowsChange :
    nextHas (exec (.spanTick {}) ready) (fun t => t.time.span != 9) = true ∧
    nextHas (exec (.bootComplete {}) (inState .boot ready)) (fun t => t.sys.state != .boot) = true ∧
    nextHas (exec .powerOnReset stored) (fun t => Mem.byte t.dram.mem 3 != 1) = true ∧
    nextHas (exec (.dramCtrlWrite 0x51) { stored with
        dram := { stored.dram with mem := [(256, 1)] }, hqm := { stored.hqm with spillEn := false } })
      (fun t => Mem.byte t.dram.mem 256 != 1) = true ∧
    nextHas (exec (.cfgSave 0 false) { withCmd 0x48 0x02 stored with pending := [] }) (fun t => Mem.byte t.cfg.flash 9 != 5) = true := by
  decide +kernel

/-! ## Witnesses: the host queue manager's commands -/

/-- Slot 1 waits in queue 3 with tag 9. -/
def waits1 (s : State) : State := modCmd 1 (fun _ => { ph := .waiting, sq := 3, desc := 0x900000020 }) s

theorem test_meets_OrderingCommandsComplete :
    (withCmd 0x00 0 ready).holds 0 0x00 = true ∧ (withCmd 0x01 0 ready).holds 0 0x01 = true ∧
    (let s := waits1 (withCmd 0x02 3 ready)
     s.holds 0 0x02 = true ∧ pay (s.cmd 0).desc 0 2 = 3 ∧ (s.cmd 1).ph = .waiting ∧ descOp (s.cmd 1).desc = 0x20 ∧
     pay (s.cmd 0).desc 8 4 = 0 ∧ (s.hqm.cmds.filter fun e => e.2.sq == 3).map Prod.fst = [1]) := by decide +kernel

theorem test_meets_CopiesBegin :
    (let s (op : Nat) := withCmd op (2 ^ 128 * 64) ready
     (s 0x08).dram.enabled = true ∧ pay ((s 0x08).cmd 0).desc 0x10 4 ≠ 0 ∧ (s 0x08).holds 0 0x08 = true ∧
     (s 0x09).dram.enabled = true ∧ pay ((s 0x09).cmd 0).desc 0x10 4 ≠ 0 ∧ (s 0x09).holds 0 0x09 = true ∧
     (s 0x0A).dram.enabled = true ∧ pay ((s 0x0A).cmd 0).desc 0x10 4 ≠ 0 ∧ (s 0x0A).holds 0 0x0A = true) ∧
    (let s (op : Nat) := noDram (withCmd op 0 ready)
     (s 0x08).dram.enabled = false ∧ (s 0x08).holds 0 0x08 = true ∧ (s 0x09).holds 0 0x09 = true ∧
     (s 0x0A).holds 0 0x0A = true) := by decide +kernel

/-- One request of a kind, with one line to go. -/
def request (kind : BeKind) : State :=
  modDram (fun d => { d with reqs := [{ id := 4, kind := kind, cmd := some 0, len := 64 }] }) (withCmd 0x08 0 ready)

theorem test_meets_CopiesRun : [BeKind.memRead, .acqRead, .memWrite, .memFill, .spill, .tsRing, .psRing].all (fun k =>
    (atGrain 5 (request k)).reservedOn 0 == [] &&
    match (atGrain 5 (request k)).selectReq ((atGrain 5 (request k)).reqsOn 0 [4]) with
    | some (r, _) => r.kind == k && r.cmd == some 0 && decide (r.len ≤ r.pos + 64) &&
        (request k).dram.reqs.all (fun x => x.id != r.id || x.suspect == false)
    | none => false) = true ∧
    (let s : State := { ready with cap := { ready.cap with engs := [(0, { staging := [{ site := 0, bits := 7, e := 0, span := 8 }] })] } }
     ∃ x, x ∈ (atGrain 5 s).reservedOn (s.dramMap (s.sableLine 0)).1 ∧ x.id ∈ [sableId]) := by
  refine ⟨by decide +kernel, { id := sableId, kind := .reserved, dram := 0, len := 64, at_ := 9 * 524288 }, ?_⟩
  decide +kernel

/-! ## Witnesses: the sequencer -/

/-- A site at an address of overlay 1, which has 256 words. -/
def inOverlay (a : Nat) : Site := { pc := a, ovl := 1, dmem := Mem.store [] 0xA18 (leBytes 2 256), win0 := 4, win1 := 5 }

theorem test_meets_ExecutionGoesOn :
    (inOverlay 0x3FF).pc ∈ [0x3FF, 0x5FF, 0x7FF] ∧
    (0x400 ≤ (inOverlay 0x4FF).pc ∧ (inOverlay 0x4FF).pc < 0x600 ∧
      (inOverlay 0x4FF).pc + 1 = 0x400 + (inOverlay 0x4FF).ovlCount (inOverlay 0x4FF).ovl) ∧
    (0x600 ≤ (inOverlay 0x6FF).pc ∧ (inOverlay 0x6FF).pc + 1 = 0x600 + (inOverlay 0x6FF).ovlCount (inOverlay 0x6FF).ovl) ∧
    ¬ ((inOverlay 0x400).pc ∈ [0x3FF, 0x5FF, 0x7FF] ∨
      (0x400 ≤ (inOverlay 0x400).pc ∧ (inOverlay 0x400).pc < 0x600 ∧
        (inOverlay 0x400).pc + 1 = 0x400 + (inOverlay 0x400).ovlCount (inOverlay 0x400).ovl) ∨
      (0x600 ≤ (inOverlay 0x400).pc ∧
        (inOverlay 0x400).pc + 1 = 0x600 + (inOverlay 0x400).ovlCount (inOverlay 0x400).ovl)) ∧
    (inOverlay 0).win0 = 4 ∧ (inOverlay 0).win1 ≠ 4 := by decide +kernel

/-- Site 0, as given, stands at an instruction of an opcode. -/
def at_ (op : Nat) (x : Site) : State := atWord (op * 2 ^ 58) x

/-- A loop entry of a depth and a count. -/
def lp (count depth : Nat) : LoopEnt := { addr := 1, ovl := 0, count := count, depth := depth }

theorem test_meets_FlowInstructionsIssue : (∀ op ∈ [0x01, 0x02, 0x03, 0x04, 0x05, 0x06], canIssue 0 op (at_ op runner)) ∧
    (issueBase 0 (at_ 0x03 runner)).loops = [] ∧ (issueBase 0 (at_ 0x05 runner)).calls = [] ∧
    (issueBase 0 (at_ 0x03 { runner with loops := [lp 5 1] })).loops = [lp 5 1] ∧
    (lp 5 1).depth ≠ (issueBase 0 (at_ 0x03 { runner with loops := [lp 5 1] })).calls.length ∧
    (issueBase 0 (at_ 0x03 { runner with loops := [lp 1 0] })).loops = [lp 1 0] ∧ (lp 1 0).count = 1 ∧
    (lp 1 0).depth = (issueBase 0 (at_ 0x03 { runner with loops := [lp 1 0] })).calls.length ∧
    (issueBase 0 (at_ 0x03 { runner with loops := [lp 2 0] })).loops = [lp 2 0] ∧ (lp 2 0).count ≠ 1 ∧
    (lp 2 0).depth = (issueBase 0 (at_ 0x03 { runner with loops := [lp 2 0] })).calls.length ∧
    (let x := issueBase 0 (at_ 0x05 { runner with loops := [lp 2 1], calls := [{ addr := 8, ovl := 0 }] })
     x.calls = [{ addr := 8, ovl := 0 }] ∧ ∃ l ∈ x.loops, l.depth = x.calls.length) ∧
    (let x := issueBase 0 (at_ 0x05 { runner with loops := [lp 2 0], calls := [{ addr := 8, ovl := 0 }] })
     x.calls = [{ addr := 8, ovl := 0 }] ∧ ∀ l ∈ x.loops, l.depth ≠ x.calls.length) := by
  simp only [canIssue]; decide +kernel

theorem test_meets_PinInstructionsIssue : (∀ op ∈ [0x08, 0x0A, 0x0B, 0x0C, 0x0D, 0x0E, 0x0F, 0x3F], canIssue 0 op (at_ op runner)) ∧
    [0x00, 0x07, 0x09, 0x10, 0x3E].all (fun op => ((at_ op runner).site 0).issuing &&
      !((at_ op runner).site 0).matchWait && wIllegal (((at_ op runner).site 0).word ((at_ op runner).site 0).pc)) = true := by
  simp only [canIssue]; decide +kernel

/-- Site 0 runs with an item queued and latch 3 set long ago. -/
def latched (i : QItem) : State :=
  withSite { runner with q := [i], latches := [(3, { set := true, t := 8 * 524288 })] } ready

theorem test_meets_BoundaryItemsAct :
    [QItem.setTs 4, .matchI 5 0 1 7 8, .wait 5 0 3 9 0 false, .wait 5 0 3 9 0 true, .park 5 0 100, .halt 5 0].all (fun i =>
      decide (((latched i).site 0).play = .run) && decide (((latched i).site 0).q = [i]) &&
      decide (((latched i).site 0).leaseLeft ≠ some 0) &&
      decide ((latched i).dueAt 0 .boundary ((latched i).site 0).nextT = none)) = true ∧
    (let x := (latched (.wait 5 0 3 9 0 false)).site 0
     x.satisfied 3 x.nextT = true ∧ (x.clearLatch 3 x.nextT).satisfied 3 x.nextT = false) ∧
    (let s := withSite { runner with q := [.matchI 5 0 1 7 8], leaseLeft := some 0 } ready
     (s.site 0).leaseLeft = some 0 ∧ s.dueAt 0 .boundary (s.site 0).nextT = none) ∧
    [QItem.wait 5 0 3 9 0 false, .park 5 0 100].all (fun i =>
      let s := withSite { runner with q := [i], stops := [{ cmd := some 1, isPark := false, p := 8, limit := 0 }] } ready
      decide (s.dueAt 0 .boundary (s.site 0).nextT ≠ none)) = true := by decide +kernel

/-! ## Witnesses: runs -/

/-- Plan 0 with a resident region. -/
def validPlan : Plan := { plan0 with regions := [{ kind := 1, site := 0, first := 0, count := 1 }] }

theorem test_meets_RunsBeginAndRead :
    (let x := (playing .starting).site 0
     x.play = .starting ∧ x.nextT / 524288 ≤ (playing .starting).time.span) ∧
    (∀ p ∈ [validPlan, plan0],
     let s := withPlan p (withSite { runner with q := [.bundle 5 0 0 0 2 0 false false [] none], nextT := 10 * 524288 } ready)
     let x := s.site 0
     (x.play = .run ∧ x.q = .bundle 5 0 0 0 2 0 false false [] none :: [] ∧ x.knownT + 262144 ≤ x.nextT ∧
      s.planOf 0 = some p ∧ x.mode ≠ 5 ∧ (atGrain 262144 s).readDue 0 = true ∧
      (64 * 0 + 0 * (x.stride / 8)) / 4096 = 0 ∧ (64 * 0 + (0 + 2) * (x.stride / 8) - 1) / 4096 = 0)) ∧
    validPlan.frameSt 0 = .valid ∧ plan0.frameSt 0 ≠ .valid ∧
    (let s := withSite { runner with q := [] } ready
     (s.site 0).drained = true ∧ (s.queueEnd 0 - 262144) / 524288 ≤ s.time.span) := by decide +kernel

/-- Site 0 probes with guard run 0, cycle 1, after a number of vectors. -/
def probing (pos : Nat) : State :=
  withSite { runner with play := .probe 0 7 8 5 0 1 0 pos true false, matchWait := true } ready

/-- It waits for a source, with a timeout, four vectors played. -/
def waiting (timeout : Nat) : State := playing (.wait 5 0 0 timeout 0 4)

theorem test_meets_VectorsPlay :
    (let x := runs.site 0
     runs.vectorOver 0 = true ∧ x.play = .run ∧ x.q = .bundle 5 0 0 0 2 0 true false [] none :: [] ∧
     runs.dueAt 0 .boundary x.nextT = none) ∧
    (let x := (probing 0).site 0
     (probing 0).vectorOver 0 = true ∧ x.play = .probe 0 7 8 5 0 1 0 0 true false ∧ 0 ≤ (x.matchDesc 0).guard ∧
     (probing 0).dueAt 0 .boundary x.nextT = none ∧ x.leaseLeft.map (· - 1) ≠ some 0) ∧
    (let x := (waiting 5).site 0
     (waiting 5).vectorOver 0 = true ∧ x.play = .wait 5 0 0 5 0 4 ∧ x.satisfied 0 x.nextT = false ∧
     (waiting 5).dueAt 0 .held x.nextT = none) ∧
    (let s := playing (.stall 5 0 false 3)
     let x := s.site 0
     s.vectorOver 0 = true ∧ x.play = .stall 5 0 false 3 ∧ x.resume = false ∧ s.dueAt 0 (.paused false) x.nextT = none) := by
  decide +kernel

/-- Plan 0 with a stall point at address 5 of site 0, armed by its schedule. -/
def gated : Plan :=
  { plan0 with running := true, stalls := [{ site := 0, addr := 5, vaddr := 3 }],
               entries := [{ stallFirst := 0, stallCount := 1 }, { stallFirst := 0, stallCount := 1 }] }

theorem test_meets_StallPointsPause :
    (let s := withPlan gated (queued (.stall 5 0))
     let x := s.site 0
     x.play = .run ∧ x.q = .stall 5 0 :: [] ∧ x.nextT / 524288 ≤ s.time.span ∧ s.dueAt 0 .stallPoint x.nextT = none ∧
     s.planOf 0 = some gated ∧ gated.pauseAt 0 5 0 = some { site := 0, addr := 5, vaddr := 3 } ∧ s.armed 0 5 0 = true) ∧
    (let s := queued (.stall 5 0)
     let x := s.site 0
     x.play = .run ∧ x.q = .stall 5 0 :: [] ∧ x.nextT / 524288 ≤ s.time.span ∧ s.dueAt 0 .stallPoint x.nextT = none ∧
     s.armed 0 5 0 = false ∧ s.holdOn 0 = false) := by decide +kernel

/-- SITE_STOP, or SITE_PARK with limit 1, is requested of site 0 for span 7. -/
def stopAsked (park : Bool) : State :=
  withSite { runner with stops := [{ cmd := some 1, isPark := park, p := 7, limit := if park then 1 else 0 }] } ready

theorem test_meets_StopsEndRuns :
    (stopAsked false).stopNow 0 = some ({ cmd := some 1, isPark := false, p := 7, limit := 0 }, 9 * 524288, .boundary) ∧
    (let r : StopReq := { cmd := some 1, isPark := true, p := 7, limit := 1 }
     (stopAsked true).stopNow 0 = some (r, 9 * 524288, .boundary) ∧ r.isPark = true ∧ r.limit ≠ 0 ∧
     r.p + r.limit ≤ (stopAsked true).time.span) := by decide +kernel

/-- Site 0 ends a probe cycle of a MATCH that waits for a device's hit, three cycles long. -/
def peered : State :=
  withSite { runner with play := .probe 0 7 8 5 0 1 0 1 true false, matchWait := true,
                         dmem := Mem.store (dmemOf 1) 0x28 (leBytes 4 2 ++ leBytes 4 0 ++ leBytes 4 1 ++ leBytes 2 8) } ready

theorem test_meets_MatchDecides :
    (let x := (probing 1).site 0
     let d := x.matchDesc 0
     x.play = .probe 0 7 8 5 0 1 0 1 true false ∧ d.guard < 1 ∧ (probing 1).dueAt 0 .boundary x.nextT = none ∧ x.held = [] ∧
     (probing 1).combined d true 1 = some true ∧ 0 + 1 = d.need) ∧
    (let x := peered.site 0
     let d := x.matchDesc 0
     x.play = .probe 0 7 8 5 0 1 0 1 true false ∧ d.guard < 1 ∧ peered.dueAt 0 .boundary x.nextT = none ∧ x.held = [] ∧
     peered.combined d true 1 = none) ∧
    (let s := withSite { runner with play := .probe 0 7 8 5 0 1 0 1 false false, matchWait := true,
                                     dmem := Mem.store (dmemOf 1) 0x28 (leBytes 4 2) } ready
     let x := s.site 0
     let d := x.matchDesc 0
     x.play = .probe 0 7 8 5 0 1 0 1 false false ∧ d.guard < 1 ∧ s.dueAt 0 .boundary x.nextT = none ∧ x.held = [] ∧
     s.combined d false 1 = some false ∧ 0 ≠ d.need ∧ 1 ≠ d.cycles) := by decide +kernel

theorem test_meets_WaitsEnd :
    (let s := withSite { runner with play := .wait 5 0 3 0 0 4, latches := [(3, { set := true, t := 9 * 524288 - 131072 })] } ready
     let x := s.site 0
     x.play = .wait 5 0 3 0 0 4 ∧ s.dueAt 0 .held x.nextT = none ∧ x.satisfied 3 x.nextT = true) ∧
    (let x := (waiting 4).site 0
     x.play = .wait 5 0 0 4 0 4 ∧ (waiting 4).dueAt 0 .held x.nextT = none ∧ x.satisfied 0 x.nextT = false ∧ 4 ≤ 4) ∧
    (let s := playing (.park 5 0 (10 * 524288 - 1))
     (s.site 0).play = .park 5 0 (10 * 524288 - 1) ∧ (10 * 524288 - 1) / 524288 ≤ s.time.span ∧ s.stopNow 0 = none) := by
  decide +kernel

/-- Site 0 at a SYNC of barrier 2, which names it alone. -/
def syncing : State :=
  withSite { runner with q := [.sync 5 0 2 1 7],
                         dmem := Mem.store (dmemOf 1) 0x820 (leBytes 8 1 ++ leBytes 2 0 ++ leBytes 2 1) } ready

/-- It holds there, and the release is known. -/
def released : State :=
  { playing (.sync 5 0 2 1 7 6) with barriers := [(2, { arrived := 1, a := 6, rel := some 9 })] }

theorem test_meets_BarriersHoldAndRelease :
    (let x := syncing.site 0
     x.play = .run ∧ x.q = .sync 5 0 2 1 7 :: [] ∧ x.nextT / 524288 ≤ syncing.time.span ∧ x.leader 0 2 = 0 ∧
     syncing.dueAt 0 .boundary x.nextT = none ∧ bit (syncing.barrier 0 2).arrived 0 = false ∧
     (syncing.barrier 0 2).rel = none ∧ x.barDevices 2 = 0 ∧ bitList (x.barSites 2) = [0]) ∧
    (let s := playing (.sync 5 0 2 1 7 7)
     (s.site 0).play = .sync 5 0 2 1 7 7 ∧ (s.barrier ((s.site 0).leader 0 2) 2).rel = none ∧ 7 + 1 < s.time.span ∧
     s.stopNow 0 = none) ∧
    ((released.barrier 0 2).rel = some 9 ∧ released.plan 0 = some plan0 ∧ 0 ∈ plan0.sites ∧
     (∀ i ∈ plan0.sites, i ≠ 0 → (released.barrier i 2).rel = none) ∧ 9 ≤ released.time.span ∧
     (released.site 0).play = .sync 5 0 2 1 7 6 ∧ released.stopNow 0 = none) := by decide +kernel

theorem test_meets_SiteCompletes :
    [stOK, stCancelled, stAborted, stTimeout].all (fun st =>
      let s := withSite { runner with play := .ended, issuing := false, fin := some { status := st }, parkSpan := 8 } ready
      let x := s.site 0
      decide (x.play = .ended ∧ x.fin = some { status := st } ∧ s.logDone 0 = true ∧ x.cmd = some 0 ∧ x.decider = none ∧
        x.stops = [] ∧ x.losers = [])) = true := by decide +kernel

theorem test_meets_VerniersMoveByOne :
    (let s := modPin 0 (fun p => { p with tDrv := 5, tCmp := -3, vCmp := -3 }) runs
     s.ownerOf 0 = some 0 ∧ s.boundaryNow 0 = true ∧ (s.pin 0).vSpan ≠ s.time.span + 1) := by decide +kernel

/-! ## Witnesses: plans, tables, refill -/

/-- A load waits for UI PLLs of a mask. -/
def loads (mask : Nat) : State := { withCmd 0x10 0 ready with vs := { ready.vs with loadWait := some (0, BitVec.ofNat 16 mask) } }

theorem test_meets_PlanLoads :
    (let s := noDram (withCmd 0x10 0 ready)
     s.holds 0 0x10 = true ∧ s.turn88 0 = true ∧ s.vs.loadWait = none ∧ s.dram.enabled = false) ∧
    (let s := withCmd 0x10 0 ready
     s.holds 0 0x10 = true ∧ s.turn88 0 = true ∧ s.vs.loadWait = none ∧ s.dram.enabled = true ∧ s.slotsClaimed.length < 64 ∧
     headerFault s.dram.mem (readHeader s.dram.mem (pay (s.cmd 0).desc 8 8)) = some (0x01, 0)) ∧
    (loads 6).vs.loadWait = some (0, 6) ∧ (bitList (6 : BitVec 16)).find? (fun o => !((loads 6).octet o).locked) = some 1 := by
  decide +kernel

/-- PLAN_RETIRE of slot 0, which holds a plan with site 0. -/
def retiring (p : Plan) (x : Site) : State := withCmd 0x11 0 (withPlan p (withSite x ready))

theorem test_meets_PlanRetires :
    (let s := withCmd 0x11 3 ready
     s.holds 0 0x11 = true ∧ s.vs.loadWait = none ∧ s.turn88 0 = true ∧ s.plan (pay (s.cmd 0).desc 0 1) = none) ∧
    (let s := retiring { plan0 with retired := true } idler
     s.holds 0 0x11 = true ∧ s.vs.loadWait = none ∧ s.turn88 0 = true ∧
     s.plan (pay (s.cmd 0).desc 0 1) = some { plan0 with retired := true }) ∧
    (let s := retiring plan0 runner
     s.holds 0 0x11 = true ∧ s.vs.loadWait = none ∧ s.turn88 0 = true ∧ s.plan (pay (s.cmd 0).desc 0 1) = some plan0 ∧
     plan0.retired = false ∧ ∃ i ∈ plan0.sites, (s.site i).running = true) ∧
    (let s := retiring plan0 idler
     s.holds 0 0x11 = true ∧ s.vs.loadWait = none ∧ s.turn88 0 = true ∧ s.plan (pay (s.cmd 0).desc 0 1) = some plan0 ∧
     plan0.retired = false ∧ ∀ i ∈ plan0.sites, (s.site i).running = false) := by decide +kernel

/-- TABLE_LOAD of the records at an address of DRAM that holds bytes from 0. -/
def tables (a : Nat) (bs : List Byte) : State :=
  let s := withCmd 0x18 (2 ^ 64 * a) ready
  { s with dram := { s.dram with mem := Mem.store [] 0 bs } }

/-- The records that a TABLE_LOAD reads, and the channels that they name. -/
def tablesOf (s : State) : List TabRec × Option Nat :=
  readTabSeq s.dram.mem s.installed (fun m => (m &&& ~~~ BitVec.ofNat 128 (2 ^ s.nCh - 1)) == 0) (s.installed / 32)
    (pay (s.cmd 0).desc 8 8)

/-- A level record of channel 0. -/
def levelRec : List Byte := [3, 0, 0, 1] ++ leBytes 4 64 ++ leBytes 8 0 ++ leBytes 16 1

/-- TABLE_LOAD of it, in a state with site 0. -/
def loadsLevels (x : Site) : State :=
  let s := withCmd 0x18 0 (withSite x ready)
  { s with dram := { s.dram with mem := Mem.store [] 0 levelRec } }

theorem test_meets_TablesLoad :
    (let s := noDram (tables 0 [])
     s.holds 0 0x18 = true ∧ s.vs.loadWait = none ∧ s.turn88 0 = true ∧ s.dram.enabled = false) ∧
    (let s := tables 0 [9]
     s.holds 0 0x18 = true ∧ s.vs.loadWait = none ∧ s.turn88 0 = true ∧ s.dram.enabled = true ∧ (tablesOf s).2 = none) ∧
    (let s := tables (2 ^ 33 - 1) []
     s.holds 0 0x18 = true ∧ s.vs.loadWait = none ∧ s.turn88 0 = true ∧ s.dram.enabled = true ∧ (tablesOf s).2 = none) ∧
    (let s := loadsLevels runner
     let named := (tablesOf s).1.foldl (fun m x => m ||| x.pins) (0 : BitVec 128)
     s.holds 0 0x18 = true ∧ s.vs.loadWait = none ∧ s.turn88 0 = true ∧ s.dram.enabled = true ∧ (tablesOf s).2 ≠ none ∧
     (bitList named).find? s.ownedRunning = some 0) ∧
    (let s := loadsLevels { idler with named := 1 }
     let named := (tablesOf s).1.foldl (fun m x => m ||| x.pins) (0 : BitVec 128)
     s.holds 0 0x18 = true ∧ s.vs.loadWait = none ∧ s.turn88 0 = true ∧ s.dram.enabled = true ∧ (tablesOf s).2 ≠ none ∧
     (bitList named).find? s.ownedRunning = none ∧
     tableBreach (applyTabs (tablesOf s).1 named s.pins) named s = some (0x1C, 0)) ∧
    (let s := loadsLevels idler
     let named := (tablesOf s).1.foldl (fun m x => m ||| x.pins) (0 : BitVec 128)
     s.holds 0 0x18 = true ∧ s.vs.loadWait = none ∧ s.turn88 0 = true ∧ s.dram.enabled = true ∧ (tablesOf s).2 ≠ none ∧ named = 1 ∧
     (bitList named).find? s.ownedRunning = none ∧
     tableBreach (applyTabs (tablesOf s).1 named s.pins) named s = none) := by decide +kernel

/-- A running plan with a stream region, its last entry in progress. -/
def streaming : Plan :=
  { plan0 with running := true, regions := [{ kind := 2, site := 0, first := 0, count := 1, srcCount := 2, loopCursor := 1 }],
               entries := [{}], loopFrom := 0, rep := 1 }

/-- A refill request for frame 1 of plan 0, issued in span 5, whose CRC agrees with the bytes of empty DRAM. -/
def peck (retry : Bool) (at_ : Option (Nat × Nat)) : Refill :=
  { id := 4, plan := 0, frame := 1, span := 5, src := 8192, crc := crc32c (Mem.bytes ready.dram.mem 8192 4096),
    retry := retry, retryAt := at_ }

/-- It is under way. -/
def pecking (r : Refill) : State :=
  let s := withPlan { plan0 with running := true } ready
  { s with vs := { s.vs with refills := [r] } }

theorem test_meets_RefillActs :
    ([streaming, { streaming with loopFrom := 0xFFFF }, { streaming with entries := [{}, {}] }].all fun p =>
      (withPlan p ready).plan 0 == some p && p.running && !p.ended &&
      decide ((p.entries.getD p.entry {}).repeatM1 < p.rep)) = true ∧
    (∀ b, let s := pecking (peck b none)
     s.vs.refills.find? (fun r => r.id == 4) = some (peck b none) ∧ (peck b none).retryAt = none ∧
     (peck b none).span < s.time.span ∧ s.dram.chans = [] ∧ (peck b none).isOvl = false ∧
     s.plan (peck b none).plan = some { plan0 with running := true } ∧
     crc32c (Mem.bytes s.dram.mem (peck b none).src 4096) = (peck b none).crc) ∧
    (peck true none).retry = true ∧
    ((pecking (peck false none)).retrySlot ((peck false none).slot % 8) (peck false none).span = none ∧
     (let r := { peck false none with span := 8 }
      (pecking r).vs.refills.find? (fun r => r.id == 4) = some r ∧ r.span < (pecking r).time.span ∧
      (pecking r).retrySlot (r.slot % 8) r.span ≠ none)) ∧
    (let r := peck false (some (9, 12))
     (pecking r).vs.refills.find? (fun r => r.id == 4) = some r ∧ r.retryAt = some ((pecking r).time.span, 12)) := by
  refine ⟨by decide +kernel, fun b => ⟨rfl, rfl, show 5 < 9 by decide, rfl, rfl, rfl, rfl⟩, rfl,
    ⟨?_, rfl, show 8 < 9 by decide, ?_⟩, rfl, rfl⟩ <;> decide +kernel

/-! ## Witnesses: site commands -/

/-- SITE_START of idle site 0 with octet 0 at a ceiling. -/
def startable (ceiling : Nat) : State :=
  modOctet 0 (fun x => { x with locked := true, ceiling := ceiling }) (withCmd 0x20 0 (withSite idler ready))

theorem test_meets_SiteStarts :
    (let s := withCmd 0x20 5 ready
     s.holds 0 0x20 = true ∧ s.sys.state ≠ .standby ∧ (s.cmd 0).dspan < s.time.span ∧
     (s.site (pay (s.cmd 0).desc 0 1)).mode = 7) ∧
    (let s := withCmd 0x20 0 (withSite runner ready)
     s.holds 0 0x20 = true ∧ s.sys.state ≠ .standby ∧ (s.cmd 0).dspan < s.time.span ∧ (s.site 0).mode ≠ 7 ∧
     s.plan (s.site 0).plan = some plan0 ∧ s.startOk 0 plan0 = false) ∧
    (let s := startable 999
     s.holds 0 0x20 = true ∧ s.sys.state ≠ .standby ∧ (s.cmd 0).dspan < s.time.span ∧ (s.site 0).mode ≠ 7 ∧
     s.plan (s.site 0).plan = some plan0 ∧ s.startOk 0 plan0 = true ∧ s.lowOctet 0 plan0 = some 0) ∧
    (let s := startable 1000
     s.holds 0 0x20 = true ∧ s.sys.state ≠ .standby ∧ (s.cmd 0).dspan < s.time.span ∧ (s.site 0).mode ≠ 7 ∧
     s.plan (s.site 0).plan = some plan0 ∧ s.startOk 0 plan0 = true ∧ s.lowOctet 0 plan0 = none ∧
     (s.site 0).entry % 2048 < 0x400) := by decide +kernel

/-- A command on site 0, as given. -/
def onSite (op : Nat) (x : Site) : State := withCmd op 0 (withSite x ready)

theorem test_meets_StopsAndResets :
    ([0x21, 0x22].all fun op => (onSite op idler).holds 0 op && !((onSite op idler).site 0).running &&
      (onSite op runner).holds 0 op && ((onSite op runner).site 0).running &&
      decide (((onSite op runner).site 0).play ≠ .ended)) = true ∧
    ((onSite 0x23 runner).holds 0 0x23 = true ∧ ((onSite 0x23 runner).site 0).running = true) ∧
    ((withCmd 0x23 0 ready).holds 0 0x23 = true ∧ ((withCmd 0x23 0 ready).site 0).mode = 7) ∧
    (let s := onSite 0x23 { idler with win0 := 3, vcount := 9, pc := 7, lastReason := 9 }
     s.holds 0 0x23 = true ∧ (s.site 0).running = false ∧ (s.site 0).mode ≠ 7) := by decide +kernel

/-! ## Witnesses: capture, triggers, acquisition -/

/-- Entries staged at engine 0. -/
def staged (l : List Staged) : State := { ready with cap := { ready.cap with engs := [(0, { staging := l })] } }

/-- Entry e of site 0's ring, staged in span 8. -/
def ent (e : Nat) : Staged := { site := 0, bits := 7, e := e, span := 8 }

/-- A closed record of group 0 is being written. -/
def recording : State :=
  { ready with cap := { ready.cap with
      groups := [(0, { st := .rearming, cur := some { addr := 65536 }, lines := [leBytes 64 5] })] } }

/-- The record of an arming of group 0 that TRIG_DISARM has ended has lines to write. -/
def ending (l : Nat) : State :=
  { ready with cap := { ready.cap with
      groups := [(0, { tails := [{ cur := { addr := 65536 }, lines := List.replicate l (leBytes 64 5), cmd := some 1,
                                   disarm := [some 2] }] })] } }

theorem test_meets_WriteSlotsWriteBack :
    (let s := staged [ent 0]
     bit s.cap.slotsUsed 0 = false ∧ s.slotEngine 0 = some 0 ∧ s.pendingWb 0 = true ∧
     (s.cap.engs.get 0).staging = ent 0 :: [] ∧ (ent 0).span < s.time.span) ∧
    (let s := staged [ent 1, ent 2]
     s.slotEngine 0 = some 0 ∧ s.pendingWb 0 = true ∧ (s.cap.engs.get 0).staging = ent 1 :: [ent 2] ∧
     (ent 1).span < s.time.span ∧ s.sameLine (ent 1) (ent 2) = false) ∧
    (let s := staged [ent 0, ent 1]
     s.slotEngine 0 = some 0 ∧ s.pendingWb 0 = true ∧ (s.cap.engs.get 0).staging = ent 0 :: [ent 1] ∧
     (ent 0).span < s.time.span ∧ s.sameLine (ent 0) (ent 1) = true) ∧
    (recording.slotEngine 0 = some 0 ∧ recording.pendingWb 0 = true ∧ (recording.cap.engs.get 0).staging = [] ∧
     (recording.cap.groups.get 0).tails = [] ∧ (recording.cap.groups.get 0).cur = some { addr := 65536 } ∧
     (recording.cap.groups.get 0).lines = leBytes 64 5 :: []) ∧
    (∀ l ∈ [1, 2], let s := ending l
     s.slotEngine 0 = some 0 ∧ s.pendingWb 0 = true ∧ (s.cap.engs.get 0).staging = [] ∧
     ∃ x, (s.group 0).tails = x :: [] ∧ x.lines.length = l ∧ x.cmd = some 1 ∧ some 2 ∈ x.disarm) := by
  refine ⟨?_, ?_, ?_, ?_, fun l hl => ?_⟩
  · decide +kernel
  · decide +kernel
  · decide +kernel
  · decide +kernel
  · simp only [List.mem_cons, List.not_mem_nil, or_false] at hl
    rcases hl with rfl | rfl <;> exact ⟨by decide +kernel, by decide +kernel, rfl, _, rfl, rfl, rfl, by decide⟩

/-- Unit 1 hears TRIG_IN0, for group 1. -/
def trigUnit : TrigUnit := { cfg := 0xC0, armed := true, master := 1 }

/-- It is armed without records. -/
def hearing (u : TrigUnit) : State :=
  { ready with cap := { ready.cap with units := [(1, u)], groups := [(1, { st := .armed, units := 2 })] } }

/-- Unit 1 in a time hold-off of a number of cycles that began with span 9. -/
def holding (n : Nat) : State :=
  hearing { trigUnit with holdoff := BitVec.ofNat 64 (1 + 2 ^ 32 * n), inHold := true, holdT := 9 * 524288 }

theorem test_meets_TrigInFires :
    (∀ v : Fin 16, ¬ (((hearing trigUnit).unit v.val).armed = true ∧ ((hearing trigUnit).unit v.val).src = 3 ∧
      ((hearing trigUnit).unit v.val).sel = 1)) ∧
    (∀ s ∈ [hearing trigUnit, holding 1000], ((s.unit 1).armed = true ∧ (s.unit 1).src = 3 ∧ (s.unit 1).sel = 0) ∧
      (s.group (s.unit 1).master).armedAt * 524288 ≤ s.time.span * 524288 + 7 ∧
      ∀ v : Fin 16, v.val ≠ 1 → ¬ ((s.unit v.val).armed = true ∧ (s.unit v.val).src = 3 ∧ (s.unit v.val).sel = 0)) ∧
    ((holding 1000).unit 1).holding (9 * 524288 + 7) = true ∧
    (let s := hearing trigUnit
     (s.unit 1).holding (9 * 524288 + 7) = false ∧ (s.group (s.unit 1).master).recs = false ∧
     (s.group (s.unit 1).master).st = .armed) := by decide +kernel

/-- Unit 0 triggers by itself every two spans, armed in span 7. -/
def autoUnit : State :=
  { ready with cap := { ready.cap with
      units := [(0, { armed := true, acq := 2 ^ 38 + 2 ^ 40 * 2 })]
      groups := [(0, { st := .armed, recs := true, autoFrom := 7, units := 1 })] } }

/-- Group 1 has a record written. -/
def rearming (g : Group) : State :=
  { withCmd 0x28 0 ready with cap := { ready.cap with
      units := [(1, trigUnit)], groups := [(1, { g with st := .rearming, units := 2, cmd := some 0 })] } }

/-- A command on group 1, as given. -/
def onGroup (op payload : Nat) (g : Group) : State :=
  { withCmd op payload ready with cap := { ready.cap with groups := [(1, g)] } }

/-- TRIG_ARM of group 1 for 5 records. -/
def arming : State :=
  { withCmd 0x28 (1 + 2 ^ 32 * 5) (withSite runner ready) with cap := { ready.cap with units := [(1, { cfg := 0xC0 })] } }

/-- A group with record 3 in its past. -/
def recorded : Group := { past := [{ seq := 3, addr := 65536, len := 256, lines := 4 }], closed := 4 }

theorem test_meets_TriggerGroups :
    (let s := holding 256
     let x := s.unit 1
     x.inHold = true ∧ x.holdMode = 1 ∧ x.holdT + x.holdCount * 2048 = s.now + 524288) ∧
    (let x := autoUnit.unit 0
     let g := autoUnit.group 0
     x.autoEn = true ∧ x.autoPeriod ≠ 0 ∧ g.recs = true ∧ g.st = .armed ∧ g.autoFrom + x.autoPeriod = autoUnit.time.span) ∧
    (let g := (rearming { count := 2, written := 2, disarm := [(8, some 3)] }).group 1
     g.st = .rearming ∧ g.cur = none ∧ g.count ≠ 0 ∧ g.count ≤ g.written ∧ g.cmd = some 0 ∧ (8, some 3) ∈ g.disarm) ∧
    (let s := rearming { count := 3, written := 2, lineSpan := 8 }
     let g := s.group 1
     g.st = .rearming ∧ g.cur = none ∧ g.written < g.count ∧ g.lineSpan < s.time.span) ∧
    (let s := withCmd 0x28 1 ready
     s.holds 0 0x28 = true ∧ s.sys.state ≠ .standby ∧ (s.group 1).shut = none ∧
     armFault 1 (setBit (BitVec.ofNat 16 (pay (s.cmd 0).desc 2 2)) 1 true) (pay (s.cmd 0).desc 8 1 == 1)
       (65536 * 2 ^ pay (s.cmd 0).desc 0x18 1) s = some (3, 1)) ∧
    (arming.holds 0 0x28 = true ∧ arming.sys.state ≠ .standby ∧ (arming.group 1).shut = none ∧
     armFault 1 (setBit (BitVec.ofNat 16 (pay (arming.cmd 0).desc 2 2)) 1 true) (pay (arming.cmd 0).desc 8 1 == 1)
       (65536 * 2 ^ pay (arming.cmd 0).desc 0x18 1) arming = none) ∧
    ((onGroup 0x29 1 {}).holds 0 0x29 = true ∧ ((onGroup 0x29 1 {}).group 1).st = .disarmed) ∧
    ((onGroup 0x29 1 { st := .armed }).holds 0 0x29 = true ∧ ((onGroup 0x29 1 { st := .armed }).group 1).st ≠ .disarmed ∧
     ((onGroup 0x29 1 { st := .armed }).group 1).shut = none) ∧
    ((onGroup 0x2A 1 {}).holds 0 0x2A = true ∧ ((onGroup 0x2A 1 {}).group 1).past.find? (fun r => r.seq == 0) = none) ∧
    (∀ len ∈ [0, 128], let s := onGroup 0x2A (1 + 2 ^ 32 * 3 + 2 ^ 64 * 4096 + 2 ^ 128 * len) recorded
     s.holds 0 0x2A = true ∧
     (s.group 1).past.find? (fun r => r.seq == 3) = some { seq := 3, addr := 65536, len := 256, lines := 4 } ∧
     s.dram.enabled = true ∧ (s.group 1).closed - 1 - 3 ≤ 255 ∧ (s.group 1).past.all (fun q => decide (q.seq ≤ 3)) = true ∧
     (s.group 1).cur = none ∧ (s.group 1).tails = [] ∧ min 256 (pay (s.cmd 0).desc 0x10 4) = len) ∧
    (let s := noDram (onGroup 0x2A (1 + 2 ^ 32 * 3) recorded)
     s.holds 0 0x2A = true ∧ s.dram.enabled = false) := by decide +kernel

/-! ## Witnesses: DDS generators -/

/-- Generator 0 as given. -/
def gen0 (g : Gen) (s : State) : State := { s with dds := { gens := [(0, g)] } }

/-- DDS_LOAD for generator 0 of the records at address 0. -/
def ddsLoading (m : Mem) : State := let s := withCmd 0x30 0 ready; { s with dram := { s.dram with mem := m } }

/-- SEG of entry e. -/
def segIns (e : Nat) : W64 := BitVec.ofNat 64 (2 ^ 60 + e)

/-- A generator that runs: segment 10 samples long, program entries 0, 1 and 5, END elsewhere. -/
def gRun : Gen :=
  { running := true, cmd := some 0, pc := 1, len := 10, segs := [{ t0 := 9 * 524288, on := true, w := 5, acc := 3 }],
    seq := [(0, segIns 0), (1, segIns 1), (5, segIns 2)], seg := [(1, 99 + 2 ^ 62 * 1), (2, 55 + 2 ^ 62 * 2)],
    freq := [(0, 7)], boundaries := 4 }

theorem test_meets_DdsCommands :
    (noDram (ddsLoading [])).holds 0 0x30 = true ∧ (noDram (ddsLoading [])).dram.enabled = false ∧
    ((gen0 gRun (ddsLoading [])).holds 0 0x30 = true ∧ ((gen0 gRun (ddsLoading [])).gen 0).running = true) ∧
    (let s := ddsLoading []
     let r := readDdsSeq s.dram.mem s.installed 65536 (pay (s.cmd 0).desc 8 8)
     s.holds 0 0x30 = true ∧ s.dram.enabled = true ∧ (s.gen 0).running = false ∧ (s.gen 0).startSpan = none ∧
     ddsBadIndex (s.gen 0) r.1 r.2 = none) ∧
    (let s := ddsLoading [(0, 9)]
     let r := readDdsSeq s.dram.mem s.installed 65536 (pay (s.cmd 0).desc 8 8)
     s.holds 0 0x30 = true ∧ s.dram.enabled = true ∧ (s.gen 0).running = false ∧ (s.gen 0).startSpan = none ∧
     ddsBadIndex (s.gen 0) r.1 r.2 = some 0) ∧
    (let s := gen0 { seq := [(0, segIns 0)] } (withCmd 0x31 0 ready)
     s.holds 0 0x31 = true ∧ s.sys.state = .ready ∧ (s.gen 0).running = false ∧ (s.gen 0).startSpan = none ∧
     seqOp ((s.gen 0).seq.get 0) ≠ 0 ∧ s.cal.trip = false) ∧
    (let s := withCmd 0x31 0 ready
     s.holds 0 0x31 = true ∧ s.sys.state ≠ .standby ∧ seqOp ((s.gen 0).seq.get 0) = 0) ∧
    (let s := gen0 gRun (withCmd 0x32 0 ready)
     s.holds 0 0x32 = true ∧ (s.gen 0).running = true) ∧
    (let s := withCmd 0x32 0 ready
     s.holds 0 0x32 = true ∧ (s.gen 0).running = false ∧ (s.gen 0).startSpan = none) ∧
    ready.blockOn false = true := by decide +kernel

theorem test_meets_DdsRuns :
    (let s := gen0 { startSpan := some 9, cmd := some 0, seq := [(0, segIns 0)], skew := 100 } ready
     let g := s.gen 0
     g.startSpan = some 9 ∧ 9 ≤ s.time.span ∧ g.stops = [] ∧ seekSeg g.seq 4096 0 [] [] = some (0, [], [])) ∧
    (let s := gen0 { startSpan := some 9, cmd := some 0 } ready
     let g := s.gen 0
     g.startSpan = some 9 ∧ 9 ≤ s.time.span ∧ g.stops = [] ∧ seekSeg g.seq 4096 0 [] [] = none) := by decide +kernel

/-- Generator 0 runs so, its segment of a length. -/
def genRuns (len : Nat) (stops : List (Nat × Bool × Option Nat)) (jump : Option (Nat × Nat)) : Gen :=
  (gen0 { gRun with len := len, stops := stops, jump := jump } ready).gen 0

/-- The instant of the end of its segment. -/
def segEnd (g : Gen) : Int := (g.segs.headD {}).t0 + 4096 * ((g.segs.headD {}).n0 + g.len : Nat)

theorem test_meets_DdsRuns_boundaries :
    ([genRuns 16 [(9, false, some 3)] none, genRuns 15 [(9, false, some 3)] none, genRuns 16 [] (some (9 * 524288, 5)),
      genRuns 15 [] (some (9 * 524288, 5)), { genRuns 10 [] none with pc := 2 }].all fun g =>
        g.running && g.startSpan.isNone && g.due.isNone) = true ∧
    (let g := { genRuns 15 [] none with due := some 5 }
     g.running = true ∧ g.startSpan = none ∧ g.due = some 5) ∧
    (genRuns 16 [(9, false, some 3)] none).stopAt 9 + 65536 ≤ segEnd (genRuns 16 [(9, false, some 3)] none) ∧
    ¬ (genRuns 15 [(9, false, some 3)] none).stopAt 9 + 65536 ≤ segEnd (genRuns 15 [(9, false, some 3)] none) ∧
    (9 * 524288 : Int) + 65536 ≤ segEnd (genRuns 16 [] (some (9 * 524288, 5))) ∧
    ¬ (9 * 524288 : Int) + 65536 ≤ segEnd (genRuns 15 [] (some (9 * 524288, 5))) ∧
    seekSeg gRun.seq 4096 5 [] [] = some (5, [], []) ∧ seekSeg gRun.seq 4096 7 [] [] = none ∧
    seekSeg gRun.seq 4096 gRun.pc gRun.loops gRun.calls = some (1, [], []) ∧
    seekSeg gRun.seq 4096 2 gRun.loops gRun.calls = none := by
  refine ⟨?_, ?_, ?_, ?_, ?_, ?_, ?_, ?_, ?_, ?_⟩ <;> decide +kernel

/-! ## Witnesses: calibration -/

/-- CAL_RUN of a step for a map. -/
def calRunOf (st map : Nat) : State := withCmd 0x38 (st + map * 2 ^ 128) ready

/-- CAL_COMMIT of ch0 and ch1: on ch0 the compare sum is out of range. -/
def committing : State :=
  modPin 0 (fun p => { p with dDrv := 5, vDrv := 6, tDrv := 9, dCmp := 16383, vCmp := 1 }) (withCmd 0x39 (3 * 2 ^ 128) ready)

theorem test_meets_CalibrationCommands :
    ([calRunOf 7 1, calRunOf 0xE 1, calRunOf 0 0, calRunOf 3 5, calRunOf 5 5, calRunOf 5 0].all fun s =>
      s.holds 0 0x38 && decide (s.sys.state = .ready ∧ s.cal.waiting = [] ∧ s.cal.cmd = none ∧ s.cal.written = 0 ∧
        s.cal.refusedN = 0 ∧ s.cal.lowUnit = 0 ∧ s.cal.lowPre = 0)) = true ∧
    [7, 0xE, 0, 3, 5, 5] = [calRunOf 7 1, calRunOf 0xE 1, calRunOf 0 0, calRunOf 3 5, calRunOf 5 5, calRunOf 5 0].map
      (fun s => pay (s.cmd 0).desc 0 1) ∧
    (let s := inState .boot (calRunOf 2 1)
     s.holds 0 0x38 = true ∧ s.sys.state ≠ .standby ∧ pay (s.cmd 0).desc 0 1 = 2 ∧ s.cal.cmd = none ∧ s.cal.waiting = [] ∧
     ¬ (s.sys.state = .bringUp ∨ s.sys.state = .ready)) ∧
    (withSite runner (calRunOf 0 0)).anyRunning = true ∧ (calRunOf 0 0).anyRunning = false ∧
    (calUnits 3 5 = 0 :: [2] ∧ (calRunOf 3 5).calReq 3 0 = true) ∧
    (calUnits 5 5 ≠ [] ∧ ∀ u ∈ calUnits 5 5, (calRunOf 5 5).calReq 5 u = false) ∧
    (let s := calRunOf 5 0
     let t : State := { s with cal := { s.cal with cmd := some 3, mode := .single } }
     t.holds 0 0x38 = true ∧ t.sys.state ≠ .standby ∧ t.cal.cmd ≠ none) ∧
    (committing.holds 0 0x39 = true ∧ (committing.cmd 0).dspan < committing.time.span ∧
     pay (committing.cmd 0).desc 0x10 16 = 3 ∧ 0 < committing.nCh ∧ committing.ownedRunning 0 = false) ∧
    (let s := { committing with time := { committing.time with span := 8 } }
     s.holds 0 0x39 = true ∧ s.time.span ≤ (s.cmd 0).dspan) := by decide +kernel

/-- A scan of 3 by 2 points on ch3, some done. -/
def scanOf (done : Nat) : Scan :=
  { cmd := 0, d := 1, pMin := -1, pStep := 1, pCount := 3, vMin := 0, vStep := 1, vCount := 2, dest := 8192, done := done }

/-- EYE_SCAN of ch3, locked and in loop 1. -/
def scanning (z : Option Scan) : State :=
  modPin 3 (fun p => { p with cfg := 0x10, locked := true, scan := z }) (withCmd 0x3A 3 ready)

theorem test_meets_EyeScans :
    ((withCmd 0x3A 3 ready).holds 0 0x3A = true ∧ ((withCmd 0x3A 3 ready).pin 3).locked = false) ∧
    ((scanning none).holds 0 0x3A = true ∧ (scanning none).sys.state ≠ .standby ∧ (scanning none).dram.enabled = true ∧
     (scanning none).cdrOn 3 = false ∧ ((scanning none).pin 3).loop = 1 ∧ ((scanning none).pin 3).locked = true ∧ ((scanning none).pin 3).scan = none) ∧
    ((scanning (some (scanOf 4))).pin 3).scan = some (scanOf 4) ∧ (scanOf 4).done + 1 < 3 * 2 ∧
    ((scanning (some (scanOf 5))).pin 3).scan = some (scanOf 5) ∧ ¬ (scanOf 5).done + 1 < 3 * 2 := by decide +kernel

/-- Pin engine 0 visits ch4 since span 1,900. -/
def visiting (span : Nat) : State :=
  { ready with time := { ready.time with span := span }
               cal := { ready.cal with visitCh := [(0, 5)], visitAt := [(0, 1900)] } }

/-- Octet 0 locked, with a baseline or none. -/
def drifting (b : Option Int) : State := modOctet 0 (fun x => { x with locked := true, baseline := b }) ready

theorem test_meets_ContinuousCalibration :
    (ready.cal.visitCh.get 0 = 0 ∧ ready.nextVisit 0 = some 0) ∧
    ((visiting 2923).sys.state = .ready ∧ (visiting 2923).cal.visitCh.get 0 ≠ 0 ∧
     (visiting 2923).time.span < (visiting 2923).cal.visitAt.get 0 + 1024) ∧
    ((visiting 2924).sys.state = .ready ∧ (visiting 2924).cal.visitAt.get 0 + 1024 ≤ (visiting 2924).time.span ∧
     (visiting 2924).nextVisit 0 = some 5) ∧
    (∀ b ∈ [none, some 2], (drifting b).sys.state = .ready ∧ bit (drifting b).cal.cont 6 = true ∧
     (drifting b).calOct 0 = true ∧ ((drifting b).octet 0).locked = true ∧ ((drifting b).octet 0).baseline = b) ∧
    (8 < spread [0, 4, 9] ∧ ¬ 8 < spread [0, 4, 8]) := by decide +kernel

/-- The end of a step of a unit, with transitions enough; bad: the converter reference check failed. -/
def stepIn (st u : Nat) (bad : Bool) (vals : List Int) (live : Bool) : StepIn :=
  { step := BitVec.ofNat 8 st, unit := u, live := live, bad := bad, rise := 4096, fall := 4096, vals := vals }

/-- CAL_RUN of one step is at its last unit. -/
def single (st u : Nat) : State :=
  let s := withCmd 0x38 st ready
  modPin 0 (fun p => { p with cfg := 0x10 }) (modPin 3 (fun p => { p with cfg := 0x10 })
    (modOctet 0 (fun x => { x with locked := true })
      { s with cal := { s.cal with mode := .single, cmd := some 0, todo := [(st, u)], ddsRefEn := true } }))

/-- The full sequence runs, with windows to do. -/
def fullRun (todo : List (Nat × Nat)) : State :=
  let s := inState .calibrate (withCmd 0x38 0 ready)
  { s with cal := { s.cal with mode := .full, cmd := some 0, todo := todo } }

/-- Pin engine 0 visits ch3 with step 4 to do. -/
def visit4 : State := { ready with cal := { ready.cal with visitCh := [(0, 4)], visitLeft := [(0, [4])] } }

theorem test_meets_CalibrationStepsEnd :
    ({ ready with cal := { ready.cal with revoked := [(stepEngine 2 3, true)] } } : State).cal.revoked.get (stepEngine 2 3) = true ∧
    (∀ r ∈ [stepIn 2 3 false [1, 2, 3000, 4, 5, 6, 7, 8, 9, 600] false, stepIn 1 0 false [4] false,
        stepIn 4 3 false [4, 500] false, stepIn 5 3 false [-4, 4] false, stepIn 9 0 false [4, 5] false,
        stepIn 0xB 0 false [4] false, stepIn 0xC 0 false [4] false],
      let st := r.step.toNat
      let s := single st r.unit
      s.cal.revoked.get (stepEngine st r.unit) = false ∧ s.cal.mode = .single ∧ s.cal.todo = [(st, r.unit)] ∧
      s.cal.cmd = some 0 ∧ s.cal.waiting = [] ∧ st ≠ 0xA ∧ s.scanWaits (!s.loopForm r.unit) st r.unit = false ∧
      s.calPre r = 0) ∧
    (single 4 3).loopForm 3 = true ∧ (single 2 3).calPre (stepIn 2 3 true [] false) ≠ 0 ∧
    (let s := fullRun [(2, 3), (3, 3)]
     s.cal.revoked.get (stepEngine 2 3) = false ∧ s.cal.mode = .full ∧ s.sys.state = .calibrate ∧ s.cal.waiting = [] ∧
     s.calPre (stepIn 2 3 true [] false) ≠ 0 ∧ calDue true s.cal.todo (2, 3) = true) ∧
    (let s := fullRun [(2, 3)]
     s.cal.mode = .full ∧ s.sys.state = .calibrate ∧ s.cal.waiting = [] ∧ s.calPre (stepIn 2 3 false [] false) = 0 ∧
     s.cal.todo = [(2, 3)]) ∧
    (let s := visit4
     s.cal.revoked.get (stepEngine 4 3) = false ∧ s.cal.mode = .none ∧ s.sys.state = .ready ∧ s.cal.visitCh.get (3 / 32) = 3 + 1 ∧
     4 ∈ s.cal.visitLeft.get (3 / 32) ∧ s.calNames 3 = false ∧ s.scanHeld 3 = false ∧
     s.calPre (stepIn 4 3 false [10, 1] true) = 0 ∧ s.calPre { stepIn 4 3 false [10, 1] true with fall := 4095 } ≠ 0 ∧
     3 < s.nCh) := by decide +kernel

/-! ## Witnesses: the time base -/

/-- A source of time. -/
def src (n : Nat) (s : State) : State := tm (fun x => { x with cfg := setBits x.cfg 0 2 n }) s

/-- TIME_SET. -/
def timeSetting : State := withCmd 0x40 (2 ^ 44 * 7 + 2 ^ 12 * 3 + 5) ready

/-- TIME_ADJUST of an action. -/
def adjusting (n : Nat) (f : Time → Time) : State := tm f (withCmd 0x41 n ready)

/-- HOLDOVER of a cause. -/
def hold (c : Nat) (x : Time) : Time := { x with servo := .holdover, holdCause := BitVec.ofNat 3 c }

/-- A step is pending. -/
def stepping (v : Int) (sp : Nat) (isSet : Bool) (s : State) : State := tm (fun x => { x with step := some (v, sp, isSet, some 0) }) s

theorem test_meets_TimeSteps :
    ((stepping 100 9 true timeSetting).holds 0 0x40 = true ∧ (stepping 100 9 true timeSetting).time.step ≠ none) ∧
    ((src 3 timeSetting).holds 0 0x40 = true ∧ (src 3 timeSetting).time.step = none ∧ (src 3 timeSetting).src = 3) ∧
    (timeSetting.holds 0 0x40 = true ∧ timeSetting.time.step = none ∧ timeSetting.src ≠ 3) ∧
    ([1, 2, 3].all fun n => (adjusting n id).holds 0 0x41 && pay ((adjusting n id).cmd 0).desc 0 1 == n) = true ∧
    (stepping 100 9 false (adjusting 1 id)).time.step ≠ none ∧
    ((adjusting 1 fun x => { x with jump := some 9 }).time.step = none ∧
     (adjusting 1 fun x => { x with jump := some 9 }).time.jump = some 9) ∧
    ((adjusting 1 id).time.step = none ∧ (adjusting 1 id).time.jump = none) ∧
    ((adjusting 2 (hold 2)).time.servo = .holdover ∧ (adjusting 2 (hold 2)).time.holdCause = 2) ∧
    ((adjusting 3 (hold 4)).time.servo = .holdover ∧ (adjusting 3 (hold 4)).time.holdCause = 4) ∧
    ((adjusting 2 (hold 3)).time.holdCause ≠ 2 ∧ (adjusting 3 (hold 3)).time.holdCause ≠ 4) ∧
    (let s := stepping (-6) 10 false timeSetting
     s.time.step = some (-6, 10, false, some 0) ∧ s.time.span < 10) ∧
    (let s := stepping (-6) 9 false (withSite runner timeSetting)
     s.time.step = some (-6, 9, false, some 0) ∧ 9 ≤ s.time.span ∧ s.stepBlocked = true) ∧
    (let s := stepping (-6) 9 false timeSetting
     s.time.step = some (-6, 9, false, some 0) ∧ 9 ≤ s.time.span ∧ s.stepBlocked = false) ∧
    (let s := tm (hold 4) (stepping (-6) 9 false timeSetting)
     s.time.step = some (-6, 9, false, some 0) ∧ s.stepBlocked = false ∧ s.time.servo = .holdover ∧ s.time.holdCause ≠ 1) := by
  refine ⟨?_, ?_, ?_, ?_, ?_, ?_, ?_, ?_, ?_, ?_, ?_, ?_, ?_, ?_⟩ <;> decide +kernel

/-- Is a write of TIME_CFG refused? -/
def cfgRefused (w : Wr) (s : State) : Bool :=
  let cur := s.timeCfg
  let v := rwMerge (timeCfgRw ||| fm 0 2) w cur
  let n := bits v 0 2
  bits v 3 2 == 3 || decide (bits v 48 9 < 1) || decide (500 < bits v 48 9) ||
    (n != bits cur 0 2 || bit v 2 != bit cur 2) && s.anyRunning ||
    n != bits cur 0 2 && !(if n = 3 then s.halso.joined && !s.isMaster else s.isMaster || !s.halso.joined)

theorem test_meets_TimeRegisters :
    ready.blockOn true = true ∧
    cfgRefused (wr 0x01F4000000000003) ready = true ∧ cfgRefused (wr 0x01F5000000000000) ready = true ∧
    cfgRefused (wr 0) ready = true ∧ cfgRefused (wr 0x01F4000000000081) ready = false ∧
    cfgRefused (wr 0x0001000000000002) ready = false ∧
    (let s := adjusting 2 (hold 2)
     s.blockOn true = true ∧ (wr 77).lo = true ∧ s.time.servo = .holdover ∧ s.time.holdCause = 2) ∧
    ready.time.servo ≠ .holdover := by decide +kernel

/-- The servo is LOCKED to src 1, the event ring on. -/
def locked : State := src 1 (tm (fun x => { x with servo := .locked, tsRing := 0x10 }) ready)

/-- It holds for a number of spans. -/
def held (n : Nat) : State := src 1 (tm (fun x => { x with servo := .holdover, holdSpans := n }) ready)

/-- PPS_OUT is on, and a whole second is 5 grains after the tick. -/
def second : State := tm (fun x => { x with cfg := setBits x.cfg 7 2 3, offset := -(9 * 524288) - 5 }) locked

/-- An entry for the event ring waits since an instant. -/
def ringWaits (n : Nat) : State := tm (fun x => { x with span := 9000, tsPend := [{ at_ := n }] }) ready

theorem test_meets_ClockEvents :
    (locked.src ≠ 0 ∧ locked.time.servo = .locked) ∧
    ((held (10 * 7812500)).time.servo = .holdover ∧ (held (10 * 7812500)).holdLimit = (held (10 * 7812500)).time.holdSpans) ∧
    (held (10 * 7812500 - 1)).time.holdSpans < (held (10 * 7812500 - 1)).holdLimit ∧
    (locked.sys.state ≠ .reset ∧ locked.time.refPresent = true) ∧
    (locked.src = 1 ∧ locked.steered = true ∧ bit locked.time.tsRing 4 = true ∧ 0 < locked.jumpThr) ∧
    (let now : Int := (9 * 524288 + 5 : Nat)
     bit second.time.cfg 7 = true ∧ bit second.time.cfg 8 = true ∧
     (now + second.time.offset + sbits second.time.cfg 32 16) % 4096000000000 = 0 ∧ second.time.lastPps = 0) ∧
    (((9 * 524288 + 6 : Nat) : Int) + second.time.offset + sbits second.time.cfg 32 16) % 4096000000000 ≠ 0 ∧
    ((ringWaits 5).time.tsPend = { at_ := 5 } :: [] ∧ 5 + 4096000000 ≤ (ringWaits 5).now) ∧
    (let n := 9000 * 524288 - 4096000000 + 1
     (ringWaits n).time.tsPend = { at_ := n } :: [] ∧ (ringWaits n).now < n + 4096000000) ∧
    ((bit locked.time.cfg 7 && (locked.traceable || bit locked.time.cfg 8)) = false ∧
     (let s := tm (fun x => { x with lastPps := 9 * 524288 + 3 }) second
      s.time.lastPps ≠ 0 ∧ 2 * (9 * 524288 + 5 + 1 - s.time.lastPps) < 4096000000000)) := by
  refine ⟨?_, ?_, ?_, ?_, ?_, ?_, ?_, ?_, ?_, ?_⟩ <;> decide +kernel

/-- An announce. -/
def ann (n : Nat) : Announce :=
  { priority1 := n, clockClass := 6, accuracy := 32, variance := 3, priority2 := 128, identity := 7, steps := 0 }

/-- The port is up, a slave's, src 2, the servo LOCKED. -/
def port (f : Ptp → Ptp) : State :=
  tm (fun x => { x with cfg := setBits x.cfg 0 2 2, servo := .locked, tsRing := 0x10, offset := -7, ptpLat := 0x00050003,
                        ptpCfg := setBits x.ptpCfg 0 2 1, ptp := f x.ptp }) ready

/-- The port takes part in the BMCA with the peer delay mechanism. -/
def peers (f : Ptp → Ptp) : State :=
  tm (fun x => { x with ptpCfg := setBits (setBits x.ptpCfg 0 2 2) 2 1 1 }) (port f)

theorem test_meets_PtpMessages :
    ((port id).ptpOn = true ∧ (0 : BitVec 8).toNat = (port id).ptpDomain ∧ (1 : BitVec 8) ≠ 0 ∧
     (port id).time.ptp.txq.length < 16 ∧ (port id).ptpP2p = false) ∧
    ((port fun x => { x with txq := List.replicate 16 (3, 1, 2) }).ptpOn = true ∧
     16 ≤ (port fun x => { x with txq := List.replicate 16 (3, 1, 2) }).time.ptp.txq.length) ∧
    (let s := port fun x => { x with parent := some (ann 1) }
     s.ptpOn = true ∧ s.ptpSlave = true ∧ s.ptpP2p = false ∧ s.time.ptp.mpd = none) ∧
    (let s := peers id
     s.ptpOn = true ∧ (0 : BitVec 8).toNat = s.ptpDomain ∧ s.ptpMaster = true ∧ s.ptpP2p = true) ∧
    (let s := peers fun x => { x with preq := some (4, 77), txq := [(4, 2, 100)] }
     s.ptpOn = true ∧ s.ptpP2p = true ∧ s.time.ptp.preq = some (4, 77) ∧ s.time.ptp.txq = (4, 2, 100) :: [] ∧
     s.time.ptp.t12 = none) ∧
    (let s := port fun x => { x with sync := some (4, 55, 2) }
     s.ptpOn = true ∧ s.time.ptp.sync = some (4, 55, 2) ∧ s.time.ptp.mpd = none) ∧
    (let s := port fun x => { x with lastSync := some (100, 200), txq := [(4, 1, 300)] }
     s.ptpOn = true ∧ s.ptpP2p = false ∧ s.time.ptp.txq = (4, 1, 300) :: [] ∧ s.time.ptp.lastSync = some (100, 200) ∧
     s.time.ptp.t12 = none) ∧
    (let s := peers fun x => { x with pd := some (4, 100, 150, 260, 10) }
     s.ptpOn = true ∧ s.ptpP2p = true ∧ s.time.ptp.pd = some (4, 100, 150, 260, 10) ∧ s.time.ptp.t12 = none) ∧
    (let s := port fun x => { x with parent := some (ann 1), mpd := some 50, fresh := true }
     let rx : Int := ((9 * 524288 + 9 : Nat) : Int) + s.time.offset - bits s.time.ptpLat 16 16
     let o : Int := rx - (9 * 524288 - 100) - 50 - sbits s.time.ptpAsym 0 32
     s.ptpOn = true ∧ s.time.ptp.mpd = some 50 ∧ s.ptpSlave = true ∧ s.asymSuspect o 50 = false ∧ s.src = 2 ∧
     s.steered = true ∧ s.time.servo = .locked ∧ (o.natAbs : Int) < s.jumpThr) := by
  refine ⟨?_, ?_, ?_, ?_, ?_, ?_, ?_, ?_, ?_⟩ <;> decide +kernel

/-! ## Witnesses: Halso -/

/-- A device that has joined. -/
def joined : State := ha (fun x => { x with joined := true }) ready

/-- Its upstream port has a tick pair begun, the last round trip as given. -/
def hop (last : Option Nat) : State :=
  src 3 (ha (fun x => { x with joined := true, ports := [(0, {
    up := true, fwd := some (9 * 524288 - 5000, 9 * 524288 - 4900, 70), t3 := some (9 * 524288 - 400), lastRtt := last,
    asym := 0xFFFF, latRx := 3 })] }) ready)

/-- Group 2 follows group 6 of device 3. -/
def follows (st : GSt) : State :=
  { joined with cap := { joined.cap with
      groups := [(2, { st := st, gid := 6, devices := 8, recs := true, units := 4, missedAcc := 3 })]
      units := [(2, { acq := 0 })] } }

/-- Barrier 2 of a site names device 3. -/
def barDev : State := withSite { runner with dmem := Mem.store (dmemOf 1) 0x820 (leBytes 8 1 ++ leBytes 2 8 ++ leBytes 2 1) } joined

theorem test_meets_HalsoMessages :
    (joined.haOn = true ∧ joined.isMaster = false ∧ ∀ w ∈ [armMsg 3 2 9, hitMsg 3 1 true 4], joined.hasFirst 0 w = false) ∧
    (let s := { joined with halso := { joined.halso with cfg := 0x400C00, firsts := [(2, hitMsg 3 1 true 4, 9)] } }
     s.haOn = true ∧ s.hasFirst 0 (hitMsg 3 1 true 4) = true) ∧
    (let s := hop none
     s.haOn = true ∧ s.isUp 0 = true ∧ s.halso.joined = true ∧ s.src = 3 ∧
     (s.halso.ports.get 0).fwd = some (9 * 524288 - 5000, 9 * 524288 - 4900, 70) ∧
     (s.halso.ports.get 0).t3 = some (9 * 524288 - 400) ∧ (s.halso.ports.get 0).lastRtt = none) ∧
    (let s := hop (some 900)
     let rtt : Int := (9 * 524288 - 200) - (9 * 524288 - 5000) - ((9 * 524288 - 400) - (9 * 524288 - 4900))
     s.haOn = true ∧ s.isUp 0 = true ∧ s.halso.joined = true ∧ s.src = 3 ∧ (s.halso.ports.get 0).lastRtt = some 900 ∧
     (s.rttThr : Int) < ((rtt - 900).natAbs : Int)) ∧
    ({ joined with halso := { joined.halso with cfg := 0x400810 } } : State).isMaster = true ∧
    (barDev.plan 0 = some plan0 ∧
     0 ∈ plan0.sites ∧ (barDev.site 0).leader 0 2 = 0 ∧ (barDev.site 0).barValid 2 = true ∧
     bit ((barDev.site 0).barDevices 2) 3 = true) ∧
    (let s := { joined with dds := { gens := [(0, { running := true, cfg := BitVec.ofNat 32 (2 * 4 + 5 * 32), target := 9 })] } }
     s.haOn = true ∧ (s.gen 0).running = true ∧ bits (s.gen 0).cfg 2 3 = 2 ∧ bits (s.gen 0).cfg 5 5 = 5) ∧
    (∀ st ∈ [GSt.armed, .rearming],
      ((follows st).haOn = true ∧ ((follows st).group 2).gid = 6 ∧ bit ((follows st).group 2).devices 3 = true ∧
       ((follows st).group 2).recs = true ∧ ((follows st).group 2).st = st ∧
       ((follows st).group 2).armAt * 524288 ≤ (follows st).nearSpan 18 9 * 524288 + 4 * 2048) ∧
      ∀ u : Fin 16, u.val ≠ 2 → ¬ (((follows st).group u.val).gid = 6 ∧ bit ((follows st).group u.val).devices 3 = true ∧
        ((follows st).group u.val).recs = true)) := by
  refine ⟨?_, ?_, ?_, ?_, ?_, ?_, ?_, ?_⟩ <;> decide +kernel

/-- A hello of a master in a domain of two. -/
def hello (dev : Nat) : Hello := { dev := BitVec.ofNat 4 dev, master := true, nM1 := 1, ring := false, position := 0 }

/-- Both ports are up with a tick pair, hellos and span marks seen. -/
def mayJoin : State :=
  ha (fun x => { x with helloDone := true, marks := true,
                        ports := [(0, { up := true, pair := some (9 * 524288, 9 * 524288 + 5, 100, 55) }),
                                  (1, { up := true, pair := some (9 * 524288, 9 * 524288 + 5, 100, 55) })] }) ready

theorem test_meets_HalsoLinks :
    (let s : State := { ready with halso := { ready.halso with cfg := 0x400820 } }
     s.haOn = true ∧ s.helloConflict (hello 0) = true ∧ s.helloConflict (hello 5) = false) ∧
    (let s := ha id ready
     let m : State := { s with halso := { s.halso with cfg := 0x400810, helloDone := true } }
     m.joinReady = true ∧ m.isMaster = true) ∧
    (mayJoin.joinReady = true ∧ mayJoin.isMaster = false ∧ mayJoin.quiet = true ∧
     ((List.range 4).filterMap fun i => if mayJoin.isUp i then (mayJoin.halso.ports.get i).pair else none).head? =
       some (9 * 524288, 9 * 524288 + 5, 100, 55)) ∧
    (let s := withSite runner mayJoin
     s.joinReady = true ∧ s.isMaster = false ∧ s.quiet = false) ∧
    (joined.halso.joined = true ∧ joined.isMaster = false ∧ mayJoin.halso.joined = false ∧ ready.timeOn = true ∧
     (ha id ready).timeOn = true ∧ (ha id ready).haEn = true ∧ ready.haEn = false) ∧
    (joined.haOn = true ∧ joined.upLost = true ∧ joined.haRing = false ∧
     (let s := { joined with halso := { joined.halso with cfg := 0x400A00, ports := [(1, { up := true })] } }
      s.haOn = true ∧ s.isMaster = false ∧ s.upLost = true ∧ s.halso.joined = true ∧ s.haRing = true ∧
      s.sideUp (1 - s.upSide) = true)) ∧
    (ready.blockOn true = true ∧ (wr 0x1FFFF).lo = true ∧ ready.time.servo ≠ .holdover) ∧
    (let s := tm (hold 4) (hop none)
     s.blockOn true = true ∧ s.isUp 0 = true ∧ s.time.servo = .holdover ∧ s.time.holdCause = 4) := by
  refine ⟨?_, ?_, ?_, ?_, ?_, ?_, ?_, ?_⟩ <;> decide +kernel

/-! ## Witnesses: pins and links -/

/-- Site 0 runs and owns ch0, which is tracked and locked; its octet is locked at 2,000 Mb/s. -/
def tracked (p : Pin → Pin) (span : Nat) : State :=
  let s := modPin 0 (fun q => p { q with cfg := 0x301, locked := true })
    (modOctet 0 (fun x => { x with locked := true, ceiling := 2000 }) (withSite runner ready))
  { s with time := { s.time with span := span } }

theorem test_meets_LockIsLostAndFound :
    (let s := tracked id 9
     (s.octet 0).locked = true ∧ 0 < (s.octet 0).ceiling ∧ s.cdrOn 0 = true ∧ (s.pin 0).locked = true ∧
     s.ownerOf 0 = some 0 ∧ (s.site 0).running = true ∧ (s.site 0).play ≠ .starting ∧ (s.site 0).play ≠ .ended ∧
     (s.pin 0).suspect = none ∧ (s.octet 0).linkEn = false) ∧
    (let s := withSite runner ready
     (s.octet 0).locked = false ∧ (s.octet 0).pllOff = false ∧ s.sys.state ≠ .reset ∧ s.sys.state ≠ .boot ∧ 0 < s.nOct) ∧
    (let s := tracked (fun p => { p with winT := 0 }) 32
     s.cdrOn 0 = true ∧ (s.windowEnd 0).isSome = true ∧ (s.pin 0).locked = true) ∧
    (let s := tracked (fun p => { p with winT := 0, locked := false, goodWin := 1 }) 32
     s.cdrOn 0 = true ∧ (s.windowEnd 0).isSome = true ∧ (s.pin 0).locked = false ∧ min 2 ((s.pin 0).goodWin + 1) = 2 ∧
     (s.octet 0).locked = true ∧ (s.pin 0).los = false ∧ (windowPhase false (s.uiOf 0) 0 5).natAbs < 32767) ∧
    (windowPhase true (some 2048) 0 5000 = 4096 ∧ windowPhase true (some 2048) 32000 36000 = 32767) ∧
    (let s := tracked (fun p => { p with cfg := 0x381 }) 9
     bit (s.pin 0).cfg 7 = true ∧ (s.pin 0).los = false ∧ s.cdrOn 0 = true ∧ (s.pin 0).locked = true) := by
  decide +kernel

/-- A compare at an instant whose result word is awaited. -/
def cmpSent : CmpRes := { t := 9 * 524288 - 400000, judged := true, sent := true, exp := 1 }

/-- The vector that holds it, of ch12. -/
def cmpHeld : Held := .vec {} 0 false none false [{ ch := 12, cmps := [cmpSent] }] [] []

/-- Site 0 owns ch12 of octet 1, which is in link configuration, three lanes echoed. -/
def linked : State :=
  withSite { runner with dmem := dmemOf (2 ^ 12), held := [cmpHeld] }
    (modOctet 1 (fun x => { x with linkEn := true, locked := true, rtts := [(0, 5), (1, 5), (3, 5)] }) ready)

/-- A result word that answers it with a code. -/
def resultWord (code : Nat) : W32 :=
  BitVec.ofNat 32 (2 ^ 22 + (cmpSent.t % 524288).toNat + code * 2 ^ 19 + (cmpSent.t / 524288 % 16).toNat * 2 ^ 23)

theorem test_meets_LinkLanesAnswer :
    ((linked.octet 1).linkEn = true ∧ linked.octRunning 1 = true) ∧
    (let s := withSite idler linked
     (s.octet 1).linkEn = true ∧ s.octRunning 1 = false ∧ (s.octet 1).mgmt = [] ∧ (s.octet 1).locked = true ∧
     (s.octet 1).rxLol = 0 ∧ (s.octet 1).txFault = 0 ∧ ∀ j : Fin 4, j.val ≠ 2 → (s.octet 1).rtts.get j.val ≠ 0) ∧
    ((linked.sites.find? fun e => bit e.2.pinMap 12 && !e.2.held.isEmpty) = some (0, linked.site 0) ∧
     (linked.site 0).held = cmpHeld :: [] ∧ cmpSent.sent = true ∧ (linked.pin 12).suspect = none ∧
     (cmpSent.t + 262144) / 524288 ≤ linked.time.span) ∧
    (∀ c : Fin 4, bit (resultWord c.val) 22 = true ∧ (cmpSent.t % 524288).toNat = bits (resultWord c.val) 0 19 ∧
      (cmpSent.t / 524288 % 16).toNat = bits (resultWord c.val) 23 4 ∧ bits (resultWord c.val) 19 2 = c.val) := by
  refine ⟨?_, ?_, ?_, ?_⟩ <;> decide +kernel

theorem test_meets_PinRegistersWrite :
    (let s := tracked id 9
     s.blockOn false = true ∧ 0 < s.nCh ∧ s.ownedRunning 0 = true ∧ s.ownedRunning 1 = false ∧
     bits ((0x306 : W32) &&& 0xFFF) 1 2 = 3 ∧ ((0x300 : W32) &&& 0xFFF ^^^ (s.pin 0).cfg) &&& 0xE7F ≠ 0 ∧
     bits ((0x301 : W32) &&& 0xFFF) 1 2 ≠ 3 ∧ bits ((0x301 : W32) &&& 0xFFF) 4 3 < 3 ∧ bits ((0x301 : W32) &&& 0xFFF) 9 3 < 5 ∧
     bit ((0x301 : W32) &&& 0xFFF) 0 = true ∧ (s.pin 1).tracked = false ∧
     sbits (0x8000301 : W32) 0 16 = 769 ∧ bits (0x8000301 : W32) 0 16 ≠ bits (s.pin 0).aux 0 16 ∧
     bits (0x5 : W32) 0 4 ≠ bits (s.pin 0).ctle 0 4 ∧ sbits (0xFFFF : W32) 0 16 ≠ (s.pin 0).dDrv ∧
     16383 < sbits (0x4000 : W32) 0 16 ∧ sbits (0xC000 : W32) 0 16 = -16384 ∧ s.farPair 0 = none) ∧
    (let s := tracked id 9
     0 < s.nOct ∧ (wr 3).lo = true ∧ bit (wr 3).val 0 ≠ (s.octet 0).linkEn ∧ s.octOwned 0 = true ∧ s.octOwned 1 = false ∧
     (bit (0x1 : W32) 0 || bit s.sys.disabled 0) ≠ (s.octet 0).pllOff ∧ (s.octet 1).linkEn = false ∧
     bit s.sys.disReq 1 = false) ∧
    (let s : State := { ready with sys := { ready.sys with disReq := 2, disabled := 2 } }
     s.blockOn false = true ∧ bit s.sys.disReq 1 = true ∧ bit s.sys.disabled 1 = true) := by
  refine ⟨?_, ?_, ?_⟩ <;> decide +kernel

/-! ## Witnesses: DRAM and host queues -/

/-- A device with the spill ring off. -/
def noSpill : State := { ready with hqm := { ready.hqm with spillEn := false } }

theorem test_meets_DramControlWrites :
    (noSpill.blockOn false = true ∧ bits (0xB3 : W32) 0 3 ≤ 4 ∧ bits (0xB3 : W32) 4 3 ≤ 5 ∧ noSpill.plans = []) ∧
    (bits (0xB4 : W32) 0 3 = 4 ∧ bits (0xD0 : W32) 4 3 = 5 ∧ 4 < bits (0x5 : W32) 0 3 ∧ 5 < bits (0x60 : W32) 4 3) ∧
    (ready.blockOn false = true ∧ bits (0x50 : W32) 0 3 = ready.dram.grain.toNat ∧
     bits (0x50 : W32) 4 3 = ready.dram.rate.toNat) ∧
    (bits (0xB3 : W32) 0 3 ≠ ready.dram.grain.toNat ∧ ready.hqm.spillEn = true) := by decide +kernel

theorem test_meets_DramRefreshes :
    (let s := modDram (fun d => { d with chans := [(3, { debt := 8, quarter := 3 })] }) ready
     s.dramLive = true ∧ (s.dram.chans.get 3).forced = false ∧ (s.dram.chans.get 3).debt + ((s.dram.chans.get 3).quarter + 1) / 4 = 9) ∧
    (let s := modDram (fun d => { d with chans := [(3, { rate := 2, second := some 1 })] }) ready
     s.dramLive = true ∧ 262144 ≤ (262144 : Grain).val ∧ (s.dram.chans.get 3).second ≠ none) ∧
    (let s : State := { ready with time := { ready.time with span := 7 + 125 } }
     s.time.span % 125 * 524288 + (425984 : Grain).val = (1 : Fin 16).val * 4096000 ∧ s.retraining = false) ∧
    State.reset.dramLive = false ∧ ready.sys.state = .ready := by decide +kernel

/-- CQ 1 of 16 entries with vector 3, and an SQ for it. -/
def cq1 : Queue := { cfg := 0x300000013, base := 8192, phase := true }

@[inherit_doc cq1] def sq0 : Queue := { cfg := 0x111, base := 4096 }

/-- Both. -/
def queues (a b : Queue) (s : State) : State := { s with hqm := { s.hqm with queues := [(0, a), (1, b)] } }

/-- Is a doorbell write within its bounds? -/
def doorbellOk (off v : Nat) (s : State) : Bool :=
  let x := s.queue (off / 4096 * 64 + off % 4096 / 8)
  x.en && decide (v < x.size) && (!x.isCq || decide ((v + x.size - x.head) % x.size ≤ x.fill))

/-- Is a write of HQM_SPILL refused? -/
def spillBad (w : Wr) (s : State) : Bool :=
  let new := rwMerge spillRw w s.hqm.spillReg
  changes spillRw spillRw w s.hqm.spillReg &&
    (s.anyRunning || s.hqm.spillEn && !bit new 0 && !s.hqm.spill.isEmpty)

/-- An entry of CQ 1 is in the spill ring. -/
def spilt (s : State) : State := { s with hqm := { s.hqm with spill := [{ cq := 1, entry := 7, irqNow := false }] } }

theorem test_meets_QueueWrites :
    (let s := queues sq0 { cq1 with tail := 4, head := 2 } ready
     s.blockOn false = true ∧ doorbellOk 0 0 s = true ∧ doorbellOk 0 15 s = true ∧ doorbellOk 0 16 s = false ∧
     doorbellOk 8 4 s = true ∧ doorbellOk 8 5 s = false ∧ doorbellOk 16 0 s = false) ∧
    (let s := queues sq0 cq1 ready
     let low (v : W64) : W64 := rwMerge qctxCfgRw { val := v } (s.queue 1).cfg
     (s.queue 1).en = true ∧ bit (low 0) 0 = false ∧ s.disableBad 1 = true ∧
     (s.queue 0).en = true ∧ bit (rwMerge qctxCfgRw { val := sq0.cfg - 1 } sq0.cfg) 0 = false ∧ s.disableBad 0 = false ∧
     changes (qctxCfgRw &&& ~~~ fm 0 1) qctxCfgRw { val := sq0.cfg - 1 } sq0.cfg = false ∧
     changes (qctxCfgRw &&& ~~~ fm 0 1) qctxCfgRw { val := 0 } sq0.cfg = true) ∧
    (let s := queues sq0 cq1 ready
     let new (v : W64) : W64 := rwMerge qctxCfgRw { val := v } (s.queue 2).cfg
     (s.queue 2).en = false ∧ bit (new 0x110) 0 = false ∧ bit (new 1) 0 = true ∧ s.enableOk 2 (new 1) = false ∧
     bit (new 0x111) 0 = true ∧ s.enableOk 2 (new 0x111) = true ∧
     changes (fm 12 52) (fm 12 52) (wr 4096) (s.queue 1).base = true ∧
     changes (fm 12 52) (fm 12 52) (wr 8192) (s.queue 1).base = false) ∧
    (spillBad (wr 0) (spilt ready) = true ∧ spillBad (wr 0) (withSite runner ready) = true ∧ spillBad (wr 0) ready = false ∧
     spillBad (wr 3) (spilt ready) = false) := by
  refine ⟨?_, ?_, ?_, ?_⟩ <;> decide +kernel

/-- SQ 0 has descriptors to fetch. -/
def toFetch : State := queues { sq0 with tail := 3 } cq1 ready

/-- Slot 0 holds a command that has completed, both queues there. -/
def completed (c : Queue) (s : State) : State :=
  modCmd 0 (fun _ => { ph := .done, status := 0, result := 5, cspan := 9, desc := 0x70000 }) (queues sq0 c s)

/-- A ready command, so many dispatched in the span. -/
def readyCmd (n : Nat) : State :=
  { ready with hqm := { ready.hqm with cmds := [(0, { ph := .ready })], readyQ := [0], dispatched := n } }

/-- CQ 1 has entries not signalled, its vector masked or not. -/
def unsignalled (m : Bool) : State :=
  let s := queues sq0 { cq1 with unsig := 3, unsigSpan := 8 } ready
  { s with hqm := { s.hqm with msix := [(3, { masked := m })] } }

theorem test_meets_CommandsFlow :
    (toFetch.fetching = true ∧ toFetch.nextFetch = some 0 ∧ (toFetch.queue 0).head ≠ (toFetch.queue 0).tail ∧
     toFetch.opensTooMany 0 0 = false ∧ toFetch.opensTooMany 0 0xEE = false ∧ badDesc toFetch.installed 0 0 = none ∧
     badDesc toFetch.installed 0 0xEE ≠ none) ∧
    (modCmd 0 (fun _ => { ph := .delayed }) ready).dueDelayed = [0] ∧
    (∀ n ∈ [0, 127, 128], (readyCmd n).hqm.readyQ = 0 :: [] ∧ (readyCmd n).fetching = true ∧
      (readyCmd n).cancelDue 0 = false ∧ (readyCmd n).hqm.dispatched = n) ∧
    (let s := completed cq1 ready
     s.releasable 0 = true ∧ s.cqOf (s.cmd 0).sq = 1 ∧ (s.queue 1).full = false ∧ s.spilled 1 = 0 ∧ s.hqm.spillEn = true) ∧
    (let s := completed { cq1 with tail := 15 } ready
     s.releasable 0 = true ∧ (s.queue 1).full = true ∧ s.hqm.spillEn = true) ∧
    (let s := spilt (completed cq1 ready)
     s.releasable 0 = true ∧ 0 < s.spilled 1) ∧
    (let s := completed { cq1 with tail := 15 } noSpill
     s.releasable 0 = true ∧ (s.queue 1).full = true ∧ s.hqm.spillEn = false) ∧
    (let s := spilt (queues sq0 { cq1 with tail := 15, head := 3 } ready)
     (s.queue 1).full = false ∧ s.hqm.spill = [] ++ { cq := 1, entry := 7, irqNow := false } :: []) ∧
    (∀ m ∈ [true, false], 0 < ((unsignalled m).queue 1).unsig ∧
      ((unsignalled m).queue 1).unsigSpan + ((unsignalled m).queue 1).modSpans < (unsignalled m).time.span ∧
      ((unsignalled m).hqm.msix.get ((unsignalled m).queue 1).vector).masked = m) := by
  refine ⟨?_, ?_, ?_, ?_, ?_, ?_, ?_, ?_, ?_⟩ <;> decide +kernel

/-! ## Witnesses: monitors, configuration memory, counters -/

/-- A monitor's configuration: limits, enable, filter length, fault level, action. -/
def monCfg (lo hi en n fa act : Nat) : W32 :=
  BitVec.ofNat 32 (lo + hi * 2 ^ 10 + en * 2 ^ 20 + n * 2 ^ 21 + fa * 2 ^ 25 + act * 2 ^ 26)

/-- Is a configuration refused? -/
def monBad (n : Mon) : Bool := decide (n.hi < n.lo) || decide (1000 < n.hi) || n.action == 3

/-- Monitor 2, with one decision in its filter. -/
def monitored (un : Bool) : State :=
  let s := withSite runner ready
  { s with cal := { s.cal with mons := [(2, { cfg := monCfg 100 200 1 1 1 2, unresolved := un, sites := 1, hist := [true] })] } }

/-- 23 sensors at 30 °C, and one. -/
def temps (n : Nat) : List (BitVec 12) := List.replicate 23 (BitVec.ofNat 12 300) ++ [BitVec.ofNat 12 n]

theorem test_meets_MonitorsAndSensors :
    (∀ un ∈ [true, false],
      let m := (monitored un).cal.mons.get 2
      m.en = true ∧ (monitored un).sys.state ≠ .reset ∧ m.unresolved = un ∧ m.out = false ∧ m.n = 3 ∧ m.action = 2 ∧
      m.faultAbove = true ∧ m.hi * 2000 < 400001 ∧
      decide ((true :: m.hist).length < 2 * ((true :: m.hist).filter id).length) = true) ∧
    ((monitored true).cal.mons.get 3).en = false ∧
    ((monitored true).blockOn true = true ∧
     [monCfg 200 100 0 0 0 0, monCfg 0 1001 0 0 0 0, monCfg 0 0 0 0 0 3].all (fun c => monBad { cfg := c &&& 0x0FFFFFFF }) = true ∧
     (let n : Mon := { cfg := monCfg 1000 1000 1 2 0 0 &&& 0x0FFFFFFF }
      monBad n = false ∧ n.en = true ∧ n.n ≠ ((monitored true).cal.mons.get 2).n)) ∧
    (∀ n ∈ [800, 999, 1000], ready.sys.state ≠ .reset ∧ (temps n).length = 24 ∧
      (ready.cal.sensors.get 23).seen = false ∧ ready.cal.warn.toInt ≤ ((temps n).getD 23 0).toInt) ∧
    (ready.cal.crit.toInt ≤ ((temps 880).getD 23 0).toInt ∧ 1000 ≤ ((temps 1000).getD 23 0).toInt ∧ ready.cal.trip = false ∧
     (∀ i : Fin 24, ((temps 999).getD i.val 0).toInt < 1000)) ∧
    (ready.blockOn true = true ∧ (wr 0x8008).lo = true ∧ bit (wr 0x8008).val 15 = true ∧ ready.cal.adcBusy = false ∧
     bit (wr 9).val 15 = false ∧ ready.adcInput 8 0 = true ∧ ready.adcInput 9 0 = false) ∧
    (let s : State := { ready with cal := { ready.cal with adcBusy := true, adcA := 1 } }
     s.blockOn true = true ∧ s.cal.adcBusy = true) ∧
    (∀ st ∈ [DevState.ready, .bringUp, .standby], (inState st ready).sys.state ≠ .reset ∧ (inState st ready).sys.state ≠ .boot ∧
      (inState st ready).sys.state ≠ .deepStandby ∧ 0 < (inState st ready).nOct) := by
  refine ⟨?_, ?_, ?_, ?_, ?_, ?_, ?_, ?_⟩ <;> decide +kernel

/-- CFG_SAVE of one section. -/
def saving : State := withCmd 0x48 0x02 ready

/-- The ageing log has entries. -/
def aged (n : Nat) : State := { ready with cfg := { ready.cfg with ageEntries := n, ageSeq := 7 } }

theorem test_meets_ConfigurationMemory :
    (saving.holds 0 0x48 = true ∧ (saving.cmd 0).dspan < saving.time.span ∧ saving.saveOk = true ∧
     (saving.saveImage (pay (saving.cmd 0).desc 0 4) (saving.cfg.seq.toNat + 1)).length ≤ 3670016) ∧
    (let s : State := { saving with cfg := { saving.cfg with absent := true } }
     s.holds 0 0x48 = true ∧ (s.cmd 0).dspan < s.time.span ∧ s.saveOk = false) ∧
    (tm (fun x => { x with span := 8 }) saving).time.span ≤ (saving.cmd 0).dspan ∧
    (∀ n ∈ [0, 2047, 2048], (aged n).timeOn = true ∧ (aged n).cfg.absent = false ∧ (aged n).cfg.ageEntries = n) ∧
    ((tm (fun x => { x with span := 2 ^ 35 }) (aged 3)).time.span % 2 ^ 35 = 0 ∧ (aged 3).time.span % 2 ^ 35 ≠ 0) := by
  refine ⟨?_, ?_, ?_, ?_, ?_⟩ <;> decide +kernel

/-- Counter 5 is 3 from its end, its interrupt selected or not. -/
def counted (irq : Nat) : State :=
  { ready with perf := { ready.perf with cnts := [(5, { count := BitVec.ofNat 48 (2 ^ 48 - 3), sel := BitVec.ofNat 32 (2 ^ 24 + 2 ^ 25 * irq + 0x059) })] } }

/-- The sampler is on, an occurrence open, entries buffered. -/
def sampling (n : Nat) : State :=
  { ready with perf := { ready.perf with psCfg := 1, psOpen := [{ idx := 4 }], psBuf := List.replicate n {} } }

theorem test_meets_CountersAndSampler :
    (∀ i ∈ [0, 1], let c := (counted i).perf.cnts.get 5
      (counted i).blockOn false = true ∧ bit c.sel 24 = true ∧ (counted i).perf.freeze = false ∧ 2 ^ 48 = c.count.toNat + 3 ∧
      bit c.sel 25 = (i == 1) ∧ ¬ 2 ^ 48 ≤ c.count.toNat + 2) ∧
    (let s : State := { ready with perf := { ready.perf with snapGo := 9 } }
     s.blockOn false = true ∧ s.cycle = 0 ∧ s.perf.snapDue s.time.span = true) ∧
    (bit (sampling 1).perf.psCfg 0 = true ∧ changes (psCfgRw &&& ~~~ fm 0 1) psCfgRw (wr 0x101) (sampling 1).perf.psCfg = true ∧
     changes (psCfgRw &&& ~~~ fm 0 1) psCfgRw (wr 0) (sampling 1).perf.psCfg = false ∧ bit ready.perf.psCfg 0 = false ∧
     bit (rwMerge psCfgRw (wr 1) ready.perf.psCfg) 0 = true) ∧
    (∀ n ∈ [4095, 4096], (sampling n).perf.psOpen.find? (fun z => z.idx == 4) = some { idx := 4 } ∧
      (sampling n).perf.psBuf.length = n) ∧ (∀ o ∈ (sampling 1).perf.psOpen, o.idx ≠ 5) := by
  refine ⟨?_, ?_, ?_, ?_, ?_⟩ <;> decide +kernel

/-! ## Witnesses: resets, ticks, writes -/

/-- A device in reset for these reasons. -/
def inReset (por resetN rails : Bool) : State :=
  { State.reset with sys := { State.reset.sys with por := por, resetN := resetN, railsGood := rails } }

theorem test_meets_ResetsAndRequests :
    (inReset true false false).sys.por = true ∧ (inReset false true true).sys.por = false ∧
    (inState .boot (inReset false false true)).sys.state = .boot ∧ ready.blockOn true = true ∧ ready.sys.state ≠ .reset ∧
    (∀ st ∈ [DevState.standby, .deepStandby],
      let s : State := { ready with sys := { ready.sys with state := st, waking := true, disabled := 2 } }
      s.sys.waking = true ∧ s.sys.state = st ∧ bit s.sys.disabled 0 = false) ∧
    ready.sys.waking = false ∧ ready.sys.softBoot = false := by decide +kernel

theorem test_meets_TicksLeasesAndWrites :
    (∀ n : Fin 4,
      let s : State := { ready with sys := { ready.sys with powerReq := BitVec.ofNat 2 n.val } }
      s.sys.state ≠ .reset ∧ s.sys.pcieReq = false ∧ s.sys.softReq = false ∧ s.sys.disTest = 0 ∧
      s.sys.powerReq = BitVec.ofNat 2 n.val) ∧
    (countSpan ready).restOk = true ∧
    (let s : State := { ready with sys := { ready.sys with softReq := true } }
     s.sys.state ≠ .reset ∧ s.sys.pcieReq = false ∧ s.sys.softReq = true) ∧
    (∀ r ∈ [true, false],
      let s : State := { ready with cal := { ready.cal with missed := [(70, 4)], revoked := [(70, r)] } }
      4 ≤ s.cal.missed.get 70 ∧ s.cal.revoked.get 70 = r) ∧
    ({ ready with cal := { ready.cal with missed := [(70, 3)] } } : State).cal.missed.get 70 < 4 ∧
    ready.blockOn true = true := by decide +kernel

/-! ## Witness: a plan image that loads

Its CRCs stand as expressions of its bytes: no proof computes one. -/

/-- Cells of bytes from an address. -/
def lit (l : List (Nat × Nat)) : Mem := l.map fun e => (e.1, BitVec.ofNat 8 e.2)

/-- The blocks of a valid plan image of one site, without its CRCs. -/
def imgBase : Mem := lit (
  [(0, 0x5a), (1, 0x4b), (2, 0x50), (3, 0x4c), (5, 1), (7, 1), (9, 0xb0), (24, 1), (26, 1), (28, 1), (30, 1), (32, 0xff), (33, 0xff)] ++
  [(40, 0xe8), (41, 3), (80, 1), (89, 0x40), (96, 5), (104, 0x20), (112, 6), (120, 0x80), (128, 7), (136, 8), (176, 8), (185, 0x10)] ++
  [(192, 9), (201, 0x10), (208, 0xa), (216, 4), (11264, 1), (11315, 1), (11316, 2), (11320, 8), (12295, 0xfc), (20480, 2), (20482, 3), (20483, 1)]) ++
  (List.range 64).map fun i => (24576 + i, 255#8)

/-- A 32-bit value at an address. -/
def crcCells (a v : Nat) : Mem :=
  [(a, BitVec.ofNat 8 v), (a + 1, BitVec.ofNat 8 (v / 256)), (a + 2, BitVec.ofNat 8 (v / 256 / 256)), (a + 3, BitVec.ofNat 8 (v / 256 / 256 / 256))]

/-- CRC of a block of the image. -/
def blkCrc (page len : Nat) : Nat := (crc32c (Mem.bytes imgBase (4096 * page) len)).toNat

/-- The CRCs of the directory. -/
def dirCrcs : Mem := crcCells 84 (blkCrc 1 16384) ++ crcCells 100 (blkCrc 5 32) ++ crcCells 116 (blkCrc 6 128) ++ crcCells 132 (blkCrc 7 8) ++
  crcCells 180 (blkCrc 8 4096) ++ crcCells 212 (blkCrc 10 4)

/-- The image without its header CRC. -/
def img1 : Mem := imgBase ++ dirCrcs

/-- Its header CRC. -/
def hdrCrc : Nat := (crc32c (Mem.bytes img1 0 0xFC)).toNat

/-- The image. -/
def img : Mem := img1 ++ crcCells 0xFC hdrCrc

theorem filter_tail (m r : Mem) (p : Host.Cell → Bool) (h : r.filter p = []) : (m ++ r).filter p = m.filter p := by
  rw [List.filter_append, h, List.append_nil]

theorem bytes_tail (m r : Mem) (a n : Nat) (h : (r.filter fun e => decide (a ≤ e.1) && decide (e.1 < a + n)) = []) :
    Mem.bytes (m ++ r) a n = Mem.bytes m a n := by
  unfold Mem.bytes; rw [filter_tail m r _ h]

theorem leNat4 (v : Nat) (h : v < 2 ^ 32) : leNat (leBytes 4 v) = v := by
  simp [leNat, leBytes]; omega

theorem num_crc (m : Mem) (a v : Nat) (h : Mem.bytes m a 4 = leBytes 4 v) (hv : v < 2 ^ 32) : Mem.num m a 4 = v := by
  unfold Mem.num; rw [h, leNat4 v hv]

theorem blkCrc_lt (p l : Nat) : blkCrc p l < 2 ^ 32 := BitVec.isLt _

theorem hdrCrc_lt : hdrCrc < 2 ^ 32 := BitVec.isLt _

theorem header_ok : headerFault img (readHeader img 0) = none := by
  have hm : (readHeader img 0).magic = 0x4C504B5A := by decide +kernel
  have hj : (readHeader img 0).major = 1 := by decide +kernel
  have hc : (readHeader img 0).crc = hdrCrc := by
    have : (readHeader img 0).crc = Mem.num img 252 4 := by simp [readHeader]
    rw [this]; exact num_crc img 252 hdrCrc rfl hdrCrc_lt
  have hb : Mem.bytes img 0 0xFC = Mem.bytes img1 0 0xFC := bytes_tail _ _ _ _ (by decide +kernel)
  have ha : (readHeader img 0).a = 0 := by simp [readHeader]
  unfold headerFault
  rw [hm, hj, hc, ha, hb]
  simp [hdrCrc]

theorem bytes_base (a n : Nat) (h : ((dirCrcs ++ crcCells 0xFC hdrCrc).filter fun e => decide (a ≤ e.1) && decide (e.1 < a + n)) = []) :
    Mem.bytes img a n = Mem.bytes imgBase a n := by
  have : img = imgBase ++ (dirCrcs ++ crcCells 0xFC hdrCrc) := by simp [img, img1]
  rw [this, bytes_tail _ _ _ _ h]

theorem crcFault_ok (t page len b : Nat) (h : Header) (ha : h.a = 0)
    (hd : (dirEnt img 0 t).1 = 4096 * page) (hl : (dirEnt img 0 t).2.2 = len)
    (hb : 0x50 + 16 * (t - 1) + 4 = b) (hv : Mem.bytes img b 4 = leBytes 4 (blkCrc page len))
    (hk : ((dirCrcs ++ crcCells 0xFC hdrCrc).filter fun e => decide (4096 * page ≤ e.1) && decide (e.1 < 4096 * page + len)) = []) :
    crcFault img h t = false := by
  have hc : (dirEnt img 0 t).2.1 = blkCrc page len := by
    have : (dirEnt img 0 t).2.1 = Mem.num img b 4 := by rw [← hb]; simp [dirEnt]
    rw [this]; exact num_crc img b _ hv (blkCrc_lt ..)
  have hq := bytes_base _ _ hk
  unfold crcFault
  simp only [ha, hd, hl, hc, Nat.zero_add, hq, blkCrc]
  simp

theorem blocks_ok (h : Header) (ha : h.a = 0) : blockReads img h none = none := by
  have h1 := crcFault_ok 1 1 16384 84 h ha (by decide +kernel) (by decide +kernel) rfl rfl (by decide +kernel)
  have h2 := crcFault_ok 2 5 32 100 h ha (by decide +kernel) (by decide +kernel) rfl rfl (by decide +kernel)
  have h3 := crcFault_ok 3 6 128 116 h ha (by decide +kernel) (by decide +kernel) rfl rfl (by decide +kernel)
  have h4 := crcFault_ok 4 7 8 132 h ha (by decide +kernel) (by decide +kernel) rfl rfl (by decide +kernel)
  have h7 := crcFault_ok 7 8 4096 180 h ha (by decide +kernel) (by decide +kernel) rfl rfl (by decide +kernel)
  have h9 := crcFault_ok 9 10 4 212 h ha (by decide +kernel) (by decide +kernel) rfl rfl (by decide +kernel)
  have z (t : Nat) (q : (dirEnt img 0 t).2.2 = 0) : crcFault img h t = false := by unfold crcFault; rw [ha]; simp [q]
  have h5 := z 5 (by decide +kernel)
  have h6 := z 6 (by decide +kernel)
  have h8 : crcFault img h 8 = false := by unfold crcFault; simp
  have hr : (List.range 9).map (· + 1) = [1, 2, 3, 4, 5, 6, 7, 8, 9] := rfl
  simp [blockReads, hr, h1, h2, h3, h4, h5, h6, h7, h8, h9]

theorem check1_none (m : Mem) (n : Nat) (h : Header) (e1 : ¬ n < h.a + h.length) (e2 : h.fieldsOk = true)
    (e3 : firstBlock 0x04 (blockFault m h) ((List.range 9).map (· + 1)) = none) (e4 : blockReads m h none = none)
    (e5 : firstBlock 0x04 (presenceFault m h) [8, 9] = none) (e6 : block6Fault m h = false)
    (e7 : (List.range h.regions).find? (residentFault m h) = none)
    (e8 : (List.range h.sites).filter (preloadFault m h) = []) : check1 m n none h = none := by
  unfold check1
  simp only [if_neg e1, e2, e3, e4, e5, e6, e7, e8]
  simp [leastOf]

theorem check1_ok : check1 img (2 ^ 33) none (readHeader img 0) = none :=
  check1_none img (2 ^ 33) (readHeader img 0) (by decide +kernel) (by decide +kernel) (by decide +kernel)
    (blocks_ok (readHeader img 0) (by simp [readHeader])) (by decide +kernel) (by decide +kernel) (by decide +kernel)
    (by decide +kernel)

/-- A channel with timing set 0 loaded. -/
def tabled (p : Pin) : Pin := { p with tset := [(0, 4095 + 4096 * 2 ^ 24)], loaded := 1, level := [(0, 0)] }

/-- PLAN_LOAD of the image at address 0. -/
def loading : State := modPin 0 tabled (modOctet 0 (fun x => { x with ceiling := 2000 }) (withCmd 0x10 0 { ready with dram := { ready.dram with mem := img } }))

theorem num_zero (m : Mem) (a n : Nat) (h : (m.all fun e => decide (e.1 < a) || decide (a + n ≤ e.1)) = true) : Mem.num m a n = 0 := by
  have hf : (m.filter fun e => decide (a ≤ e.1) && decide (e.1 < a + n)) = [] := by
    rw [List.filter_eq_nil_iff]
    intro e he
    have := List.all_eq_true.mp h e he
    simp only [Bool.or_eq_true, decide_eq_true_eq] at this
    simp only [Bool.and_eq_true, decide_eq_true_eq]
    omega
  have hz : ∀ k, leNat (List.replicate k (0#8)) = 0 := by
    intro k; induction k with
    | zero => rfl
    | succ k ih => simp [List.replicate_succ, leNat, ih]
  unfold Mem.num Mem.bytes
  simp only [hf]
  have : ((List.range n).map fun i => Mem.byte [] (a + i)) = List.replicate n (0#8) := by
    apply List.ext_getElem <;> simp [Mem.byte, SMap.get]; intros; rfl
  rw [this, hz]

theorem fold_zero (v : Nat → W64) (n : Nat) (h : ∀ i, i ≠ 0 → i ≤ n → v i = 0) (hv : v 0 ≠ 0) :
    (List.range (n + 1)).foldl (fun (acc : SMap W64) i => acc.set i (v i)) [] = [(0, v 0)] := by
  have hd : (default : W64) = 0#64 := rfl
  induction n with
  | zero => simp [SMap.set, SMap.ins, hd, show ¬ v 0 = 0#64 from hv]
  | succ n ih =>
    rw [List.range_succ, List.foldl_append, ih fun i a b => h i a (by omega)]
    simp [SMap.set, hd, h (n + 1) (by omega) (Nat.le_refl _)]

theorem word_ok : Mem.num img (4096 + 0x2000 + 8 * 0) 8 = 0x3F * 2 ^ 58 := by decide +kernel

theorem imem_ok : ((List.range 1024).foldl (fun (acc : SMap W64) i =>
      acc.set i (BitVec.ofNat 64 (Mem.num img (4096 + 0x2000 + 8 * i) 8))) []) = [(0, BitVec.ofNat 64 (0x3F * 2 ^ 58))] := by
  have k : (img.all fun e => decide (e.1 < 12296) || decide (20480 ≤ e.1)) = true := by decide +kernel
  have z (i : Nat) (h0 : i ≠ 0) (h1 : i ≤ 1023) : Mem.num img (4096 + 0x2000 + 8 * i) 8 = 0 := by
    refine num_zero _ _ _ (List.all_eq_true.mpr fun e he => ?_)
    have := List.all_eq_true.mp k e he
    simp only [Bool.or_eq_true, decide_eq_true_eq] at this ⊢
    omega
  rw [fold_zero (fun i => BitVec.ofNat 64 (Mem.num img (4096 + 0x2000 + 8 * i) 8)) 1023
    (fun i h0 h1 => by simp only [z i h0 h1]; rfl) (by simp only [word_ok]; decide)]
  simp only [word_ok]

/-- The site of the image. -/
def imgSite : Site := { dmem := Mem.copyTo img 8192 4096 [] 0, imem := [(0, BitVec.ofNat 64 (0x3F * 2 ^ 58))] }

theorem site_ok : (readImage img 0).sites = [imgSite] := by
  have h : (readHeader img 0).sites = 1 := by decide +kernel
  have b : blkAddr img 0 1 = 4096 := by decide +kernel
  have : (readImage img 0).sites = ((List.range (readHeader img 0).sites).map (readSiteRec img (blkAddr img 0 1))).map (siteOfRec img) := by
    simp only [readImage]
  rw [this, h, b]
  simp only [List.range_one, List.map_cons, List.map_nil, siteOfRec, readSiteRec, Nat.mul_zero, Nat.add_zero, imem_ok, imgSite]

theorem image_ok : readImage img 0 = { readImage img 0 with sites := [imgSite] } := by rw [← site_ok]

theorem load : (checks2to5 (readImage img 0) loading).isRight = true := by
  rw [image_ok]
  decide +kernel

/-- The last clause of PlanLoads: an image without fault in any check. -/
theorem test_meets_PlanLoads_accepted :
    (loading.holds 0 0x10 = true ∧ loading.turn88 0 = true ∧ loading.vs.loadWait = none ∧ loading.dram.enabled = true ∧
     loading.slotsClaimed.length < 64 ∧ loading.dram.mem = img ∧ pay (loading.cmd 0).desc 8 8 = 0 ∧
     loading.installed = 2 ^ 33 ∧ loading.toPower (readHeader img 0).rates = 0 ∧ (readHeader img 0).a = 0) ∧
    headerFault img (readHeader img 0) = none ∧ check1 img (2 ^ 33) none (readHeader img 0) = none ∧
    (checks2to5 (readImage img 0) loading).isRight = true := by
  refine ⟨⟨?_, ?_, ?_, ?_, ?_, rfl, ?_, ?_, ?_, ?_⟩, header_ok, check1_ok, load⟩ <;> decide +kernel

/-- The two clauses before it: a read error in the blocks, and a site that owns the channel already. -/
theorem test_meets_PlanLoads_rejected :
    check1 img (2 ^ 33) (badBlock (.errBlock 0)) (readHeader img 0) = some (0x07, 0) ∧
    (checks2to5 (readImage img 0) (withSite idler loading)).isLeft = true := by
  refine ⟨by decide +kernel, ?_⟩
  rw [image_ok]
  decide +kernel

end Sys2Proof.Tests
end

/-!
PLAN_RETIRE (R45 to R47): what releasing the sites of a plan does to a site, what retiring a plan does to its slot and its
sites, and the answer of the command in each of its cases.
-/

namespace Sys2Proof.Machine

/-! ## Completion after other effects -/

/-- A command whose effects left the queue manager, the clock and the device state alone completes as if it had had none,
and no other slot is touched. -/
theorem complete_of_kept {m : List Part} {s u : State} (k : Nat) (st : BitVec 8) (r : Nat) (h : Kept m s u)
    (hm : ∀ x ∈ [Part.sys, .hqm, .time, .halso], x ∉ m) :
    doneAs k st r s (complete k st r u) ∧ onlySlot k s (complete k st r u) := by
  have hsys : u.sys = s.sys := h.same .sys (hm _ (by decide))
  have hhqm : u.hqm = s.hqm := h.same .hqm (hm _ (by decide))
  have htime : u.time = s.time := h.same .time (hm _ (by decide))
  have hhalso : u.halso = s.halso := h.same .halso (hm _ (by decide))
  have hcmd : ∀ j, u.cmd j = s.cmd j := fun j => by rw [State.cmd, hhqm]; rfl
  have huntr : u.untraceable = s.untraceable := by
    simp only [State.untraceable, State.traceable, State.heldGood, State.src, hsys, htime, hhalso]
  have hdone := doneAs_complete k st r u
  have honly := onlySlot_complete k st r u
  simp only [doneAs, onlySlot, hcmd, htime, huntr, hhqm] at hdone honly
  exact ⟨hdone, honly⟩

/-- A completion changes the queue manager only. -/
theorem sameBut_complete (k : Nat) (st : BitVec 8) (r : Nat) (s : State) : sameBut [.hqm] s (complete k st r s) :=
  (kept_complete k st r (List.Subset.refl _) (Kept.refl _ s)).same

/-! ## The sites of a plan -/

/-- One site becomes unassigned and its pins are released. -/
def unassignSite (n : Nat) (s : State) : State :=
  (s.site n).chans.foldl (fun u c => releasePin u.now c u) (modSite n (fun x => { x with mode := 7 }) s)

theorem releaseSites_eq_foldl (p : Plan) (s : State) : releaseSites p s = p.sites.foldl (fun t n => unassignSite n t) s := rfl

/-- The pins that are released belong to no site's state. -/
theorem unassignSite_site (n i : Nat) (s : State) :
    (unassignSite n s).site i = if i = n then { s.site i with mode := 7 } else s.site i := by
  have hk : Kept [.pins, .out] (modSite n (fun x => { x with mode := 7 }) s) (unassignSite n s) :=
    kept_foldl _ _ (fun t c h => kept_releasePin t.now c (List.Subset.refl _) h) (Kept.refl _ _)
  have hs : (unassignSite n s).sites = (modSite n (fun x => { x with mode := 7 }) s).sites := hk.same .sites (by decide)
  calc (unassignSite n s).site i = (modSite n (fun x => { x with mode := 7 }) s).site i := by rw [State.site, hs]; rfl
    _ = _ := by by_cases h : i = n <;> simp [modSite_site, h]

theorem foldl_unassignSite_site (ns : List Nat) (i : Nat) (s : State) :
    (ns.foldl (fun t n => unassignSite n t) s).site i = if i ∈ ns then { s.site i with mode := 7 } else s.site i := by
  induction ns generalizing s with
  | nil => rfl
  | cons n ns ih =>
    rw [List.foldl_cons, ih, unassignSite_site]
    by_cases hn : i = n <;> simp [hn]

/-- The sites of a plan are unassigned, and no other site changes (R24). -/
theorem releaseSites_site (p : Plan) (i : Nat) (s : State) :
    (releaseSites p s).site i = if i ∈ p.sites then { s.site i with mode := 7 } else s.site i := by
  rw [releaseSites_eq_foldl, foldl_unassignSite_site]

theorem releaseSites_plan (p : Plan) (j : Nat) (s : State) : (releaseSites p s).plan j = s.plan j := by
  have hv : (releaseSites p s).vs = s.vs :=
    (kept_releaseSites p (List.Subset.refl _) (Kept.refl _ s)).same .vs (by decide)
  rw [State.plan, hv]; rfl

theorem planIdle_iff (s : State) (p : Plan) : s.planIdle p = true ↔ ∀ i ∈ p.sites, (s.site i).running = false := by
  simp [State.planIdle]

/-! ## An accepted retire -/

/-- The plan p of a slot retired: its sites unassigned and their barriers gone, and the slot's plan marked (R46). -/
def retirePlan (slot : Nat) (p : Plan) (s : State) : State :=
  dropBarriers p.sites (modPlan slot (fun q => { q with retired := true }) (releaseSites p s))

theorem kept_retirePlan (slot : Nat) (p : Plan) (s : State) :
    Kept [.vs, .sites, .barriers, .pins, .out] s (retirePlan slot p s) :=
  kept_dropBarriers _ (by decide) (kept_modPlan _ _ (by decide) (kept_releaseSites _ (by decide) (Kept.refl _ s)))

theorem retirePlan_site (slot : Nat) (p : Plan) (s : State) (i : Nat) :
    (retirePlan slot p s).site i = if i ∈ p.sites then { s.site i with mode := 7 } else s.site i :=
  releaseSites_site p i s

theorem retirePlan_plan_self (slot : Nat) (p : Plan) (s : State) :
    (retirePlan slot p s).plan slot = (s.plan slot).map fun q => { q with retired := true } := by
  calc (retirePlan slot p s).plan slot
      = ((releaseSites p s).plan slot).map fun q => { q with retired := true } := modPlan_plan_self ..
    _ = _ := by rw [releaseSites_plan]

theorem retirePlan_plan_ne (slot : Nat) (p : Plan) (s : State) (j : Nat) (h : j ≠ slot) :
    (retirePlan slot p s).plan j = s.plan j :=
  (modPlan_plan_ne slot j _ _ h).trans (releaseSites_plan p j s)

/-! ## The answers of PLAN_RETIRE -/

section Answers
variable {k : CmdSlot} {s : State} (hh : s.holds k.val 0x11 = true) (hw : s.vs.loadWait = none)
  (ht : s.turn88 k.val = true)
include hh hw ht

theorem exec_planRetire_of_empty (hp : s.plan (pay (s.cmd k.val).desc 0 1) = none) :
    exec (.planRetire k) s = .next (complete k.val stPrecondition 1 s) := by
  show execPlanRetire k s = _
  rw [execPlanRetire, onCmd_pos hh]
  simp [State.engine88Free, hw, ht, hp]

theorem exec_planRetire_of_retired {p : Plan} (hp : s.plan (pay (s.cmd k.val).desc 0 1) = some p)
    (hr : p.retired = true) : exec (.planRetire k) s = .next (complete k.val stPrecondition 1 s) := by
  show execPlanRetire k s = _
  rw [execPlanRetire, onCmd_pos hh]
  simp [State.engine88Free, hw, ht, hp, hr]

/-- A loaded plan is retired when all its sites are idle; else the command is refused (R45). -/
theorem exec_planRetire_of_loaded {p : Plan} (hp : s.plan (pay (s.cmd k.val).desc 0 1) = some p)
    (hr : p.retired = false) :
    exec (.planRetire k) s = .next (if s.planIdle p then
      complete k.val stOK 0 (retirePlan (pay (s.cmd k.val).desc 0 1) p s) else complete k.val stPrecondition 0 s) := by
  show execPlanRetire k s = _
  rw [execPlanRetire, onCmd_pos hh]
  by_cases hi : s.planIdle p = true
  · simp [State.engine88Free, hw, ht, hp, hr, hi, retirePlan]
  · simp [State.engine88Free, hw, ht, hp, hr, hi]

end Answers

/-- Settles O29: an empty or retired slot and a busy plan are refused and only the command's slot changes; an idle plan is
retired by retirePlan. -/
theorem planRetires : Obligations.PlanRetires := by
  unfold Obligations.PlanRetires
  intro k s hh hw ht n
  have hnothing : ∃ t, Host.Outcome.next (complete k.val stPrecondition 1 s) = (.next t : Res) ∧
      doneAs k.val stPrecondition 1 s t ∧ onlySlot k.val s t ∧ sameBut [.hqm] s t :=
    ⟨_, rfl, doneAs_complete .., onlySlot_complete .., sameBut_complete _ _ _ _⟩
  refine ⟨fun hp => ?empty, fun p hp => ⟨fun hr => ?retired, fun hr hbusy => ?busy, fun hr hidle => ?idle⟩⟩
  case empty => rwa [exec_planRetire_of_empty hh hw ht hp]
  case retired => rwa [exec_planRetire_of_retired hh hw ht hp hr]
  case busy =>
    obtain ⟨i, hi, hrun⟩ := hbusy
    have hnot : ¬ s.planIdle p = true := fun h => by simp [(planIdle_iff s p).mp h i hi] at hrun
    exact ⟨_, by rw [exec_planRetire_of_loaded hh hw ht hp hr, if_neg hnot], doneAs_complete .., rfl, rfl⟩
  case idle =>
    obtain ⟨hdone, honly⟩ := complete_of_kept k.val stOK 0 (kept_retirePlan n p s) (by decide)
    refine ⟨_, by rw [exec_planRetire_of_loaded hh hw ht hp hr, if_pos ((planIdle_iff s p).mpr hidle)], hdone, honly,
      ?_, fun j hj => retirePlan_plan_ne n p s j hj, fun i hi => ?_, fun i hi => ?_⟩
    · show (retirePlan n p s).plan n = _
      rw [retirePlan_plan_self, hp]; rfl
    · show ((retirePlan n p s).site i).mode = 7
      rw [retirePlan_site, if_pos hi]
    · show (retirePlan n p s).site i = _
      rw [retirePlan_site, if_neg hi]

end Sys2Proof.Machine

/-!
DRAM_CTRL (R190, R575, R577): when a write of it is refused, what an accepted one does to the grain, the rate and the
contents of DRAM, and the answer of the row in both cases.
-/

namespace Sys2Proof.Machine

/-! ## The grain -/

theorem setGrain_self (d : Dram) : setGrain d.grain d = d := by simp [setGrain]

@[simp] theorem setGrain_grain (g : BitVec 3) (d : Dram) : (setGrain g d).grain = g := by
  by_cases h : d.grain = g <;> simp [setGrain, h]

/-! ## What a write loads -/

/-- DRAM with the grain and the rate of a word of DRAM_CTRL; a 1 in the word's bit 7 clears the refused bit. -/
def loadDramCtrl (v : W32) (d : Dram) : Dram :=
  { setGrain (BitVec.ofNat 3 (bits v 0 3)) d with
    grain := BitVec.ofNat 3 (bits v 0 3), rate := BitVec.ofNat 3 (bits v 4 3), refused := d.refused && !bit v 7 }

/-- The grain of the word is the one that setGrain sets. -/
theorem loadDramCtrl_eq (v : W32) : loadDramCtrl v = fun d =>
    { setGrain (BitVec.ofNat 3 (bits v 0 3)) d with
      rate := BitVec.ofNat 3 (bits v 4 3), refused := d.refused && !bit v 7 } := by
  funext d; simp [loadDramCtrl]

/-- At the grain it has, DRAM keeps its contents: no byte is reordered. -/
theorem loadDramCtrl_mem_of_grain_eq {v : W32} {d : Dram} (h : bits v 0 3 = d.grain.toNat) :
    (loadDramCtrl v d).mem = d.mem := by
  have hg : BitVec.ofNat 3 (bits v 0 3) = d.grain := by rw [h, BitVec.ofNat_toNat, BitVec.setWidth_eq]
  show (setGrain (BitVec.ofNat 3 (bits v 0 3)) d).mem = d.mem
  rw [hg, setGrain_self]

/-! ## When a write is refused -/

/-- A write of DRAM_CTRL is refused. -/
def dramCtrlRefuses (v : W32) (s : State) : Bool :=
  4 < bits v 0 3 || 5 < bits v 4 3 ||
    (!(bits v 0 3 == s.dram.grain.toNat && bits v 4 3 == s.dram.rate.toNat) && (!s.plans.isEmpty || s.hqm.spillEn))

/-- A reserved grain or rate is refused (R577), and a new one while a plan is loaded or the spill ring is enabled (R190). -/
theorem dramCtrlRefuses_iff (v : W32) (s : State) : dramCtrlRefuses v s = true ↔
    (4 < bits v 0 3 ∨ 5 < bits v 4 3) ∨
      ¬ (bits v 0 3 = s.dram.grain.toNat ∧ bits v 4 3 = s.dram.rate.toNat) ∧
      ¬ (s.plans = [] ∧ s.hqm.spillEn = false) := by
  simp [dramCtrlRefuses, imp_iff_not_or]

/-! ## The answers of DRAM_CTRL_WRITE -/

/-- A refused write sets the refused bit and does no more; any other loads its word. -/
theorem exec_dramCtrlWrite (v : W32) {s : State} (hb : s.blockOn false = true) :
    exec (.dramCtrlWrite v) s = .next (if dramCtrlRefuses v s then modDram (fun d => { d with refused := true }) s
      else modDram (loadDramCtrl v) s) := by
  show execDramCtrlWrite v s = _
  rw [execDramCtrlWrite, onBlock_pos hb, loadDramCtrl_eq]
  rfl

/-- Settles O52: an accepted write loads the word's grain and rate and a refused one sets the refused bit alone; only
another grain reorders the contents. -/
theorem dramControlWrites : Obligations.DramControlWrites := by
  unfold Obligations.DramControlWrites
  intro v s hb g r same free reserved
  refine ⟨fun hr hok => ?accepted, fun h => ?refused⟩
  case accepted =>
    have hpass : ¬ dramCtrlRefuses v s = true := fun h => by
      rcases (dramCtrlRefuses_iff v s).mp h with hres | ⟨hnew, hbusy⟩
      · exact hr hres
      · exact hok.elim hnew hbusy
    exact ⟨_, by rw [exec_dramCtrlWrite v hb, if_neg hpass], rfl, loadDramCtrl_mem_of_grain_eq⟩
  case refused =>
    exact ⟨_, by rw [exec_dramCtrlWrite v hb, if_pos ((dramCtrlRefuses_iff v s).mpr h)], rfl⟩

end Sys2Proof.Machine

/-!
Writes that reach the host queues (R445, R447, R451, R452, R479, R575): the bits that a write sets, what an error of the
queue manager records, and the answers of DOORBELL_WRITE, QCTX_CFG_WRITE, HQM_SPILL_WRITE and HQM_CTRL_WRITE.
-/

namespace Sys2Proof.Machine

/-! ## Bits of a word that is written -/

theorem bit_fm (lo len i : Nat) : bit (fm lo len) i = (decide (i < 64) && (decide (lo ≤ i) && decide (i < lo + len))) := by
  rw [bit, fm, BitVec.getLsbD_ofNat, Nat.testBit_mul_two_pow, Nat.testBit_two_pow_sub_one]
  by_cases h : lo ≤ i
  · simp [h, Nat.sub_lt_iff_lt_add' h]
  · simp [h]

/-- A bit of the low half is reached by the writes that carry that half (R536). -/
theorem bit_wrMask_of_lt {i : Nat} (h : i < 32) (w : Wr) : bit (wrMask w) i = w.lo := by
  have hlow : bit (fm 0 32) i = true := by simp [bit_fm, h]; omega
  have hhigh : bit (fm 32 32) i = false := by simp [bit_fm, h]
  rw [bit] at hlow hhigh
  cases hlo : w.lo <;> cases hhi : w.hi <;> simp [bit, wrMask, hlo, hhi, hlow, hhigh]

/-- A flag of the low half is hit by a 1 that such a write carries (R19, R536). -/
theorem bit_hitBits_of_lt {i : Nat} (h : i < 32) (w : Wr) : bit (hitBits (fm i 1) w) i = (w.lo && bit w.val i) := by
  have hself : bit (fm i 1) i = true := by simp [bit_fm]; omega
  have hmask : bit (wrMask w) i = w.lo := bit_wrMask_of_lt h w
  rw [bit] at hself hmask
  simp [bit, hitBits, hself, hmask, Bool.and_comm]

/-! ## Status bits of the interrupts -/

theorem bit_setBit_true {n : Nat} (x : BitVec n) (i j : Nat) (h : j < n) :
    bit (setBit x i true) j = (bit x j || decide (i = j)) := by
  rw [bit, setBit, if_pos rfl, BitVec.getLsbD_or, BitVec.getLsbD_ofNat, Nat.testBit_two_pow, decide_eq_true h,
    Bool.true_and]
  rfl

/-- A message raises at most the interrupt of the counter that it overflows. -/
theorem sendMsix_irqStatus (v : Nat) (s : State) :
    (sendMsix v s).sys.irqStatus = s.sys.irqStatus ∨
    (sendMsix v s).sys.irqStatus = setBit s.sys.irqStatus 19 true := by
  have hput (v : Nat) (s : State) : (putMsix v s).sys = s.sys := by
    unfold putMsix; split <;> rfl
  unfold sendMsix
  dsimp only
  split
  · exact .inl (by rw [hput])
  · split
    · split
      · split <;> exact .inr (by simp [hput])
      · exact .inr (by simp [hput])
    · exact .inl (by simp [hput])

theorem bit_sendMsix_irqStatus (v : Nat) {b : Nat} {s : State} (hb : b < 20) (h : bit s.sys.irqStatus b = true) :
    bit (sendMsix v s).sys.irqStatus b = true := by
  rcases sendMsix_irqStatus v s with hs | hs
  · rwa [hs]
  · simp [hs, bit_setBit_true, hb, h]

/-- An interrupt that is raised stands in IRQ_STATUS (R545). -/
theorem bit_raiseIrq_irqStatus {b : Nat} (hb : b < 20) (s : State) : bit (raiseIrq b s).sys.irqStatus b = true := by
  have hset : bit (setBit s.sys.irqStatus b true) b = true := by simp [bit_setBit_true, hb]
  unfold raiseIrq
  dsimp only
  split
  · assumption
  · split
    · exact bit_sendMsix_irqStatus _ hb hset
    · exact hset

/-! ## Errors of the queue manager -/

/-- HQM_ERR after an error: the queue, the kind and the event bit (Table 10.22). -/
def recordError (q : Nat) (kind : BitVec 3) (h : Hqm) : Hqm :=
  { h with errQueue := BitVec.ofNat 13 q, errKind := kind, errEvent := true }

/-- An error is recorded, and the rest is the interrupt's. -/
theorem signalled_hqmError (q : Nat) (kind : BitVec 3) (irq : Bool) (s : State) :
    signalled (modHqm (recordError q kind) s) (hqmError q kind irq s) := by
  cases irq
  · exact signalled_refl _
  · exact signalled_raiseIrq 16 _

theorem hqmError_record (q : Nat) (kind : BitVec 3) (irq : Bool) (s : State) :
    (hqmError q kind irq s).hqm.errQueue = BitVec.ofNat 13 q ∧ (hqmError q kind irq s).hqm.errKind = kind ∧
    (hqmError q kind irq s).hqm.errEvent = true := by
  obtain ⟨_, _, _, _, h⟩ := signalled_hqmError q kind irq s
  rw [h]
  exact ⟨rfl, rfl, rfl⟩

@[simp] theorem hqmError_queue (q : Nat) (kind : BitVec 3) (irq : Bool) (s : State) (p : Nat) :
    (hqmError q kind irq s).queue p = s.queue p := by
  obtain ⟨_, _, _, _, h⟩ := signalled_hqmError q kind irq s
  rw [h]; rfl

/-- An error that interrupts raises HQM_ERROR. -/
theorem bit_hqmError_irqStatus (q : Nat) (kind : BitVec 3) (s : State) :
    bit (hqmError q kind true s).sys.irqStatus 16 = true := bit_raiseIrq_irqStatus (by decide) _

/-! ## DOORBELL_WRITE -/

/-- A queue whose doorbell was rung with a value: a completion queue's head or a submission queue's tail moves (R445). -/
def ringDoorbell (n : Nat) (x : Queue) : Queue := if x.isCq then { x with head := n } else { x with tail := n }

theorem dbOk_iff (x : Queue) (n : Nat) : x.dbOk n = true ↔
    x.en = true ∧ n < x.size ∧ (x.isCq = true → (n + x.size - x.head) % x.size ≤ x.fill) := by
  simp [Queue.dbOk, and_assoc, imp_iff_not_or]

/-- A doorbell at the place of queue q rings it, or is ignored with an error of kind 1 (R447). -/
theorem exec_doorbellWrite {off : BitVec 19} {size q : Nat} (v : W64) {s : State} (hb : s.blockOn false = true)
    (hsize : size = 4 ∨ size = 8) (halign : off.toNat % 8 = 0) (hin : off.toNat % 4096 < 512)
    (hq : q = off.toNat / 4096 * 64 + off.toNat % 4096 / 8) :
    exec (.doorbellWrite off size v) s = .next (if (s.queue q).dbOk (bits v 0 16) then
      modQueue q (ringDoorbell (bits v 0 16)) s else hqmError q 1 true (modQueue q (fun x => { x with dbErr := true }) s)) := by
  subst hq
  show execDoorbellWrite off size v s = _
  rw [execDoorbellWrite, apply_ite Host.Outcome.next]
  simp only [hsize, halign, hin, hb, Bool.and_eq_true, Bool.or_eq_true, beq_iff_eq, decide_eq_true_eq, and_self, if_true]
  rfl

/-! ## QCTX_CFG_WRITE -/

/-- A refused context write sets the context's refused bit and records an error of kind 3, without an interrupt. -/
theorem qctxRefuse_refuses (q : Nat) (s : State) :
    (qctxRefuse q s).queue q = { s.queue q with refused := true } ∧
    (qctxRefuse q s).hqm.errQueue = BitVec.ofNat 13 q ∧ (qctxRefuse q s).hqm.errKind = 3 ∧
    (qctxRefuse q s).sys = s.sys := by
  obtain ⟨hqueue, hkind, -⟩ := hqmError_record q 3 false (modQueue q (fun x => { x with refused := true }) s)
  exact ⟨by simp [qctxRefuse], hqueue, hkind, rfl⟩

/-- A context enabled with a configuration: empty, in phase 1, with nothing posted (R451). -/
def enableQueue (cfg : W64) (x : Queue) : Queue :=
  { x with cfg := cfg, head := 0, tail := 0, phase := true, posted := 0, unsig := 0, halted := false,
           chainStop := false, hwbDue := false }

section QctxCfg
variable {q : Nat} {s : State} (w : Wr)

/-- While a queue is enabled, a change of a field but en is refused, and so is a disable that R452 does not admit. -/
theorem writeQctxCfg_of_enabled (hen : (s.queue q).en = true) :
    writeQctxCfg q w s =
      if changes (qctxCfgRw &&& ~~~ fm 0 1) qctxCfgRw w (s.queue q).cfg = true ∨
          bit (rwMerge qctxCfgRw w (s.queue q).cfg) 0 = false ∧ s.disableBad q = true then qctxRefuse q s
      else modQueue q (fun x => { x with cfg := rwMerge qctxCfgRw w (s.queue q).cfg }) s := by
  by_cases hch : changes (qctxCfgRw &&& ~~~ fm 0 1) qctxCfgRw w (s.queue q).cfg = true
  · simp [writeQctxCfg, hen, hch]
  · simp [writeQctxCfg, hen, hch]

/-- While it is disabled, only an enable can be refused (R451). -/
theorem writeQctxCfg_of_disabled (hen : (s.queue q).en = false) :
    writeQctxCfg q w s =
      if bit (rwMerge qctxCfgRw w (s.queue q).cfg) 0 = false then
        modQueue q (fun x => { x with cfg := rwMerge qctxCfgRw w (s.queue q).cfg }) s
      else if s.enableOk q (rwMerge qctxCfgRw w (s.queue q).cfg) then
        modQueue q (enableQueue (rwMerge qctxCfgRw w (s.queue q).cfg)) s
      else qctxRefuse q s := by
  by_cases hbit : bit (rwMerge qctxCfgRw w (s.queue q).cfg) 0 = false
  · simp [writeQctxCfg, hen, hbit]
  · simp [writeQctxCfg, hen, hbit]; rfl

end QctxCfg

theorem exec_qctxCfgWrite_cfg (q : QueueId) (w : Wr) {s : State} (hb : s.blockOn false = true) :
    exec (.qctxCfgWrite q 1 w) s = .next (writeQctxCfg q.val w s) := onBlock_pos hb

/-- QCTX_BASE changes only while the queue is disabled (R451). -/
theorem exec_qctxCfgWrite_base (q : QueueId) (w : Wr) {s : State} (hb : s.blockOn false = true) :
    exec (.qctxCfgWrite q 0 w) s = .next (
      if (s.queue q.val).en = true ∧ changes (fm 12 52) (fm 12 52) w (s.queue q.val).base = true then qctxRefuse q.val s
      else modQueue q.val (fun x => { x with base := rwMerge (fm 12 52) w x.base }) s) := by
  show execQctxCfgWrite q 0 w s = _
  rw [execQctxCfgWrite, onBlock_pos hb]
  simp [writeQctx]

/-! ## HQM_SPILL_WRITE -/

/-- The queue manager with the en and base of a word of HQM_SPILL, by a write w. -/
def loadSpill (w : Wr) (new : W64) (h : Hqm) : Hqm :=
  { h with spillEn := bit new 0, spillBase := BitVec.ofNat 22 (bits new 26 22),
           spillRefused := clr h.spillRefused (hitBits (fm 1 1) w) 1,
           highWater := if w.lo then h.spill.length else h.highWater }

/-- A change of HQM_SPILL is refused while a site runs, and a disable while the ring holds entries (R479). -/
theorem exec_hqmSpillWrite (w : Wr) {s : State} (hb : s.blockOn false = true) :
    exec (.hqmSpillWrite w) s = .next (
      if changes spillRw spillRw w s.hqm.spillReg = true ∧ (s.anyRunning = true ∨
          s.hqm.spillEn = true ∧ bit (rwMerge spillRw w s.hqm.spillReg) 0 = false ∧ s.hqm.spill ≠ []) then
        modHqm (fun h => { h with spillRefused := true }) s
      else modHqm (loadSpill w (rwMerge spillRw w s.hqm.spillReg)) s) := by
  show execHqmSpillWrite w s = _
  rw [execHqmSpillWrite, onBlock_pos hb]
  simp [writeSpill, List.length_pos_iff, and_assoc]
  rfl

/-- HQM_SPILL takes the en and base of the word, keeps the ring, and clears refused by a 1 in its bit (Table 10.20). -/
theorem loadSpill_loads (w : Wr) (new : W64) (h : Hqm) :
    (loadSpill w new h).spillEn = bit new 0 ∧ (loadSpill w new h).spillBase = BitVec.ofNat 22 (bits new 26 22) ∧
    (loadSpill w new h).spill = h.spill ∧
    (loadSpill w new h).spillRefused = (h.spillRefused && !(w.lo && bit w.val 1)) :=
  ⟨rfl, rfl, rfl, by rw [← bit_hitBits_of_lt (by decide) w]; rfl⟩

/-! ## The obligation -/

/-- Settles O54: by what each row answers. A doorbell within R447's bounds rings its queue; a context write is refused as
R451 and R452 say, with an error that raises no interrupt (log entries 35 and 36); HQM_SPILL is refused under R479. -/
theorem queueWrites : Obligations.QueueWrites := by
  unfold Obligations.QueueWrites
  intro s hb
  refine ⟨fun off size v => ?doorbell, fun q w => ?context, fun w => ?spill, fun v => ?fetch⟩
  case doorbell =>
    intro o q x n ok hsize halign hin
    have hexec := exec_doorbellWrite v hb hsize halign hin rfl
    refine ⟨fun hok => ?rung, fun hbad => ?ignored⟩
    case rung =>
      exact ⟨_, by rw [hexec, if_pos ((dbOk_iff x n).mpr hok)], fun p hp => modQueue_queue_ne _ _ _ _ hp,
        modQueue_queue_self ..⟩
    case ignored =>
      obtain ⟨hqueue, hkind, hevent⟩ := hqmError_record q 1 true (modQueue q (fun x => { x with dbErr := true }) s)
      exact ⟨_, by rw [hexec, if_neg (fun h => hbad ((dbOk_iff x n).mp h))], by simp [x],
        fun p hp => by rw [hqmError_queue, modQueue_queue_ne _ _ _ _ hp], hqueue, hkind, hevent,
        bit_hqmError_irqStatus ..⟩
  case context =>
    intro x new refuses
    have hcfg := exec_qctxCfgWrite_cfg q w hb
    have hbase := exec_qctxCfgWrite_base q w hb
    have hrefuses : refuses (qctxRefuse q.val s) := qctxRefuse_refuses q.val s
    refine ⟨fun hen hbad => ?refused, fun hen hch hdis => ?changed, fun hen hoff => ?stays_disabled,
      fun hen hon hno => ?enable_refused, fun hen hon hok => ?enabled, fun hen hch => ?base_refused,
      fun hok => ?base_changed⟩
    case refused => exact ⟨_, by rw [hcfg, writeQctxCfg_of_enabled w hen, if_pos hbad], hrefuses⟩
    case changed =>
      have hpass : ¬ (changes (qctxCfgRw &&& ~~~ fm 0 1) qctxCfgRw w x.cfg = true ∨
          bit new 0 = false ∧ s.disableBad q.val = true) := by
        rcases hdis with h | h <;> simp [hch, h]
      exact ⟨_, by rw [hcfg, writeQctxCfg_of_enabled w hen, if_neg hpass], modQueue_queue_self ..⟩
    case stays_disabled =>
      exact ⟨_, by rw [hcfg, writeQctxCfg_of_disabled w hen, if_pos hoff], modQueue_queue_self ..⟩
    case enable_refused =>
      exact ⟨_, by rw [hcfg, writeQctxCfg_of_disabled w hen, if_neg (ne_false_of_eq_true hon),
        if_neg (ne_true_of_eq_false hno)], hrefuses⟩
    case enabled =>
      refine ⟨_, by rw [hcfg, writeQctxCfg_of_disabled w hen, if_neg (ne_false_of_eq_true hon), if_pos hok], ?_⟩
      rw [modQueue_queue_self]
      exact ⟨rfl, rfl, rfl, rfl, rfl, rfl⟩
    case base_refused => exact ⟨_, by rw [hbase, if_pos ⟨hen, hch⟩], hrefuses⟩
    case base_changed =>
      have hpass : ¬ (x.en = true ∧ changes (fm 12 52) (fm 12 52) w x.base = true) := by
        rcases hok with h | h <;> simp [h]
      exact ⟨_, by rw [hbase, if_neg hpass], modQueue_queue_self ..⟩
  case spill =>
    intro cur new bad
    have hexec := exec_hqmSpillWrite w hb
    refine ⟨fun hbad => ?refused, fun hok => ?accepted⟩
    case refused => exact ⟨_, by rw [hexec, if_pos hbad], rfl⟩
    case accepted => exact ⟨_, by rw [hexec, if_neg hok], loadSpill_loads w new s.hqm⟩
  case fetch => exact ⟨_, onBlock_pos hb, rfl⟩

end Sys2Proof.Machine

/-!
Performance counters and the precise sampler (R519 to R532): what one write, overflow, snapshot or sampled end does to the
PERF block, the overflow bits that a raised interrupt keeps, and the answers of the rows.
-/

namespace Sys2Proof.Machine

/-! ## A counter -/

theorem modCnt_cnts_self (n : Nat) (f : Cnt → Cnt) (s : State) :
    (modCnt n f s).perf.cnts.get n = f (s.perf.cnts.get n) := SMap.get_mod_eq ..

theorem modCnt_cnts_ne {n m : Nat} (f : Cnt → Cnt) (s : State) (h : m ≠ n) :
    (modCnt n f s).perf.cnts.get m = s.perf.cnts.get m := SMap.get_mod_ne _ _ _ _ h

/-- A field taken as a word of its own length needs no cut at its upper end. -/
theorem ofNat_bits {w : Nat} (x : BitVec w) (lo len : Nat) :
    BitVec.ofNat len (bits x lo len) = BitVec.ofNat len (x.toNat / 2 ^ lo) :=
  BitVec.eq_of_toNat_eq (by simp [bits])

/-- The PERF block after counter n passed its end (R520). -/
def overflowCnt (n occ : Nat) (p : Perf) : Perf :=
  { p with cnts := p.cnts.set n { p.cnts.get n with count := BitVec.ofNat 48 ((p.cnts.get n).count.toNat + occ) }
           ovf := setBit p.ovf n true }

theorem cntAdd_of_overflow {n occ : Nat} {p : Perf} (h : 2 ^ 48 ≤ (p.cnts.get n).count.toNat + occ) :
    cntAdd n occ p = (overflowCnt n occ p, bit (p.cnts.get n).sel 25) := if_pos h

/-- An enabled counter that runs on past its end wraps, and raises PERF_OVERFLOW where it is selected (R519, R520). -/
theorem exec_perfCounterOverflow (n : CntId) (occ : Nat) (s : State) :
    exec (.perfCounterOverflow n occ) s =
      if bit (s.perf.cnts.get n.val).sel 24 = true ∧ s.perf.freeze = false ∧
          2 ^ 48 ≤ (s.perf.cnts.get n.val).count.toNat + occ then
        .next (if bit (s.perf.cnts.get n.val).sel 25 then raiseIrq 19 (modPerf (overflowCnt n.val occ) s)
          else modPerf (overflowCnt n.val occ) s)
      else .next s := by
  show execPerfCounterOverflow n occ s = _
  simp only [execPerfCounterOverflow, Bool.and_eq_true, Bool.not_eq_true', decide_eq_true_eq, and_assoc]
  by_cases hwraps : bit (s.perf.cnts.get n.val).sel 24 = true ∧ s.perf.freeze = false ∧
      2 ^ 48 ≤ (s.perf.cnts.get n.val).count.toNat + occ
  · have ⟨_, _, hover⟩ := hwraps
    rw [if_pos hwraps, if_pos hwraps, cntAdd_of_overflow hover]
    rfl
  · rw [if_neg hwraps, if_neg hwraps]

/-! ## Overflow bits stay set

Raising an interrupt counts its messages (event 0x03C), which may overflow counters but clears no overflow bit. -/

theorem bit_setBit_of_bit {w : Nat} {x : BitVec w} {i : Nat} (j : Nat) (h : bit x i = true) :
    bit (setBit x j true) i = true := by
  rw [bit] at h
  simp [bit, setBit, h]

theorem bit_ovf_cntAdd {m : Nat} {p : Perf} (n occ : Nat) (h : bit p.ovf m = true) :
    bit (cntAdd n occ p).1.ovf m = true := by
  unfold cntAdd
  dsimp only
  split
  · exact bit_setBit_of_bit n h
  · exact h

theorem bit_ovf_perfBump {m : Nat} {p : Perf} (code unit occ : Nat) (h : bit p.ovf m = true) :
    bit (perfBump code unit occ p).1.ovf m = true := by
  unfold perfBump
  split
  · exact h
  · refine List.foldlRecOn p.cnts _ (motive := fun acc : Perf × Bool => bit acc.1.ovf m = true) h fun acc hacc e _ => ?_
    split
    · exact bit_ovf_cntAdd e.1 occ hacc
    · exact hacc

theorem putMsix_perf (v : Nat) (s : State) : (putMsix v s).perf = s.perf := by
  unfold putMsix
  split <;> rfl

/-- A message counts itself, and the message of the interrupt that this may raise. -/
theorem bit_ovf_sendMsix {m : Nat} {s : State} (v : Nat) (h : bit s.perf.ovf m = true) :
    bit (sendMsix v s).perf.ovf m = true := by
  have hone : bit (perfBump 0x03C 0 1 s.perf).1.ovf m = true := bit_ovf_perfBump _ _ _ h
  have htwo : bit (perfBump 0x03C 0 1 (perfBump 0x03C 0 1 s.perf).1).1.ovf m = true := bit_ovf_perfBump _ _ _ hone
  unfold sendMsix
  simp only [putMsix_perf]
  split
  · rwa [putMsix_perf]
  · split
    · split
      · split
        · simpa [putMsix_perf] using hone
        · simpa [putMsix_perf] using htwo
      · exact hone
    · exact hone

theorem bit_ovf_raiseIrq {m : Nat} {s : State} (b : Nat) (h : bit s.perf.ovf m = true) :
    bit (raiseIrq b s).perf.ovf m = true := by
  unfold raiseIrq
  dsimp only
  split
  · exact h
  · split
    · exact bit_ovf_sendMsix _ h
    · exact h

/-! ## Snapshots -/

/-- An entry per number below k, each read back. -/
theorem SMap.get_foldl_set_range {V : Type} [Inhabited V] [DecidableEq V] (v : Nat → V) {k n : Nat} (h : n < k) :
    SMap.get ((List.range k).foldl (fun m i => SMap.set m i (v i)) []) n = v n := by
  induction k with
  | zero => omega
  | succ k ih =>
    rw [List.range_succ, List.foldl_append, List.foldl_cons, List.foldl_nil, SMap.get_set]
    split
    next hn => rw [hn]
    next hn => exact ih (by omega)

/-- The PERF block after a snapshot in a span (R527). -/
def takeSnapshot (span : Nat) (p : Perf) : Perf :=
  { p with
    snaps := (List.range 64).foldl (fun m n => m.set n { count := (p.cnts.get n).count, ovf := bit p.ovf n }) []
    snapSpan := BitVec.ofNat 48 span, snapSeq := p.snapSeq + 1, snapAt := span + 1
    snapGo := if p.snapGo ≤ span then 0 else p.snapGo }

theorem takeSnapshot_snaps (span : Nat) (p : Perf) {n : Nat} (h : n < 64) :
    (takeSnapshot span p).snaps.get n = { count := (p.cnts.get n).count, ovf := bit p.ovf n } :=
  SMap.get_foldl_set_range (fun n => ({ count := (p.cnts.get n).count, ovf := bit p.ovf n } : Snap)) h

/-- At most one snapshot a span (R526). -/
theorem takeSnapshot_snapDue (span : Nat) (p : Perf) : (takeSnapshot span p).snapDue span = false := by
  simp [Perf.snapDue, takeSnapshot]

theorem exec_perfSnapshot {s : State} (hb : s.blockOn false = true) (hcycle : s.cycle = 0)
    (hdue : s.perf.snapDue s.time.span = true) :
    exec .perfSnapshot s = .next (modPerf (takeSnapshot s.time.span) s) := by
  show execPerfSnapshot s = _
  rw [execPerfSnapshot, if_pos (by simp [hb, hcycle, hdue])]
  rfl

/-! ## The sampler's configuration -/

/-- The sampler with a word of PERF_PS_CFG: switched on, it starts (R529, R532). -/
def loadPsCfg (v : W64) (p : Perf) : Perf :=
  if bit p.psCfg 0 = false ∧ bit v 0 = true then psStart { p with psCfg := v } else { p with psCfg := v }

theorem loadPsCfg_psCfg (v : W64) (p : Perf) : (loadPsCfg v p).psCfg = v := by
  unfold loadPsCfg
  split <;> rfl

/-- Switching the sampler on clears its counts (R532). -/
theorem loadPsCfg_of_start {v : W64} {p : Perf} (hoff : bit p.psCfg 0 = false) (hon : bit v 0 = true) :
    (loadPsCfg v p).psWritten = 0 ∧ (loadPsCfg v p).psDropped = 0 ∧ (loadPsCfg v p).psSkipped = 0 := by
  rw [loadPsCfg, if_pos ⟨hoff, hon⟩]
  exact ⟨rfl, rfl, rfl⟩

/-- While the sampler is on, a change of a field but en is refused (R532; log entry 94). -/
theorem exec_perfPsCfgWrite (w : Wr) {s : State} (hb : s.blockOn false = true) :
    exec (.perfPsCfgWrite w) s = .next (
      if bit s.perf.psCfg 0 = true ∧ changes (psCfgRw &&& ~~~ fm 0 1) psCfgRw w s.perf.psCfg = true then
        modPerf (fun p => { p with psRefused := true }) s
      else modPerf (loadPsCfg (rwMerge psCfgRw w s.perf.psCfg)) s) := by
  show execPerfPsCfgWrite w s = _
  rw [execPerfPsCfgWrite, onBlock_pos hb]
  by_cases hbad : bit s.perf.psCfg 0 = true ∧ changes (psCfgRw &&& ~~~ fm 0 1) psCfgRw w s.perf.psCfg = true
  · simp [modPerf, hbad]
  · rw [if_neg hbad]
    simp [modPerf, loadPsCfg, hbad]

/-! ## Sampled occurrences -/

/-- The open occurrences without number i. -/
def dropOpen (i : Nat) (p : Perf) : Perf := { p with psOpen := p.psOpen.filter fun o => o.idx != i }

theorem mem_dropOpen_psOpen {i : Nat} {p : Perf} {o : PsOpen} :
    o ∈ (dropOpen i p).psOpen ↔ o ∈ p.psOpen ∧ o.idx ≠ i := by
  simp [dropOpen]

section PutSample
variable {p : Perf} (e : BitVec 256) (now : Nat)

theorem putSample_psOpen : (putSample e now p).psOpen = p.psOpen := by
  unfold putSample
  split <;> rfl

/-- A buffer with room takes the entry (R530). -/
theorem putSample_of_room (h : p.psBuf.length < 4096) :
    (putSample e now p).psBuf = p.psBuf ++ [{ bits := e, at_ := now }] ∧ (putSample e now p).psDropFlag = false := by
  rw [putSample, if_neg (Nat.not_le.mpr h)]
  exact ⟨rfl, rfl⟩

/-- A full buffer drops the entry and counts it, and the next entry will say so (R531). -/
theorem putSample_of_full (h : 4096 ≤ p.psBuf.length) :
    (putSample e now p).psBuf = p.psBuf ∧ (putSample e now p).psDropped = min (2 ^ 24 - 1) (p.psDropped + 1) ∧
    (putSample e now p).psDropFlag = true := by
  rw [putSample, if_pos h]
  exact ⟨rfl, rfl, rfl⟩

end PutSample

/-- An end of an occurrence that was not sampled, or has ended, leaves no entry. -/
theorem exec_preciseSampleEntry_of_none {r : PsEnd} {s : State} (h : ∀ o ∈ s.perf.psOpen, o.idx ≠ r.idx) :
    exec (.preciseSampleEntry r) s = .next s := by
  have hnone : s.perf.psOpen.find? (fun o => o.idx == r.idx) = none :=
    List.find?_eq_none.mpr fun o ho => by simpa using h o ho
  show execPreciseSampleEntry r s = _
  rw [execPreciseSampleEntry, hnone]

/-- An open occurrence ends: it is open no more, and its entry goes to the buffer (R528, R530). -/
theorem exec_preciseSampleEntry_of_some {r : PsEnd} {s : State} {o : PsOpen}
    (h : s.perf.psOpen.find? (fun z => z.idx == r.idx) = some o) :
    ∃ t, exec (.preciseSampleEntry r) s = .next t ∧
      t.perf = putSample (psEntry (bits s.perf.psCfg 8 10) o r (s.time.span * spanGr + r.at_.val) s.untraceable
        s.perf.psDropFlag) (s.time.span * spanGr + r.at_.val) (dropOpen r.idx s.perf) := by
  have hexec : exec (.preciseSampleEntry r) s = execPreciseSampleEntry r s := rfl
  exact ⟨_, by rw [hexec, execPreciseSampleEntry, h], rfl⟩

/-! ## The obligation -/

/-- Settles O58: by what each row answers. A write changes the fields it names, an overflow or a snapshot acts as R520 and
R527 say, PERF_PS_CFG is guarded while the sampler is on (log entry 94), and an end finds room in the buffer or not. -/
theorem countersAndSampler : Obligations.CountersAndSampler := by
  unfold Obligations.CountersAndSampler
  intro s hb
  refine ⟨fun n => ⟨?read, fun v => ?select, fun occ => ?overflow⟩, fun v => ?freeze, fun v => ?request, ?snapshot,
    fun w => ?config, fun r => ⟨exec_preciseSampleEntry_of_none, fun o ho => ?sample⟩⟩
  case read =>
    exact ⟨_, onBlock_pos hb, by rw [modCnt_cnts_self, ofNat_bits], fun m hm => modCnt_cnts_ne _ _ hm⟩
  case select => exact ⟨_, onBlock_pos hb, modCnt_cnts_self .., fun m hm => modCnt_cnts_ne _ _ hm⟩
  case overflow =>
    intro wraps
    have hexec := exec_perfCounterOverflow n occ s
    have hovf : bit (modPerf (overflowCnt n.val occ) s).perf.ovf n.val = true := by
      simp [overflowCnt, bit_setBit_true]
    refine ⟨fun hw => ?wrapped, fun hw => by rw [hexec, if_neg hw]⟩
    case wrapped =>
      rw [hexec, if_pos hw]
      cases hirq : bit (s.perf.cnts.get n.val).sel 25
      case true =>
        exact ⟨_, rfl, bit_ovf_raiseIrq 19 hovf, fun _ => bit_raiseIrq_irqStatus (by decide) _, nofun⟩
      case false => exact ⟨_, rfl, hovf, nofun, fun _ => ⟨rfl, SMap.get_set_eq ..⟩⟩
  case freeze => exact ⟨_, onBlock_pos hb, rfl⟩
  case request => exact ⟨_, onBlock_pos hb, by simp⟩
  case snapshot =>
    intro hcycle hdue
    exact ⟨_, exec_perfSnapshot hb hcycle hdue, fun n hn => takeSnapshot_snaps _ _ hn, rfl, rfl, rfl, rfl,
      takeSnapshot_snapDue ..⟩
  case config =>
    intro v bad
    have hexec := exec_perfPsCfgWrite w hb
    refine ⟨fun hbad => ?refused, fun hok => ?accepted⟩
    case refused => exact ⟨_, by rw [hexec, if_pos hbad], rfl⟩
    case accepted => exact ⟨_, by rw [hexec, if_neg hok], loadPsCfg_psCfg .., loadPsCfg_of_start⟩
  case sample =>
    intro now lat field entry ends
    obtain ⟨t, hexec, hperf⟩ := exec_preciseSampleEntry_of_some ho
    have hentry : psEntry (bits s.perf.psCfg 8 10) o r now s.untraceable s.perf.psDropFlag = entry := by
      simp only [psEntry, PsOpen.latency, spanGr, cycleGr, entry, field, lat]
      congr
    have hput : t.perf = putSample entry now (dropOpen r.idx s.perf) := hperf.trans (by rw [← hentry]; rfl)
    have hends : ends t := fun z => by rw [hput, putSample_psOpen, mem_dropOpen_psOpen]
    refine ⟨fun hroom => ⟨t, hexec, ?buffered⟩, fun hfull => ⟨t, hexec, ?dropped⟩⟩
    case buffered =>
      obtain ⟨hbuf, hflag⟩ := putSample_of_room (p := dropOpen r.idx s.perf) entry now hroom
      exact ⟨hput ▸ hbuf, hends, hput ▸ hflag⟩
    case dropped =>
      obtain ⟨hbuf, hcount, hflag⟩ := putSample_of_full (p := dropOpen r.idx s.perf) entry now hfull
      exact ⟨hput ▸ hbuf, hput ▸ hcount, hput ▸ hflag, hends⟩

end Sys2Proof.Machine

/-!
The machine as a whole: what holds of every step follows from kept_exec, which says once what a command can do, and from the
two cases of a step.
-/

namespace Sys2Proof.Machine

/-- Every command answers a next state that keeps what its row of touched leaves alone. -/
theorem exec_next (i : Instr) (s : State) : ∃ t, exec i s = .next t ∧ Kept (touched i) s t := by
  have h := kept_exec i s
  match exec i s, h with
  | .next t, h => exact ⟨t, rfl, h⟩

theorem kept_of_exec {i : Instr} {s t : State} (h : exec i s = .next t) : Kept (touched i) s t := by
  have hk := kept_exec i s
  rwa [h] at hk

/-- A step idles on an empty queue, or runs the command at the front with the rest of the queue (log entry 10). -/
theorem step_cases {s t : State} (h : step s = .next t) :
    s.pending = [] ∧ t = s ∨
    ∃ c rest, s.pending = c :: rest ∧ Kept (touched c) { s with pending := rest } t := by
  unfold step at h
  split at h
  next hp => exact .inl ⟨hp, (Host.Outcome.next.inj h).symm⟩
  next c rest hp => exact .inr ⟨c, rest, hp, kept_of_exec h⟩

/-- A predicate that does not read the queue and that every command keeps is kept by every step. -/
theorem step_keeps {P : State → Prop} (hq : ∀ s rest, P s → P { s with pending := rest })
    (hk : ∀ m s t, Kept m s t → P s → P t) {s t : State} (hs : P s) (h : step s = .next t) : P t := by
  rcases step_cases h with ⟨-, rfl⟩ | ⟨c, rest, -, hkept⟩
  · exact hs
  · exact hk _ _ _ hkept (hq s rest hs)

/-- Settles O5: every command keeps the canonical form of the memories, and the queue is none of them. -/
theorem stepKeepsMemories : Obligations.StepKeepsMemories := fun _ _ hs h =>
  step_keeps (P := memsCanonical) (fun _ _ hs => hs) (fun _ _ _ hk => hk.mems) hs h

/-- Settles O6: every command keeps the canonical form of the tables, and the queue is none of them. -/
theorem stepKeepsTables : Obligations.StepKeepsTables := fun _ _ hs h =>
  step_keeps (P := tablesCanonical) (fun _ _ hs => hs) (fun _ _ _ hk => hk.tabs) hs h

/-- Settles O7: every command keeps the cap on the commands dispatched in the span. -/
theorem stepKeepsDispatchCap : Obligations.StepKeepsDispatchCap := fun _ _ hs h =>
  step_keeps (P := dispatchCapped) (fun _ _ hs => hs) (fun _ _ _ hk => hk.cap) hs h

/-- Settles O9: the frame part of what every command keeps. -/
theorem frameOfEveryCommand : Obligations.FrameOfEveryCommand := fun _ _ _ h => (kept_of_exec h).same

/-- Settles O3: every row answers a next state. -/
theorem everyCommandAnswers : Obligations.EveryCommandAnswers := fun i s =>
  (exec_next i s).imp fun _ h => h.1

/-- Settles O4: no command changes the queue, so a step leaves its tail. -/
theorem queueIsFirstInFirstOut : Obligations.QueueIsFirstInFirstOut := by
  intro s t h
  rcases step_cases h with ⟨hp, rfl⟩ | ⟨c, rest, hp, hk⟩
  · rw [hp]; rfl
  · rw [hp]; exact hk.same .pending (Laws.NoWord.queue_untouched c)

/-- Settles O1. -/
theorem stepRunsTheFrontCommand : Obligations.StepRunsTheFrontCommand := by
  intro s c rest hp
  simp [step, hp]

/-- Settles O2. -/
theorem emptyQueueIdles : Obligations.EmptyQueueIdles := by
  intro s hp
  simp [step, hp]

/-- Settles O8: after reset every memory and table is empty. -/
theorem resetMeetsInvariants : Obligations.ResetMeetsInvariants :=
  ⟨⟨Mem.wf_nil, Mem.wf_nil, Mem.wf_nil, Mem.wf_nil⟩,
   ⟨SMap.wf_nil, SMap.wf_nil, SMap.wf_nil, SMap.wf_nil⟩, Nat.zero_le _, rfl⟩

/-- Settles O11: an index that nothing has written holds the default of its table. -/
theorem powerOnValues : Obligations.PowerOnValues :=
  ⟨rfl, rfl, rfl, rfl, fun _ => ⟨rfl, rfl, rfl⟩, fun _ => ⟨rfl, rfl⟩, fun _ => ⟨rfl, rfl⟩, rfl, rfl, rfl, rfl, rfl, rfl,
   rfl, rfl, rfl, rfl, rfl, fun _ => rfl, rfl⟩

/-! ## Rows that change one part

Which rows list a part in touched, so that no other row changes it. -/

theorem part_mem_touched {i : Instr} {s t : State} (h : exec i s = .next t) {x : Part} (hx : ¬ x.same s t) :
    x ∈ touched i := by
  by_contra hn
  exact hx ((kept_of_exec h).same x hn)

theorem clock_mem_touched {i : Instr} (h : Part.clock ∈ touched i) :
    (∃ inp, i = .spanTick inp) ∨ i = .halsoJoin ∨ i = .powerOnReset ∨ i = .resetNAssert := by
  cases i <;> simp_all [touched]

theorem devState_mem_touched {i : Instr} (h : Part.devState ∈ touched i) :
    (∃ inp, i = .spanTick inp) ∨ (∃ k, i = .calRun k) ∨ (∃ r, i = .calStepEnd r) ∨ (∃ e, i = .leaseLapse e) ∨
    (∃ b, i = .bootComplete b) ∨ i = .wakeComplete ∨ i = .refInReturn ∨ i = .resetNDeassert ∨
    i = .powerOnResetEnd ∨ i = .powerOnReset ∨ i = .resetNAssert := by
  cases i <;> simp_all [touched]

theorem dramMem_mem_touched {i : Instr} (h : Part.dramMem ∈ touched i) :
    (∃ inp, i = .spanTick inp) ∨ (∃ c e f g, i = .eyeScanPoint c e f g) ∨ (∃ w, i = .sableWriteSlot w) ∨
    (∃ c r d e g, i = .bestEffortRequestServed c r d e g) ∨ (∃ v, i = .dramCtrlWrite v) ∨
    (∃ a m v, i = .registerWrite a m v) ∨ i = .wakeComplete ∨ (∃ b, i = .bootComplete b) ∨
    i = .powerOnReset ∨ i = .resetNAssert := by
  cases i <;> simp_all [touched]

theorem flash_mem_touched {i : Instr} (h : Part.flash ∈ touched i) :
    (∃ k w, i = .cfgSave k w) ∨ (∃ c, i = .ageingLogAppend c) := by
  cases i <;> simp_all [touched]

/-- Settles O10: only the rows that list the span counter, the device state, the bytes of DRAM or those of the
configuration memory in touched change them. -/
theorem onlyTheseRowsChange : Obligations.OnlyTheseRowsChange := by
  refine ⟨fun i s t h hne => clock_mem_touched (part_mem_touched h hne),
    fun i s t h hne => devState_mem_touched (part_mem_touched h hne), fun i s t h => ⟨?dram, ?flash⟩⟩
  case dram =>
    rintro ⟨a, ha⟩
    exact dramMem_mem_touched (part_mem_touched h fun hsame => ha (congrArg (Mem.byte · a) hsame))
  case flash =>
    rintro ⟨a, ha⟩
    exact flash_mem_touched (part_mem_touched h fun hsame => ha (congrArg (Mem.byte · a) hsame))

end Sys2Proof.Machine

/-!
Commands of the host queue manager and copies (R191, R457, R461 to R464): what a completion leaves in a slot, what a served
line of a best-effort request does to the memories and to its command.
-/

namespace Sys2Proof.Machine

/-! ## Completions -/

/-- A slot completed at a state with a status and a result (R459, R64). -/
def completed (st : BitVec 8) (r : Nat) (s : State) (c : Cmd) : Cmd :=
  { c with ph := .done, status := st, result := BitVec.ofNat 32 r, cspan := s.time.span, untraceable := s.untraceable }

theorem complete_eq_modCmd (k : Nat) (st : BitVec 8) (r : Nat) (s : State) :
    complete k st r s = modCmd k (completed st r s) s := rfl

theorem complete_cmd (k : Nat) (st : BitVec 8) (r : Nat) (s : State) (j : Nat) :
    (complete k st r s).cmd j = if j = k then completed st r s (s.cmd k) else s.cmd j := modCmd_cmd ..

theorem complete_cmd_ne {k j : Nat} (st : BitVec 8) (r : Nat) (s : State) (h : j ≠ k) :
    (complete k st r s).cmd j = s.cmd j := modCmd_cmd_ne _ _ _ _ h

@[simp] theorem complete_untraceable (k : Nat) (st : BitVec 8) (r : Nat) (s : State) :
    (complete k st r s).untraceable = s.untraceable := rfl

theorem doneAs_of_cmd {k : Nat} {st : BitVec 8} {r : Nat} {s t : State} (h : t.cmd k = completed st r s (s.cmd k)) :
    doneAs k st r s t := by simp [doneAs, h, completed]

/-- A completion reads of a state only the slot, the span and what makes it untraceable. -/
theorem doneAs_congr {k : Nat} {st : BitVec 8} {r : Nat} {s s' t t' : State} (hc : s'.cmd k = s.cmd k)
    (hspan : s'.time.span = s.time.span) (hun : s'.untraceable = s.untraceable) (ht : t'.cmd k = t.cmd k)
    (h : doneAs k st r s t) : doneAs k st r s' t' := by
  unfold doneAs at *
  rwa [hc, hspan, hun, ht]

/-- Whether what is produced is traceable depends on the device state, the time base and the Halso link. -/
theorem untraceable_congr {s t : State} (hsys : t.sys.state = s.sys.state) (htime : t.time = s.time)
    (hhalso : t.halso = s.halso) : t.untraceable = s.untraceable := by
  simp only [State.untraceable, State.traceable, State.heldGood, State.src, hsys, htime, hhalso]

@[simp] theorem atGrain_untraceable (g : Grain) (s : State) : (atGrain g s).untraceable = s.untraceable := rfl

/-- A completion behind effects that left the slots, the clock, the device state and the Halso link alone. -/
theorem doneAs_complete_of_kept {m : List Part} {s u : State} (k : Nat) (st : BitVec 8) (r : Nat) (h : Kept m s u)
    (hc : u.cmd k = s.cmd k) (hm : ∀ x ∈ [Part.devState, .time, .halso], x ∉ m) :
    doneAs k st r s (complete k st r u) := by
  have htime : u.time = s.time := h.same .time (hm _ (by decide))
  have hun := untraceable_congr (h.same .devState (hm _ (by decide))) htime (h.same .halso (hm _ (by decide)))
  exact doneAs_congr hc.symm (congrArg Time.span htime.symm) hun.symm rfl (doneAs_complete k st r u)

theorem onlySlot_of_cmds {k : Nat} {s t : State} {m : SMap Cmd} (h : t.hqm = { s.hqm with cmds := m })
    (hk : ∀ j, j ≠ k → t.cmd j = s.cmd j) : onlySlot k s t := ⟨hk, by rw [h]⟩

/-! ## NOP, FENCE and CANCEL -/

/-- Commands of a list completed one after the other: each slot of it is completed once, for it keeps no trace of how often. -/
theorem foldl_complete_cmd (ks : List Nat) (st : BitVec 8) (r : Nat) (s : State) (j : Nat) :
    (ks.foldl (fun t k => complete k st r t) s).cmd j = if j ∈ ks then completed st r s (s.cmd j) else s.cmd j := by
  induction ks generalizing s with
  | nil => rfl
  | cons k ks ih =>
    rw [List.foldl_cons, ih, complete_cmd]
    by_cases hj : j = k
    · subst hj
      by_cases hm : j ∈ ks
      · simp [hm, completed]; rfl
      · simp [hm]
    · by_cases hm : j ∈ ks
      · simp [hj, hm, completed]; rfl
      · simp [hj, hm]

theorem kept_foldl_complete (ks : List Nat) (st : BitVec 8) (r : Nat) (s : State) :
    Kept [.hqm] s (ks.foldl (fun t k => complete k st r t) s) :=
  kept_foldl _ _ (fun _ _ h => kept_complete _ _ _ (List.Subset.refl _) h) (Kept.refl _ s)

theorem foldl_complete_hqm (ks : List Nat) (st : BitVec 8) (r : Nat) (s : State) :
    ∃ m, (ks.foldl (fun t k => complete k st r t) s).hqm = { s.hqm with cmds := m } := by
  induction ks generalizing s with
  | nil => exact ⟨_, rfl⟩
  | cons k ks ih =>
    obtain ⟨m, hm⟩ := ih (complete k st r s)
    exact ⟨m, hm⟩

/-- What CANCEL does to the slots and to the ready list. -/
theorem cancelAll_cmd (ks : List Nat) (s : State) (j : Nat) :
    (cancelAll ks s).cmd j = if j ∈ ks then completed stCancelled 0 s (s.cmd j) else s.cmd j :=
  foldl_complete_cmd ks stCancelled 0 s j

theorem cancelAll_readyQ (ks : List Nat) (s : State) :
    (cancelAll ks s).hqm.readyQ = s.hqm.readyQ.filter fun k => !ks.contains k := by
  obtain ⟨m, hm⟩ := foldl_complete_hqm ks stCancelled 0 s
  simp [cancelAll, hm]

theorem exec_nop {k : CmdSlot} {s : State} (h : s.holds k.val 0x00 = true) :
    exec (.nop k) s = .next (complete k.val stOK 0 s) := onCmd_pos (f := fun _ t => complete k.val stOK 0 t) h

theorem exec_fence {k : CmdSlot} {s : State} (h : s.holds k.val 0x01 = true) :
    exec (.fence k) s = .next (complete k.val stOK 0 s) := onCmd_pos (f := fun _ t => complete k.val stOK 0 t) h

/-- The slots that a CANCEL with a descriptor names (R462). -/
def cancelled (d : Desc) (s : State) : List Nat := (s.hqm.cmds.filter fun e => cancels d e.2).map Prod.fst

theorem exec_cancel {k : CmdSlot} {s : State} (h : s.holds k.val 0x02 = true) :
    exec (.cancel k) s = .next (promote (complete k.val stOK (cancelled (s.cmd k.val).desc s).length
      (cancelAll (cancelled (s.cmd k.val).desc s) s))) := by
  show execCancel k s = _
  rw [execCancel, onCmd_pos h]
  rfl

/-- Settles O12: NOP and FENCE only complete; CANCEL completes the slots it names and then its own. -/
theorem orderingCommandsComplete : Obligations.OrderingCommandsComplete := by
  refine ⟨fun k s => ⟨fun h => ?_, fun h => ?_⟩, fun k s h => ?cancel⟩
  · exact ⟨_, exec_nop h, doneAs_complete .., onlySlot_complete ..⟩
  · exact ⟨_, exec_fence h, doneAs_complete .., onlySlot_complete ..⟩
  case cancel =>
    intro d ks
    have hk : Kept [.hqm] s (cancelAll ks s) := kept_cancelAll ks (List.Subset.refl _) (Kept.refl _ s)
    have hcmd (j : Nat) (hj : j ≠ k.val) : (complete k.val stOK ks.length (cancelAll ks s)).cmd j =
        if j ∈ ks then completed stCancelled 0 s (s.cmd j) else s.cmd j := by
      rw [complete_cmd_ne _ _ _ hj, cancelAll_cmd]
    refine ⟨complete k.val stOK ks.length (cancelAll ks s), exec_cancel h, ?_, fun j hj hne => ?_, fun j hj hne => ?_,
      cancelAll_readyQ ks s⟩
    · have hun : (cancelAll ks s).untraceable = s.untraceable :=
        untraceable_congr (hk.same .devState (by decide)) (hk.same .time (by decide)) (hk.same .halso (by decide))
      have hspan : (cancelAll ks s).time.span = s.time.span := congrArg Time.span (hk.same .time (by decide))
      refine doneAs_of_cmd ?_
      rw [complete_cmd, if_pos rfl, cancelAll_cmd]
      split <;> simp [completed, hun, hspan]
    · exact doneAs_of_cmd (by rw [hcmd j hne, if_pos hj])
    · rw [hcmd j hne, if_neg hj]

/-! ## Copies begin -/

/-- The request that a copy queues. -/
def copyReq (k : Nat) (kind : BeKind) (d : Desc) (s : State) : BeReq :=
  { id := s.dram.nextReq, kind := kind, cmd := some k, dram := pay d 8 8,
    host := if kind = .memFill then 0 else pay d 0 8, len := pay d 0x10 4, at_ := s.now,
    pattern := BitVec.ofNat 64 (pay d 0x18 8) }

/-- A copy begun: one request more, the youngest, and its command begun (R463). -/
theorem startCopy_of_enabled {k : Nat} {kind : BeKind} {d : Desc} {s : State} (hen : s.dram.enabled = true)
    (hlen : pay d 0x10 4 ≠ 0) :
    begunAs k s (startCopy k kind d s) ∧ onlySlot k s (startCopy k kind d s) ∧
    (startCopy k kind d s).dram = { s.dram with
      reqs := s.dram.reqs ++ [copyReq k kind d s], nextReq := s.dram.nextReq + 1 } := by
  rw [startCopy, if_pos hen, if_neg hlen]
  exact ⟨modCmd_cmd_self .., onlySlot_modCmd .., rfl⟩

theorem exec_memWrite {k : CmdSlot} {s : State} (h : s.holds k.val 0x08 = true) :
    exec (.memWrite k) s = .next (startCopy k.val .memWrite (s.cmd k.val).desc s) := onCmd_pos h

theorem exec_memRead {k : CmdSlot} {s : State} (h : s.holds k.val 0x09 = true) :
    exec (.memRead k) s = .next (startCopy k.val .memRead (s.cmd k.val).desc s) := onCmd_pos h

theorem exec_memFill {k : CmdSlot} {s : State} (h : s.holds k.val 0x0A = true) :
    exec (.memFill k) s = .next (startCopy k.val .memFill (s.cmd k.val).desc s) := onCmd_pos h

theorem startCopy_of_disabled {k : Nat} {kind : BeKind} {d : Desc} {s : State} (hen : s.dram.enabled = false) :
    doneAs k stPrecondition 0 s (startCopy k kind d s) ∧ (startCopy k kind d s).dram = s.dram := by
  rw [startCopy, if_neg (by simp [hen])]
  exact ⟨doneAs_complete .., rfl⟩

/-- Settles O13: each of the three rows runs startCopy with its kind. -/
theorem copiesBegin : Obligations.CopiesBegin := by
  refine ⟨fun k s hen => ?enabled, fun k s hen => ?disabled⟩
  case enabled =>
    intro d r hlen
    exact ⟨fun h => ⟨_, exec_memWrite h, startCopy_of_enabled hen hlen⟩,
      fun h => ⟨_, exec_memRead h, startCopy_of_enabled hen hlen⟩,
      fun h => ⟨_, exec_memFill h, startCopy_of_enabled hen hlen⟩⟩
  case disabled =>
    exact ⟨fun h => ⟨_, exec_memWrite h, startCopy_of_disabled hen⟩,
      fun h => ⟨_, exec_memRead h, startCopy_of_disabled hen⟩,
      fun h => ⟨_, exec_memFill h, startCopy_of_disabled hen⟩⟩

end Sys2Proof.Machine

/-!
Best-effort DRAM requests (R191, R463, R464): the order of the two levels, the line that a served request moves, and how its
last line or a failed transfer ends its command.
-/

namespace Sys2Proof.Machine

/-! ## The arbiter's choice -/

theorem oldest_isSome {l : List BeReq} (h : l ≠ []) : ∃ r, oldest l = some r := by
  cases l with
  | nil => exact absurd rfl h
  | cons x xs =>
    rw [oldest]
    split
    · exact ⟨_, rfl⟩
    · split <;> exact ⟨_, rfl⟩

@[simp] theorem selectReq_nil (s : State) : s.selectReq [] = none := rfl

/-- Some request of a level is chosen where there is one. -/
theorem selectReq_isSome (s : State) {l : List BeReq} (h : l ≠ []) : ∃ r aged, s.selectReq l = some (r, aged) := by
  unfold State.selectReq
  split
  · exact ⟨_, _, rfl⟩
  · split
    · exact ⟨_, _, rfl⟩
    · obtain ⟨r, hr⟩ := oldest_isSome h
      exact ⟨r, false, by rw [hr]; rfl⟩

/-- A request of the reserved level is ready on a channel. -/
def reservedReady (ch : DramCh) (ready : List Nat) (g : Grain) (s : State) : Prop :=
  ∃ x, x ∈ (atGrain g s).reservedOn ch.val ∧ x.id ∈ ready

theorem reservedReady_iff (ch : DramCh) (ready : List Nat) (g : Grain) (s : State) :
    reservedReady ch ready g s ↔ ((atGrain g s).reservedOn ch.val).filter (fun r => ready.contains r.id) ≠ [] := by
  simp [reservedReady, List.filter_eq_nil_iff]

/-! ## What making a line leaves alone -/

/-- The contents of the memories, the requests, the slots and the clock stand as they did: rows opened, refreshes restarted
and events counted change none of them. -/
structure LineMade (s u : State) : Prop where
  mem : u.dram.mem = s.dram.mem
  reqs : u.dram.reqs = s.dram.reqs
  host : u.host = s.host
  cmds : u.hqm.cmds = s.hqm.cmds
  span : u.time.span = s.time.span
  untraceable : u.untraceable = s.untraceable

theorem LineMade.trans {s t u : State} (h : LineMade s t) (k : LineMade t u) : LineMade s u :=
  ⟨k.mem.trans h.mem, k.reqs.trans h.reqs, k.host.trans h.host, k.cmds.trans h.cmds, k.span.trans h.span,
    k.untraceable.trans h.untraceable⟩

theorem LineMade.cmd {s u : State} (h : LineMade s u) (k : Nat) : u.cmd k = s.cmd k := by
  rw [State.cmd, h.cmds]; rfl

theorem lineMade_of_signalled {s u : State} (h : signalled s u) : LineMade s u :=
  ⟨congrArg Dram.mem (signalled_dram h), congrArg Dram.reqs (signalled_dram h), signalled_host h, signalled_cmds h,
    congrArg Time.span (signalled_time h), signalled_untraceable h⟩

theorem lineMade_wakeDram (s : State) : LineMade s (wakeDram s) := by
  unfold wakeDram
  split <;> exact ⟨rfl, rfl, rfl, rfl, rfl, rfl⟩

theorem lineMade_restDram (s : State) : LineMade s (restDram s) := by
  unfold restDram
  split <;> exact ⟨rfl, rfl, rfl, rfl, rfl, rfl⟩

theorem lineMade_atGrain (g : Grain) (s : State) : LineMade s (atGrain g s) := ⟨rfl, rfl, rfl, rfl, rfl, rfl⟩

theorem lineMade_openRow (f : Dram → SMap Nat) (s : State) :
    LineMade s (modDram (fun d => { d with openRow := f d }) s) := ⟨rfl, rfl, rfl, rfl, rfl, rfl⟩

theorem lineMade_openLine (ch : Nat) (r : BeReq) (aged : Bool) (s : State) : LineMade s (openLine ch r aged s) := by
  unfold openLine
  dsimp only
  refine LineMade.trans ?_ (lineMade_openRow (fun d => d.openRow.set _ _) _)
  split
  · exact (lineMade_of_signalled (signalled_perfEvent ..)).trans (lineMade_of_signalled (signalled_perfEvent ..))
  · exact lineMade_of_signalled (signalled_perfEvent ..)

/-- The state in which the data of a chosen request moves. -/
def lineState (ch : DramCh) (r : BeReq) (aged : Bool) (g : Grain) (s : State) : State :=
  perfFrom 0x035 ch.val 1 r.at_ (openLine ch.val r aged (wakeDram (atGrain g s)))

theorem lineMade_lineState (ch : DramCh) (r : BeReq) (aged : Bool) (g : Grain) (s : State) :
    LineMade s (lineState ch r aged g s) :=
  (((lineMade_atGrain g s).trans (lineMade_wakeDram _)).trans (lineMade_openLine ..)).trans
    (lineMade_of_signalled (signalled_perfFrom ..))

/-! ## The answers of BEST_EFFORT_REQUEST_SERVED -/

section Answers
variable {ch : DramCh} {ready : List Nat} {g : Grain} {s : State}

/-- A ready request of the reserved level takes the line (R191). -/
theorem exec_bestEffort_of_reserved (data : Desc) (err : Bool) (h : reservedReady ch ready g s) :
    ∃ t, exec (.bestEffortRequestServed ch ready data err g) s = .next t ∧ LineMade s t := by
  obtain ⟨r, aged, hr⟩ := selectReq_isSome (atGrain g s) ((reservedReady_iff ch ready g s).mp h)
  refine ⟨openLine ch.val r aged (atGrain g s), ?_, (lineMade_atGrain g s).trans (lineMade_openLine ..)⟩
  show execBestEffortRequestServed ch ready data err g s = _
  simp only [execBestEffortRequestServed, hr]

variable {r : BeReq} {aged : Bool} (hfree : ¬ reservedReady ch ready g s)
  (hsel : (atGrain g s).selectReq ((atGrain g s).reqsOn ch.val ready) = some (r, aged))
include hfree hsel

theorem exec_bestEffort_of_free (data : Desc) (err : Bool) :
    exec (.bestEffortRequestServed ch ready data err g) s =
      .next (restDram (if err then failReq r (lineState ch r aged g s)
        else if r.len ≤ r.pos + 64 then endReq r (serveData r data (lineState ch r aged g s))
        else moveReq r.id (serveData r data (lineState ch r aged g s)))) := by
  have hnone : ((atGrain g s).reservedOn ch.val).filter (fun r => ready.contains r.id) = [] :=
    not_not.mp ((reservedReady_iff ch ready g s).not.mp hfree)
  show execBestEffortRequestServed ch ready data err g s = _
  simp only [execBestEffortRequestServed, hnone, selectReq_nil, hsel]
  rfl

end Answers

/-! ## The data of a line -/

/-- Past the line itself no byte moves: neither the end of a request nor its next position touches a memory. -/
theorem served_mems (r : BeReq) (v : State) :
    (restDram (if r.len ≤ r.pos + 64 then endReq r v else moveReq r.id v)).host = v.host ∧
    (restDram (if r.len ≤ r.pos + 64 then endReq r v else moveReq r.id v)).dram.mem = v.dram.mem := by
  have hk : Kept [.hqm, .dram, .time, .perf] v (if r.len ≤ r.pos + 64 then endReq r v else moveReq r.id v) := by
    split
    · exact kept_endReq r (by decide) (Kept.refl _ v)
    · exact kept_moveReq r.id (by decide) (Kept.refl _ v)
  exact ⟨(lineMade_restDram _).host.trans (hk.same .host (by decide)),
    (lineMade_restDram _).mem.trans (hk.same .dramMem (by decide))⟩

/-- A line served without error moves the data that serveData moves, and no other byte. -/
theorem bestEffort_mems {ch : DramCh} {ready : List Nat} {g : Grain} {s : State} {r : BeReq} {aged : Bool}
    (hfree : ¬ reservedReady ch ready g s)
    (hsel : (atGrain g s).selectReq ((atGrain g s).reqsOn ch.val ready) = some (r, aged)) (data : Desc) :
    ∃ t, exec (.bestEffortRequestServed ch ready data false g) s = .next t ∧
      t.host = (serveData r data (lineState ch r aged g s)).host ∧
      t.dram.mem = (serveData r data (lineState ch r aged g s)).dram.mem :=
  ⟨_, exec_bestEffort_of_free hfree hsel data false, served_mems r _⟩

section ServeData
variable {r : BeReq} {s u : State} (data : Desc) (h : LineMade s u)
include h

theorem serveData_of_read (hk : r.kind = .memRead ∨ r.kind = .acqRead) :
    wrote (r.host + r.pos) (Mem.bytes s.dram.mem (r.dram + r.pos) 64) s.host (serveData r data u).host ∧
    (serveData r data u).dram.mem = s.dram.mem := by
  rw [← h.mem, ← h.host]
  rcases hk with hk | hk <;> simp only [serveData, hk] <;> exact ⟨wrote_store .., rfl⟩

theorem serveData_of_write (hk : r.kind = .memWrite) :
    wrote (r.dram + r.pos) (leBytes 64 data.toNat) s.dram.mem (serveData r data u).dram.mem ∧
    (serveData r data u).host = s.host := by
  rw [← h.mem, ← h.host]
  simp only [serveData, hk]
  exact ⟨wrote_store .., rfl⟩

theorem serveData_of_fill (hk : r.kind = .memFill) :
    wrote (r.dram + r.pos) (fillBytes r.pattern r.pos 64) s.dram.mem (serveData r data u).dram.mem ∧
    (serveData r data u).host = s.host := by
  rw [← h.mem, ← h.host]
  simp only [serveData, hk]
  exact ⟨wrote_store .., rfl⟩

theorem serveData_of_ring (hk : r.kind = .spill ∨ r.kind = .tsRing ∨ r.kind = .psRing) :
    wrote r.dram r.data s.dram.mem (serveData r data u).dram.mem ∧ (serveData r data u).host = s.host := by
  rw [← h.mem, ← h.host]
  rcases hk with hk | hk | hk <;> simp only [serveData, hk] <;> exact ⟨wrote_store .., rfl⟩

end ServeData

/-! ## The end of a request -/

/-- A slot completed behind a line stays so while DRAM comes to rest. -/
theorem doneAs_complete_of_line {k : Nat} {s u v : State} (st : BitVec 8) (n : Nat) (h : LineMade s u)
    (hv : Kept [.dram, .host, .dramMem] u v) : doneAs k st n s (restDram (complete k st n v)) := by
  have hcmd : v.cmd k = s.cmd k := by
    rw [State.cmd, hv.same .hqm (by decide)]
    exact h.cmd k
  have htime : v.time = u.time := hv.same .time (by decide)
  have hun : v.untraceable = u.untraceable :=
    untraceable_congr (hv.same .devState (by decide)) htime (hv.same .halso (by decide))
  exact doneAs_congr hcmd.symm ((congrArg Time.span htime).trans h.span).symm (hun.trans h.untraceable).symm
    ((lineMade_restDram _).cmd k) (doneAs_complete k st n v)

theorem kept_dropReq_of_line {s u : State} (id : Nat) (h : Kept [.dram, .host, .dramMem] s u) :
    Kept [.dram, .host, .dramMem] s (dropReq id u) := kept_dropReq id (by decide) h

theorem dropReq_reqs_ne (id : Nat) (s : State) : ∀ x ∈ (dropReq id s).dram.reqs, x.id ≠ id := by
  simp [dropReq]

section EndReq
variable {r : BeReq} {k : Nat} {u : State} (hcmd : r.cmd = some k)
include hcmd

theorem endReq_of_write (hk : r.kind = .memWrite ∨ r.kind = .memFill) :
    endReq r u = complete k stOK r.len (dropReq r.id u) := by
  rcases hk with hk | hk <;> simp only [endReq, hk, hcmd, completeOpt]

/-- A copy to the host of which no line was written meanwhile ends with OK (R463). -/
theorem endReq_of_clean_read (hk : r.kind = .memRead) (h : ∀ x ∈ u.dram.reqs, x.id = r.id → x.suspect = false) :
    endReq r u = complete k stOK r.len (dropReq r.id u) := by
  have hany : (u.dram.reqs.any fun x => x.id == r.id && x.suspect) = false := by simpa using h
  simp only [endReq, hk, hany, hcmd, completeOpt, Bool.false_eq_true, if_false]

theorem failReq_of_copy (hk : r.kind = .memRead ∨ r.kind = .memWrite ∨ r.kind = .memFill ∨ r.kind = .acqRead) :
    failReq r u = complete k stIntegrity r.pos (dropReq r.id u) := by
  rcases hk with hk | hk | hk | hk <;> simp only [failReq, hk, hcmd, completeOpt]

end EndReq

/-- Settles O14: a ready reserved request takes the line; else the chosen request's line moves in lineState, which has made
no byte and no slot different, and its end or its failure completes the command. -/
theorem copiesRun : Obligations.CopiesRun := by
  unfold Obligations.CopiesRun
  intro reserved
  refine ⟨fun ch ready data err g s h => ?first, fun ch ready data g s r aged hfree hsel => ?moves,
    fun ch ready data g s r aged k hfree hsel hcmd => ?ends⟩
  case first =>
    obtain ⟨t, hexec, ht⟩ := exec_bestEffort_of_reserved data err h
    exact ⟨t, hexec, ht.mem, ht.reqs, ht.host, ht.cmds⟩
  case moves =>
    have hu := lineMade_lineState ch r aged g s
    obtain ⟨t, hexec, hhost, hmem⟩ := bestEffort_mems hfree hsel data
    refine ⟨t, hexec, ?_⟩
    rw [hhost, hmem]
    exact ⟨serveData_of_read data hu, serveData_of_write data hu, serveData_of_fill data hu, serveData_of_ring data hu⟩
  case ends =>
    have hu := lineMade_lineState ch r aged g s
    have hserve : Kept [.dram, .host, .dramMem] (lineState ch r aged g s) (serveData r data (lineState ch r aged g s)) :=
      kept_serveData r data (List.Subset.refl _) (Kept.refl _ _)
    have hexec := exec_bestEffort_of_free hfree hsel data false
    refine ⟨fun hk hlen => ?written, fun hk hlen hclean => ?read, fun hk => ?failed⟩
    case written =>
      rw [if_neg Bool.false_ne_true, if_pos hlen, endReq_of_write hcmd hk] at hexec
      refine ⟨_, hexec, doneAs_complete_of_line stOK r.len hu (kept_dropReq_of_line r.id hserve), ?_⟩
      rw [(lineMade_restDram _).reqs]
      exact dropReq_reqs_ne r.id _
    case read =>
      have hreqs : (serveData r data (lineState ch r aged g s)).dram.reqs = s.dram.reqs := by
        simp only [serveData, hk, hostStore_dram, hu.reqs]
      rw [if_neg Bool.false_ne_true, if_pos hlen, endReq_of_clean_read hcmd hk (hreqs ▸ hclean)] at hexec
      exact ⟨_, hexec, doneAs_complete_of_line stOK r.len hu (kept_dropReq_of_line r.id hserve)⟩
    case failed =>
      have hfail := exec_bestEffort_of_free hfree hsel data true
      rw [if_pos rfl, failReq_of_copy hcmd hk] at hfail
      exact ⟨_, hfail, doneAs_complete_of_line stIntegrity r.pos hu (kept_dropReq_of_line r.id (Kept.refl _ _)),
        (lineMade_restDram _).host.trans hu.host, (lineMade_restDram _).mem.trans hu.mem⟩

end Sys2Proof.Machine

/-!
The way of a command through the host queue manager (R448 to R481): what a fetched descriptor, a dispatch, a posted and a
spilled completion leave in the queues, the command store and host memory.
-/

namespace Sys2Proof.Machine

/-! ## What signals leave alone -/

theorem signalled_queue {s t : State} (h : signalled s t) (q : Nat) : t.queue q = s.queue q := by
  obtain ⟨_, _, _, _, rfl⟩ := h; rfl

theorem signalled_spill {s t : State} (h : signalled s t) : t.hqm.spill = s.hqm.spill := by
  obtain ⟨_, _, _, _, rfl⟩ := h; rfl

/-! ## Fetch -/

/-- The rotation serves a queue that may be fetched from (R467). -/
theorem foldl_nextFetch_mem (s : State) (l : List Nat) (a : Option Nat) {q : Nat}
    (h : l.foldl (fun a q => match a with
      | none => some q
      | some b => if s.rotKey q < s.rotKey b then some q else some b) a = some q) : q ∈ l ∨ a = some q := by
  induction l generalizing a with
  | nil => exact .inr h
  | cons x l ih =>
    rw [List.foldl_cons] at h
    rcases ih _ h with hq | hq
    · exact .inl (List.mem_cons_of_mem _ hq)
    · cases a with
      | none => exact .inl (by simp_all)
      | some b =>
        dsimp only at hq
        split at hq
        · exact .inl (by simp_all)
        · exact .inr hq

theorem slotFree_of_nextFetch {s : State} {q : Nat} (h : s.nextFetch = some q) : s.slotFree (q / 64) = true := by
  rcases foldl_nextFetch_mem s _ none h with hm | hm
  · obtain ⟨⟨k, x⟩, hx, rfl⟩ := List.mem_map.mp hm
    have hf := (List.mem_filter.mp hx).2
    by_contra hn
    simp [State.fetchable, State.fetchStop, hn] at hf
  · exact absurd hm nofun

/-- The rotation moved on past a queue that fetch serves. -/
def fetchFrom (q : Nat) (s : State) : State :=
  modHqm (fun h => { h with lastGroup := q / 64, lastQ := h.lastQ.set (q / 64) ((q % 64 + 1) % 64) }) s

theorem exec_descriptorFetch {s : State} {q : Nat} (data : List (Option Desc)) (hf : s.fetching = true)
    (hq : s.nextFetch = some q) :
    exec (.descriptorFetch data) s = .next (promote (headWriteback q (takeAll q data 8 (fetchFrom q s)))) := by
  show execDescriptorFetch data s = _
  rw [execDescriptorFetch, if_pos hf]
  simp only [hq]
  rfl

/-- The command that a fetched descriptor becomes (R468, R470). -/
def fetchedCmd (q : Nat) (d : Desc) (s : State) : Cmd :=
  { ph := if inFuture (descNotBefore d) s.time.span then .delayed else .waiting, desc := d, sq := q,
    seq := s.hqm.nextSeq, pred := if descChained d then (s.hqm.chains.get (chainKey q d)).last else none }

/-- The store and the queue with a descriptor taken, before events are counted and the descriptor is checked. -/
def storeDesc (q : Nat) (d : Desc) (s : State) : State :=
  modQueue q (fun x => { x with head := (x.head + 1) % x.size, hwbDue := x.hwbEn })
    (modHqm (fun h => { h with
      nextSeq := s.hqm.nextSeq + 1, cmds := h.cmds.set (freeSlot s.hqm.cmds 0) (fetchedCmd q d s),
      chains := if descChained d then h.chains.set (chainKey q d)
          { s.hqm.chains.get (chainKey q d) with
            active := (s.hqm.chains.get (chainKey q d)).active + 1, last := some s.hqm.nextSeq }
        else h.chains }) s)

theorem takeDesc_eq (q : Nat) (d : Desc) (s : State) :
    takeDesc q d s = match badDesc s.installed (q / 64) d with
      | some o => complete (freeSlot s.hqm.cmds 0) stBad o (perfEvent 0x038 (q / 64) 1 (storeDesc q d s))
      | none => perfEvent 0x038 (q / 64) 1 (storeDesc q d s) := rfl

theorem storeDesc_cmd (q : Nat) (d : Desc) (s : State) (j : Nat) :
    (storeDesc q d s).cmd j = if j = freeSlot s.hqm.cmds 0 then fetchedCmd q d s else s.cmd j := SMap.get_set ..

/-- A good descriptor stands in the lowest free slot, a bad one completes there with its offset (R455, R466). -/
theorem takeDesc_takes (q : Nat) (d : Desc) (s : State) :
    (takeDesc q d s).hqm.nextSeq = s.hqm.nextSeq + 1 ∧
    (∀ j, j ≠ freeSlot s.hqm.cmds 0 → (takeDesc q d s).cmd j = s.cmd j) ∧
    ((takeDesc q d s).queue q).head = ((s.queue q).head + 1) % (s.queue q).size ∧
    (badDesc s.installed (q / 64) d = none → (takeDesc q d s).cmd (freeSlot s.hqm.cmds 0) = fetchedCmd q d s) ∧
    ∀ o, badDesc s.installed (q / 64) d = some o →
      (takeDesc q d s).cmd (freeSlot s.hqm.cmds 0) =
        completed stBad o (perfEvent 0x038 (q / 64) 1 (storeDesc q d s)) (fetchedCmd q d s) := by
  have hsig := signalled_perfEvent 0x038 (q / 64) 1 (storeDesc q d s)
  have hcmd (j : Nat) := signalled_cmd hsig j
  have hqueue := signalled_queue hsig q
  have hseq : (perfEvent 0x038 (q / 64) 1 (storeDesc q d s)).hqm.nextSeq = s.hqm.nextSeq + 1 := by
    obtain ⟨_, _, _, _, h⟩ := hsig
    rw [h]; rfl
  have hhead : ((storeDesc q d s).queue q).head = ((s.queue q).head + 1) % (s.queue q).size :=
    congrArg Queue.head (modQueue_queue_self q _ _)
  rw [takeDesc_eq]
  cases hbad : badDesc s.installed (q / 64) d with
  | none =>
    refine ⟨hseq, fun j hj => ?_, ?_, fun _ => ?_, nofun⟩
    · rw [hcmd, storeDesc_cmd, if_neg hj]
    · rw [hqueue, hhead]
    · rw [hcmd, storeDesc_cmd, if_pos rfl]
  | some o =>
    refine ⟨hseq, fun j hj => ?_, ?_, nofun, fun o' ho => ?_⟩
    · rw [complete_cmd_ne _ _ _ hj, hcmd, storeDesc_cmd, if_neg hj]
    · exact (congrArg Queue.head hqueue).trans hhead
    · obtain rfl := Option.some.inj ho
      rw [complete_cmd, if_pos rfl, hcmd, storeDesc_cmd, if_pos rfl]

/-- One descriptor read while a slot is free and its chain may open is taken (R466, R473). -/
theorem takeAll_some {q : Nat} {d : Desc} {s : State} (hne : (s.queue q).head ≠ (s.queue q).tail)
    (hslot : s.slotFree (q / 64) = true) (hopen : s.opensTooMany q d = false) :
    takeAll q [some d] 8 s = takeDesc q d (modQueue q (fun x => { x with chainStop := false }) s) := by
  simp [takeAll, hne, hslot, hopen]

theorem takeAll_none (q : Nat) (s : State) :
    takeAll q [none] 8 s = hqmError q 2 true (modQueue q (fun x => { x with fetchErr := true, halted := true }) s) := rfl

theorem hqmError_cmds (q : Nat) (kind : BitVec 3) (irq : Bool) (s : State) :
    (hqmError q kind irq s).hqm.cmds = s.hqm.cmds := (signalled_cmds (signalled_hqmError q kind irq s)).trans rfl

/-! ## The delay list -/

theorem foldl_wait_cmd (ks : List Nat) (s : State) (j : Nat) :
    (ks.foldl (fun t k => modCmd k (fun c => { c with ph := .waiting }) t) s).cmd j =
      if j ∈ ks then { s.cmd j with ph := .waiting } else s.cmd j := by
  induction ks generalizing s with
  | nil => rfl
  | cons k ks ih =>
    rw [List.foldl_cons, ih, modCmd_cmd]
    by_cases hj : j = k
    · subst hj; simp
    · simp [hj]

/-! ## Dispatch -/

/-- A ready command dispatched: its slot, the ready list and the counts, before events are counted (R469). -/
def dispatchCmd (k : Nat) (rest : List Nat) (s : State) : State :=
  modCmd k (fun c => { c with ph := .dispatched, dspan := s.time.span, dord := s.hqm.dispNo + 1 })
    (modHqm (fun h => { h with readyQ := rest, dispatched := h.dispatched + 1, dispNo := h.dispNo + 1 }) s)

/-- The device wakes from Standby for a wake-class command (R52). -/
def wakeFor (op : Nat) (st : DevState) (s : State) : State :=
  if decide (st = .standby) && wakeClass op then modSys (fun y => { y with waking := true }) s else s

theorem exec_commandDispatch {s : State} {k : Nat} {rest : List Nat} (hr : s.hqm.readyQ = k :: rest) :
    exec .commandDispatch s =
      if s.fetching && decide (s.hqm.dispatched < 128) && !s.cancelDue k then
        .next (promote (wakeFor (descOp (s.cmd k).desc) s.sys.state
          (perfEvent 0x039 ((s.cmd k).sq / 64) 1 (dispatchCmd k rest s))))
      else .next s := by
  show execCommandDispatch s = _
  simp only [execCommandDispatch, hr]
  rfl

theorem wakeFor_waking (op : Nat) (st : DevState) (s : State) :
    (wakeFor op st s).sys.waking = (s.sys.waking || decide (st = .standby) && wakeClass op) := by
  unfold wakeFor
  split <;> simp_all

theorem wakeFor_hqm (op : Nat) (st : DevState) (s : State) : (wakeFor op st s).hqm = s.hqm := by
  unfold wakeFor; split <;> rfl

/-! ## Completions posted and spilled -/

/-- The ring and the queue with an entry posted, before events are counted and the host is signalled (R450). -/
def placeEntry (q : Nat) (entry : BitVec 128) (spilled : Bool) (s : State) : State :=
  modQueue q (fun y => { y with
      tail := (y.tail + 1) % y.size
      phase := if (s.queue q).tail + 1 == (s.queue q).size then !y.phase else y.phase
      posted := satAdd (2 ^ 32 - 1) y.posted 1, unsig := (s.queue q).unsig + 1
      unsigSpan := if y.unsig == 0 then s.time.span else y.unsigSpan })
    (hostStore ((s.queue q).base.toNat + 16 * (s.queue q).tail)
      (leBytes 16 (setBit (setBit entry 120 (s.queue q).phase) 122 spilled).toNat) s)

theorem signalled_signalQueue (q : Nat) (s : State) :
    signalled (modQueue q (fun x => { x with unsig := 0 }) s) (signalQueue q s) := signalled_sendMsix ..

/-- Past its place an entry changes nothing but what is signalled and counted. -/
theorem postEntry_placed (q : Nat) (entry : BitVec 128) (spilled irqNow : Bool) (s : State) :
    ∃ u, (u = placeEntry q entry spilled s ∨
        u = modQueue q (fun x => { x with unsig := 0 }) (perfEvent 0x03A (q / 64) 1 (placeEntry q entry spilled s))) ∧
      signalled u (postEntry q entry spilled irqNow s) := by
  unfold postEntry
  dsimp only
  split
  · exact ⟨_, .inr rfl, signalled_signalQueue ..⟩
  · exact ⟨_, .inl rfl, signalled_perfEvent ..⟩

/-- A posted entry stands at the tail of its ring with the phase of the queue, and the queue moves on (R450). -/
structure PostedAt (q : Nat) (e : BitVec 128) (flag : Bool) (s u : State) : Prop where
  entry : wrote ((s.queue q).base.toNat + 16 * (s.queue q).tail)
    (leBytes 16 (setBit (setBit e 120 (s.queue q).phase) 122 flag).toNat) s.host u.host
  tail : (u.queue q).tail = ((s.queue q).tail + 1) % (s.queue q).size
  posted : (u.queue q).posted = min (2 ^ 32 - 1) ((s.queue q).posted + 1)
  phase : (u.queue q).phase = if (s.queue q).tail + 1 = (s.queue q).size then !(s.queue q).phase else (s.queue q).phase

theorem postedAt_placeEntry (q : Nat) (e : BitVec 128) (flag : Bool) (s : State) :
    PostedAt q e flag s (placeEntry q e flag s) := by
  have hq : (placeEntry q e flag s).queue q = _ := modQueue_queue_self q _ _
  refine ⟨wrote_store .., ?_, ?_, ?_⟩ <;> rw [hq]
  · rfl
  · rfl
  · simp only [beq_iff_eq]; rfl

theorem placeEntry_spill (q : Nat) (e : BitVec 128) (flag : Bool) (s : State) :
    (placeEntry q e flag s).hqm.spill = s.hqm.spill := rfl

theorem PostedAt.of_signalled {q : Nat} {e : BitVec 128} {flag : Bool} {s u v : State} (h : PostedAt q e flag s u)
    (k : signalled u v) : PostedAt q e flag s v :=
  ⟨(signalled_host k).symm ▸ h.entry, (signalled_queue k q).symm ▸ h.tail, (signalled_queue k q).symm ▸ h.posted,
    (signalled_queue k q).symm ▸ h.phase⟩

theorem PostedAt.of_unsig {q : Nat} {e : BitVec 128} {flag : Bool} {s u : State} (h : PostedAt q e flag s u) :
    PostedAt q e flag s (modQueue q (fun x => { x with unsig := 0 }) u) := by
  obtain ⟨hentry, htail, hposted, hphase⟩ := h
  exact ⟨hentry, by simpa using htail, by simpa using hposted, by simpa using hphase⟩

theorem postedAt_postEntry (q : Nat) (e : BitVec 128) (flag irqNow : Bool) (s : State) :
    PostedAt q e flag s (postEntry q e flag irqNow s) ∧ (postEntry q e flag irqNow s).hqm.spill = s.hqm.spill := by
  obtain ⟨u, rfl | rfl, hsig⟩ := postEntry_placed q e flag irqNow s
  · exact ⟨(postedAt_placeEntry q e flag s).of_signalled hsig,
      (signalled_spill hsig).trans (placeEntry_spill ..)⟩
  · have hev := signalled_perfEvent 0x03A (q / 64) 1 (placeEntry q e flag s)
    exact ⟨((postedAt_placeEntry q e flag s).of_signalled hev).of_unsig.of_signalled hsig,
      (signalled_spill hsig).trans ((signalled_spill hev).trans (placeEntry_spill ..))⟩

@[simp] theorem freeCmd_cmd_self (k : Nat) (s : State) : (freeCmd k s).cmd k = {} := by
  rw [State.cmd, freeCmd, modHqm_hqm, SMap.get_set_eq]

theorem PostedAt.of_freeCmd {q : Nat} {e : BitVec 128} {flag : Bool} {s u : State} (k : Nat)
    (h : PostedAt q e flag s u) : PostedAt q e flag s (freeCmd k u) := ⟨h.entry, h.tail, h.posted, h.phase⟩

theorem signalled_perfEvent_raise (c : Prop) [Decidable c] (b code unit : Nat) (s : State) :
    signalled s (if c then raiseIrq b (perfEvent code unit 1 s) else perfEvent code unit 1 s) := by
  split
  · exact signalled_trans (signalled_perfEvent ..) (signalled_raiseIrq ..)
  · exact signalled_perfEvent ..

/-- A spilled completion is the youngest entry of the ring, and host memory stays as it is (R477). -/
theorem spillEntry_spills (q : Nat) (e : BitVec 128) (irqNow : Bool) (s : State) :
    (spillEntry q e irqNow s).hqm.spill = s.hqm.spill ++ [{ cq := q, entry := e, irqNow := irqNow }] ∧
    (spillEntry q e irqNow s).host = s.host ∧ (spillEntry q e irqNow s).hqm.spillWr = s.hqm.spillWr + 1 := by
  unfold spillEntry
  dsimp only
  obtain ⟨_, _, _, _, h⟩ := signalled_perfEvent_raise ((s.hqm.spill.length + 1 == 2095104) = true) 18 0x03B (q / 64)
    (queueBe { kind := .spill, dram := s.hqm.spillBase.toNat * 2 ^ 26 + 32 * (s.hqm.spillWr % 2097152), len := 32,
               data := leBytes 16 e.toNat ++ leBytes 16 q }
      (modHqm (fun h => { h with
        spill := h.spill ++ [{ cq := q, entry := e, irqNow := irqNow }], spillWr := h.spillWr + 1,
        spillEvent := h.spillEvent || s.hqm.spill.length == 0, highWater := max h.highWater (s.hqm.spill.length + 1) }) s))
  rw [h]
  exact ⟨rfl, rfl, rfl⟩

section Release
variable {k : CmdSlot} {s : State} (hrel : s.releasable k.val = true)
include hrel

/-- A completed command goes to the host ring while that has room and no entry of its queue is spilled (R472, R477). -/
theorem exec_completionRelease_posts (hfull : (s.queue (s.cqOf (s.cmd k.val).sq)).full = false)
    (hnone : s.spilled (s.cqOf (s.cmd k.val).sq) = 0) :
    exec (.completionRelease k) s = .next (promote (freeCmd k.val (postEntry (s.cqOf (s.cmd k.val).sq)
      (entryOf (s.cmd k.val)) false (descIrqNow (s.cmd k.val).desc) s))) := by
  show execCompletionRelease k s = _
  simp [execCompletionRelease, hrel, hfull, hnone]

/-- Else it goes to the spill ring (R477). -/
theorem exec_completionRelease_spills (hto : (s.queue (s.cqOf (s.cmd k.val).sq)).full = true ∨
    0 < s.spilled (s.cqOf (s.cmd k.val).sq)) (hen : s.hqm.spillEn = true) :
    exec (.completionRelease k) s = .next (promote (freeCmd k.val (spillEntry (s.cqOf (s.cmd k.val).sq)
      (entryOf (s.cmd k.val)) (descIrqNow (s.cmd k.val).desc) s))) := by
  show execCompletionRelease k s = _
  simp [execCompletionRelease, hrel, hto, hen]

theorem exec_postedCreditTimeout (hen : s.hqm.spillEn = true) :
    exec (.postedCreditTimeout k) s = .next (promote (freeCmd k.val (spillEntry (s.cqOf (s.cmd k.val).sq)
      (entryOf (s.cmd k.val)) (descIrqNow (s.cmd k.val).desc) s))) := by
  show execPostedCreditTimeout k s = _
  simp [execPostedCreditTimeout, hrel, hen]

end Release

/-- With the ring disabled it waits in the command store. -/
theorem exec_completionRelease_waits {k : CmdSlot} {s : State}
    (hto : (s.queue (s.cqOf (s.cmd k.val).sq)).full = true ∨ 0 < s.spilled (s.cqOf (s.cmd k.val).sq))
    (hoff : s.hqm.spillEn = false) : exec (.completionRelease k) s = .next s := by
  show execCompletionRelease k s = _
  simp only [execCompletionRelease, hoff]
  rcases hto with h | h <;> simp [h]

theorem takeFirst_append {α : Type} (p : α → Bool) {l rest : List α} {e : α} (hl : ∀ x ∈ l, p x = false)
    (he : p e = true) : takeFirst p (l ++ e :: rest) = some (e, l ++ rest) := by
  induction l with
  | nil => simp [takeFirst, he]
  | cons x l ih =>
    have hx : p x = false := hl x (List.mem_cons_self ..)
    simp [takeFirst, hx, ih fun y hy => hl y (List.mem_cons_of_mem _ hy)]

theorem exec_spillMove {q : QueueId} {s : State} {e : SpillEnt} {rest : List SpillEnt}
    (hfull : (s.queue q.val).full = false) (ht : takeFirst (fun e => e.cq == q.val) s.hqm.spill = some (e, rest)) :
    exec (.spillMove q) s =
      .next (postEntry q.val e.entry true e.irqNow (modHqm (fun h => { h with spill := rest }) s)) := by
  show execSpillMove q s = _
  simp [execSpillMove, hfull, ht]

/-! ## Messages -/

/-- The message of an open entry goes out, whatever the counters that it moves raise. -/
theorem msix_mem_sendMsix {v : Nat} {s : State} (h : (s.hqm.msix.get v).masked = false) :
    Out.msix v ∈ (sendMsix v s).out := by
  have hput (w : Nat) (t : State) (ht : Out.msix v ∈ t.out) : Out.msix v ∈ (putMsix w t).out := by
    unfold putMsix
    split
    · exact ht
    · exact List.mem_cons_of_mem _ ht
  have h1 : Out.msix v ∈ (putMsix v s).out := by simp [putMsix, h, emit]
  unfold sendMsix
  dsimp only
  rw [if_neg (by simp [h])]
  split
  · split
    · split
      · exact hput _ _ h1
      · exact hput _ _ h1
    · exact h1
  · exact h1

/-- That of a masked entry stands as its pending bit (PCIe MSI-X rules). -/
theorem sendMsix_of_masked {v : Nat} {s : State} (h : (s.hqm.msix.get v).masked = true) :
    ((sendMsix v s).hqm.msix.get v).pending = true ∧ (sendMsix v s).out = s.out := by
  have hsend : sendMsix v s = putMsix v s := by simp [sendMsix, h]
  rw [hsend]
  simp [putMsix, h]

theorem exec_msixModerationTimeout {q : QueueId} {s : State} (h0 : 0 < (s.queue q.val).unsig)
    (h1 : (s.queue q.val).unsigSpan < s.time.span)
    (h2 : (s.queue q.val).unsigSpan + (s.queue q.val).modSpans ≤ s.time.span) :
    exec (.msixModerationTimeout q) s = .next (signalQueue q.val s) := by
  show execMsixModerationTimeout q s = _
  simp [execMsixModerationTimeout, h0, h1, h2]

/-- Settles O55: by what each row of a command's way answers. -/
theorem commandsFlow : Obligations.CommandsFlow := by
  unfold Obligations.CommandsFlow
  intro s entered spilled posted
  refine ⟨fun q hf hq => ⟨fun d hne hopen => ?taken, ?read_error⟩, ?delayed, fun k rest hr hf hc => ?dispatch,
    fun k => ?release, fun q => ⟨fun l e rest hfull hspill he hl => ?moved, fun h0 h1 h2 => ?signal⟩⟩
  case taken =>
    have htake : takeAll q [some d] 8 (fetchFrom q s) = _ :=
      takeAll_some hne (show s.slotFree (q / 64) = true from slotFree_of_nextFetch hq) hopen
    obtain ⟨hseq, hother, hhead, hgood, hbad⟩ :=
      takeDesc_takes q d (modQueue q (fun x => { x with chainStop := false }) (fetchFrom q s))
    refine ⟨_, exec_descriptorFetch [some d] hf hq, ?_⟩
    rw [htake]
    refine ⟨hseq, hother, hhead.trans ?_, hgood, fun o ho => ?_⟩
    · rw [modQueue_queue_self]; rfl
    · have hslot := hbad o ho
      exact ⟨congrArg Cmd.ph hslot, congrArg Cmd.status hslot, congrArg Cmd.result hslot, congrArg Cmd.desc hslot⟩
  case read_error =>
    refine ⟨_, exec_descriptorFetch [none] hf hq, ?_⟩
    rw [takeAll_none, hqmError_queue, modQueue_queue_self]
    exact ⟨hqmError_cmds .., rfl, rfl, bit_hqmError_irqStatus ..⟩
  case delayed =>
    refine ⟨_, rfl, fun k hk => ?_, fun k hk => ?_⟩
    · rw [foldl_wait_cmd, if_pos hk]
    · rw [foldl_wait_cmd, if_neg hk]
  case dispatch =>
    refine ⟨fun hlt => ⟨_, by rw [exec_commandDispatch hr, if_pos (by simp [hf, hc, hlt])], ?_⟩, fun hge => ?_⟩
    · have hsig := signalled_perfEvent 0x039 ((s.cmd k).sq / 64) 1 (dispatchCmd k rest s)
      have hcmd (j : Nat) : State.cmd (wakeFor (descOp (s.cmd k).desc) s.sys.state
          (perfEvent 0x039 ((s.cmd k).sq / 64) 1 (dispatchCmd k rest s))) j = (dispatchCmd k rest s).cmd j := by
        rw [State.cmd, wakeFor_hqm]
        exact signalled_cmd hsig j
      obtain ⟨_, _, _, _, hsig⟩ := hsig
      refine ⟨?_, fun j hj => ?_, ?_, ?_, ?_, ?_⟩
      · rw [hcmd]; exact modCmd_cmd_self ..
      · rw [hcmd]; exact modCmd_cmd_ne _ _ _ _ hj
      · rw [wakeFor_hqm, hsig]; rfl
      · rw [wakeFor_hqm, hsig]; rfl
      · rw [wakeFor_hqm, hsig]; rfl
      · rw [wakeFor_waking, hsig]; rfl
    · rw [exec_commandDispatch hr, if_neg (by simp [hge])]
  case release =>
    intro q hrel
    have hspilled : spilled q k.val (freeCmd k.val (spillEntry q (entryOf (s.cmd k.val))
        (descIrqNow (s.cmd k.val).desc) s)) := by
      obtain ⟨hring, hhost, hwr⟩ := spillEntry_spills q (entryOf (s.cmd k.val)) (descIrqNow (s.cmd k.val).desc) s
      exact ⟨hring, hhost, freeCmd_cmd_self .., hwr⟩
    refine ⟨fun hfull hnone => ?_, fun hto hen => ?_, fun hto hoff => ?_, fun hen => ?_⟩
    · obtain ⟨hpost, hring⟩ :=
        postedAt_postEntry q (entryOf (s.cmd k.val)) false (descIrqNow (s.cmd k.val).desc) s
      obtain ⟨hentry, htail, hposted, hphase⟩ := hpost.of_freeCmd k.val
      exact ⟨_, exec_completionRelease_posts hrel hfull hnone, freeCmd_cmd_self .., ⟨hentry, htail, hposted, hphase⟩, hring⟩
    · exact ⟨_, exec_completionRelease_spills hrel hto hen, hspilled⟩
    · exact exec_completionRelease_waits hto hoff
    · exact ⟨_, exec_postedCreditTimeout hrel hen, hspilled⟩
  case moved =>
    have ht : takeFirst (fun e => e.cq == q.val) s.hqm.spill = some (e, l ++ rest) := by
      rw [hspill]
      exact takeFirst_append _ (by simpa using hl) (by simpa using he)
    obtain ⟨⟨hentry, htail, hposted, hphase⟩, hring⟩ :=
      postedAt_postEntry q.val e.entry true e.irqNow (modHqm (fun h => { h with spill := l ++ rest }) s)
    exact ⟨_, exec_spillMove hfull ht, hring, hentry, htail, hposted, hphase⟩
  case signal =>
    refine ⟨_, exec_msixModerationTimeout h0 h1 h2, ?_, fun h => ?_, fun h => ?_⟩
    · rw [signalled_queue (signalled_signalQueue q.val s), modQueue_queue_self]
    · exact msix_mem_sendMsix h
    · exact sendMsix_of_masked h

end Sys2Proof.Machine

/-!
The issue side of a site sequencer: where execution goes on, and what each instruction of Table 2.5 leaves as it issues.
-/

namespace Sys2Proof.Machine

/-! ## Where execution goes on -/

/-- The places at which R98 finds no next address: the end of a region, and the last instruction of an overlay. -/
theorem fallsOff_iff (x : Site) : x.fallsOff = true ↔
    x.pc ∈ [0x3FF, 0x5FF, 0x7FF] ∨ (0x400 ≤ x.pc ∧ x.pc < 0x600 ∧ x.pc + 1 = 0x400 + x.ovlCount x.ovl) ∨
      (0x600 ≤ x.pc ∧ x.pc + 1 = 0x600 + x.ovlCount x.ovl) := by
  unfold Site.fallsOff winOf
  by_cases hb : x.pc < 0x400
  · simp [hb]; omega
  · by_cases hw : x.pc < 0x600 <;> simp [hb, hw] <;> omega

theorem winOf_base {a : Nat} (h : a < 0x400) : winOf a = none := if_pos h

theorem winOf_window {a : Nat} (h : 0x400 ≤ a) : winOf a = some (if a < 0x600 then 0 else 1) := by
  unfold winOf
  rw [if_neg (by omega)]
  split <;> rfl

theorem tagOk_base {a : Nat} (x : Site) (ovl : Nat) (h : a < 0x400) : x.tagOk a ovl = true := by
  simp [Site.tagOk, winOf_base h]

theorem tag_window (x : Site) (a : Nat) :
    x.tag (if a < 0x600 then 0 else 1) = if a < 0x600 then x.win0 else x.win1 := by
  unfold Site.tag
  split <;> rfl

theorem tagOk_window {a : Nat} (x : Site) (ovl : Nat) (h : 0x400 ≤ a) :
    x.tagOk a ovl = ((if a < 0x600 then x.win0 else x.win1) == ovl) := by
  simp only [Site.tagOk, winOf_window h, tag_window]

theorem transfer_base {a : Nat} (x : Site) (ovl : Nat) (h : a < 0x400) : x.transfer a ovl = x.goto a 0 := by
  simp [Site.transfer, tagOk_base x ovl h, winOf_base h]

theorem transfer_window {a : Nat} (x : Site) (ovl : Nat) (h : 0x400 ≤ a) :
    x.transfer a ovl = if (if a < 0x600 then x.win0 else x.win1) == ovl then x.goto a ovl
      else endIssue (tagEnd a ovl (if a < 0x600 then x.win0 else x.win1)) x := by
  simp only [Site.transfer, tagOk_window x ovl h, winOf_window h, Option.isSome_some, if_true, Option.getD_some,
    tag_window]

theorem returnTo_window {a : Nat} (x : Site) (ovl : Nat) (h : 0x400 ≤ a) :
    x.returnTo a ovl = if (if a < 0x600 then x.win0 else x.win1) == ovl then x.goto a ovl
      else abortAt rClobbered x := by
  simp only [Site.returnTo, tagOk_window x ovl h]

/-- Settles O15: the next address by `fallsOff_iff`, targets and returns by the region that the address lies in. -/
theorem executionGoesOn : Obligations.ExecutionGoesOn := by
  intro x a ovl
  refine ⟨fun h => ?_, fun h => ?_, fun h => ⟨?_, ?_⟩, fun h => ?_⟩
  · rw [Site.next, if_pos ((fallsOff_iff x).mpr h)]
    rfl
  · rw [Site.next, if_neg (mt (fallsOff_iff x).mp h)]
  · exact transfer_base x ovl h
  · simp [Site.returnTo, Site.goto, tagOk_base x ovl h]
  · intro tag
    rw [transfer_window x ovl h, returnTo_window x ovl h]
    refine ⟨fun e => ?_, fun e => ?_⟩
    · rw [if_pos (beq_iff_eq.mpr e), if_pos (beq_iff_eq.mpr e)]
      exact ⟨rfl, rfl⟩
    · rw [if_neg (mt beq_iff_eq.mp e), if_neg (mt beq_iff_eq.mp e)]
      exact ⟨rfl, rfl⟩

/-! ## How an instruction issues -/

theorem onlySite_modSite (n : Nat) (f : Site → Site) (s : State) : onlySite n s (modSite n f s) :=
  fun _ h => modSite_site_ne n _ f s h

theorem signalled_issueEvents (n op : Nat) (folded : Bool) (s : State) : signalled s (issueEvents n op folded s) := by
  have h1 : signalled s (if op = 0x01 || op = 0x0A then perfEvent 0x010 n 1 s else s) := by
    split
    · exact signalled_perfEvent ..
    · exact signalled_refl s
  unfold issueEvents
  dsimp only
  split
  · exact signalled_trans h1 (signalled_perfEvent ..)
  · exact h1

/-- An instruction that changes only its sequencer, but for event counters, issues as `issuesAs` says. -/
theorem issuesAs_of_modSite {n : Nat} {f : Site → Site} {s u : State} (h : signalled (modSite n f s) u) :
    issuesAs n (f (s.site n)) s (.next (settle n u)) := by
  have hsites : u.sites = (modSite n f s).sites := signalled_sites h
  have hsite : ∀ j, u.site j = (modSite n f s).site j := fun j => by unfold State.site; rw [hsites]
  refine ⟨u, rfl, ?_, fun j hj => ?_, ?_⟩
  · rw [hsite, modSite_site_self]
  · rw [hsite, modSite_site_ne _ _ _ _ hj]
  · rw [hsites]
    exact h

/-- The row of an instruction, where the site can issue it. -/
theorem issuesAs_issueRow {n op : Nat} {s : State} (f : Site → Site) (h : canIssue n op s) :
    issuesAs n (f (issueBase n s)) s (issueRow n op f s) := by
  obtain ⟨hi, hm, ho, hr⟩ := h
  have hroom : ((s.site n).room || (op != 0x01 && op != 0x0A)) = true := by
    by_cases hop : op = 0x01 ∨ op = 0x0A
    · simp [hr hop]
    · obtain ⟨h1, h2⟩ := not_or.mp hop
      simp [h1, h2]
  unfold issueRow
  dsimp only
  rw [if_pos (by simp [hi, hm, ho, hroom])]
  exact issuesAs_of_modSite (signalled_issueEvents ..)

/-! ## The instructions of flow control -/

theorem issueEndloop_nil {x : Site} (h : x.loops = []) : issueEndloop x = abortAt rLoopUnder x := by
  simp only [issueEndloop, h]

theorem issueEndloop_cons {x : Site} {e : LoopEnt} {rest : List LoopEnt} (h : x.loops = e :: rest) :
    issueEndloop x = if e.depth ≠ x.calls.length then abortAt rLoopUnbal x
      else if e.count = 1 then { x with loops := rest }.next
      else { x with loops := { e with count := e.count - 1 } :: rest }.returnTo e.addr e.ovl := by
  unfold issueEndloop
  rw [h]
  rfl

theorem issueRet_nil {x : Site} (h : x.calls = []) : issueRet x = abortAt rCallUnder x := by
  simp only [issueRet, h]

theorem issueRet_cons {x : Site} {e : CallEnt} {rest : List CallEnt} (h : x.calls = e :: rest) :
    issueRet x = if x.loops.any fun l => l.depth == x.calls.length then abortAt rLoopUnbal x
      else { x with calls := rest }.returnTo e.addr (if (winOf e.addr).isSome then e.ovl else 0) := by
  simp only [issueRet, h, Site.depth]

theorem winOf_isSome (a : Nat) : (winOf a).isSome = true ↔ 0x400 ≤ a := by
  unfold winOf
  split
  · simp; omega
  · split <;> simp <;> omega

/-- Settles O16: each row issues as `issuesAs_issueRow` says; ENDLOOP and RET by what tops their stacks. -/
theorem flowInstructionsIssue : Obligations.FlowInstructionsIssue := by
  intro n s x w
  refine ⟨fun h => issuesAs_issueRow issueVec h, fun h => issuesAs_issueRow issueLoop h, fun h => ?_,
    fun h => issuesAs_issueRow issueCall h, fun h => ?_, fun h => issuesAs_issueRow issueJump h⟩
  · have hrow : issuesAs n.val (issueEndloop x) s (exec (.endloop n) s) := issuesAs_issueRow issueEndloop h
    refine ⟨fun he => issueEndloop_nil he ▸ hrow, fun e rest he => ?_⟩
    rw [issueEndloop_cons he] at hrow
    refine ⟨fun hd => ?_, fun hd hc => ?_, fun hd hc => ?_⟩
    · rwa [if_pos hd] at hrow
    · rwa [if_neg (not_not.mpr hd), if_pos hc] at hrow
    · rwa [if_neg (not_not.mpr hd), if_neg hc] at hrow
  · have hrow : issuesAs n.val (issueRet x) s (exec (.ret n) s) := issuesAs_issueRow issueRet h
    refine ⟨fun he => issueRet_nil he ▸ hrow, fun e rest he => ?_⟩
    rw [issueRet_cons he] at hrow
    refine ⟨fun ⟨l, hl, hd⟩ => ?_, fun hd => ?_⟩
    · have hany : (x.loops.any fun l => l.depth == x.calls.length) = true :=
        List.any_eq_true.mpr ⟨l, hl, beq_iff_eq.mpr hd⟩
      rwa [if_pos hany] at hrow
    · rw [if_neg (by simpa using hd)] at hrow
      simpa only [winOf_isSome] using hrow

/-! ## The instructions that act at the pins -/

/-- Settles O17: each row issues as `issuesAs_issueRow` says; an unlisted opcode changes its sequencer alone. -/
theorem pinInstructionsIssue : Obligations.PinInstructionsIssue := by
  intro n s x w put
  refine ⟨fun h => issuesAs_issueRow issueMatch h, fun h => issuesAs_issueRow issueWait h,
    fun h => issuesAs_issueRow issueSignal h, fun h => issuesAs_issueRow issueSync h,
    fun h => issuesAs_issueRow issueSetTs h, fun h => issuesAs_issueRow issueMark h,
    fun h => issuesAs_issueRow issuePark h, fun h => issuesAs_issueRow issueHalt h, fun hi hm hw => ?_⟩
  have hrow : exec (.illegalOpcode n) s = .next (settle n.val (modSite n.val (fun y =>
      issueIllegal (markStall (s.planOf n.val) n.val { y with foldable := false })) s)) :=
    if_pos (by simp [hi, hm, hw])
  rw [hrow]
  exact issuesAs_of_modSite (f := fun y => issueIllegal (markStall (s.planOf n.val) n.val { y with foldable := false }))
    (signalled_refl _)

end Sys2Proof.Machine

/-!
The timing generator of a site: what acts at the boundary that it has reached, how its runs begin and read their
bundles, and what a vector, a stall point and a stop leave of it.
-/

namespace Sys2Proof.Machine

/-! ## Sites across an operation -/

theorem site_of_sites {s t : State} (h : t.sites = s.sites) (j : Nat) : t.site j = s.site j := by
  unfold State.site
  rw [h]

theorem Kept.site {m : List Part} {s t : State} (h : Kept m s t) (hm : Part.sites ∉ m) (j : Nat) :
    t.site j = s.site j :=
  site_of_sites (h.same .sites hm) j

theorem onlySite_refl (n : Nat) (s : State) : onlySite n s s := fun _ _ => rfl

theorem onlySite.trans {n : Nat} {s t u : State} (h : onlySite n s t) (k : onlySite n t u) : onlySite n s u :=
  fun j hj => (k j hj).trans (h j hj)

theorem onlySite.modSite {n : Nat} {s t : State} (f : Site → Site) (h : onlySite n s t) :
    onlySite n s (modSite n f t) :=
  h.trans (onlySite_modSite n f t)

theorem onlySite.sites {n : Nat} {s t u : State} (h : onlySite n s t) (k : u.sites = t.sites) : onlySite n s u :=
  fun j hj => (site_of_sites k j).trans (h j hj)

theorem site_of_sites_mod {n : Nat} {f : Site → Site} {s t : State} (h : t.sites = (modSite n f s).sites) :
    t.site n = f (s.site n) :=
  (site_of_sites h n).trans (modSite_site_self ..)

theorem onlySite_of_sites_mod {n : Nat} {f : Site → Site} {s t : State} (h : t.sites = (modSite n f s).sites) :
    onlySite n s t :=
  fun j hj => (site_of_sites h j).trans (modSite_site_ne n j f s hj)

theorem parkPins_sites (n : Nat) (t : Int) (s : State) : (parkPins n t s).sites = s.sites :=
  (kept_parkPins n t (List.Subset.refl _) (Kept.refl _ s)).same .sites (by decide)

theorem perfEvent_sites (c u o : Nat) (s : State) : (perfEvent c u o s).sites = s.sites :=
  signalled_sites (signalled_perfEvent c u o s)

/-! ## The end of a run, seen from another state -/

/-- The end of a run is the same seen from a state whose site differs in none of what `ranOut` speaks of. -/
theorem ranOut_from {n : Nat} {e : EndInfo} {s s' t : State} (hs : onlySite n s s')
    (hr : (s'.site n).running = (s.site n).running) (hc : (s'.site n).cmd = (s.site n).cmd)
    (hv : (s'.site n).vcount = (s.site n).vcount) (hl : (s'.site n).lastReason = (s.site n).lastReason)
    (h : ranOut n e s' t) : ranOut n e s t := by
  obtain ⟨h1, h2, h3, h4, h5, h6, h7, h8, h9, h10⟩ := h
  exact ⟨h1, h2, h3, h4, h5, h6.trans hr, h7.trans hc, h8.trans hv, by rw [h9, hl],
    fun j hj => by rw [← hs j hj]; exact h10 j hj⟩

theorem ranOut_to {n : Nat} {e : EndInfo} {s t t' : State} (hs : t'.sites = t.sites) (h : ranOut n e s t) :
    ranOut n e s t' := by
  obtain ⟨h1, h2, h3, h4, h5, h6, h7, h8, h9, h10⟩ := h
  rw [ranOut, site_of_sites hs n]
  exact ⟨h1, h2, h3, h4, h5, h6, h7, h8, h9, fun j hj => by rw [site_of_sites hs]; exact h10 j hj⟩

/-- A run ended behind an operation that leaves every site alone. -/
theorem ranOut_endRun_of_sites {n : Nat} {s s' : State} (e : EndInfo) (stopped : Bool) (t addr ovl : Nat)
    (hs : s'.sites = s.sites) : ranOut n e s (endRun n e stopped t addr ovl s') :=
  ranOut_from (fun j _ => site_of_sites hs j) (by rw [site_of_sites hs]) (by rw [site_of_sites hs])
    (by rw [site_of_sites hs]) (by rw [site_of_sites hs]) (ranOut_endRun n e stopped t addr ovl)

/-! ## Settling -/

theorem settle_of_none {n : Nat} {s : State} (h : settleOne n s = none) : settle n s = s := by
  rw [settle, settleN, h]

theorem settleOne_of_not_run {n : Nat} {s : State} (h : (s.site n).play ≠ .run) : settleOne n s = none := by
  simp only [settleOne, if_pos h]

theorem settleN_of_not_run {n : Nat} {s : State} (f : Nat) (h : (s.site n).play ≠ .run) : settleN n f s = s := by
  cases f with
  | zero => rfl
  | succ f => rw [settleN, settleOne_of_not_run h]

/-- The item at the boundary acts, and the site no longer goes on: nothing else acts. -/
theorem settle_stops {n : Nat} {s t : State} (h : settleOne n s = some t) (ht : (t.site n).play ≠ .run) :
    settle n s = t := by
  rw [settle, settleN, h]
  exact settleN_of_not_run _ ht

/-- The item at the boundary acts, and what stands behind it comes next. -/
theorem settle_goesOn {n : Nat} {s t : State} {i : QItem} {rest : List QItem} (h : settleOne n s = some t)
    (hs : (s.site n).q = i :: rest) (ht : (t.site n).q = rest) : settle n s = settle n t := by
  rw [settle, settleN, h, hs, settle, ht]
  rfl

theorem popQ_site (n : Nat) (s : State) : (popQ n s).site n = { s.site n with q := (s.site n).q.drop 1 } :=
  modSite_site_self ..

theorem popQ_site_cons {n : Nat} {s : State} {i : QItem} {rest : List QItem} (h : (s.site n).q = i :: rest) :
    (popQ n s).site n = { s.site n with q := rest } := by
  rw [popQ_site, h]
  rfl

theorem onlySite_popQ (n : Nat) (s : State) : onlySite n s (popQ n s) := onlySite_modSite _ _ _

/-- The run ends at the item that stands at the boundary. -/
theorem ranOut_endRun_popQ (n : Nat) (e : EndInfo) (stopped : Bool) (t addr ovl : Nat) (s : State) :
    ranOut n e s (endRun n e stopped t addr ovl (popQ n s)) := by
  have hp := popQ_site n s
  exact ranOut_from (onlySite_popQ n s) (by rw [hp]) (by rw [hp]) (by rw [hp]) (by rw [hp])
    (ranOut_endRun n e stopped t addr ovl)

/-- What the end of a run leaves stays as it is when the boundary is settled. -/
theorem settle_of_ended {n : Nat} {e : EndInfo} {s t : State} (h : settleOne n s = some t) (hr : ranOut n e s t) :
    ranOut n e s (settle n s) := by
  rw [settle_stops h (by rw [hr.1]; exact fun h => nomatch h)]
  exact hr

/-! ## A timing set put in force -/

theorem disturbSite_sites (n : Nat) (s : State) : (disturbSite n s).sites = s.sites :=
  (kept_disturbSite n (List.Subset.refl _) (Kept.refl _ s)).same .sites (by decide)

theorem newSet_sites {n ts : Nat} {s : State} (h : (s.site n).ts ≠ ts) :
    (newSet n ts s).sites = (modSite n (fun y => { y with ts := ts }) s).sites := by
  unfold newSet
  dsimp only
  rw [if_neg h]
  refine Eq.trans ?_ (disturbSite_sites n _)
  refine (kept_foldl (m := [.pins]) _ _ (fun t c ht => ?_) (Kept.refl _ _)).same .sites (by decide)
  split
  · exact ht
  · exact kept_modPin _ _ (List.Subset.refl _) ht

theorem newSet_site (n ts : Nat) (s : State) : (newSet n ts s).site n = { s.site n with ts := ts } := by
  by_cases h : (s.site n).ts = ts
  · rw [newSet, if_pos h, ← h]
  · rw [site_of_sites (newSet_sites h), modSite_site_self]

theorem onlySite_newSet (n ts : Nat) (s : State) : onlySite n s (newSet n ts s) := by
  by_cases h : (s.site n).ts = ts
  · rw [newSet, if_pos h]
    exact onlySite_refl n s
  · exact (onlySite_modSite n _ s).sites (newSet_sites h)

theorem dropHits_sites (d : MatchDesc) (s : State) : (dropHits d s).sites = s.sites := by
  unfold dropHits
  split <;> rfl

/-! ## The items of a boundary (R99 to R104, R119, R120, R127 to R129) -/

section
variable {n : Nat} {s : State} {rest : List QItem} (hp : (s.site n).play = .run)
include hp

theorem settleOne_setTs {ts : Nat} (hq : (s.site n).q = .setTs ts :: rest) :
    settleOne n s = some (newSet n ts (popQ n s)) := by
  simp [settleOne, hp, hq]

theorem settleOne_matchI_lapsed {addr ovl d a b : Nat} (hq : (s.site n).q = .matchI addr ovl d a b :: rest)
    (hl : (s.site n).leaseLeft = some 0) (hd : s.dueAt n .boundary (s.site n).nextT = none) :
    settleOne n s = some (endRun n (endOf stAborted rLease addr ovl) false (s.site n).nextT addr ovl (popQ n s)) := by
  simp [settleOne, hp, hq, hl, hd]

theorem settleOne_matchI {addr ovl d a b : Nat} (hq : (s.site n).q = .matchI addr ovl d a b :: rest)
    (hl : (s.site n).leaseLeft ≠ some 0 ∨ s.dueAt n .boundary (s.site n).nextT ≠ none) :
    settleOne n s = some (dropHits ((s.site n).matchDesc d) (newSet n ((s.site n).matchDesc d).ts
      (modSite n (fun y => { y with play := .probe d a b addr ovl 1 0 0 false false }) (popQ n s)))) := by
  have h : ¬((s.site n).leaseLeft = some 0 ∧ (s.dueAt n .boundary (s.site n).nextT).isSome = false) := by
    rintro ⟨h1, h2⟩
    rcases hl with h | h
    · exact h h1
    · exact h (by simpa using h2)
  simp only [settleOne, hp, hq, h, ne_eq, not_true_eq_false, if_false]

/-- A WAIT_TRIG as it acts: the latch cleared where it asks for it, then gone on with, or waited for. -/
def waitActs (t addr ovl src timeout line : Nat) (clr : Bool) (y : Site) : Site :=
  let z := if clr then y.clearLatch src t else y
  if z.satisfied src t then { z.clearLatch src t with knownT := t, cueT := (z.latches.get (latchOf src)).t }
  else { z with play := .wait addr ovl src timeout line 0 }

theorem settleOne_wait {addr ovl src timeout line : Nat} {clr : Bool}
    (hq : (s.site n).q = .wait addr ovl src timeout line clr :: rest) : settleOne n s =
      if (s.dueAt n .boundary (s.site n).nextT).isSome then none
      else some (modSite n (waitActs (s.site n).nextT addr ovl src timeout line clr) (popQ n s)) := by
  simp only [settleOne, hp, hq, ne_eq, not_true_eq_false, if_false]
  rfl

theorem settleOne_park {addr ovl dur : Nat} (hq : (s.site n).q = .park addr ovl dur :: rest) : settleOne n s =
      if (s.dueAt n .boundary (s.site n).nextT).isSome then none
      else some (parkPins n (s.site n).nextT (modSite n (fun y =>
        { y with play := .park addr ovl ((s.site n).nextT + dur * cycleGr) }) (popQ n s))) := by
  simp only [settleOne, hp, hq, ne_eq, not_true_eq_false, if_false]

theorem settleOne_halt {addr ovl : Nat} (hq : (s.site n).q = .halt addr ovl :: rest) :
    settleOne n s = some (endRun n { status := stOK } false (s.site n).nextT addr ovl (popQ n s)) := by
  simp [settleOne, hp, hq]

theorem settle_setTs {ts : Nat} (hq : (s.site n).q = .setTs ts :: rest) : ∃ u, settle n s = settle n u ∧
    u.site n = { s.site n with q := rest, ts := ts } ∧ onlySite n s u := by
  have hsite : (newSet n ts (popQ n s)).site n = { s.site n with q := rest, ts := ts } := by
    rw [newSet_site, popQ_site_cons hq]
  exact ⟨_, settle_goesOn (settleOne_setTs hp hq) hq (by rw [hsite]), hsite,
    (onlySite_popQ n s).trans (onlySite_newSet n ts _)⟩

theorem settle_matchI {addr ovl d a b : Nat} (hq : (s.site n).q = .matchI addr ovl d a b :: rest)
    (hl : (s.site n).leaseLeft ≠ some 0 ∨ s.dueAt n .boundary (s.site n).nextT ≠ none) : ∃ u, settle n s = u ∧
      u.site n = { s.site n with q := rest, ts := ((s.site n).matchDesc d).ts,
                                 play := .probe d a b addr ovl 1 0 0 false false } ∧ onlySite n s u := by
  have hone := settleOne_matchI hp hq hl
  generalize hu : dropHits _ _ = u at hone
  have hsites := hu ▸ dropHits_sites _ _
  have hsite : u.site n = { s.site n with q := rest, ts := ((s.site n).matchDesc d).ts,
                                          play := .probe d a b addr ovl 1 0 0 false false } := by
    rw [site_of_sites hsites, newSet_site, modSite_site_self, popQ_site_cons hq]
  exact ⟨u, settle_stops hone (by rw [hsite]; exact fun h => nomatch h), hsite,
    (((onlySite_popQ n s).modSite _).trans (onlySite_newSet n _ _)).sites hsites⟩

theorem settle_park {addr ovl dur : Nat} (hq : (s.site n).q = .park addr ovl dur :: rest)
    (hd : s.dueAt n .boundary (s.site n).nextT = none) : ∃ u, settle n s = u ∧
      u.site n = { s.site n with q := rest, play := .park addr ovl ((s.site n).nextT + dur * 2048) } ∧
      onlySite n s u := by
  have hone := settleOne_park hp hq
  rw [hd] at hone
  have hsite : (parkPins n (s.site n).nextT (modSite n (fun y =>
      { y with play := .park addr ovl ((s.site n).nextT + dur * cycleGr) }) (popQ n s))).site n =
      { s.site n with q := rest, play := .park addr ovl ((s.site n).nextT + dur * 2048) } := by
    rw [site_of_sites (parkPins_sites ..), modSite_site_self, popQ_site_cons hq]
    rfl
  exact ⟨_, settle_stops hone (by rw [hsite]; exact fun h => nomatch h), hsite,
    ((onlySite_popQ n s).modSite _).sites (parkPins_sites ..)⟩

theorem settle_wait {addr ovl src timeout line : Nat} {clr : Bool}
    (hq : (s.site n).q = .wait addr ovl src timeout line clr :: rest)
    (hd : s.dueAt n .boundary (s.site n).nextT = none) :
    let x : Site := { s.site n with q := rest }
    let y := if clr then x.clearLatch src x.nextT else x
    (y.satisfied src x.nextT = true → ∃ u, settle n s = settle n u ∧
      u.site n = { y.clearLatch src x.nextT with knownT := x.nextT, cueT := (y.latches.get (latchOf src)).t } ∧
      onlySite n s u) ∧
    (y.satisfied src x.nextT = false → ∃ u, settle n s = u ∧
      u.site n = { y with play := .wait addr ovl src timeout line 0 } ∧ onlySite n s u) := by
  intro x y
  have hone := settleOne_wait hp hq
  rw [hd] at hone
  have hsite : (modSite n (waitActs (s.site n).nextT addr ovl src timeout line clr) (popQ n s)).site n =
      if y.satisfied src x.nextT then { y.clearLatch src x.nextT with
        knownT := x.nextT, cueT := (y.latches.get (latchOf src)).t }
      else { y with play := .wait addr ovl src timeout line 0 } := by
    rw [modSite_site_self, popQ_site_cons hq]
    rfl
  have hq' : y.q = rest := by
    unfold y
    split <;> rfl
  have honly := (onlySite_popQ n s).modSite (waitActs (s.site n).nextT addr ovl src timeout line clr)
  refine ⟨fun hy => ?_, fun hy => ?_⟩
  · rw [if_pos hy] at hsite
    exact ⟨_, settle_goesOn hone hq (by rw [hsite]; exact hq'), hsite, honly⟩
  · rw [if_neg (by simp [hy])] at hsite
    exact ⟨_, settle_stops hone (by rw [hsite]; exact fun h => nomatch h), hsite, honly⟩

end

/-- Settles O18: item by item, as `settleOne` acts on it. -/
theorem boundaryItemsAct : Obligations.BoundaryItemsAct := by
  intro n s rest hp
  refine ⟨fun ts hq => settle_setTs hp hq, fun addr ovl d a b hq => ⟨settle_matchI hp hq, fun hl hd => ?_⟩,
    fun addr ovl src timeout line clr hq => ⟨fun hd => ?_, settle_wait hp hq⟩,
    fun addr ovl dur hq => ⟨fun hd => ?_, settle_park hp hq⟩, fun addr ovl hq => ?_⟩
  · exact settle_of_ended (settleOne_matchI_lapsed hp hq hl hd) (ranOut_endRun_popQ ..)
  · exact settle_of_none ((settleOne_wait hp hq).trans (if_pos (Option.isSome_iff_ne_none.mpr hd)))
  · exact settle_of_none ((settleOne_park hp hq).trans (if_pos (Option.isSome_iff_ne_none.mpr hd)))
  · exact settle_of_ended (settleOne_halt hp hq) (ranOut_endRun_popQ ..)

/-! ## How a run begins (R94) -/

theorem openNine_sites (n : Nat) (s : State) : (openNine n s).sites = s.sites :=
  (kept_openNine n (List.Subset.refl _) (Kept.refl _ s)).same .sites (by decide)

/-- The state in which a run has begun, before what stands at its first boundary acts. -/
def runBegun (n : Nat) (s : State) : State :=
  hold n (.entry { v := 0, addr := (s.site n).entry % 2048, ovl := (s.site n).entry / 2048, t := (s.site n).nextT } 0x07
    ((s.site n).plan + (s.site n).mode * 8) ((s.planOf n).elim 0 fun p => p.planId.toNat) s.untraceable)
    (openNine n (modSite n (fun y => { y with play := .run }) s))

theorem exec_siteRunBegin {n : SiteId} {s : State} (hp : (s.site n.val).play = .starting)
    (ht : (s.site n.val).nextT / spanGr ≤ s.time.span) :
    exec (.siteRunBegin n) s = .next (settle n.val (runBegun n.val s)) :=
  if_pos ⟨hp, ht⟩

/-- A run that begins changes its site's player and nothing else of the sites but what the log changes. -/
theorem ran_runBegun (n : Nat) (s : State) :
    Ran (modSite n (fun y => { y with play := .run }) s) (runBegun n s) :=
  ran_hold n _ (Ran.ofSites (openNine_sites n _))

/-! ## When a bundle is read, and what its read finds (R175 to R177) -/

theorem nextStart_of_unread {n : Nat} {s : State} {addr ovl line j count played : Nat} {st : Bool} {recs : List Nat}
    {under : Option EndInfo} {rest : List QItem} (hp : (s.site n).play = .run ∨ (s.site n).play = .starting)
    (hq : (s.site n).q = .bundle addr ovl line j count played false st recs under :: rest) :
    s.nextStart n = some (s.site n).nextT := by
  rcases hp with hp | hp <;> simp [State.nextStart, hp, hq, State.startOf]

/-- Where the first vector of a bundle is known early enough, the read begins 64 ns before it and at no other instant. -/
theorem readDue_iff {n b : Nat} {s : State} (hs : s.nextStart n = some b) (hk : (s.site n).knownT + 64 * 4096 ≤ b) :
    s.readDue n = true ↔ s.now + 64 * 4096 = b := by
  simp only [State.readDue, hs, hk, if_true, beq_iff_eq]

/-- The frames of the records of a bundle. -/
theorem mem_frames (a b f : Nat) :
    f ∈ (List.range (b / 4096 - a / 4096 + 1)).map (fun i => a / 4096 + i) ↔
      a / 4096 ≤ f ∧ f ≤ max (a / 4096) (b / 4096) := by
  rw [List.mem_map]
  constructor
  · rintro ⟨i, hi, rfl⟩
    have := List.mem_range.mp hi
    omega
  · rintro ⟨h1, h2⟩
    exact ⟨f - a / 4096, List.mem_range.mpr (by omega), by omega⟩

theorem underrunOf_eq_none {p : Plan} {x : Site} {line j count : Nat} (h : ∀ f, x.recAddr line j / 4096 ≤ f →
    f ≤ max (x.recAddr line j / 4096) ((x.recAddr line (j + count) - 1) / 4096) → p.frameSt f = .valid) :
    underrunOf p x line j count = none := by
  have hf : ((List.range ((x.recAddr line (j + count) - 1) / 4096 - x.recAddr line j / 4096 + 1)).map fun i =>
      x.recAddr line j / 4096 + i).find? (fun f => p.frameSt f != .valid) = none :=
    List.find?_eq_none.mpr fun f hm => by
      obtain ⟨h1, h2⟩ := (mem_frames _ _ f).mp hm
      simp [h f h1 h2]
  unfold underrunOf
  dsimp only
  rw [hf]

theorem underrunOf_eq_some {p : Plan} {x : Site} {line j count : Nat} (h : ∃ f, x.recAddr line j / 4096 ≤ f ∧
    f ≤ max (x.recAddr line j / 4096) ((x.recAddr line (j + count) - 1) / 4096) ∧ p.frameSt f ≠ .valid) :
    ∃ e, underrunOf p x line j count = some e ∧ e.status = stUnderrun := by
  obtain ⟨f, h1, h2, hv⟩ := h
  have hsome : (((List.range ((x.recAddr line (j + count) - 1) / 4096 - x.recAddr line j / 4096 + 1)).map fun i =>
      x.recAddr line j / 4096 + i).find? (fun f => p.frameSt f != .valid)).isSome = true :=
    List.find?_isSome.mpr ⟨f, (mem_frames _ _ f).mpr ⟨h1, h2⟩, by simpa using hv⟩
  obtain ⟨g, hg⟩ := Option.isSome_iff_exists.mp hsome
  unfold underrunOf
  dsimp only
  rw [hg]
  exact ⟨_, rfl, rfl⟩

theorem synth_eq_false {x : Site} (h : x.mode ≠ 5) : x.synth = false := by simpa [Site.synth] using h

theorem fetchRun_of_valid {n line j count : Nat} {s : State} {p : Plan} (hp : s.planOf n = some p)
    (hm : (s.site n).mode ≠ 5) (hu : underrunOf p (s.site n) line j count = none) : s.fetchRun n line j count =
      ((List.range count).map fun i => s.record p (s.site n) ((s.site n).recAddr line (j + i)), none) := by
  simp only [State.fetchRun, hp, synth_eq_false hm, hu, Bool.false_eq_true, if_false]

theorem fetchRun_of_underrun {n line j count : Nat} {s : State} {p : Plan} {e : EndInfo} (hp : s.planOf n = some p)
    (hm : (s.site n).mode ≠ 5) (hu : underrunOf p (s.site n) line j count = some e) :
    s.fetchRun n line j count = ([], some e) := by
  simp only [State.fetchRun, hp, synth_eq_false hm, hu, Bool.false_eq_true, if_false]

theorem exec_bundleRead {n : SiteId} {g : Grain} {s : State} (h : (atGrain g s).readDue n.val = true) :
    exec (.bundleRead { site := n, t := g }) s = .next (settle n.val (modSite n.val (fun y =>
      { y with q := readFirst ((atGrain g s).fetchRun n.val) y.q }) (atGrain g s))) :=
  if_pos h

theorem readFirst_cons (f : Nat → Nat → Nat → List Nat × Option EndInfo) (addr ovl line j count played : Nat)
    (st : Bool) (recs : List Nat) (under : Option EndInfo) (rest : List QItem) :
    readFirst f (.bundle addr ovl line j count played false st recs under :: rest) =
      .bundle addr ovl line j count played true st (f line j count).1 (f line j count).2 :: rest := rfl

/-! ## Starvation (R92) -/

theorem exec_issueStarved {n : SiteId} {s : State} (hd : (s.site n.val).drained = true)
    (ht : (s.queueEnd n.val - 64 * 4096) / spanGr ≤ s.time.span) :
    exec (.issueStarved n) s = .next (settle n.val (modSite n.val (abortAt rStarved) s)) :=
  if_pos (Bool.and_eq_true_iff.mpr ⟨hd, decide_eq_true ht⟩)

/-- Settles O19: a run's first boundary, the instant and the outcome of a bundle's read, and starvation, each by the
equation of its row. -/
theorem runsBeginAndRead : Obligations.RunsBeginAndRead := by
  intro n s x
  refine ⟨fun hp ht => ⟨_, exec_siteRunBegin hp ht, ?_, fun j hj => ?_⟩, ?_, ?_, fun hd ht => ?_⟩
  · have h := ran_runBegun n.val s n.val
    rwa [modSite_site_self] at h
  · have h := ran_runBegun n.val s j
    rwa [modSite_site_ne _ _ _ _ hj] at h
  · intro g addr ovl line j count played st recs under rest hp hq hk
    exact readDue_iff (nextStart_of_unread (s := atGrain g s) hp hq) hk
  · intro g p addr ovl line j count played st recs under rest hp hm hq hr lo hi
    have hsite : (modSite n.val (fun y => { y with q := readFirst ((atGrain g s).fetchRun n.val) y.q })
        (atGrain g s)).site n.val = { x with q := readFirst ((atGrain g s).fetchRun n.val) x.q } :=
      modSite_site_self ..
    rw [hq, readFirst_cons] at hsite
    refine ⟨fun hv => ?_, fun hb => ?_⟩
    · rw [fetchRun_of_valid (s := atGrain g s) hp hm (underrunOf_eq_none hv)] at hsite
      exact ⟨_, exec_bundleRead hr, onlySite_modSite n.val _ (atGrain g s), hsite⟩
    · obtain ⟨e, he, hst⟩ := underrunOf_eq_some hb
      rw [fetchRun_of_underrun (s := atGrain g s) hp hm he] at hsite
      exact ⟨_, e, exec_bundleRead hr, onlySite_modSite n.val _ (atGrain g s), hst, hsite⟩
  · exact ⟨_, exec_issueStarved hd ht, onlySite_modSite n.val _ s, modSite_site_self ..⟩

/-! ## A vector played (R105, R108, R120, R165, R197) -/

theorem Ran.ofSite {s t : State} (h : ∀ j, t.site j = s.site j) : Ran s t := fun j => by
  rw [h j]
  exact Site.sameRun_refl _

/-- A site one vector on: its next boundary, its vector count, and the place of the vector. -/
def Site.played (x : Site) (period addr ovl : Nat) : Site :=
  { x with nextT := x.nextT + period, vcount := x.vcount + 1,
           lastV := { v := x.vcount, addr := addr, ovl := ovl, t := x.nextT } }

theorem playPins_sites (n t0 rec : Nat) (judge : Bool) (obs : List Obs) (s : State) :
    (playPins n t0 rec judge obs s).2.sites = s.sites :=
  (kept_playPins n t0 rec judge obs (List.Subset.refl _) (Kept.refl _ s)).same .sites (by decide)

theorem passRanges_sites (n : Nat) (s : State) : (passRanges n s).sites = s.sites :=
  (kept_passRanges n (List.Subset.refl _) (Kept.refl _ s)).same .sites (by decide)

/-- A vector moves its site on, and leaves the rest to the log. -/
theorem ran_playVector (n addr ovl rec : Nat) (probe : Option Nat) (judge logM : Bool) (obs : List Obs) (s : State) :
    Ran (modSite n (fun y => y.played (s.period n) addr ovl) s) (playVector n addr ovl rec probe judge logM obs s) := by
  have hs : (passRanges n (playPins n (s.site n).nextT rec judge obs s).2).sites = s.sites :=
    (passRanges_sites ..).trans (playPins_sites ..)
  refine ran_hold n _ (ran_perfEvent _ _ _ (Ran.ofSite fun j => ?_))
  by_cases hj : j = n
  · subst hj
    rw [modSite_site_self, modSite_site_self, site_of_sites hs]
    rfl
  · rw [modSite_site_ne _ _ _ _ hj, modSite_site_ne _ _ _ _ hj, site_of_sites hs]

/-- A vector played behind a change of its site that leaves its timing alone. -/
theorem ran_playVector_modSite (n addr ovl rec : Nat) (probe : Option Nat) (judge logM : Bool) (obs : List Obs)
    {f : Site → Site} {s u : State} (hu : u.sites = (modSite n f s).sites) (hp : u.pins = s.pins)
    (hd : (f (s.site n)).dmem = (s.site n).dmem) (ht : (f (s.site n)).ts = (s.site n).ts) :
    ((f (s.site n)).played (s.period n) addr ovl).sameRun
        ((playVector n addr ovl rec probe judge logM obs u).site n) ∧
      ∀ i, i ≠ n → (s.site i).sameRun ((playVector n addr ovl rec probe judge logM obs u).site i) := by
  have hn : u.site n = f (s.site n) := (site_of_sites hu n).trans (modSite_site_self ..)
  have hper : u.period n = s.period n := by
    unfold State.period State.periodOf State.pin Site.chans Site.pinMap Site.d
    rw [hn, hp, hd, ht]
  have h := ran_playVector n addr ovl rec probe judge logM obs u
  refine ⟨?_, fun i hi => ?_⟩
  · have := h n
    rwa [modSite_site_self, hn, hper] at this
  · have := h i
    rwa [modSite_site_ne _ _ _ _ hi, site_of_sites hu i, modSite_site_ne _ _ _ _ hi] at this

section
variable {n : SiteId} {obs : List Obs} {s : State} (ho : s.vectorOver n.val = true)
include ho

theorem exec_vectorPlayed_run (hp : (s.site n.val).play = .run) :
    exec (.vectorPlayed n obs) s = .next (playBundle n.val obs s) := by
  show execVectorPlayed n obs s = _
  simp only [execVectorPlayed, ho, hp, Bool.not_true, Bool.false_eq_true, if_false]

theorem exec_vectorPlayed_probe {di a b addr ovl cyc hits pos : Nat} {hit unl : Bool}
    (hp : (s.site n.val).play = .probe di a b addr ovl cyc hits pos hit unl) :
    exec (.vectorPlayed n obs) s = .next (playProbe n.val obs s) := by
  show execVectorPlayed n obs s = _
  simp only [execVectorPlayed, ho, hp, Bool.not_true, Bool.false_eq_true, if_false]

theorem exec_vectorPlayed_wait {addr ovl src timeout line played : Nat}
    (hp : (s.site n.val).play = .wait addr ovl src timeout line played) :
    exec (.vectorPlayed n obs) s = .next (playWait n.val obs s) := by
  show execVectorPlayed n obs s = _
  simp only [execVectorPlayed, ho, hp, Bool.not_true, Bool.false_eq_true, if_false]

theorem exec_vectorPlayed_stall {addr ovl line : Nat} {parked : Bool}
    (hp : (s.site n.val).play = .stall addr ovl parked line) :
    exec (.vectorPlayed n obs) s = .next (playStall n.val obs s) := by
  show execVectorPlayed n obs s = _
  simp only [execVectorPlayed, ho, hp, Bool.not_true, Bool.false_eq_true, if_false]

end

theorem playBundle_of_ready {n : Nat} {obs : List Obs} {s : State} {addr ovl line j count played : Nat} {st : Bool}
    {recs : List Nat} {rest : List QItem}
    (hq : (s.site n).q = .bundle addr ovl line j count played true st recs none :: rest)
    (hd : played ≠ 0 ∨ s.dueAt n .boundary (s.site n).nextT = none) :
    playBundle n obs s = settle n (playVector n addr ovl (recs.getD played 0) none true false obs (modSite n (fun y =>
      { y with q := if played + 1 < count then .bundle addr ovl line j count (played + 1) true st recs none :: rest
                    else rest }) s)) := by
  have hc : ((!true || (none : Option EndInfo).isSome ||
      (played == 0 && (s.dueAt n .boundary (s.site n).nextT).isSome)) = true) = False := by
    rcases hd with h | h <;> simp [h]
  simp only [playBundle, hq, hc, if_false]

/-- The site that a vector of a probe cycle leaves, before its timing moves on. -/
def probeMoves (di a b addr ovl cyc hits pos : Nat) (hit unl first : Bool) (y : Site) : Site :=
  { y with play := .probe di a b addr ovl cyc hits (pos + 1) (if pos = 0 then false else hit) unl,
           leaseLeft := if first then y.leaseLeft.map (· - 1) else y.leaseLeft }

/-- A vector of a probe cycle that no stop takes the place of: the match vector at position 0, else a guard vector. -/
theorem playProbe_of_goesOn {n : Nat} (obs : List Obs) {s : State} {di a b addr ovl cyc hits pos : Nat} {hit unl : Bool}
    (hp : (s.site n).play = .probe di a b addr ovl cyc hits pos hit unl)
    (hg : pos ≤ ((s.site n).matchDesc di).guard)
    (hd : (pos ≠ 0 ∧ pos % 32 ≠ 1) ∨ s.dueAt n .boundary (s.site n).nextT = none) :
    ∃ (rec : Nat) (probe : Option Nat) (judge logM unl' : Bool) (u : State),
      playProbe n obs s = leaseEnd n addr ovl (pos + 1) ((s.site n).matchDesc di).guard
        (playVector n addr ovl rec probe judge logM obs u) ∧
      u.sites = (modSite n (probeMoves di a b addr ovl cyc hits pos hit unl' (pos == 0 || pos % 32 == 1)) s).sites ∧
      u.pins = s.pins := by
  have hc : ((decide (((s.site n).matchDesc di).guard < pos) ||
      ((pos == 0 || pos % 32 == 1) && (s.dueAt n .boundary (s.site n).nextT).isSome)) = true) = False := by
    have hg' : ¬((s.site n).matchDesc di).guard < pos := by omega
    rcases hd with ⟨h1, h2⟩ | h
    · simp [h1, h2, hg']
    · simp [h, hg']
  generalize hv : (unl || s.maskDown ((s.site n).matchDesc di) (s.site n).nextT
    ((s.site n).nextT + s.period n : Nat)) = unl'
  generalize ht : modSite n (probeMoves di a b addr ovl cyc hits pos hit unl' (pos == 0 || pos % 32 == 1)) s = t
  have heq : playProbe n obs s = leaseEnd n addr ovl (pos + 1) ((s.site n).matchDesc di).guard (if pos = 0 then
        playVector n addr ovl (s.recordAt n ((s.site n).matchDesc di).line 0) (some di) ((s.site n).matchDesc di).logMatch
          ((s.site n).matchDesc di).logMatch obs (perfEvent 0x014 n 1 t)
      else playVector n addr ovl (s.recordAt n ((s.site n).matchDesc di).guardLine (pos - 1)) none true false obs t) := by
    rw [← ht, ← hv]
    simp only [playProbe, hp, hc, if_false]
    rfl
  rw [heq]
  by_cases h0 : pos = 0
  · rw [if_pos h0]
    exact ⟨_, _, _, _, unl', _, rfl, (perfEvent_sites ..).trans (ht ▸ rfl),
      (signalled_pins (signalled_perfEvent 0x014 n 1 t)).trans (ht ▸ rfl)⟩
  · rw [if_neg h0]
    exact ⟨_, _, _, _, unl', t, rfl, ht ▸ rfl, ht ▸ rfl⟩

theorem leaseEnd_of_goesOn {n pos guard : Nat} (addr ovl : Nat) {s : State}
    (h : (s.site n).leaseLeft ≠ some 0 ∨ (pos % 32 ≠ 1 ∧ pos ≠ guard + 1)) : leaseEnd n addr ovl pos guard s = s := by
  unfold leaseEnd
  dsimp only
  rw [if_neg]
  rintro ⟨hl, hp, -⟩
  rcases h with h | ⟨h1, h2⟩
  · exact h hl
  · exact hp.elim h1 h2

theorem playWait_of_holds {n : Nat} (obs : List Obs) {s : State} {addr ovl src timeout line played : Nat}
    (hp : (s.site n).play = .wait addr ovl src timeout line played)
    (hs : (s.site n).satisfied src (s.site n).nextT = false) (ht : timeout = 0 ∨ played < timeout)
    (hd : s.dueAt n .held (s.site n).nextT = none) :
    playWait n obs s = playVector n addr ovl (s.recordAt n line 0) none true false obs
      (modSite n (fun y => { y with play := .wait addr ovl src timeout line (played + 1) }) s) := by
  have hc : ((timeout != 0 && decide (timeout ≤ played)) = true) = False := by
    rcases ht with h | h <;> simp [h]
  simp only [playWait, hp, hs, hd, hc, Bool.false_or, Option.isSome_none, Bool.or_false, if_false]

theorem playStall_of_goesOn {n : Nat} (obs : List Obs) {s : State} {addr ovl line : Nat}
    (hp : (s.site n).play = .stall addr ovl false line)
    (hd : s.dueAt n (.paused false) (s.site n).nextT = none)
    (hr : ((playVector n addr ovl (s.recordAt n line 0) none true false obs s).site n).resume = false) :
    playStall n obs s = playVector n addr ovl (s.recordAt n line 0) none true false obs s := by
  simp only [playStall, hp, hd, hr, Option.isSome_none, Bool.false_and, Bool.false_eq_true, if_false]

/-- Settles O20: each kind of vector is a `playVector` behind a change of what its site is doing. -/
theorem vectorsPlay : Obligations.VectorsPlay := by
  intro n obs s ho x on
  refine ⟨?_, ?_, ?_, ?_⟩
  · intro addr ovl line j count played st recs rest hp hq hd q
    obtain ⟨hself, hothers⟩ := ran_playVector_modSite n.val addr ovl (recs.getD played 0) none true false obs
      (f := fun y => { y with q := q }) (s := s) rfl rfl rfl rfl
    exact ⟨_, (exec_vectorPlayed_run ho hp).trans (congrArg Host.Outcome.next (playBundle_of_ready hq hd)), hself, hothers⟩
  · intro di a b addr ovl cyc hits pos hit unl hp hg hd left hl
    obtain ⟨rec, probe, judge, logM, unl', u, heq, hu, hpins⟩ := playProbe_of_goesOn obs hp hg hd
    obtain ⟨hself, hothers⟩ := ran_playVector_modSite n.val addr ovl rec probe judge logM obs hu hpins rfl rfl
    have hleft : (if (pos == 0 || pos % 32 == 1) = true then x.leaseLeft.map (· - 1) else x.leaseLeft) = left := by
      simp only [left, Bool.or_eq_true, beq_iff_eq]
    have hrun : (on addr ovl
        { x with play := .probe di a b addr ovl cyc hits (pos + 1) hit unl,
                 leaseLeft := left }).sameRun
        ((playVector n.val addr ovl rec probe judge logM obs u).site n.val) := by
      rw [← hleft]
      exact Site.sameRun_trans ⟨_, _, _, rfl, _, _, rfl⟩ hself
    have hleft' : ((playVector n.val addr ovl rec probe judge logM obs u).site n.val).leaseLeft = left := by
      obtain ⟨_, _, _, h, -⟩ := hrun
      rw [h]
    rw [leaseEnd_of_goesOn addr ovl (by rw [hleft']; exact hl.imp id fun ⟨h1, h2⟩ =>
      ⟨h1, fun h => h2 (Nat.succ.inj h)⟩)] at heq
    exact ⟨_, (exec_vectorPlayed_probe ho hp).trans (congrArg Host.Outcome.next heq), hrun, hothers⟩
  · intro addr ovl src timeout line played hp hs ht hd
    obtain ⟨hself, hothers⟩ := ran_playVector_modSite n.val addr ovl (s.recordAt n.val line 0) none true false obs
      (f := fun y => { y with play := .wait addr ovl src timeout line (played + 1) }) (s := s) rfl rfl rfl rfl
    exact ⟨_, (exec_vectorPlayed_wait ho hp).trans (congrArg Host.Outcome.next (playWait_of_holds obs hp hs ht hd)), hself,
      hothers⟩
  · intro addr ovl line hp hr hd
    have hran := ran_playVector n.val addr ovl (s.recordAt n.val line 0) none true false obs s
    have hself := hran n.val
    rw [modSite_site_self] at hself
    have hresume : ((playVector n.val addr ovl (s.recordAt n.val line 0) none true false obs s).site n.val).resume
        = false := by
      obtain ⟨_, _, _, h, -⟩ := hself
      rw [h]
      exact hr
    refine ⟨_, (exec_vectorPlayed_stall ho hp).trans (congrArg Host.Outcome.next (playStall_of_goesOn obs hp hd hresume)), hself,
      fun i hi => ?_⟩
    have := hran i
    rwa [modSite_site_ne _ _ _ _ hi] at this

/-! ## Stall points (R164 to R169) -/

/-- The state in which a site has paused at a stall point, its pins parked where the stall entry says so. -/
def stallPaused (n addr ovl : Nat) (park : Bool) (line : Nat) (s : State) : State :=
  let s1 := perfEvent 0x016 n 1 (modSite n (fun y => { y with
    q := y.q.drop 1, play := .stall addr ovl park line, resume := false }) s)
  if park then parkPins n (s.site n).nextT s1 else s1

section
variable {n : SiteId} {s : State} {addr ovl : Nat} {rest : List QItem} (hp : (s.site n.val).play = .run)
  (hq : (s.site n.val).q = .stall addr ovl :: rest) (ht : (s.site n.val).nextT / spanGr ≤ s.time.span)
  (hd : s.dueAt n.val .stallPoint (s.site n.val).nextT = none)
include hp hq ht hd

theorem exec_stallPointReached_pauses {p : Plan} {st : Stall} (hpl : s.planOf n.val = some p)
    (hst : p.pauseAt n.val addr ovl = some st) (hs : s.stalls n.val addr ovl = true) :
    exec (.stallPointReached n) s = .next (stallPaused n.val addr ovl st.park st.vaddr s) := by
  show execStallPointReached n s = _
  simp only [execStallPointReached, hp, hq, hd, hs, hpl, hst, if_pos ht, if_true, Option.elim_some]
  rfl

theorem exec_stallPointReached_goesOn (hs : s.stalls n.val addr ovl = false) :
    exec (.stallPointReached n) s = .next (settle n.val (popQ n.val s)) := by
  show execStallPointReached n s = _
  simp only [execStallPointReached, hp, hq, hd, hs, if_pos ht, Bool.false_eq_true, if_false]

end

theorem stallPaused_sites (n addr ovl : Nat) (park : Bool) (line : Nat) (s : State) :
    (stallPaused n addr ovl park line s).sites = (modSite n (fun y => { y with
      q := y.q.drop 1, play := .stall addr ovl park line, resume := false }) s).sites := by
  unfold stallPaused
  dsimp only
  split
  · exact (parkPins_sites ..).trans (perfEvent_sites ..)
  · exact perfEvent_sites ..

/-- Settles O21: a stall point holds its site when `State.stalls` says so. -/
theorem stallPointsPause : Obligations.StallPointsPause := by
  intro n s addr ovl rest x hp hq ht hd
  refine ⟨fun p st hpl hst hs => ?_, fun ha hh => ?_⟩
  · have hstalls : s.stalls n.val addr ovl = true := by simpa [State.stalls] using hs
    have hsites := stallPaused_sites n.val addr ovl st.park st.vaddr s
    refine ⟨_, exec_stallPointReached_pauses hp hq ht hd hpl hst hstalls, onlySite_of_sites_mod hsites, ?_⟩
    rw [site_of_sites_mod hsites, hq]
    rfl
  · have hstalls : s.stalls n.val addr ovl = false := by simp [State.stalls, ha, hh]
    exact ⟨_, exec_stallPointReached_goesOn hp hq ht hd hstalls, onlySite_popQ n.val s, popQ_site_cons hq⟩

/-! ## Stops (R129, R133, R581) -/

theorem cancelSite_sites (n : Nat) (s : State) : (cancelSite n s).sites = s.sites :=
  (kept_cancelSite n (List.Subset.refl _) (Kept.refl _ s)).same .sites (by decide)

theorem ranOut_stopRun (n : Nat) (r : StopReq) (k : StopAt) (t addr ovl : Nat) (s : State) :
    ranOut n { status := stCancelled } s (stopRun n r k t addr ovl s) := by
  refine ranOut_to (cancelSite_sites n _) ?_
  have hm := modSite_site_self n (fun x => { x with decider := r.cmd, stops := x.stops.filter fun y => y != r }) s
  exact ranOut_from (onlySite_modSite n _ s) (by rw [hm]) (by rw [hm]) (by rw [hm]) (by rw [hm])
    (ranOut_endRun n _ _ t addr ovl)

/-- The stop that may act now ends the run, where it meets the condition that the event has. -/
theorem ranOut_stopEffect {n t : Nat} {r : StopReq} {k : StopAt} {p : StopReq → Bool} {s : State}
    (hs : s.stopNow n = some (r, t, k)) (hp : p r = true) :
    ranOut n { status := stCancelled } s (stopEffect n p s) := by
  simp only [stopEffect, hs, hp, if_true]
  exact ranOut_stopRun ..

/-- Settles O22: both rows are the effect of the stop that may act now. -/
theorem stopsEndRuns : Obligations.StopsEndRuns := fun _ _ _ _ _ hs =>
  ⟨⟨_, rfl, ranOut_stopEffect hs rfl⟩, fun hpark hlim hspan =>
    ⟨_, rfl, ranOut_stopEffect hs (by simp [hpark, hlim, hspan])⟩⟩

end Sys2Proof.Machine

/-!
The timing generator of a site: the decision of a MATCH, the ends of waits and parks, barriers, the completion of a
run, and the verniers of its pins.
-/

namespace Sys2Proof.Machine

/-! ## The decision of a MATCH (R109 to R117, R576) -/

theorem planOf_congr {n : Nat} {s t : State} (h : (s.site n).sameRun (t.site n)) (hv : t.vs = s.vs) :
    t.planOf n = s.planOf n := by
  obtain ⟨_, _, _, h, -⟩ := h
  unfold State.planOf State.plan
  rw [h, hv]

theorem fetchRun_congr {n : Nat} {s t : State} (h : (s.site n).sameRun (t.site n)) (hv : t.vs = s.vs) :
    t.fetchRun n = s.fetchRun n := by
  have hp := planOf_congr h hv
  obtain ⟨_, _, _, h, -⟩ := h
  funext line j count
  unfold State.fetchRun State.record
  rw [hp, h, hv]
  rfl

theorem hold_vs (n : Nat) (h : Held) (s : State) : (hold n h s).vs = s.vs :=
  (kept_hold n h (List.Subset.refl _) (Kept.refl _ s)).same .vs (by decide)

/-- What a MATCH takes with it as it leaves the log its outcome entry. -/
def matchLogged (n di addr ovl cyc : Nat) (outB unl : Bool) (s : State) : State :=
  if ((s.site n).matchDesc di).record then
    hold n (.entry { v := (s.site n).vcount, addr := addr, ovl := ovl, t := (s.site n).nextT } 0x03
      (cyc + b2n outB * 2 ^ 25 + di * 2 ^ 26 + b2n unl * 2 ^ 31) 0 s.untraceable) s
  else s

theorem ran_matchLogged (n di addr ovl cyc : Nat) (outB unl : Bool) (s : State) :
    Ran s (matchLogged n di addr ovl cyc outB unl s) := by
  unfold matchLogged
  split
  · exact ran_hold _ _ (Ran.refl s)
  · exact Ran.refl s

theorem matchLogged_vs (n di addr ovl cyc : Nat) (outB unl : Bool) (s : State) :
    (matchLogged n di addr ovl cyc outB unl s).vs = s.vs := by
  unfold matchLogged
  split
  · exact hold_vs ..
  · rfl

/-- The site of a MATCH that is over: its registers, its target, and the target's first bundle with its records. -/
def matchLeft (p : Option Plan) (n di cyc tgt at_ : Nat) (outB unl : Bool)
    (fetch : Nat → Nat → Nat → List Nat × Option EndInfo) (y : Site) : Site :=
  let z := { y with mCycles := cyc, mOutcome := outB, mSuspect := unl, mDesc := di, knownT := y.nextT,
                    cueT := y.nextT - 131072, mSpan := BitVec.ofNat 32 (at_ / spanGr) }.taken p n tgt
  { z with q := z.q.map (stageBundle fetch) }

theorem matchDone_eq (n di addr ovl cyc tgt : Nat) (outB unl : Bool) (s : State) :
    matchDone n di addr ovl cyc tgt outB unl s = settle n (modSite n (matchLeft
      ((matchLogged n di addr ovl cyc outB unl s).planOf n) n di cyc tgt (s.site n).nextT outB unl
      ((matchLogged n di addr ovl cyc outB unl s).fetchRun n)) (matchLogged n di addr ovl cyc outB unl s)) := rfl

/-- The hits of the cycles up to the one decided, dropped. -/
def hitsServed (d : MatchDesc) (cyc : Nat) (s : State) : State :=
  modHalso (fun y => { y with hits := y.hits.filter fun z =>
    !(d.xdev && z.group == d.group && decide (z.cycle ≤ cyc)) }) s

section
variable {n : SiteId} {s : State} {di a b addr ovl cyc hits pos : Nat} {hit unl : Bool}
  (hp : (s.site n.val).play = .probe di a b addr ovl cyc hits pos hit unl)
  (hg : ((s.site n.val).matchDesc di).guard < pos) (hd : s.dueAt n.val .boundary (s.site n.val).nextT = none)
  (hw : ∀ h ∈ (s.site n.val).held, ∀ p ts u q l rs o c, h ≠ .vec p ts u (some q) l rs o c)
include hp hg hd hw

/-- At the end of a guard run, with the match vector's results there, the MATCH is decided by `State.pick`. -/
theorem exec_matchDecision : exec (.matchDecision n) s =
    match s.pick ((s.site n.val).matchDesc di) a b cyc hits hit with
    | none => .next (endRun n.val (endOf stAborted rPeerLate addr ovl) false (s.site n.val).nextT addr ovl s)
    | some (_, some (tgt, outB)) =>
      .next (matchDone n.val di addr ovl cyc tgt outB unl (hitsServed ((s.site n.val).matchDesc di) cyc s))
    | some (run, none) => .next (modSite n.val (fun y => { y with play := .probe di a b addr ovl (cyc + 1) run 0 false unl })
        (hitsServed ((s.site n.val).matchDesc di) cyc s)) := by
  show execMatchDecision n s = _
  unfold execMatchDecision
  dsimp only
  rw [hp]
  dsimp only
  rw [if_neg]
  · rfl
  · intro h
    simp only [Bool.or_eq_true, decide_eq_true_eq, hd, Option.isSome_none, Bool.false_eq_true, or_false,
      List.any_eq_true] at h
    rcases h with h | ⟨x, hx, h⟩
    · omega
    · split at h
      · exact hw _ hx _ _ _ _ _ _ _ _ rfl
      · exact absurd h Bool.false_ne_true

end

theorem pick_of_combined {s : State} {d : MatchDesc} {a b cyc hits : Nat} {hit h : Bool}
    (hc : s.combined d hit cyc = some h) : s.pick d a b cyc hits hit =
      some (if h then hits + 1 else 0, if (if h then hits + 1 else 0) = d.need then some (a, false)
        else if cyc = d.cycles then some (b, true) else none) := by
  simp only [State.pick, hc, Option.map_some]

/-- A target taken, as MATCH_DECISION leaves it. -/
theorem matchDone_leaves (n di addr ovl cyc tgt : Nat) (outB unl : Bool) (d : MatchDesc) (s : State) :
    ∃ u y, matchDone n di addr ovl cyc tgt outB unl (hitsServed d cyc s) = settle n u ∧ (s.site n).sameRun y ∧
      u.site n = matchLeft (s.planOf n) n di cyc tgt (s.site n).nextT outB unl (s.fetchRun n) y ∧
      y.nextT = (s.site n).nextT := by
  rw [matchDone_eq]
  generalize hl : matchLogged n di addr ovl cyc outB unl (hitsServed d cyc s) = l
  have hran : (s.site n).sameRun (l.site n) := hl ▸ ran_matchLogged n di addr ovl cyc outB unl (hitsServed d cyc s) n
  have hvs : l.vs = s.vs := hl ▸ matchLogged_vs n di addr ovl cyc outB unl (hitsServed d cyc s)
  refine ⟨_, l.site n, rfl, hran, ?_, ?_⟩
  · rw [modSite_site_self, planOf_congr hran hvs, fetchRun_congr hran hvs]
    rfl
  · obtain ⟨_, _, _, h, -⟩ := hran
    rw [h]

/-- Settles O23: by what `State.pick` makes of the combined hit. -/
theorem matchDecides : Obligations.MatchDecides := by
  intro n s di a b addr ovl cyc hits pos hit unl x d hp hg hd hw
  have hrow := exec_matchDecision hp hg hd hw
  refine ⟨fun hc => ?_, fun h hc => ?_⟩
  · have hpick : s.pick d a b cyc hits hit = none := by simp only [State.pick, hc, Option.map_none]
    rw [hpick] at hrow
    exact ⟨_, hrow, ranOut_endRun ..⟩
  · intro run
    have hpick : s.pick d a b cyc hits hit = some (run, if run = d.need then some (a, false)
      else if cyc = d.cycles then some (b, true) else none) := pick_of_combined hc
    rw [hpick] at hrow
    refine ⟨fun hr hcyc => ?_, fun hdone => ?_⟩
    · rw [if_neg hr, if_neg hcyc] at hrow
      exact ⟨_, hrow, onlySite_modSite n.val _ (hitsServed d cyc s), modSite_site_self ..⟩
    · have htake : (if run = d.need then some (a, false) else if cyc = d.cycles then some (b, true) else none) =
          some (if run = d.need then a else b, decide (run ≠ d.need)) := by
        by_cases hr : run = d.need
        · simp [hr]
        · simp [hr, hdone.resolve_left hr]
      rw [htake] at hrow
      obtain ⟨u, y, hu, hy, hsite, hnext⟩ := matchDone_leaves n.val di addr ovl cyc
        (if run = d.need then a else b) (decide (run ≠ d.need)) unl d s
      refine ⟨u, y, hrow.trans (congrArg _ hu), hy, ?_⟩
      rw [hsite, matchLeft, hnext]
      rfl

/-! ## The ends of waits and parks (R118 to R121, R127) -/

/-- The state in which a site goes on behind what held it, its time there counted. -/
def goneOn (n held : Nat) (f : Site → Site) (s : State) : State := perfEvent 0x015 n held (modSite n f s)

theorem goneOn_sites (n held : Nat) (f : Site → Site) (s : State) :
    (goneOn n held f s).sites = (modSite n f s).sites :=
  perfEvent_sites ..

theorem goneOn_site (n held : Nat) (f : Site → Site) (s : State) : (goneOn n held f s).site n = f (s.site n) :=
  site_of_sites_mod (goneOn_sites n held f s)

theorem onlySite_goneOn (n held : Nat) (f : Site → Site) (s : State) : onlySite n s (goneOn n held f s) :=
  onlySite_of_sites_mod (goneOn_sites n held f s)

theorem exec_waitTrigSatisfied {n : SiteId} {s : State} {addr ovl src timeout line played : Nat}
    (hp : (s.site n.val).play = .wait addr ovl src timeout line played)
    (hs : (s.site n.val).satisfied src (s.site n.val).nextT = true)
    (hd : s.dueAt n.val .held (s.site n.val).nextT = none) :
    exec (.waitTrigSatisfied n) s = .next (settle n.val (goneOn n.val (played * s.period n.val / cycleGr)
      (fun y => { y.clearLatch src y.nextT with
        play := .run, knownT := y.nextT, cueT := (y.latches.get (latchOf src)).t }) s)) := by
  show execWaitTrigSatisfied n s = _
  simp only [execWaitTrigSatisfied, hp, hs, hd, Option.isNone_none, Bool.and_self, if_true]
  rfl

theorem exec_waitTimeout {n : SiteId} {s : State} {addr ovl src timeout line played : Nat}
    (hp : (s.site n.val).play = .wait addr ovl src timeout line played)
    (hs : (s.site n.val).satisfied src (s.site n.val).nextT = false) (h0 : timeout ≠ 0) (hle : timeout ≤ played)
    (hd : s.dueAt n.val .held (s.site n.val).nextT = none) :
    exec (.waitTimeout n) s = .next (endRun n.val (endOf stTimeout rWaitTo addr ovl) false (s.site n.val).nextT addr ovl
      (perfEvent 0x015 n.val (played * s.period n.val / cycleGr) s)) := by
  have hc : (timeout != 0 && decide (timeout ≤ played)) = true := by simp [h0, hle]
  show execWaitTimeout n s = _
  simp only [execWaitTimeout, hp, hs, hd, hc, Option.isNone_none, Bool.not_false, Bool.and_self, if_true]

theorem exec_parkExpiry {n : SiteId} {s : State} {addr ovl u : Nat} (hp : (s.site n.val).play = .park addr ovl u)
    (hu : u / spanGr ≤ s.time.span) (hs : s.stopNow n.val = none) :
    exec (.parkExpiry n) s = .next (settle n.val (goneOn n.val ((u - (s.site n.val).nextT) / cycleGr)
      (fun y => { y with play := .run, nextT := u }) s)) := by
  show execParkExpiry n s = _
  simp only [execParkExpiry, hp, hu, hs, and_self, if_true]
  rfl

/-- Settles O24: the site that goes on is `goneOn`; the timeout ends the run. -/
theorem waitsEnd : Obligations.WaitsEnd := by
  intro n s x
  refine ⟨fun addr ovl src timeout line played hp hd => ⟨fun hs => ?_, fun hs h0 hle => ?_⟩,
    fun addr ovl u hp hu hs => ?_⟩
  · exact ⟨_, exec_waitTrigSatisfied hp hs hd, onlySite_goneOn _ _ _ _, goneOn_site ..⟩
  · exact ⟨_, exec_waitTimeout hp hs h0 hle hd, ranOut_endRun_of_sites _ _ _ _ _ (perfEvent_sites ..)⟩
  · exact ⟨_, exec_parkExpiry hp hu hs, onlySite_goneOn _ _ _ _, goneOn_site ..⟩

/-! ## Barriers (R122 to R126) -/

theorem modBarrier_barrier_self (l b : Nat) (f : Barrier → Barrier) (s : State) :
    (modBarrier l b f s).barrier l b = f (s.barrier l b) :=
  SMap.get_mod_eq ..

/-- Barriers of different groups are different. -/
theorem modBarrier_barrier_ne {l l' b : Nat} (f : Barrier → Barrier) (s : State) (h : l' ≠ l) :
    (modBarrier l b f s).barrier l' b = s.barrier l' b :=
  SMap.get_mod_ne _ _ _ _ (by omega)

theorem barrier_of_barriers {s t : State} (h : t.barriers = s.barriers) (l b : Nat) : t.barrier l b = s.barrier l b := by
  unfold State.barrier
  rw [h]

theorem broadcast0_barriers (at_ : Int) (ws : List Nat) (s : State) : (broadcast0 at_ ws s).barriers = s.barriers :=
  (kept_broadcast0 at_ ws (List.Subset.refl _) (Kept.refl _ s)).same .barriers (by decide)

/-- The barrier as an arrival finds it, its own device's arrival sent once all local participants are there. -/
def arrivalSent (n b : Nat) (s : State) : State :=
  if s.localDone n b && !(s.barrier ((s.site n).leader n b) b).sent then
    let s0 := modBarrier ((s.site n).leader n b) b (fun z => { z with sent := true }) s
    if (s.site n).barDevices b != 0 && s.halso.joined then
      broadcast0 s0.now [armMsg s.dev b (s.barrier ((s.site n).leader n b) b).a] s0
    else s0
  else s

theorem arrivalSent_barrier (n b : Nat) (s : State) : ∃ sent, (arrivalSent n b s).barrier ((s.site n).leader n b) b =
    { s.barrier ((s.site n).leader n b) b with sent := sent } := by
  unfold arrivalSent
  dsimp only
  split
  · split
    · exact ⟨true, (barrier_of_barriers (broadcast0_barriers ..) _ b).trans (modBarrier_barrier_self ..)⟩
    · exact ⟨true, modBarrier_barrier_self ..⟩
  · exact ⟨_, rfl⟩

theorem arrivalSent_site (n b : Nat) (s : State) (j : Nat) : (arrivalSent n b s).site j = s.site j := by
  unfold arrivalSent
  dsimp only
  split
  · split
    · exact (kept_broadcast0 (m := [.out]) _ _ (List.Subset.refl _) (Kept.refl _ _)).site (by decide) j
    · rfl
  · rfl

theorem updateBarrier_eq (n b : Nat) (s : State) : updateBarrier n b s =
    if ((arrivalSent n b s).barrier ((s.site n).leader n b) b).rel.isNone then
      modBarrier ((s.site n).leader n b) b (fun z => { z with rel := (arrivalSent n b s).formRel n b }) (arrivalSent n b s)
    else arrivalSent n b s := rfl

/-- What an update leaves alone of the barrier that it updates. -/
theorem updateBarrier_arrived (n b : Nat) (s : State) :
    ((updateBarrier n b s).barrier ((s.site n).leader n b) b).arrived =
      (s.barrier ((s.site n).leader n b) b).arrived := by
  obtain ⟨sent, h⟩ := arrivalSent_barrier n b s
  rw [updateBarrier_eq]
  split
  · rw [modBarrier_barrier_self, h]
  · rw [h]

/-- A barrier of this device alone whose participants have all arrived: released two spans after the latest. -/
theorem updateBarrier_rel {n b : Nat} {s : State} (hr : (s.barrier ((s.site n).leader n b) b).rel = none)
    (hdev : (s.site n).barDevices b = 0)
    (hall : ∀ i ∈ bitList ((s.site n).barSites b), bit (s.barrier ((s.site n).leader n b) b).arrived i = true) :
    ((updateBarrier n b s).barrier ((s.site n).leader n b) b).rel =
      some ((s.barrier ((s.site n).leader n b) b).a + 2) := by
  obtain ⟨sent, h⟩ := arrivalSent_barrier n b s
  have hdone : (arrivalSent n b s).localDone n b = true := by
    unfold State.localDone
    rw [arrivalSent_site, h]
    exact List.all_eq_true.mpr hall
  have hlocal : (bitList ((s.site n).barDevices b)).isEmpty = true := by rw [hdev]; decide
  rw [updateBarrier_eq, h, if_pos (by rw [hr]; rfl), modBarrier_barrier_self]
  simp only [State.formRel, arrivalSent_site, hdone, hlocal, h, Bool.not_true, Bool.false_eq_true, if_false, if_true]

/-- The state in which a site has arrived at a barrier and holds, its arrival noted. -/
def syncArrived (n addr ovl b timeout rel : Nat) (s : State) : State :=
  let s1 := parkPins n (s.site n).nextT (modSite n (fun y =>
    { y with q := y.q.drop 1, play := .sync addr ovl b timeout rel ((s.site n).nextT / spanGr) }) s)
  if bit (s1.barrier ((s.site n).leader n b) b).arrived n then s1
  else modBarrier ((s.site n).leader n b) b (fun z =>
    { z with arrived := setBit z.arrived n true, a := max z.a ((s.site n).nextT / spanGr) }) s1

theorem exec_syncArrival {n : SiteId} {s : State} {addr ovl b timeout rel : Nat} {rest : List QItem}
    (hp : (s.site n.val).play = .run) (hq : (s.site n.val).q = .sync addr ovl b timeout rel :: rest)
    (ht : (s.site n.val).nextT / spanGr ≤ s.time.span) (hd : s.dueAt n.val .boundary (s.site n.val).nextT = none) :
    exec (.syncArrival n) s = .next (updateBarrier n.val b (syncArrived n.val addr ovl b timeout rel s)) := by
  show execSyncArrival n s = _
  simp only [execSyncArrival, hp, hq, hd, ht, Option.isNone_none, and_self, if_true]
  rfl

theorem syncArrived_sites (n addr ovl b timeout rel : Nat) (s : State) :
    (syncArrived n addr ovl b timeout rel s).sites = (modSite n (fun y =>
      { y with q := y.q.drop 1, play := .sync addr ovl b timeout rel ((s.site n).nextT / spanGr) }) s).sites := by
  unfold syncArrived
  dsimp only
  split
  · exact parkPins_sites ..
  · exact parkPins_sites n _ _

theorem parkPins_barriers (n : Nat) (t : Int) (s : State) : (parkPins n t s).barriers = s.barriers :=
  (kept_parkPins n t (List.Subset.refl _) (Kept.refl _ s)).same .barriers (by decide)

/-- An arrival leaves the barrier as it was where it was noted before, else with the arrival noted. -/
theorem syncArrived_barrier (n addr ovl b timeout rel : Nat) (s : State) :
    (syncArrived n addr ovl b timeout rel s).barrier ((s.site n).leader n b) b =
      if bit (s.barrier ((s.site n).leader n b) b).arrived n then s.barrier ((s.site n).leader n b) b
      else { s.barrier ((s.site n).leader n b) b with
        arrived := setBit (s.barrier ((s.site n).leader n b) b).arrived n true,
        a := max (s.barrier ((s.site n).leader n b) b).a ((s.site n).nextT / spanGr) } := by
  unfold syncArrived
  dsimp only
  generalize hs1 : parkPins n _ _ = s1
  have hb : s1.barrier ((s.site n).leader n b) b = s.barrier ((s.site n).leader n b) b :=
    barrier_of_barriers (hs1 ▸ parkPins_barriers ..) _ _
  rw [hb]
  split
  · exact hb
  · rw [modBarrier_barrier_self, hb]

theorem exec_syncTimeout {n : SiteId} {s : State} {addr ovl b timeout rel a : Nat}
    (hp : (s.site n.val).play = .sync addr ovl b timeout rel a) (h0 : timeout ≠ 0) (hr : s.relOf n.val b = none)
    (ha : a + timeout < s.time.span) (hs : s.stopNow n.val = none) :
    exec (.syncTimeout n) s = .next (endRun n.val (endOf stTimeout rSyncTo addr ovl) false (s.site n.val).nextT addr ovl
      (perfEvent 0x015 n.val (((a + timeout + 1) * spanGr - (s.site n.val).nextT) / cycleGr) s)) := by
  show execSyncTimeout n s = _
  simp only [execSyncTimeout, hp, hr, ha, hs, ne_eq, h0, not_false_eq_true, and_self, if_true]

/-! ### Release -/

theorem releaseSite_barriers (b r n : Nat) (s : State) : (releaseSite b r n s).barriers = s.barriers :=
  (kept_releaseSite b r n (List.Subset.refl _) (Kept.refl _ s)).same .barriers (by decide)

theorem releaseGroup_of_unformed {ns : List Nat} {b l : Nat} {s : State} (h : (s.barrier l b).rel = none) :
    releaseGroup ns b l s = s := by
  simp only [releaseGroup, h]

/-- The participants of the group whose lowest is l, released in turn. -/
def releaseSitesOf (b r l : Nat) (ns : List Nat) (s : State) : State :=
  ns.foldl (fun t n => if (t.site n).leader n b = l then releaseSite b r n t else t) s

theorem releaseSitesOf_barriers (b r l : Nat) (ns : List Nat) (s : State) :
    (releaseSitesOf b r l ns s).barriers = s.barriers := by
  induction ns generalizing s with
  | nil => rfl
  | cons n ns ih =>
    refine (ih _).trans ?_
    dsimp only
    split
    · exact releaseSite_barriers ..
    · rfl

theorem releaseGroup_of_formed {ns : List Nat} {b l r : Nat} {s : State} (h : (s.barrier l b).rel = some r)
    (hr : r ≤ s.time.span) : releaseGroup ns b l s = modBarrier l b (fun _ => {}) (releaseSitesOf b r l ns s) := by
  simp only [releaseGroup, h, if_pos hr]
  rfl

/-- Where no barrier of the groups has a release span, nothing is released. -/
theorem foldl_releaseGroup_of_unformed {ns ls : List Nat} {b : Nat} {s : State}
    (h : ∀ i ∈ ls, (s.barrier i b).rel = none) : ls.foldl (fun t l => releaseGroup ns b l t) s = s := by
  induction ls with
  | nil => rfl
  | cons i ls ih =>
    rw [List.foldl_cons, releaseGroup_of_unformed (h i List.mem_cons_self)]
    exact ih fun j hj => h j (List.mem_cons_of_mem _ hj)

/-- Where one barrier of the groups has its release span, its group is released and no other. -/
theorem foldl_releaseGroup_of_one {ns ls : List Nat} {b l r : Nat} {s : State} (hl : l ∈ ls)
    (hb : (s.barrier l b).rel = some r) (ho : ∀ i ∈ ls, i ≠ l → (s.barrier i b).rel = none) (hr : r ≤ s.time.span) :
    ls.foldl (fun t l => releaseGroup ns b l t) s = modBarrier l b (fun _ => {}) (releaseSitesOf b r l ns s) := by
  induction ls with
  | nil => exact absurd hl List.not_mem_nil
  | cons i ls ih =>
    rw [List.foldl_cons]
    by_cases hi : i = l
    · subst hi
      rw [releaseGroup_of_formed hb hr]
      refine foldl_releaseGroup_of_unformed fun j hj => ?_
      by_cases hji : j = i
      · subst hji
        rw [modBarrier_barrier_self]
      · rw [modBarrier_barrier_ne _ _ hji, barrier_of_barriers (releaseSitesOf_barriers ..)]
        exact ho j (List.mem_cons_of_mem _ hj) hji
    · rw [releaseGroup_of_unformed (ho i List.mem_cons_self hi)]
      exact ih ((List.mem_cons.mp hl).resolve_left (Ne.symm hi)) fun j hj => ho j (List.mem_cons_of_mem _ hj)

theorem releaseSite_of_held {b r m addr ovl timeout rel a : Nat} {u : State}
    (hp : (u.site m).play = .sync addr ovl b timeout rel a) (hs : u.stopNow m = none) :
    releaseSite b r m u = settle m (goneOn m ((r * spanGr + rel * cycleGr - (u.site m).nextT) / cycleGr)
      (fun y => { y with play := .run, nextT := r * spanGr + rel * cycleGr }) u) := by
  simp only [releaseSite, hp, hs, and_self, if_true]
  rfl

/-- Settles O25: an arrival by `syncArrived` and the update of its barrier, a release by the one group whose barrier
has its release span. -/
theorem barriersHoldAndRelease : Obligations.BarriersHoldAndRelease := by
  intro n s x
  refine ⟨?_, ?_, ?_⟩
  · intro addr ovl b timeout rel rest hp hq ht hd l
    have hsites : (updateBarrier n.val b (syncArrived n.val addr ovl b timeout rel s)).sites = (modSite n.val (fun y =>
        { y with q := y.q.drop 1, play := .sync addr ovl b timeout rel (x.nextT / spanGr) }) s).sites :=
      ((kept_updateBarrier n.val b (List.Subset.refl _) (Kept.refl _ _)).same .sites (by decide)).trans
        (syncArrived_sites ..)
    have hsite := site_of_sites_mod (syncArrived_sites n.val addr ovl b timeout rel s)
    have hlead : ((syncArrived n.val addr ovl b timeout rel s).site n.val).leader n.val b = l := by rw [hsite]; rfl
    have hbar := syncArrived_barrier n.val addr ovl b timeout rel s
    have harr := updateBarrier_arrived n.val b (syncArrived n.val addr ovl b timeout rel s)
    have hn : n.val < 64 := by omega
    rw [hlead, hbar] at harr
    refine ⟨_, exec_syncArrival hp hq ht hd, onlySite_of_sites_mod hsites, ?_, ?_, fun hnew hrel hdev hall => ?_⟩
    · rw [site_of_sites_mod hsites, hq]
      rfl
    · rw [harr]
      split
      next h => exact h
      next => simp [bit_setBit_true _ _ _ hn]
    · rw [if_neg (Bool.eq_false_iff.mp hnew)] at hbar
      have := updateBarrier_rel (n := n.val) (b := b) (s := syncArrived n.val addr ovl b timeout rel s)
        (by rw [hlead, hbar]; exact hrel) (by rw [hsite]; exact hdev) fun i hi => ?_
      · rwa [hlead, hbar] at this
      · rw [hsite] at hi
        have h64 : i < 64 := List.mem_range.mp (List.mem_filter.mp hi).1
        rw [hlead, hbar, bit_setBit_true _ _ _ h64]
        rcases hall i hi with h | h
        · exact Bool.or_eq_true_iff.mpr (Or.inr (decide_eq_true h.symm))
        · exact Bool.or_eq_true_iff.mpr (Or.inl h)
  · intro addr ovl b timeout rel a hp h0 hr ha hs
    exact ⟨_, exec_syncTimeout hp h0 hr ha hs, ranOut_endRun_of_sites _ _ _ _ _ (perfEvent_sites ..)⟩
  · intro p b r q l hpl hl hb ho hr
    refine ⟨⟨modBarrier l b.val (fun _ => {}) (releaseSitesOf b.val r l q.sites s), ?_, modBarrier_barrier_self ..,
      rfl⟩, fun u m addr ovl timeout rel a hp hs => ?_⟩
    · show execSyncRelease p b s = _
      simp only [execSyncRelease, hpl]
      rw [foldl_releaseGroup_of_one hl hb ho hr]
    · exact ⟨_, releaseSite_of_held hp hs, onlySite_goneOn _ _ _ _, goneOn_site ..⟩

/-! ## Completion (R60, R128, R136) -/

/-- The site that a completed run leaves. -/
def Site.completedRun (x : Site) : Site :=
  { x with running := false, play := .idle, cmd := none, fin := none, stops := [], losers := [], decider := none }

theorem sendMerge_sites (n : Nat) (ended : Bool) (st : BitVec 8) (t : Nat) (s : State) :
    (sendMerge n ended st t s).sites = s.sites :=
  (kept_sendMerge n ended st t (List.Subset.refl _) (Kept.refl _ s)).same .sites (by decide)

/-- The state in which a site is idle again, its commands not completed yet. -/
def runIdle (n : Nat) (e : EndInfo) (s : State) : State :=
  modSite n Site.completedRun (sendMerge n true e.status ((s.site n).parkSpan * spanGr) s)

/-- A run that no stop has ended completes its SITE_START alone. -/
theorem completeRun_of_cmd {n k : Nat} {e : EndInfo} {s : State} (hc : (s.site n).cmd = some k)
    (hd : (s.site n).decider = none) (hs : (s.site n).stops = []) (hl : (s.site n).losers = []) :
    completeRun n e s =
      let t := complete k e.status (if e.status = stOK then b2n (s.cap.sites.get n).lostFull else e.result.toNat)
        (runIdle n e s)
      if e.status = stOK ∨ e.status = stCancelled then t else modCmd k (fun c => { c with cspan := (s.site n).parkSpan }) t := by
  simp only [completeRun, hc, hd, hs, hl, List.filterMap_nil, List.append_nil, List.foldl_nil, completeOpt]
  rfl

theorem exec_siteCompletion {n : SiteId} {s : State} {e : EndInfo} (hp : (s.site n.val).play = .ended)
    (hf : (s.site n.val).fin = some e) (hl : s.logDone n.val = true) :
    exec (.siteCompletion n) s = .next (completeRun n.val e s) := by
  show execSiteCompletion n s = _
  simp only [execSiteCompletion, hp, hf, hl, if_true]

theorem kept_runIdle (n : Nat) (e : EndInfo) (s : State) : Kept [.halso, .out, .sites] s (runIdle n e s) :=
  kept_modSite n _ (by decide) (kept_sendMerge n true e.status _ (by decide) (Kept.refl _ s))

theorem runIdle_sites (n : Nat) (e : EndInfo) (s : State) :
    (runIdle n e s).sites = (modSite n Site.completedRun s).sites := by
  rw [runIdle, modSite_sites, sendMerge_sites]
  rfl

/-- Settles O26: the site goes idle in `runIdle`, then the one command completes. -/
theorem siteCompletes : Obligations.SiteCompletes := by
  intro n s e k x hp hf hl hc hd hs hlo
  have hrow := exec_siteCompletion hp hf hl
  rw [completeRun_of_cmd hc hd hs hlo] at hrow
  dsimp only at hrow
  generalize hr : (if e.status = stOK then b2n (s.cap.sites.get n.val).lostFull else e.result.toNat) = r at hrow
  have hres : BitVec.ofNat 32 r =
      if e.status = stOK then BitVec.ofNat 32 (b2n (s.cap.sites.get n.val).lostFull) else e.result := by
    rw [← hr]
    split
    · rfl
    · rw [BitVec.ofNat_toNat, BitVec.setWidth_eq]
  have hkept := kept_runIdle n.val e s
  have hcmd : ∀ j, (runIdle n.val e s).cmd j = s.cmd j := fun j => by
    unfold State.cmd
    rw [hkept.same .hqm (by decide)]
  have htime : (runIdle n.val e s).time = s.time := hkept.same .time (by decide)
  have hx : x.completedRun = { x with running := false, play := .idle, cmd := none, fin := none } := by
    rw [Site.completedRun, ← hs, ← hlo, ← hd]
  by_cases ho : e.status = stOK ∨ e.status = stCancelled
  · rw [if_pos ho] at hrow
    have hk := complete_cmd k e.status r (runIdle n.val e s) k
    rw [if_pos rfl] at hk
    refine ⟨_, hrow, onlySite_of_sites_mod (runIdle_sites n.val e s), (site_of_sites_mod (runIdle_sites n.val e s)).trans hx,
      ?_, ?_, ?_, ?_, fun j hj => (complete_cmd_ne _ _ _ hj).trans (hcmd j)⟩
    · rw [hk]; rfl
    · rw [hk]; rfl
    · rw [hk]; exact hres
    · rw [hk, if_pos ho, ← htime]; rfl
  · rw [if_neg ho] at hrow
    have hk := modCmd_cmd_self k (fun c => { c with cspan := x.parkSpan }) (complete k e.status r (runIdle n.val e s))
    rw [complete_cmd, if_pos rfl] at hk
    refine ⟨_, hrow, onlySite_of_sites_mod (runIdle_sites n.val e s), (site_of_sites_mod (runIdle_sites n.val e s)).trans hx,
      ?_, ?_, ?_, ?_, fun j hj => (modCmd_cmd_ne _ _ _ _ hj).trans ((complete_cmd_ne _ _ _ hj).trans (hcmd j))⟩
    · rw [hk]; rfl
    · rw [hk]; rfl
    · rw [hk]; exact hres
    · rw [hk, if_neg ho]

/-! ## Verniers (R233, R418) -/

theorem toward_one (v g : Int) : toward 1 v g = if v < g then v + 1 else if g < v then v - 1 else v := by
  unfold toward
  split
  · omega
  · split <;> omega

theorem exec_vernierMove {c : Chan} {s : State} {n : Nat} (ho : s.ownerOf c.val = some n) (hb : s.boundaryNow n = true)
    (hv : (s.pin c.val).vSpan ≠ s.time.span + 1) :
    ∃ k, exec (.vernierMove c) s = .next (perfEvent 0x044 c.val k (modPin c.val (fun y =>
      { y with vDrv := toward 1 (s.pin c.val).vDrv ((s.pin c.val).goalDrv s.time.span),
               vCmp := toward 1 (s.pin c.val).vCmp ((s.pin c.val).goalCmp s.time.span),
               vSpan := s.time.span + 1 }) s)) := by
  have hc : (s.boundaryNow n && (s.pin c.val).vSpan != s.time.span + 1) = true := by simp [hb, hv]
  refine ⟨b2n (toward 1 (s.pin c.val).vDrv ((s.pin c.val).goalDrv s.time.span) != (s.pin c.val).vDrv) +
    b2n (toward 1 (s.pin c.val).vCmp ((s.pin c.val).goalCmp s.time.span) != (s.pin c.val).vCmp), ?_⟩
  show execVernierMove c s = _
  simp only [execVernierMove, ho, hc, if_true]

theorem perfEvent_pin (code u k : Nat) (s : State) (j : Nat) : (perfEvent code u k s).pin j = s.pin j := by
  unfold State.pin
  rw [signalled_pins (signalled_perfEvent code u k s)]

/-- Settles O27: `toward 1` moves a vernier by at most one grain. -/
theorem verniersMoveByOne : Obligations.VerniersMoveByOne := by
  intro c s n ho hb p one hv
  obtain ⟨k, hrow⟩ := exec_vernierMove ho hb hv
  refine ⟨_, hrow, fun j hj => ?_, ?_⟩
  · rw [perfEvent_pin, modPin_pin_ne _ _ _ _ hj]
  · rw [perfEvent_pin, modPin_pin_self, toward_one, toward_one]
    rfl

end Sys2Proof.Machine

/-!
The site commands: SITE_START, SITE_STOP, SITE_PARK and SITE_RESET.
-/

namespace Sys2Proof.Machine

/-! ## Command slots behind effects that leave the host queue manager alone -/

theorem cmd_of_hqm {s t : State} (h : t.hqm = s.hqm) (j : Nat) : t.cmd j = s.cmd j := by
  unfold State.cmd
  rw [h]

theorem onlySlot_of_hqm {k : Nat} {s u t : State} (h : u.hqm = s.hqm) (ht : onlySlot k u t) : onlySlot k s t := by
  obtain ⟨hc, hq⟩ := ht
  exact ⟨fun j hj => (hc j hj).trans (cmd_of_hqm h j), h ▸ hq⟩

theorem begunAs_begin {k : Nat} {s u : State} (h : u.hqm = s.hqm) : begunAs k s (begin_ k u) := by
  unfold begunAs begin_
  rw [modCmd_cmd_self, cmd_of_hqm h]

theorem onlySlot_begin {k : Nat} {s u : State} (h : u.hqm = s.hqm) : onlySlot k s (begin_ k u) :=
  onlySlot_of_hqm h (onlySlot_modCmd ..)

/-! ## SITE_START (R57 to R60, R93, R94) -/

section
variable {k : CmdSlot} {s : State} (h : s.holds k.val 0x20 = true) (hsb : s.sys.state ≠ .standby)
  (hsp : (s.cmd k.val).dspan < s.time.span)
include h hsb hsp

theorem exec_siteStart : exec (.siteStart k) s = .next (match s.planOf (pay (s.cmd k.val).desc 0 1) with
    | none => complete k.val stPrecondition 0 s
    | some p =>
      if (s.site (pay (s.cmd k.val).desc 0 1)).mode = 7 || !s.startOk (pay (s.cmd k.val).desc 0 1) p then
        complete k.val stPrecondition 0 s
      else match s.lowOctet (pay (s.cmd k.val).desc 0 1) p with
        | some o => complete k.val stRejected (0x20 + o * 2 ^ 16) s
        | none => acceptSite k.val (pay (s.cmd k.val).desc 0 1) (s.cmd k.val).desc s) := by
  have hc : ¬(s.sys.state = .standby ∨ s.time.span ≤ (s.cmd k.val).dspan) := by
    rintro (hb | hle)
    · exact hsb hb
    · omega
  show execSiteStart k s = _
  rw [execSiteStart, onCmd_pos h]
  exact congrArg _ (if_neg hc)

theorem exec_siteStart_unassigned (hm : (s.site (pay (s.cmd k.val).desc 0 1)).mode = 7) :
    exec (.siteStart k) s = .next (complete k.val stPrecondition 0 s) := by
  rw [exec_siteStart h hsb hsp, State.planOf, if_pos hm]

variable {p : Plan} (hm : (s.site (pay (s.cmd k.val).desc 0 1)).mode ≠ 7)
  (hp : s.plan (s.site (pay (s.cmd k.val).desc 0 1)).plan = some p)
include hm hp

theorem exec_siteStart_refused (ho : s.startOk (pay (s.cmd k.val).desc 0 1) p = false) :
    exec (.siteStart k) s = .next (complete k.val stPrecondition 0 s) := by
  rw [exec_siteStart h hsb hsp, State.planOf, if_neg hm, hp]
  simp [ho]

theorem exec_siteStart_slow {o : Nat} (ho : s.startOk (pay (s.cmd k.val).desc 0 1) p = true)
    (hl : s.lowOctet (pay (s.cmd k.val).desc 0 1) p = some o) :
    exec (.siteStart k) s = .next (complete k.val stRejected (0x20 + o * 2 ^ 16) s) := by
  rw [exec_siteStart h hsb hsp, State.planOf, if_neg hm, hp]
  simp [ho, hm, hl]

theorem exec_siteStart_accepted (ho : s.startOk (pay (s.cmd k.val).desc 0 1) p = true)
    (hl : s.lowOctet (pay (s.cmd k.val).desc 0 1) p = none) :
    exec (.siteStart k) s = .next (acceptSite k.val (pay (s.cmd k.val).desc 0 1) (s.cmd k.val).desc s) := by
  rw [exec_siteStart h hsb hsp, State.planOf, if_neg hm, hp]
  simp [ho, hm, hl]

end

/-- The state of an accepted SITE_START, before its command counts as begun. -/
def siteAccepted (k n : Nat) (d : Desc) (s : State) : State :=
  let s1 := scheduleStart (s.site n).plan n (clearRun n s)
  let s2 := parkPins n s1.now (modSite n (beginSite k s1.time.span s1.now (decide (128 ≤ pay d 1 1)) (pay d 1 1 % 64)) s1)
  disturbSite n ((s2.site n).chans.foldl (fun t c => endFar (s1.farPair c) t) s2)

theorem acceptSite_eq (k n : Nat) (d : Desc) (s : State) : acceptSite k n d s = begin_ k (siteAccepted k n d s) := rfl

theorem kept_siteAccepted (k n : Nat) (d : Desc) (s : State) :
    Kept [.vs, .sites, .octets, .pins, .cap, .out] s (siteAccepted k n d s) := by
  refine kept_disturbSite n (by decide) (kept_foldl _ _ (fun t c ht => kept_endFar _ (by decide) ht) ?_)
  exact kept_parkPins n _ (by decide) (kept_modSite n _ (by decide) (kept_scheduleStart _ n (by decide)
    (kept_clearRun n (by decide) (Kept.refl _ s))))

/-- An accepted SITE_START changes its site as `beginSite` says, and no other. -/
theorem siteAccepted_sites (k n : Nat) (d : Desc) (s : State) :
    (siteAccepted k n d s).sites = (modSite n (beginSite k s.time.span s.now (decide (128 ≤ pay d 1 1))
      (pay d 1 1 % 64)) s).sites := by
  have h1 : Kept [.vs, .pins, .cap] s (scheduleStart (s.site n).plan n (clearRun n s)) :=
    kept_scheduleStart _ n (by decide) (kept_clearRun n (by decide) (Kept.refl _ s))
  unfold siteAccepted
  dsimp only
  generalize scheduleStart (s.site n).plan n (clearRun n s) = s1 at h1
  have hsites : s1.sites = s.sites := h1.same .sites (by decide)
  have htime : s1.time = s.time := h1.same .time (by decide)
  have hnow : s1.now = s.now := by unfold State.now; rw [htime]
  refine (disturbSite_sites n _).trans (((kept_foldl (m := [.octets, .pins, .out]) _ _
    (fun t c ht => kept_endFar _ (List.Subset.refl _) ht) (Kept.refl _ _)).same .sites (by decide)).trans ?_)
  rw [parkPins_sites, modSite_sites, hsites, htime, hnow]
  rfl

/-- A transfer moves the sequencer, or ends its issue. -/
theorem transfer_moves_or_ends (x : Site) (a ovl : Nat) :
    (∃ o, x.transfer a ovl = x.goto a o) ∨ ∃ e, x.transfer a ovl = endIssue e x := by
  unfold Site.transfer
  split
  · exact Or.inl ⟨_, rfl⟩
  · exact Or.inr ⟨_, rfl⟩

/-- What a run starts with, wherever its entry lies. -/
theorem beginSite_starts (k span now : Nat) (mergeEn : Bool) (merge : Nat) (x : Site) :
    let y := beginSite k span now mergeEn merge x
    y.running = true ∧ y.play = .starting ∧ y.nextT = (span + 2) * spanGr ∧ y.loops = [] ∧ y.calls = [] ∧
    y.vcount = 0 ∧ y.ts = x.initTs ∧ y.latches = [] ∧ y.lastReason = 0 ∧ y.cmd = some k ∧ y.imem = x.imem ∧
    y.dmem = x.dmem := by
  intro y
  unfold y beginSite
  dsimp only
  generalize hz : Site.mk .. = z
  rcases transfer_moves_or_ends z (x.entry % 2048) (x.entry / 2048) with ⟨o, he⟩ | ⟨e, he⟩
  · rw [he, ← hz]
    exact ⟨rfl, rfl, rfl, rfl, rfl, rfl, rfl, rfl, rfl, rfl, rfl, rfl⟩
  · rw [he, ← hz]
    exact ⟨rfl, rfl, rfl, rfl, rfl, rfl, rfl, rfl, rfl, rfl, rfl, rfl⟩

theorem beginSite_base (k span now : Nat) (mergeEn : Bool) (merge : Nat) {x : Site} (h : x.entry % 2048 < 0x400) :
    let y := beginSite k span now mergeEn merge x
    y.pc = x.entry % 2048 ∧ y.ovl = 0 ∧ y.issuing = true := by
  intro y
  unfold y beginSite
  dsimp only
  rw [transfer_base _ _ h]
  exact ⟨rfl, rfl, rfl⟩

/-- Settles O32: the refusals by the branches of `exec_siteStart`, the start by `beginSite`. -/
theorem siteStarts : Obligations.SiteStarts := by
  intro k s h hsb hsp n x
  refine ⟨fun hm => ⟨_, exec_siteStart_unassigned h hsb hsp hm, doneAs_complete .., rfl⟩, fun p hm hp =>
    ⟨fun ho => ⟨_, exec_siteStart_refused h hsb hsp hm hp ho, doneAs_complete .., onlySlot_complete .., rfl⟩,
     fun o ho hl => ⟨_, exec_siteStart_slow h hsb hsp hm hp ho hl, doneAs_complete .., onlySlot_complete .., rfl⟩,
     fun ho hl => ?_⟩⟩
  have hrow := exec_siteStart_accepted h hsb hsp hm hp ho hl
  rw [acceptSite_eq] at hrow
  have hhqm : (siteAccepted k.val n (s.cmd k.val).desc s).hqm = s.hqm := (kept_siteAccepted ..).same .hqm (by decide)
  have hsites := siteAccepted_sites k.val n (s.cmd k.val).desc s
  have hsite : (begin_ k.val (siteAccepted k.val n (s.cmd k.val).desc s)).site n = beginSite k.val s.time.span s.now
      (decide (128 ≤ pay (s.cmd k.val).desc 1 1)) (pay (s.cmd k.val).desc 1 1 % 64) x := site_of_sites_mod hsites
  refine ⟨_, hrow, begunAs_begin hhqm, onlySlot_begin hhqm, onlySite_of_sites_mod hsites, ?_⟩
  rw [hsite]
  obtain ⟨h1, h2, h3, h4, h5, h6, h7, h8, h9, h10, h11, h12⟩ := beginSite_starts k.val s.time.span s.now
    (decide (128 ≤ pay (s.cmd k.val).desc 1 1)) (pay (s.cmd k.val).desc 1 1 % 64) x
  exact ⟨h1, h2, h3, h4, h5, h6, h7, h8, h9, h10, h11, h12, beginSite_base _ _ _ _ _⟩

/-! ## SITE_STOP, SITE_PARK, SITE_RESET (R129, R133, R134) -/

theorem exec_siteStop {k : CmdSlot} {s : State} (h : s.holds k.val 0x21 = true) : exec (.siteStop k) s = .next
    (if !(s.site (pay (s.cmd k.val).desc 0 1)).running then complete k.val stOK 0 s
    else begin_ k.val (requestStop (pay (s.cmd k.val).desc 0 1) (some k.val) false ((s.cmd k.val).dspan + 1) 0 s)) := by
  show execSiteStop k s = _
  rw [execSiteStop, onCmd_pos h]

theorem exec_sitePark {k : CmdSlot} {s : State} (h : s.holds k.val 0x22 = true) : exec (.sitePark k) s = .next
    (if !(s.site (pay (s.cmd k.val).desc 0 1)).running then complete k.val stOK 0 s
    else begin_ k.val (requestStop (pay (s.cmd k.val).desc 0 1) (some k.val) true ((s.cmd k.val).dspan + 1)
      (pay (s.cmd k.val).desc 4 4) s)) := by
  show execSitePark k s = _
  rw [execSitePark, onCmd_pos h]

theorem exec_siteReset {k : CmdSlot} {s : State} (h : s.holds k.val 0x23 = true) : exec (.siteReset k) s = .next
    (if (s.site (pay (s.cmd k.val).desc 0 1)).running || (s.site (pay (s.cmd k.val).desc 0 1)).mode == 7 then
      complete k.val stPrecondition 0 s
    else complete k.val stOK 0 (modSite (pay (s.cmd k.val).desc 0 1) resetSite s)) := by
  show execSiteReset k s = _
  rw [execSiteReset, onCmd_pos h]

/-- A stop request on a run that has not ended joins those that wait. -/
theorem requestStop_site {n p limit : Nat} {cmd : Option Nat} {isPark : Bool} {s : State}
    (h : (s.site n).play ≠ .ended) : (requestStop n cmd isPark p limit s).site n =
      { s.site n with stops := (s.site n).stops ++ [{ cmd := cmd, isPark := isPark, p := p, limit := limit,
                                                      ord := (s.site n).stops.length }] } := by
  rw [requestStop, modSite_site_self]
  split
  next he => exact absurd he h
  next => rfl

theorem onlySite_requestStop (n p limit : Nat) (cmd : Option Nat) (isPark : Bool) (s : State) :
    onlySite n s (requestStop n cmd isPark p limit s) :=
  onlySite_modSite n _ s

theorem resetSite_ovl (x : Site) :
    (resetSite x).ovl = if x.entry % 2048 < 0x400 then 0 else x.entry / 2048 := by
  show (if (winOf (x.entry % 2048)).isSome then x.entry / 2048 else 0) = _
  by_cases h : x.entry % 2048 < 0x400
  · rw [if_pos h, if_neg (by rw [winOf_isSome]; omega)]
  · rw [if_neg h, if_pos (by rw [winOf_isSome]; omega)]

/-- Settles O33: each row by whether its site runs. -/
theorem stopsAndResets : Obligations.StopsAndResets := by
  constructor
  · intro k s d n req
    refine ⟨fun h => ⟨fun hr => ?_, fun hr hp => ?_⟩, fun h => ⟨fun hr => ?_, fun hr hp => ?_⟩⟩
    · exact ⟨_, (exec_siteStop h).trans (congrArg _ (if_pos (by rw [hr]; rfl))), doneAs_complete ..,
        onlySlot_complete .., rfl⟩
    · exact ⟨_, (exec_siteStop h).trans (congrArg _ (if_neg (by rw [hr]; decide))), begunAs_begin rfl,
        onlySlot_begin rfl, onlySite_requestStop _ _ _ _ _ s, requestStop_site hp⟩
    · exact ⟨_, (exec_sitePark h).trans (congrArg _ (if_pos (by rw [hr]; rfl))), doneAs_complete ..,
        onlySlot_complete .., rfl⟩
    · exact ⟨_, (exec_sitePark h).trans (congrArg _ (if_neg (by rw [hr]; decide))), begunAs_begin rfl,
        onlySlot_begin rfl, onlySite_requestStop _ _ _ _ _ s, requestStop_site hp⟩
  · intro k s h n x
    refine ⟨fun hr => ?_, fun hr hm => ?_⟩
    · refine ⟨_, (exec_siteReset h).trans (congrArg _ (if_pos ?_)), doneAs_complete .., onlySlot_complete ..,
        sameBut_complete _ _ _ _⟩
      simpa using hr
    · have hkept : Kept [.hqm, .sites] s (complete k.val stOK 0 (modSite n resetSite s)) :=
        kept_complete _ _ _ (by decide) (kept_modSite n _ (by decide) (Kept.refl _ s))
      refine ⟨_, (exec_siteReset h).trans (congrArg _ (if_neg ?_)), doneAs_complete .., onlySlot_complete ..,
        onlySite_modSite n _ s, hkept.same, ?_⟩
      · exact (by simp [hr, hm] : ¬(x.running || x.mode == 7) = true)
      · refine (modSite_site_self n resetSite s).trans ?_
        rw [← resetSite_ovl]
        rfl

end Sys2Proof.Machine

/-!
Engine 88 and refill: TABLE_LOAD, PLAN_LOAD, and the schedule's pecks.
-/

namespace Sys2Proof.Machine

/-! ## DRAM woken for a command, and at rest again (R512) -/

/-- Waking DRAM changes its refresh state and nothing that a command reads. -/
theorem wakeDram_eq (s : State) :
    ∃ r c, wakeDram s = { s with dram := { s.dram with selfRef := r, chans := c } } := by
  unfold wakeDram
  split
  · exact ⟨_, _, rfl⟩
  · exact ⟨_, _, rfl⟩

theorem restDram_eq (s : State) : ∃ r, restDram s = { s with dram := { s.dram with selfRef := r } } := by
  unfold restDram
  split
  · exact ⟨_, rfl⟩
  · exact ⟨_, rfl⟩

theorem restDram_vs (s : State) : (restDram s).vs = s.vs := by
  obtain ⟨_, h⟩ := restDram_eq s
  rw [h]

theorem restDram_sites (s : State) : (restDram s).sites = s.sites := by
  obtain ⟨_, h⟩ := restDram_eq s
  rw [h]

theorem restDram_pins (s : State) : (restDram s).pins = s.pins := by
  obtain ⟨_, h⟩ := restDram_eq s
  rw [h]

/-- A command completed behind effects that left the slots, the clock, the device state and the Halso link alone,
with DRAM at rest again. -/
theorem rested_complete_of_kept {m : List Part} {s u : State} (k : Nat) (st : BitVec 8) (r : Nat) (h : Kept m s u)
    (hm : ∀ x ∈ [Part.sys, .hqm, .time, .halso], x ∉ m) :
    doneAs k st r s (restDram (complete k st r u)) ∧ onlySlot k s (restDram (complete k st r u)) := by
  obtain ⟨b, hb⟩ := restDram_eq (complete k st r u)
  rw [hb]
  exact complete_of_kept k st r h hm

theorem kept_wakeDram_self (s : State) : Kept [.dram] s (wakeDram s) :=
  kept_wakeDram (List.Subset.refl _) (Kept.refl _ s)

/-! ## TABLE_LOAD (R217, R463) -/

/-- The records that a TABLE_LOAD reads. -/
def tabsRead (d : Desc) (s : State) : List TabRec × Option Nat :=
  readTabSeq s.dram.mem s.installed (fun m => (m &&& ~~~ BitVec.ofNat 128 (2 ^ s.nCh - 1)) == 0) (s.installed / 32)
    (pay d 8 8)

/-- The channels that records name. -/
def tabsNamed (rs : List TabRec) : BitVec 128 := rs.foldl (fun m x => m ||| x.pins) (0 : BitVec 128)

theorem exec_tableLoad {k : CmdSlot} {s : State} (linkErr : Bool) (h : s.holds k.val 0x18 = true)
    (hw : s.vs.loadWait = none) (ht : s.turn88 k.val = true) : exec (.tableLoad k linkErr) s = .next
      (if !s.dram.enabled then complete k.val stPrecondition 0 s
      else restDram (loadTables k.val linkErr (s.cmd k.val).desc (wakeDram s))) := by
  have hc : ¬((!s.engine88Free || !s.turn88 k.val) = true) := by simp [State.engine88Free, hw, ht]
  show execTableLoad k linkErr s = _
  rw [execTableLoad, onCmd_pos h, if_neg hc]

section
variable {k : Nat} {d : Desc} {t : State}

theorem loadTables_malformed (hr : (tabsRead d t).2 = none) :
    loadTables k false d t = complete k stBad (0xFF + (tabsRead d t).1.length % 65536 * 2 ^ 16) t := by
  unfold tabsRead at *
  simp only [loadTables, hr, Bool.false_eq_true, if_false]

theorem loadTables_owned {c : Nat} (hr : (tabsRead d t).2 ≠ none)
    (hc : (bitList (tabsNamed (tabsRead d t).1)).find? t.ownedRunning = some c) :
    loadTables k false d t = complete k stPrecondition (c * 2 ^ 16) t := by
  obtain ⟨e, he⟩ := Option.ne_none_iff_exists'.mp hr
  unfold tabsNamed tabsRead at *
  simp only [loadTables, he, hc, Bool.false_eq_true, if_false]

theorem loadTables_breach {code i : Nat} (hr : (tabsRead d t).2 ≠ none)
    (hc : (bitList (tabsNamed (tabsRead d t).1)).find? t.ownedRunning = none)
    (hb : tableBreach (applyTabs (tabsRead d t).1 (tabsNamed (tabsRead d t).1) t.pins) (tabsNamed (tabsRead d t).1) t =
      some (code, i)) :
    loadTables k false d t = complete k stRejected (code + i * 2 ^ 16) t := by
  obtain ⟨e, he⟩ := Option.ne_none_iff_exists'.mp hr
  unfold tabsNamed tabsRead at *
  simp only [loadTables, he, hc, hb, Bool.false_eq_true, if_false]

/-- The tables of a TABLE_LOAD written: the channels that its records name changed state. -/
def tabsWritten (d : Desc) (t : State) : State :=
  let named := tabsNamed (tabsRead d t).1
  sendLevels named (mapPins (fun c p => if bit named c then p.disturb else p)
    (setPins (applyTabs (tabsRead d t).1 named t.pins) t))

theorem loadTables_written (hr : (tabsRead d t).2 ≠ none)
    (hc : (bitList (tabsNamed (tabsRead d t).1)).find? t.ownedRunning = none)
    (hb : tableBreach (applyTabs (tabsRead d t).1 (tabsNamed (tabsRead d t).1) t.pins) (tabsNamed (tabsRead d t).1) t =
      none) : loadTables k false d t = complete k stOK (tabsRead d t).1.length (tabsWritten d t) := by
  obtain ⟨e, he⟩ := Option.ne_none_iff_exists'.mp hr
  unfold tabsWritten
  unfold tabsNamed tabsRead at *
  simp only [loadTables, he, hc, hb, Bool.false_eq_true, if_false]

end

theorem tabsWritten_pins (d : Desc) (t : State) : (tabsWritten d t).pins =
    (applyTabs (tabsRead d t).1 (tabsNamed (tabsRead d t).1) t.pins).mapAll
      fun c p => if bit (tabsNamed (tabsRead d t).1) c then p.disturb else p :=
  (kept_sendLevels (m := [.octets, .out]) _ (List.Subset.refl _) (Kept.refl _ _)).same .pins (by decide)

theorem kept_tabsWritten (d : Desc) (t : State) : Kept [.octets, .pins, .out] t (tabsWritten d t) :=
  kept_sendLevels _ (by decide) (kept_mapPins _ (by decide) (kept_setPins _ (by decide)
    (fun h => wf_applyTabs _ _ _ h.2.2.2) (Kept.refl _ t)))

/-- Settles O30: each outcome is a branch of `loadTables`, on the state with DRAM woken. -/
theorem tablesLoad : Obligations.TablesLoad := by
  intro k s h hl ht en r named pins
  refine ⟨fun hen => ?_, fun hen => ?_⟩
  · exact ⟨_, (exec_tableLoad false h hl ht).trans (congrArg _ (if_pos (by rw [hen]; rfl))), doneAs_complete ..,
      onlySlot_complete .., rfl⟩
  have hrow : ∀ linkErr, exec (.tableLoad k linkErr) s =
      .next (restDram (loadTables k.val linkErr (s.cmd k.val).desc (wakeDram s))) := fun linkErr =>
    (exec_tableLoad linkErr h hl ht).trans (congrArg _ (if_neg (by rw [hen]; decide)))
  have hkept := kept_wakeDram_self s
  have hpins : (wakeDram s).pins = s.pins := hkept.same .pins (by decide)
  have hread : tabsRead (s.cmd k.val).desc (wakeDram s) = r := by
    obtain ⟨_, _, hu⟩ := wakeDram_eq s
    rw [hu]
    rfl
  have hrun : (wakeDram s).ownedRunning = s.ownedRunning := by
    obtain ⟨_, _, hu⟩ := wakeDram_eq s
    rw [hu]
    rfl
  have hbreach : tableBreach pins named (wakeDram s) = tableBreach pins named s := by
    obtain ⟨_, _, hu⟩ := wakeDram_eq s
    rw [hu]
    rfl
  have hdone := fun st n => rested_complete_of_kept k.val st n hkept (by decide)
  have hkeep : ∀ st n, (restDram (complete k.val st n (wakeDram s))).pins = s.pins := fun st n =>
    (restDram_pins _).trans hpins
  refine ⟨⟨_, hrow true, (hdone _ _).1, hkeep _ _⟩, fun hr => ?_, fun hr => ⟨fun c hc => ?_, fun hc =>
    ⟨fun code i hb => ?_, fun hb => ?_⟩⟩⟩
  · have hload := loadTables_malformed (k := k.val) (d := (s.cmd k.val).desc) (t := wakeDram s) (hread ▸ hr)
    rw [hread] at hload
    exact ⟨_, (hrow false).trans (by rw [hload]), (hdone _ _).1, hkeep _ _⟩
  · have hload := loadTables_owned (k := k.val) (d := (s.cmd k.val).desc) (t := wakeDram s) (c := c) (hread ▸ hr)
      (by rw [hread, hrun]; exact hc)
    exact ⟨_, (hrow false).trans (by rw [hload]), (hdone _ _).1, hkeep _ _⟩
  · have hload := loadTables_breach (k := k.val) (d := (s.cmd k.val).desc) (t := wakeDram s) (hread ▸ hr)
      (by rw [hread, hrun]; exact hc) (by rw [hread, hpins]; exact hbreach.trans hb)
    exact ⟨_, (hrow false).trans (by rw [hload]), (hdone _ _).1, hkeep _ _⟩
  · have hload := loadTables_written (k := k.val) (d := (s.cmd k.val).desc) (t := wakeDram s) (hread ▸ hr)
      (by rw [hread, hrun]; exact hc) (by rw [hread, hpins]; exact hbreach.trans hb)
    have hwritten := tabsWritten_pins (s.cmd k.val).desc (wakeDram s)
    rw [hread] at hload
    rw [hread, hpins] at hwritten
    obtain ⟨hd, ho⟩ := rested_complete_of_kept k.val stOK r.1.length (m := [.dram, .octets, .pins, .out])
      ((hkept.mono (by decide)).trans ((kept_tabsWritten (s.cmd k.val).desc (wakeDram s)).mono (by decide))) (by decide)
    exact ⟨_, (hrow false).trans (by rw [hload]), hd, ho, (restDram_pins _).trans hwritten⟩

/-! ## PLAN_LOAD (R40, R43, R179, R182, R578) -/

theorem modVs_loadWait_none {u : State} (h : u.vs.loadWait = none) :
    modVs (fun v => { v with loadWait := none }) u = u := by
  show { u with vs := { u.vs with loadWait := none } } = u
  rw [← h]

/-- A load that powered no PLL up is rejected by its completion alone. -/
theorem rejectPlan_unpowered {u : State} (k : Nat) (r : Reason) (h : u.vs.loadWait = none) :
    rejectPlan k 0 r u = complete k stRejected (r.1 + r.2 % 65536 * 2 ^ 16) u := by
  rw [rejectPlan, modVs_loadWait_none h]
  rfl

theorem exec_planLoad {k : CmdSlot} {s : State} (rd : ReadOutcome) (h : s.holds k.val 0x10 = true)
    (ht : s.turn88 k.val = true) (hl : s.vs.loadWait = none) :
    exec (.planLoad k rd) s = .next (startLoad k.val rd (pay (s.cmd k.val).desc 8 8) s) := by
  show execPlanLoad k rd s = _
  rw [execPlanLoad, onCmd_pos h, if_neg (by rw [ht]; decide), hl]

theorem startLoad_of_enabled {k a : Nat} {rd : ReadOutcome} {s : State} (he : s.dram.enabled = true)
    (hs : s.slotsClaimed.length < 64) : startLoad k rd a s = restDram (readStart k rd a (wakeDram s)) := by
  rw [startLoad, if_neg (by rw [he]; decide), if_neg (by omega)]

/-- Who may be read of the state that a load's checks see: DRAM is woken, nothing else differs. -/
theorem wakeDram_checks (s : State) : (wakeDram s).dram.mem = s.dram.mem ∧ (wakeDram s).installed = s.installed ∧
    (∀ rates, (wakeDram s).toPower rates = s.toPower rates) ∧ (∀ g, checks2to5 g (wakeDram s) = checks2to5 g s) ∧
    (wakeDram s).freeSlot = s.freeSlot ∧ (wakeDram s).vs = s.vs := by
  obtain ⟨_, _, h⟩ := wakeDram_eq s
  rw [h]
  exact ⟨rfl, rfl, fun _ => rfl, fun _ => rfl, rfl, rfl⟩

section
variable {k : Nat} {rd : ReadOutcome} {u : State}

theorem readStart_errHeader (a : Nat) : readStart k .errHeader a u = rejectPlan k 0 (0x07, 0) u := by
  simp only [readStart, if_true]

theorem readStart_headerFault {a : Nat} {r : Reason} (hrd : rd ≠ .errHeader)
    (hf : headerFault u.dram.mem (readHeader u.dram.mem a) = some r) : readStart k rd a u = rejectPlan k 0 r u := by
  simp only [readStart, if_neg hrd, hf]

theorem readStart_unpowered {a : Nat} (hrd : rd ≠ .errHeader)
    (hf : headerFault u.dram.mem (readHeader u.dram.mem a) = none)
    (hp : u.toPower (readHeader u.dram.mem a).rates = 0) :
    readStart k rd a u = finishLoad k rd 0 (readHeader u.dram.mem a) u := by
  simp only [readStart, if_neg hrd, hf, hp, if_true]

theorem finishLoad_check1 {h : Header} {r : Reason}
    (h1 : check1 u.dram.mem u.installed (badBlock rd) h = some r) : finishLoad k rd 0 h u = rejectPlan k 0 r u := by
  simp only [finishLoad, h1]

theorem finishLoad_checks {h : Header} {r : Reason} (h1 : check1 u.dram.mem u.installed (badBlock rd) h = none)
    (h2 : checks2to5 (readImage u.dram.mem h.a) u = .inl r) : finishLoad k rd 0 h u = rejectPlan k 0 r u := by
  simp only [finishLoad, h1, h2]

/-- The window tags of a plan's sites cleared. -/
def clearTags (ns : List Nat) (s : State) : State :=
  ns.foldl (fun t n => modSite n (fun x => { x with win0 := 0, win1 := 0 }) t) s

theorem finishLoad_errCopy {h : Header} {p : Plan} {fs : List SiteFindings} {pins : SMap Pin}
    (h1 : check1 u.dram.mem u.installed (badBlock .errCopy) h = none)
    (h2 : checks2to5 (readImage u.dram.mem h.a) u = .inr (p, fs, pins)) :
    finishLoad k .errCopy 0 h u = rejectPlan k 0 (0x07, 0) (clearTags p.sites u) := by
  simp only [finishLoad, h1, h2, if_true]
  rfl

theorem finishLoad_loaded {h : Header} {p : Plan} {fs : List SiteFindings} {pins : SMap Pin} (hrd : rd ≠ .errCopy)
    (hl : u.vs.loadWait = none) (h1 : check1 u.dram.mem u.installed (badBlock rd) h = none)
    (h2 : checks2to5 (readImage u.dram.mem h.a) u = .inr (p, fs, pins)) :
    finishLoad k rd 0 h u =
      complete k stOK u.freeSlot (installPlan u.freeSlot p (readImage u.dram.mem h.a) fs pins u) := by
  simp only [finishLoad, h1, h2, if_neg hrd, modVs_loadWait_none hl]

end

/-! ### What a plan's installation leaves -/

theorem clearTags_site (ns : List Nat) (s : State) (n : Nat) : (clearTags ns s).site n =
    if n ∈ ns then { s.site n with win0 := 0, win1 := 0 } else s.site n := by
  induction ns generalizing s with
  | nil => rfl
  | cons m ns ih =>
    refine (ih _).trans ?_
    by_cases hn : n = m
    · subst hn
      rw [modSite_site_self, if_pos List.mem_cons_self]
      split <;> rfl
    · rw [modSite_site_ne _ _ _ _ hn]
      simp only [List.mem_cons, hn, false_or]

theorem kept_clearTags (ns : List Nat) (s : State) : Kept [.sites] s (clearTags ns s) :=
  kept_foldl _ _ (fun _ _ ht => kept_modSite _ _ (List.Subset.refl _) ht) (Kept.refl _ s)

/-- Copying resident contents changes of the Vector Store its bytes alone. -/
theorem foldl_vsMem {α : Type} (f : State → α → State) (hf : ∀ t a, ∃ m, (f t a).vs = { t.vs with mem := m })
    (l : List α) (s : State) : ∃ m, (l.foldl f s).vs = { s.vs with mem := m } := by
  induction l generalizing s with
  | nil => exact ⟨_, rfl⟩
  | cons a l ih =>
    obtain ⟨m, hm⟩ := hf s a
    obtain ⟨m', hm'⟩ := ih (f s a)
    exact ⟨m', by rw [List.foldl_cons, hm', hm]⟩

theorem copyResident_vs (p : Plan) (b7 : Nat) (s : State) : ∃ m, (copyResident p b7 s).vs = { s.vs with mem := m } := by
  refine foldl_vsMem _ (fun t r => ?_) _ s
  split
  · refine foldl_vsMem _ (fun u j => ?_) _ t
    exact ⟨_, rfl⟩
  · exact ⟨_, rfl⟩

/-- The plan and its claims, as an installation puts them first. -/
def planClaimed (slot : Nat) (p : Plan) (s : State) : State :=
  modVs (fun v => { v with
    plans := v.plans.set slot (some p),
    bushels := p.wanted.foldl (fun m e =>
      m.set (p.bushels.get e.1) { claimed := true, slot := slot, pb := e.1 }) v.bushels }) s

/-- The sites of a loaded plan, as an installation fills them. -/
def sitesInstalled (slot : Nat) (g : Image) (fs : List SiteFindings) (s : State) : State :=
  (g.recs.zip fs).foldl (fun t rf => modSite rf.1.site (installSite t.dram.mem g.b8 slot rf.1 rf.2) t) s

/-- The pins of a loaded plan: its tables, its lane rates, and their park states. -/
def pinsInstalled (p : Plan) (g : Image) (pins : SMap Pin) (s : State) : State :=
  sendLevels g.chans (p.sites.foldl (fun t n => parkPins n t.now t)
    (((bitList p.linkMask).filter fun o => bits g.chans (8 * o) 8 != 0).foldl (fun t o =>
      modOctet o (fun x => { x with linkRate := laneIndex (p.rates.getD o 0) }) t) (setPins pins s)))

theorem installPlan_eq (slot : Nat) (p : Plan) (g : Image) (fs : List SiteFindings) (pins : SMap Pin) (s : State) :
    installPlan slot p g fs pins s =
      pinsInstalled p g pins (copyResident p g.b7 (sitesInstalled slot g fs (planClaimed slot p s))) := rfl

theorem sitesInstalled_vs (slot : Nat) (g : Image) (fs : List SiteFindings) (s : State) :
    (sitesInstalled slot g fs s).vs = s.vs :=
  (kept_foldl (m := [.sites]) _ _ (fun _ _ ht => kept_modSite _ _ (List.Subset.refl _) ht) (Kept.refl _ s)).same .vs
    (by decide)

/-- A site that no record of the image names is left alone. -/
theorem sitesInstalled_site {g : Image} {n : Nat} (hn : n ∉ g.recs.map (·.site)) (slot : Nat) (fs : List SiteFindings)
    (s : State) : (sitesInstalled slot g fs s).site n = s.site n := by
  have h : ∀ (l : List (SiteRec × SiteFindings)) (t : State), (∀ rf ∈ l, rf.1.site ≠ n) →
      (l.foldl (fun t rf => modSite rf.1.site (installSite t.dram.mem g.b8 slot rf.1 rf.2) t) t).site n = t.site n := by
    intro l
    induction l with
    | nil => exact fun _ _ => rfl
    | cons rf l ih =>
      intro t hl
      rw [List.foldl_cons, ih _ fun x hx => hl x (List.mem_cons_of_mem _ hx)]
      exact modSite_site_ne _ _ _ _ (Ne.symm (hl rf List.mem_cons_self))
  exact h _ s fun rf hrf he => hn (List.mem_map.mpr ⟨rf.1, (List.of_mem_zip hrf).1, he⟩)

/-- The pins of an installation touch neither the sites nor the Vector Store. -/
theorem pinsInstalled_same (p : Plan) (g : Image) (pins : SMap Pin) (s : State) :
    (pinsInstalled p g pins s).vs = s.vs ∧ (pinsInstalled p g pins s).sites = s.sites := by
  have h := kept_sendLevels (m := [.octets, .pins, .out]) g.chans (by decide)
    (kept_foldl _ p.sites (fun t n ht => kept_parkPins n t.now (by decide) ht)
      (kept_foldl _ ((bitList p.linkMask).filter fun o => bits g.chans (8 * o) 8 != 0)
        (fun t o ht => kept_modOctet o (fun x => { x with linkRate := laneIndex (p.rates.getD o 0) }) (by decide) ht)
        (Kept.refl _ (setPins pins s))))
  exact ⟨h.same .vs (by decide), h.same .sites (by decide)⟩

theorem installPlan_vs (slot : Nat) (p : Plan) (g : Image) (fs : List SiteFindings) (pins : SMap Pin) (s : State) :
    ∃ m, (installPlan slot p g fs pins s).vs = { (planClaimed slot p s).vs with mem := m } := by
  obtain ⟨m, hm⟩ := copyResident_vs p g.b7 (sitesInstalled slot g fs (planClaimed slot p s))
  exact ⟨m, by rw [installPlan_eq, (pinsInstalled_same ..).1, hm, sitesInstalled_vs]⟩

theorem installPlan_site {g : Image} {n : Nat} (hn : n ∉ g.recs.map (·.site)) (slot : Nat) (p : Plan)
    (fs : List SiteFindings) (pins : SMap Pin) (s : State) : (installPlan slot p g fs pins s).site n = s.site n := by
  have hcopy : ∀ t, (copyResident p g.b7 t).sites = t.sites := fun t =>
    (kept_copyResident p g.b7 (List.Subset.refl _) (Kept.refl _ t)).same .sites (by decide)
  rw [installPlan_eq, site_of_sites (pinsInstalled_same ..).2, site_of_sites (hcopy _), sitesInstalled_site hn]
  rfl

theorem checks2to5_sites {g : Image} {s : State} {p : Plan} {fs : List SiteFindings} {pins : SMap Pin}
    (h : checks2to5 g s = .inr (p, fs, pins)) : p.sites = g.recs.map (·.site) := by
  unfold checks2to5 at h
  dsimp only at h
  split at h
  · cases h
  · split at h
    · cases h
    · split at h
      · cases h
      · split at h
        · cases h
        · cases h
          rfl

/-! ### The outcomes of a PLAN_LOAD -/

/-- A load rejected on the state with DRAM woken: its command completes, and no plan and no site changes. -/
theorem rejected_of_readStart {k : CmdSlot} {s : State} {rd : ReadOutcome} {a : Nat} (r : Reason)
    (hl : s.vs.loadWait = none)
    (hrow : exec (.planLoad k rd) s = .next (restDram (readStart k.val rd a (wakeDram s))))
    (hread : readStart k.val rd a (wakeDram s) = rejectPlan k.val 0 r (wakeDram s)) :
    ∃ t, exec (.planLoad k rd) s = .next t ∧ doneAs k.val stRejected (r.1 + r.2 % 65536 * 2 ^ 16) s t ∧
      onlySlot k.val s t ∧ t.vs = s.vs ∧ t.sites = s.sites := by
  have hkept := kept_wakeDram_self s
  have hvs : (wakeDram s).vs = s.vs := hkept.same .vs (by decide)
  have hsites : (wakeDram s).sites = s.sites := hkept.same .sites (by decide)
  rw [hread, rejectPlan_unpowered k.val r (by rw [hvs]; exact hl)] at hrow
  obtain ⟨hd, ho⟩ := rested_complete_of_kept k.val stRejected (r.1 + r.2 % 65536 * 2 ^ 16) hkept (by decide)
  exact ⟨_, hrow, hd, ho, (restDram_vs _).trans hvs, (restDram_sites _).trans hsites⟩

/-- A copy that failed after the checks: the load is rejected and the window tags of its sites are cleared. -/
theorem rejected_of_errCopy {k : CmdSlot} {s : State} {rd : ReadOutcome} {a : Nat} {p : Plan}
    (hl : s.vs.loadWait = none)
    (hrow : exec (.planLoad k rd) s = .next (restDram (readStart k.val rd a (wakeDram s))))
    (hread : readStart k.val rd a (wakeDram s) = rejectPlan k.val 0 (0x07, 0) (clearTags p.sites (wakeDram s))) :
    ∃ t, exec (.planLoad k rd) s = .next t ∧ doneAs k.val stRejected 0x07 s t ∧ t.vs = s.vs ∧
      ∀ n, t.site n = if n ∈ p.sites then { s.site n with win0 := 0, win1 := 0 } else s.site n := by
  have hwake := kept_wakeDram_self s
  have hkept : Kept [.dram, .sites] s (clearTags p.sites (wakeDram s)) :=
    (hwake.mono (by decide)).trans ((kept_clearTags p.sites (wakeDram s)).mono (by decide))
  have hvs : (clearTags p.sites (wakeDram s)).vs = s.vs := hkept.same .vs (by decide)
  rw [hread, rejectPlan_unpowered k.val (0x07, 0) (by rw [hvs]; exact hl)] at hrow
  refine ⟨_, hrow, (rested_complete_of_kept k.val stRejected 0x07 hkept (by decide)).1, (restDram_vs _).trans hvs,
    fun n => (site_of_sites (restDram_sites _) n).trans ((clearTags_site p.sites (wakeDram s) n).trans ?_)⟩
  rw [hwake.site (by decide) n]

/-- An accepted load: its plan and its claims are in place, its command completes with the slot. -/
theorem loaded_of_readStart {k : CmdSlot} {s : State} {rd : ReadOutcome} {a : Nat} {g : Image} {p : Plan}
    {fs : List SiteFindings} {pins : SMap Pin} (hg : checks2to5 g s = .inr (p, fs, pins))
    (hrow : exec (.planLoad k rd) s = .next (restDram (readStart k.val rd a (wakeDram s))))
    (hread : readStart k.val rd a (wakeDram s) =
      complete k.val stOK s.freeSlot (installPlan s.freeSlot p g fs pins (wakeDram s))) :
    ∃ t, exec (.planLoad k rd) s = .next t ∧ doneAs k.val stOK s.freeSlot s t ∧
      t.plan s.freeSlot = some p ∧ (∀ j, j ≠ s.freeSlot → t.plan j = s.plan j) ∧
      t.vs.bushels = p.wanted.foldl (fun b e =>
        b.set (p.bushels.get e.1) { claimed := true, slot := s.freeSlot, pb := e.1 }) s.vs.bushels ∧
      ∀ n, n ∉ p.sites → t.site n = s.site n := by
  have hwake := kept_wakeDram_self s
  have hkept : Kept [.dram, .vs, .sites, .octets, .pins, .out, .vsMem] s
      (installPlan s.freeSlot p g fs pins (wakeDram s)) :=
    kept_installPlan _ p g fs pins (fun h => wf_checks2to5 g hg h.2.2.2) (by decide) (hwake.mono (by decide))
  have hwvs : (wakeDram s).vs = s.vs := hwake.same .vs (by decide)
  obtain ⟨m, hvs⟩ := installPlan_vs s.freeSlot p g fs pins (wakeDram s)
  have hvs' : (restDram (complete k.val stOK s.freeSlot (installPlan s.freeSlot p g fs pins (wakeDram s)))).vs =
      { (planClaimed s.freeSlot p s).vs with mem := m } := by
    rw [restDram_vs]
    refine hvs.trans ?_
    rw [planClaimed, planClaimed, modVs_vs, modVs_vs, hwvs]
  rw [hread] at hrow
  refine ⟨_, hrow, (rested_complete_of_kept k.val stOK s.freeSlot hkept (by decide)).1, ?_, fun j hj => ?_, ?_,
    fun n hn => ?_⟩
  · rw [State.plan, hvs']
    exact SMap.get_set_eq s.vs.plans s.freeSlot (some p)
  · rw [State.plan, hvs']
    exact SMap.get_set_ne s.vs.plans s.freeSlot j (some p) hj
  · rw [hvs']
    rfl
  · rw [checks2to5_sites hg] at hn
    refine (site_of_sites (restDram_sites _) n).trans ?_
    exact (installPlan_site hn _ p fs pins (wakeDram s)).trans (hwake.site (by decide) n)

theorem exec_pllLockTimeout {s : State} {j o : Nat} {mask : BitVec 16} (hl : s.vs.loadWait = some (j, mask))
    (hf : (bitList mask).find? (fun o => !(s.octet o).locked) = some o) :
    exec .pllLockTimeout s = .next (rejectPlan j mask (0x08, o) s) := by
  show execPllLockTimeout s = _
  simp only [execPllLockTimeout, hl, hf]

/-- Settles O28: each outcome by the step of the load at which it comes. -/
theorem planLoads : Obligations.PlanLoads := by
  intro k s m h rejects
  obtain ⟨hmem, hinst, hpow, hchecks, hslot, hvs⟩ := wakeDram_checks s
  refine ⟨fun hh ht hl => ⟨fun rd he => ?_, fun he hs => ?_⟩, fun j mask o hl hf => ?_⟩
  · refine ⟨_, (exec_planLoad rd hh ht hl).trans (congrArg _ (if_pos (by rw [he]; rfl))), doneAs_complete ..,
      onlySlot_complete .., rfl, rfl⟩
  · have hrow : ∀ rd, exec (.planLoad k rd) s =
        .next (restDram (readStart k.val rd (pay (s.cmd k.val).desc 8 8) (wakeDram s))) := fun rd =>
      (exec_planLoad rd hh ht hl).trans (congrArg _ (startLoad_of_enabled he hs))
    have hload : (wakeDram s).vs.loadWait = none := by rw [hvs]; exact hl
    refine ⟨rejected_of_readStart (0x07, 0) hl (hrow _) (readStart_errHeader _), fun rd hrd => ⟨fun r hf => ?_,
      fun hf hp => ?_⟩⟩
    · exact rejected_of_readStart r hl (hrow rd) (readStart_headerFault hrd (by rw [hmem]; exact hf))
    have hread : readStart k.val rd (pay (s.cmd k.val).desc 8 8) (wakeDram s) = finishLoad k.val rd 0 h (wakeDram s) := by
      have := readStart_unpowered (k := k.val) (rd := rd) (u := wakeDram s) (a := pay (s.cmd k.val).desc 8 8) hrd
        (by rw [hmem]; exact hf) (by rw [hmem, hpow]; exact hp)
      rwa [hmem] at this
    refine ⟨fun r h1 => ?_, fun h1 => ⟨fun r h2 => ?_, fun p fs pins h2 => ⟨fun hcopy => ?_, fun hcopy => ?_⟩⟩⟩
    · exact rejected_of_readStart r hl (hrow rd) (hread.trans (finishLoad_check1 (by rw [hmem, hinst]; exact h1)))
    · exact rejected_of_readStart r hl (hrow rd) (hread.trans (finishLoad_checks (by rw [hmem, hinst]; exact h1)
        (by rw [hmem, hchecks]; exact h2)))
    · subst hcopy
      exact rejected_of_errCopy hl (hrow _) (hread.trans (finishLoad_errCopy (by rw [hmem, hinst]; exact h1)
        (by rw [hmem, hchecks]; exact h2)))
    · have hdone := finishLoad_loaded (k := k.val) (h := h) (u := wakeDram s) hcopy hload (by rw [hmem, hinst]; exact h1)
        (by rw [hmem, hchecks]; exact h2)
      rw [hslot, hmem] at hdone
      exact loaded_of_readStart h2 (hrow rd) (hread.trans hdone)
  · have hkept : Kept [.vs, .octets] s (pllDown mask (modVs (fun v => { v with loadWait := none }) s)) :=
      kept_pllDown mask (by decide) (kept_modVs _ (by decide) rfl (Kept.refl _ s))
    refine ⟨_, exec_pllLockTimeout hl hf, (complete_of_kept j stRejected (0x08 + o % 65536 * 2 ^ 16) hkept (by decide)).1,
      ?_⟩
    exact (kept_pllDown (m := [.octets]) mask (List.Subset.refl _) (Kept.refl _ _)).same .vs (by decide)

/-! ## The schedule (R156, R161) -/

theorem advanceEntry_of_run {q : Plan} (hr : q.running = true) (he : q.ended = false)
    (hd : (q.entries.getD q.entry {}).repeatM1 < q.rep) : advanceEntry q =
      if q.entry + 1 < q.entries.length then { q with entry := q.entry + 1, rep := 0 }
      else if q.loopFrom = 0xFFFF then { q with ended := true }
      else { q with entry := q.loopFrom, rep := 0, cursors := (List.range q.regions.length).foldl (fun m i =>
        if (q.regions.getD i {}).kind = 2 then m.set i (q.regions.getD i {}).loopCursor else m) q.cursors } := by
  rw [advanceEntry, if_pos (by rw [hr, he, decide_eq_true hd]; rfl)]

/-! ## Pecks (R172, R173) -/

theorem perfEvent_vs (c u o : Nat) (s : State) : (perfEvent c u o s).vs = s.vs := signalled_vs (signalled_perfEvent c u o s)

theorem exec_peckArrival {id : Nat} {r : Refill} {s : State} (linkErr : Bool)
    (hf : s.vs.refills.find? (fun r => r.id == id) = some r) (ha : r.retryAt = none) (hs : r.span < s.time.span)
    (hd : ∀ ch ∈ s.peckChans r.src, (s.dram.chans.get ch).forced = false) :
    exec (.peckArrival id linkErr) s = .next (arrivePeck linkErr r s) := by
  have ht : s.touches (·.forced) r = false := List.any_eq_false.mpr fun ch hch => by simp [hd ch hch]
  show execPeckArrival id linkErr s = _
  simp only [execPeckArrival, hf]
  rw [if_neg (by simp [ha, ht]; omega)]

/-- The Vector Store once a stream peck has come correct. -/
def peckPlaced (r : Refill) (p : Plan) (s : State) : State :=
  dropRefill r.id (modPlan r.plan (fun q => { q with frames := q.frames.mod r.frame fun f => { f with st := .valid } })
    (modVs (fun v => { v with mem := Mem.store v.mem (p.byteAddr (4096 * r.frame)) (Mem.bytes s.dram.mem r.src 4096) }) s))

theorem arrivePeck_correct {r : Refill} {p : Plan} {s : State} (ho : r.isOvl = false) (hp : s.plan r.plan = some p)
    (hc : crc32c (Mem.bytes s.dram.mem r.src 4096) = r.crc) :
    arrivePeck false r s = perfEvent 0x021 (r.slot % 8) 1 (peckPlaced r p s) := by
  simp only [arrivePeck, hc, acceptPeck, ho, hp, Bool.not_false, beq_self_eq_true, Bool.and_self, if_true,
    Bool.false_eq_true, if_false]
  rfl

/-- The failing attempt counted and flagged. -/
def peckFailed (s : State) : State := raiseIrq 3 (modVs (fun v => { v with crcFail := v.crcFail + 1, event := true }) s)

theorem peckFailed_vs (s : State) : (peckFailed s).vs = { s.vs with crcFail := s.vs.crcFail + 1, event := true } :=
  signalled_vs (signalled_raiseIrq 3 _)

theorem peckFailed_retrySlot (j t : Nat) (s : State) : (peckFailed s).retrySlot j t = s.retrySlot j t := by
  obtain ⟨_, _, _, _, h⟩ := signalled_raiseIrq 3 (modVs (fun v => { v with crcFail := v.crcFail + 1, event := true }) s)
  rw [peckFailed, h]
  rfl

theorem arrivePeck_bad {r : Refill} {s : State} (h : r.retry = true ∨ s.retrySlot (r.slot % 8) r.span = none) :
    arrivePeck true r s = badPeck r (peckFailed s) := by
  have hb : (!true && crc32c (Mem.bytes s.dram.mem r.src 4096) == r.crc) = false := rfl
  by_cases hr : r.retry = true
  · simp only [arrivePeck, hb, failPeck, hr, Bool.false_eq_true, if_false, if_true]
    rfl
  · have hn := (peckFailed_retrySlot (r.slot % 8) r.span s).trans (h.resolve_left hr)
    unfold peckFailed at *
    simp only [arrivePeck, hb, failPeck, hr, hn, Bool.false_eq_true, if_false]

/-- A failing first attempt for which a retry slot fits. -/
def peckRetried (r : Refill) (a : Nat × Nat) (s : State) : State :=
  modVs (fun v => { v with refills := v.refills.map fun x => if x.id = r.id then { x with retryAt := some a } else x })
    (peckFailed s)

theorem arrivePeck_retried {r : Refill} {s : State} {a : Nat × Nat} (hr : r.retry = false)
    (hn : s.retrySlot (r.slot % 8) r.span = some a) : arrivePeck true r s = peckRetried r a s := by
  have hb : (!true && crc32c (Mem.bytes s.dram.mem r.src 4096) == r.crc) = false := rfl
  have hn := (peckFailed_retrySlot (r.slot % 8) r.span s).trans hn
  unfold peckRetried
  unfold peckFailed at *
  simp only [arrivePeck, hb, failPeck, hr, hn, Bool.false_eq_true, if_false]

/-- What a peck that will not come correct leaves of the Vector Store. -/
theorem badPeck_vs {r : Refill} (ho : r.isOvl = false) (s : State) : (badPeck r s).vs = { s.vs with
    bad := s.vs.bad + 1, refills := s.vs.refills.filter fun x => x.id != r.id,
    plans := (modPlan r.plan (fun q => { q with frames := q.frames.mod r.frame fun f => { f with st := .bad } }) s).vs.plans } := by
  unfold badPeck
  dsimp only
  rw [if_neg (by rw [ho]; decide)]
  rfl

/-- The state in which a retry is on its way. -/
def retryIssued (id sl : Nat) (r : Refill) (s : State) : State :=
  let s1 := modVs (fun v => { v with
    refills := v.refills.map fun x =>
      if x.id = id then { x with retryAt := none, retry := true, slot := sl, span := s.time.span, waits := 0 } else x,
    issued := (v.issued.headD 0 + 1) :: v.issued.drop 1 }) s
  if r.isOvl then s1
  else modPlan r.plan (fun q => { q with frames := q.frames.mod r.frame fun f => { f with slot := sl } }) s1

theorem exec_peckRetryIssue {id sl : Nat} {r : Refill} {s : State}
    (hf : s.vs.refills.find? (fun r => r.id == id) = some r) (ha : r.retryAt = some (s.time.span, sl)) :
    exec (.peckRetryIssue id) s =
      .next (perfEvent 0x022 (sl % 8) 1 (perfEvent 0x020 (sl % 8) 1 (retryIssued id sl r s))) := by
  show execPeckRetryIssue id s = _
  simp only [execPeckRetryIssue, hf, ha, if_true]
  rfl

/-- Settles O31: the schedule by `advanceEntry`, an arrival by whether its peck is correct and a retry fits. -/
theorem refillActs : Obligations.RefillActs := by
  intro s
  refine ⟨fun p q hq hr he hd => ?_, fun id r p hf ha hs hd ho hp => ?_, fun id r sl hf ha => ?_⟩
  · refine ⟨_, rfl, fun j hj => modPlan_plan_ne _ _ _ _ hj, ?_⟩
    rw [modPlan_plan_self, hq, Option.map_some, advanceEntry_of_run hr he hd]
  · have hid : r.id = id := by simpa using List.find?_some hf
    have hrow := fun linkErr => exec_peckArrival linkErr hf ha hs hd
    refine ⟨fun hc => ?_, fun hb => ?_, fun a hr hn => ?_⟩
    · have hvs : (perfEvent 0x021 (r.slot % 8) 1 (peckPlaced r p s)).vs = (peckPlaced r p s).vs := perfEvent_vs ..
      refine ⟨_, (hrow false).trans (congrArg _ (arrivePeck_correct ho hp hc)), ?_, ?_, ?_⟩
      · rw [State.plan, hvs]
        refine (modPlan_plan_self r.plan _ (modVs _ s)).trans ?_
        rw [State.plan, modVs_vs]
        exact congrArg (Option.map _) hp
      · rw [hvs]
        exact wrote_store ..
      · rw [hvs, ← hid]
        rfl
    · have hvs := badPeck_vs ho (peckFailed s)
      rw [peckFailed_vs] at hvs
      refine ⟨_, (hrow true).trans (congrArg _ (arrivePeck_bad hb)), ?_, ?_, ?_, ?_, ?_, ?_⟩
      · rw [State.plan, hvs]
        refine (modPlan_plan_self r.plan _ (peckFailed s)).trans ?_
        rw [State.plan, peckFailed_vs]
        exact congrArg (Option.map _) hp
      · rw [hvs]
      · rw [hvs]
      · rw [hvs]
      · rw [hvs]
      · rw [hvs, ← hid]
    · have hvs : (peckRetried r a s).vs = { (peckFailed s).vs with
        refills := (peckFailed s).vs.refills.map fun x => if x.id = r.id then { x with retryAt := some a } else x } := rfl
      rw [peckFailed_vs] at hvs
      refine ⟨_, (hrow true).trans (congrArg _ (arrivePeck_retried hr hn)), fun j => ?_, ?_, ?_, ?_, ?_⟩
      · rw [State.plan, hvs]
        rfl
      · rw [hvs]
      · rw [hvs]
      · rw [hvs]
      · rw [hvs, ← hid]
  · refine ⟨_, exec_peckRetryIssue hf ha, ?_⟩
    rw [perfEvent_vs, perfEvent_vs]
    unfold retryIssued
    dsimp only
    split <;> rfl

end Sys2Proof.Machine

/-!
Write-back of the capture store, trigger units and acquisition groups.
-/

namespace Sys2Proof.Machine

/-! ## Commands completed by name, where one is named -/

theorem completed_completed (st st' : BitVec 8) (r r' : Nat) (s s' : State) (c : Cmd) :
    completed st r s (completed st' r' s' c) = completed st r s c := rfl

theorem completed_congr {s u : State} (hspan : u.time.span = s.time.span) (hun : u.untraceable = s.untraceable)
    (st : BitVec 8) (r : Nat) (c : Cmd) : completed st r u c = completed st r s c := by
  rw [completed, completed, hspan, hun]

theorem completeOpt_cmd (k : Option Nat) (st : BitVec 8) (r : Nat) (s : State) (j : Nat) :
    (completeOpt k st r s).cmd j = if k = some j then completed st r s (s.cmd j) else s.cmd j := by
  cases k with
  | none => rfl
  | some k =>
    rw [completeOpt, complete_cmd]
    by_cases h : j = k
    · subst h
      simp
    · rw [if_neg h, if_neg (fun e => h (Option.some.inj e).symm)]

/-- Named commands completed one after the other. -/
def completeAll (ks : List (Option Nat)) (st : BitVec 8) (r : Nat) (s : State) : State :=
  ks.foldl (fun t k => completeOpt k st r t) s

theorem completeAll_eq (ks : List (Option Nat)) (st : BitVec 8) (r : Nat) (s : State) :
    completeAll ks st r s = (ks.filterMap id).foldl (fun t k => complete k st r t) s := by
  induction ks generalizing s with
  | nil => rfl
  | cons k ks ih => cases k with
    | none => exact ih s
    | some k => exact ih (complete k st r s)

theorem completeAll_cmd (ks : List (Option Nat)) (st : BitVec 8) (r : Nat) (s : State) (j : Nat) :
    (completeAll ks st r s).cmd j = if some j ∈ ks then completed st r s (s.cmd j) else s.cmd j := by
  rw [completeAll_eq, foldl_complete_cmd]
  simp only [List.mem_filterMap, id, exists_eq_right]

theorem kept_completeAll (ks : List (Option Nat)) (st : BitVec 8) (r : Nat) (s : State) :
    Kept [.hqm] s (completeAll ks st r s) := by
  rw [completeAll_eq]
  exact kept_foldl_complete _ st r s

/-- What a completion reads of a state, kept by effects outside the device state, the clock and the Halso link. -/
theorem Kept.completed {m : List Part} {s u : State} (h : Kept m s u) (hm : ∀ x ∈ [Part.devState, .time, .halso], x ∉ m)
    (st : BitVec 8) (r : Nat) (c : Cmd) : completed st r u c = completed st r s c := by
  have htime : u.time = s.time := h.same .time (hm _ (by decide))
  exact completed_congr (congrArg Time.span htime)
    (untraceable_congr (h.same .devState (hm _ (by decide))) htime (h.same .halso (hm _ (by decide)))) st r c

/-! ## The write slots (R33, R162, R290) -/

/-- A write slot counted as used in its span. -/
def slotTaken (w : Nat) (s : State) : State := modCap (fun c => { c with slotsUsed := setBit c.slotsUsed w true }) s

/-- A write slot that has found a line to write: counted, and the rotation moved on where no plan claims the slot. -/
def slotServed (w m : Nat) (s : State) : State :=
  let t := perfEvent 0x02A m 1 (writeBack m (slotTaken w s))
  if (slotTaken w s).plans.any fun p => p.2.writeClaimed.contains w then t
  else modCap (fun c => { c with rot := (m + 1) % 16 }) t

theorem exec_sableWriteSlot {w : Fin 32} {m : Nat} {s : State} (hu : bit s.cap.slotsUsed w.val = false)
    (he : s.slotEngine w.val = some m) (hp : s.pendingWb m = true) :
    exec (.sableWriteSlot w) s = .next (slotServed w.val m s) := by
  have he' : (slotTaken w.val s).slotEngine w.val = some m := he
  have hp' : (slotTaken w.val s).pendingWb m = true := hp
  have hserve : serveSlot w.val (slotTaken w.val s) = slotServed w.val m s := by
    simp only [serveSlot, he', hp', if_true]
    rfl
  show execSableWriteSlot w s = _
  rw [execSableWriteSlot, if_neg (by rw [hu]; decide)]
  exact congrArg _ hserve

/-- What a served slot leaves of DRAM, the staging buffers, the groups and the command slots is what its line does. -/
theorem slotServed_views (w m : Nat) (s : State) :
    (slotServed w m s).dram = (writeBack m (slotTaken w s)).dram ∧
    (slotServed w m s).cap.engs = (writeBack m (slotTaken w s)).cap.engs ∧
    (slotServed w m s).cap.groups = (writeBack m (slotTaken w s)).cap.groups ∧
    (slotServed w m s).hqm.cmds = (writeBack m (slotTaken w s)).hqm.cmds := by
  have hs := signalled_perfEvent 0x02A m 1 (writeBack m (slotTaken w s))
  have hdram := signalled_dram hs
  have hcap := signalled_cap hs
  have hcmds := signalled_cmds hs
  unfold slotServed
  dsimp only
  split
  · exact ⟨hdram, by rw [hcap], by rw [hcap], hcmds⟩
  · refine ⟨hdram, ?_, ?_, hcmds⟩
    · rw [modCap_cap, hcap]
    · rw [modCap_cap, hcap]

theorem logDue_of_staged {m : Nat} {s : State} {x : Staged} {rest : List Staged}
    (h : (s.cap.engs.get m).staging = x :: rest) (hx : x.span < s.time.span) : s.logDue m = true := by
  simp [State.logDue, h, hx]

/-! ### The staged entries of an engine -/

theorem writeStaged_mem (x : Staged) (s : State) : (writeStaged x s).dram.mem =
    Mem.store s.dram.mem ((s.cap.sites.get x.site).entryAddr x.e) (leBytes 32 x.bits.toNat) := rfl

/-- Writing an entry moves no ring. -/
theorem writeStaged_entryAddr (x : Staged) (s : State) (n e : Nat) :
    ((writeStaged x s).cap.sites.get n).entryAddr e = (s.cap.sites.get n).entryAddr e := by
  show ((s.cap.sites.mod x.site fun c => { c with wr := c.wr + 1 }).get n).entryAddr e = _
  rw [SMap.get_mod]
  split
  next h => rw [h]; rfl
  next => rfl

theorem modEng_staging_self (m : Nat) (f : CapEng → CapEng) (s : State) :
    (modEng m f s).cap.engs.get m = f (s.cap.engs.get m) := SMap.get_mod_eq ..

section
variable {m : Nat} {s : State} {x : Staged} {rest : List Staged} (hs : (s.cap.engs.get m).staging = x :: rest)
include hs

theorem writeLog_one (h : ∀ y, rest.head? = some y → s.sameLine x y = false) :
    writeLog m s = modEng m (fun y => { y with staging := rest }) (writeStaged x s) := by
  unfold writeLog
  rw [hs]
  cases rest with
  | nil => rfl
  | cons y rest2 => exact if_neg (by rw [h y rfl]; decide)

theorem writeLog_two {y : Staged} {rest2 : List Staged} (hr : rest = y :: rest2) (h : s.sameLine x y = true) :
    writeLog m s = modEng m (fun z => { z with staging := rest2 })
      (writeStaged y (modEng m (fun z => { z with staging := rest }) (writeStaged x s))) := by
  subst hr
  unfold writeLog
  rw [hs]
  exact if_pos h

end

/-! ### The closed records of an engine -/

theorem nextLine_of_cur {g : Group} {r : Rec} {l : List Byte} {ls : List (List Byte)} (ht : g.tails = [])
    (hc : g.cur = some r) (hl : g.lines = l :: ls) : g.nextLine = some (r, l) := by
  simp only [Group.nextLine, ht, hc, hl]

theorem nextLine_of_tails {g : Group} {x : Tail} {xs : List Tail} (ht : g.tails = x :: xs) :
    g.nextLine = some (x.cur, x.lines.headD []) := by
  simp only [Group.nextLine, ht]

/-- A record with one line more written. -/
def Rec.lineMore (r : Rec) : Rec := { r with lines := r.lines + 1 }

theorem writeRec_last {m : Nat} {s : State} {r : Rec} {l : List Byte} (ht : (s.cap.groups.get m).tails = [])
    (hc : (s.cap.groups.get m).cur = some r) (hl : (s.cap.groups.get m).lines = [l]) :
    writeRec m s = modGroup m (fun y => { y with cur := none, lines := [], past := (r.lineMore :: y.past).take 256,
                                                 written := y.written + 1, lineSpan := s.time.span })
      (engineStore (r.addr + 64 * r.lines) l s) := by
  simp only [writeRec, nextLine_of_cur ht hc hl, ht, hl, List.length_singleton, Nat.le_refl, if_true]
  rfl

theorem writeRec_more {m : Nat} {s : State} {r : Rec} {l l' : List Byte} {ls : List (List Byte)}
    (ht : (s.cap.groups.get m).tails = []) (hc : (s.cap.groups.get m).cur = some r)
    (hl : (s.cap.groups.get m).lines = l :: l' :: ls) :
    writeRec m s = modGroup m (fun y => { y with cur := some r.lineMore, lines := l' :: ls })
      (engineStore (r.addr + 64 * r.lines) l s) := by
  have hlen : ¬(l :: l' :: ls).length ≤ 1 := by simp
  simp only [writeRec, nextLine_of_cur ht hc hl, ht, hl, hlen, if_false]
  rfl

/-- A tail with the next line of its record written. -/
def Tail.lineMore (x : Tail) : Tail := { x with cur := x.cur.lineMore, lines := x.lines.drop 1 }

theorem writeRec_tail {m : Nat} {s : State} {x : Tail} {xs : List Tail} (ht : (s.cap.groups.get m).tails = x :: xs) :
    writeRec m s = if x.lines.length ≤ 1 then
        endTail m { x with cur := x.cur.lineMore, lines := [] }
          (engineStore (x.cur.addr + 64 * x.cur.lines) (x.lines.headD []) s)
      else modGroup m (fun y => { y with tails := x.lineMore :: xs })
        (engineStore (x.cur.addr + 64 * x.cur.lines) (x.lines.headD []) s) := by
  simp only [writeRec, nextLine_of_tails ht, ht]
  rfl

theorem modGroup_group_self (m : Nat) (f : Group → Group) (s : State) : (modGroup m f s).group m = f (s.group m) :=
  SMap.get_mod_eq ..

theorem modGroup_group_ne {m k : Nat} (f : Group → Group) (s : State) (h : k ≠ m) :
    (modGroup m f s).group k = s.group k := SMap.get_mod_ne _ _ _ _ h

/-- The groups with the last line of a tail written. -/
def tailEnded (m : Nat) (x : Tail) (s : State) : State :=
  modGroup m (fun y =>
    let z := { y with tails := y.tails.drop 1 }
    if x.own then { z with past := (x.cur :: y.past).take 256, written := x.written + 1 } else z) s

theorem endTail_eq (m : Nat) (x : Tail) (s : State) : endTail m x s =
    completeOpt x.cmd stCancelled (x.written + 1) (completeAll x.disarm stOK 1 (tailEnded m x s)) := rfl

theorem kept_endTail_disarm (m : Nat) (x : Tail) (s : State) :
    Kept [.cap, .hqm] s (completeAll x.disarm stOK 1 (tailEnded m x s)) :=
  (kept_modGroup m _ (by decide) (Kept.refl _ s)).trans ((kept_completeAll _ _ _ _).mono (by decide))

theorem endTail_tails (m : Nat) (x : Tail) (s : State) : ((endTail m x s).group m).tails = ((s.group m).tails).drop 1 := by
  have hcap : (endTail m x s).cap = (tailEnded m x s).cap := by
    rw [endTail_eq]
    exact ((kept_completeOpt (m := [.hqm]) _ _ _ (by decide) (kept_completeAll _ _ _ _)).same .cap (by decide))
  rw [State.group, hcap]
  refine (congrArg Group.tails (modGroup_group_self ..)).trans ?_
  dsimp only
  split <;> rfl

theorem endTail_dram (m : Nat) (x : Tail) (s : State) : (endTail m x s).dram = s.dram := by
  rw [endTail_eq]
  exact (kept_completeOpt (m := [.cap, .hqm]) _ _ _ (by decide) (kept_endTail_disarm m x s)).same .dram (by decide)

theorem endTail_cmd_own (m : Nat) {x : Tail} (s : State) {k : Nat} (hk : x.cmd = some k) :
    (endTail m x s).cmd k = completed stCancelled (x.written + 1) s (s.cmd k) := by
  rw [endTail_eq, completeOpt_cmd, if_pos hk, (kept_endTail_disarm m x s).completed (by decide), completeAll_cmd]
  split <;> rfl

theorem endTail_cmd_disarm (m : Nat) {x : Tail} (s : State) {j : Nat} (hj : some j ∈ x.disarm) (hn : x.cmd ≠ some j) :
    (endTail m x s).cmd j = completed stOK 1 s (s.cmd j) := by
  rw [endTail_eq, completeOpt_cmd, if_neg hn, completeAll_cmd, if_pos hj]
  rfl

/-- Settles O34: the slot serves its engine's staging buffer where an entry may be written, else its records. -/
theorem writeSlotsWriteBack : Obligations.WriteSlotsWriteBack := by
  intro w s m hu he hp e g place
  have hrow := exec_sableWriteSlot hu he hp
  obtain ⟨hdram, hengs, hgroups, hcmds⟩ := slotServed_views w.val m s
  refine ⟨fun x rest hs hx => ?_, fun hx => ?_⟩
  · have hwb : writeBack m (slotTaken w.val s) = writeLog m (slotTaken w.val s) :=
      if_pos (logDue_of_staged (s := slotTaken w.val s) hs hx)
    rw [hwb] at hdram hengs
    refine ⟨fun h => ?_, fun y rest2 hr h => ?_⟩
    · have hone := writeLog_one (s := slotTaken w.val s) hs h
      rw [hone] at hdram hengs
      refine ⟨_, hrow, by rw [hdram]; rfl, ?_⟩
      rw [hengs, modEng_staging_self]
    · have htwo := writeLog_two (s := slotTaken w.val s) hs hr h
      rw [htwo] at hdram hengs
      refine ⟨_, hrow, ?_, ?_⟩
      · have haddr := writeStaged_entryAddr x (slotTaken w.val s) y.site y.e
        rw [hdram]
        exact congrArg (fun a => Mem.store (Mem.store s.dram.mem (place x) (leBytes 32 x.bits.toNat)) a
          (leBytes 32 y.bits.toNat)) haddr
      · rw [hengs, modEng_staging_self]
  · have hlog : s.logDue m = false := by
      unfold State.logDue
      cases hh : (s.cap.engs.get m).staging.head? with
      | none => rfl
      | some x => simp [hx x hh]
    have hrec : s.recDue m = true := by
      unfold State.pendingWb at hp
      rw [hlog] at hp
      simpa using (Bool.and_eq_true_iff.mp hp).2
    have hwb : writeBack m (slotTaken w.val s) = writeRec m (slotTaken w.val s) :=
      (if_neg (Bool.eq_false_iff.mp hlog)).trans (if_pos hrec)
    rw [hwb] at hdram hgroups hcmds
    refine ⟨fun r l ls ht hc hl => ?_, fun x xs ht => ?_⟩
    · have hgroup : (slotServed w.val m s).group m = (writeRec m (slotTaken w.val s)).group m :=
        congrArg (fun gs : SMap Group => gs.get m) hgroups
      cases ls with
      | nil =>
        have hlast := writeRec_last (s := slotTaken w.val s) ht hc hl
        rw [hlast] at hdram hgroup
        rw [modGroup_group_self] at hgroup
        exact ⟨_, hrow, by rw [hdram]; rfl, by rw [hgroup], by rw [hgroup]; rfl⟩
      | cons l' ls =>
        have hmore := writeRec_more (s := slotTaken w.val s) ht hc hl
        rw [hmore] at hdram hgroup
        rw [modGroup_group_self] at hgroup
        exact ⟨_, hrow, by rw [hdram]; rfl, by rw [hgroup], by rw [hgroup]; rfl⟩
    · have hgroup : (slotServed w.val m s).group m = (writeRec m (slotTaken w.val s)).group m :=
        congrArg (fun gs : SMap Group => gs.get m) hgroups
      have hcmd : ∀ j, (slotServed w.val m s).cmd j = (writeRec m (slotTaken w.val s)).cmd j := fun j =>
        congrArg (fun cs : SMap Cmd => cs.get j) hcmds
      have htail := writeRec_tail (s := slotTaken w.val s) ht
      rw [htail] at hdram hgroup hcmd
      by_cases hlen : x.lines.length ≤ 1
      · rw [if_pos hlen] at hdram hgroup hcmd
        refine ⟨_, hrow, ?_, fun h => absurd h (by omega), fun _ => ⟨?_, fun k hk => ?_, fun j hj hn => ?_⟩⟩
        · rw [hdram, endTail_dram]
          rfl
        · rw [hgroup, endTail_tails]
          exact congrArg (List.drop 1) ht
        · exact doneAs_of_cmd ((hcmd k).trans (endTail_cmd_own m _ hk))
        · exact doneAs_of_cmd ((hcmd j).trans (endTail_cmd_disarm m _ hj hn))
      · rw [if_neg hlen] at hdram hgroup
        rw [modGroup_group_self] at hgroup
        exact ⟨_, hrow, by rw [hdram]; rfl, fun _ => by rw [hgroup]; rfl, fun h => absurd h hlen⟩

/-! ## Folds of which one step acts -/

theorem foldl_eq_self {α β : Type} {f : α → β → α} {l : List β} {a : α} (h : ∀ b ∈ l, f a b = a) :
    l.foldl f a = a := by
  induction l with
  | nil => rfl
  | cons b l ih =>
    rw [List.foldl_cons, h b List.mem_cons_self]
    exact ih fun c hc => h c (List.mem_cons_of_mem _ hc)

/-- Where every step but that of u is idle, before it and behind it, the fold is that step. -/
theorem foldl_eq_step {α β : Type} {f : α → β → α} {l : List β} {a : α} {u : β} (hn : l.Nodup) (hu : u ∈ l)
    (h0 : ∀ b ∈ l, b ≠ u → f a b = a) (h1 : ∀ b ∈ l, b ≠ u → f (f a u) b = f a u) : l.foldl f a = f a u := by
  induction l with
  | nil => exact absurd hu List.not_mem_nil
  | cons b l ih =>
    obtain ⟨hb, hl⟩ := List.nodup_cons.mp hn
    rw [List.foldl_cons]
    by_cases hbu : b = u
    · subst hbu
      exact foldl_eq_self fun c hc => h1 c (List.mem_cons_of_mem _ hc) fun e => hb (e ▸ hc)
    · rw [h0 b List.mem_cons_self hbu]
      exact ih hl ((List.mem_cons.mp hu).resolve_left (Ne.symm hbu)) (fun c hc => h0 c (List.mem_cons_of_mem _ hc))
        fun c hc => h1 c (List.mem_cons_of_mem _ hc)

/-- One change of the sites of a list, each once. -/
theorem foldl_modSite_site (f : Site → Site) {l : List Nat} (hl : l.Nodup) (s : State) (j : Nat) :
    (l.foldl (fun t n => modSite n f t) s).site j = if j ∈ l then f (s.site j) else s.site j := by
  induction l generalizing s with
  | nil => rfl
  | cons n l ih =>
    obtain ⟨hn, hl⟩ := List.nodup_cons.mp hl
    rw [List.foldl_cons, ih hl]
    by_cases hj : j = n
    · subst hj
      rw [if_neg hn, if_pos List.mem_cons_self, modSite_site_self]
    · rw [modSite_site_ne _ _ _ _ hj]
      simp only [List.mem_cons, hj, false_or]

/-! ## Trigger units (R310 to R313, R326) -/

theorem modUnit_unit_self (u : Nat) (f : TrigUnit → TrigUnit) (s : State) : (modUnit u f s).unit u = f (s.unit u) :=
  SMap.get_mod_eq ..

theorem modUnit_unit_ne {u v : Nat} (f : TrigUnit → TrigUnit) (s : State) (h : v ≠ u) :
    (modUnit u f s).unit v = s.unit v := SMap.get_mod_ne _ _ _ _ h

theorem unit_of_cap {s t : State} (h : t.cap = s.cap) (v : Nat) : t.unit v = s.unit v := by
  unfold State.unit
  rw [h]

/-- A unit that is not armed meets no condition. -/
theorem conditionMet_unarmed {u t : Nat} {s : State} (h : (s.unit u).armed = false) : conditionMet u t s = s :=
  if_pos (by rw [h]; rfl)

/-- An armed unit listens to TRIG_IN pin i. -/
def State.hears (s : State) (i v : Nat) : Prop := (s.unit v).armed = true ∧ (s.unit v).src = 3 ∧ (s.unit v).sel = i

/-- One unit's step of a TRIG_IN event. -/
def trigInStep (i t : Nat) (x : State) (u : Nat) : State :=
  if (x.unit u).src = 3 ∧ (3 = 2 ∨ (x.unit u).sel = i) ∧ (3 ≠ 2 ∨ u = i) then conditionMet u t x else x

theorem sourceEvent_trigIn (i t : Nat) (s : State) : sourceEvent 3 i t s = (List.range 16).foldl (trigInStep i t) s := rfl

theorem trigInStep_deaf {i t u : Nat} {s : State} (h : ¬ s.hears i u) : trigInStep i t s u = s := by
  unfold trigInStep
  split
  next hc =>
    obtain ⟨h1, h2, -⟩ := hc
    refine conditionMet_unarmed (Bool.eq_false_iff.mpr fun ha => h ⟨ha, h1, ?_⟩)
    exact h2.resolve_left (by decide)
  next => rfl

theorem trigInStep_hears {i t u : Nat} {s : State} (h : s.hears i u) : trigInStep i t s u = conditionMet u t s := by
  obtain ⟨-, h1, h2⟩ := h
  exact if_pos ⟨h1, Or.inr h2, Or.inl (by decide)⟩

/-- The one unit that listens acts, and no other. -/
theorem sourceEvent_trigIn_one {i t u : Nat} {s : State} (hu : u < 16) (hh : s.hears i u)
    (ho : ∀ v, v < 16 → v ≠ u → ¬ s.hears i v) (hk : ∀ v, v ≠ u → (conditionMet u t s).unit v = s.unit v) :
    sourceEvent 3 i t s = conditionMet u t s := by
  rw [sourceEvent_trigIn, ← trigInStep_hears hh]
  refine foldl_eq_step List.nodup_range (List.mem_range.mpr hu)
    (fun v hv hvu => trigInStep_deaf (ho v (List.mem_range.mp hv) hvu)) fun v hv hvu => trigInStep_deaf ?_
  rw [trigInStep_hears hh, State.hears, hk v hvu]
  exact ho v (List.mem_range.mp hv) hvu

section
variable {u t : Nat} {s : State} (ha : (s.unit u).armed = true)
  (ht : (s.group (s.unit u).master).armedAt * spanGr ≤ t)
include ha ht

theorem conditionMet_holding (hh : (s.unit u).holding t = true) :
    conditionMet u t s = missTrigger (s.unit u).master u s := by
  unfold conditionMet
  dsimp only
  rw [if_neg (by simp [ha]; omega), if_pos hh]

theorem conditionMet_fires (hh : (s.unit u).holding t = false) (hr : (s.group (s.unit u).master).recs = false)
    (hst : (s.group (s.unit u).master).st = .armed) :
    conditionMet u t s = fireEffects (s.unit u).master u t (modUnit u (fun y => y.startHold t) s) := by
  unfold conditionMet
  dsimp only
  rw [if_neg (by simp [ha]; omega), if_neg (by rw [hh]; decide), if_pos (by rw [hr]; rfl), if_pos hst]

end

/-- A unit with a missed trigger counted, which in an event hold-off counts the hold-off down. -/
def TrigUnit.misses (x : TrigUnit) : TrigUnit :=
  let n := x.holdN + 1
  if x.inHold && x.holdMode == 2 then
    { x with missed := satAdd (2 ^ 32 - 1) x.missed 1, holdN := n, inHold := decide (n < x.holdCount) }
  else { x with missed := satAdd (2 ^ 32 - 1) x.missed 1 }

theorem TrigUnit.misses_missed (x : TrigUnit) : x.misses.missed = satAdd (2 ^ 32 - 1) x.missed 1 := by
  unfold TrigUnit.misses
  dsimp only
  split <;> rfl

theorem missTrigger_unit (m u : Nat) (s : State) (v : Nat) :
    (missTrigger m u s).unit v = (modUnit u TrigUnit.misses s).unit v :=
  unit_of_cap (signalled_cap (signalled_perfEvent 0x049 u 1 (modUnit u TrigUnit.misses s))) v

theorem missTrigger_sites (m u : Nat) (s : State) : (missTrigger m u s).sites = s.sites :=
  (kept_missTrigger m u (List.Subset.refl _) (Kept.refl _ s)).same .sites (by decide)

theorem fireEffects_unit (m u t : Nat) (s : State) (v : Nat) : (fireEffects m u t s).unit v = s.unit v :=
  unit_of_cap ((kept_fireEffects m u t (List.Subset.refl _) (Kept.refl _ s)).same .cap (by decide)) v

/-- A firing sets its latch at every site where it may. -/
theorem setLatches_latch {i n : Nat} (t : Nat) (s : State) (hn : n < 64) :
    ((setLatches i t s).site n).latches.get i = ((s.site n).latches.get i).fire (s.site n).latchT t := by
  have h : (setLatches i t s).site n = { s.site n with latches := (s.site n).latches.mod i (·.fire (s.site n).latchT t) } :=
    (foldl_modSite_site _ List.nodup_range s n).trans (if_pos (List.mem_range.mpr hn))
  rw [h]
  exact SMap.get_mod_eq ..

theorem latch_fire (l : Latch) (started t : Nat) : l.fire started t =
    if l.set = true ∨ t < l.clr ∨ t < started then l else { l with set := true, t := t } := by
  unfold Latch.fire
  by_cases h : l.set = true ∨ t < l.clr ∨ t < started
  · rw [if_pos h, if_pos (by simpa [or_assoc] using h)]
  · rw [if_neg h, if_neg (by simpa [or_assoc] using h)]

/-! ### What leaves on the pins and the link -/

theorem mem_putHalso {o : Out} {l : List Out} (t : Int) (p c : Nat) (b : List (BitVec 66)) (h : o ∈ l) :
    o ∈ putHalso t p c b l := by
  induction l with
  | nil => exact absurd h List.not_mem_nil
  | cons x l ih =>
    unfold putHalso
    split
    next u q d y rest he =>
      obtain ⟨rfl, rfl⟩ := List.cons.inj he
      split
      · rcases List.mem_cons.mp h with rfl | h
        · exact List.mem_cons_self
        · exact List.mem_cons_of_mem _ (ih h)
      · exact List.mem_cons_of_mem _ h
    · exact List.mem_cons_of_mem _ h

theorem mem_sendOn {o : Out} (ports : List Nat) (t : Int) (c : Nat) (ws : List Nat) {s : State} (h : o ∈ s.out) :
    o ∈ (sendOn ports t c ws s).out := by
  unfold sendOn
  generalize s.out = l at h
  induction ports generalizing l with
  | nil => exact h
  | cons p ports ih => exact ih _ (mem_putHalso _ _ _ _ h)

theorem mem_sendFiring {o : Out} (g : Group) (u t : Nat) {s : State} (h : o ∈ s.out) :
    o ∈ (sendFiring g u t s).out := by
  unfold sendFiring
  split
  · exact mem_sendOn _ _ _ _ (mem_sendOn _ _ _ _ h)
  · exact h

theorem fireEffects_sites (m u t : Nat) (s : State) :
    (fireEffects m u t s).sites = (setLatches u t (perfEvent 0x048 u 1 s)).sites := by
  unfold fireEffects
  dsimp only
  refine ((kept_sendFiring (m := [.out]) _ u t (List.Subset.refl _) (Kept.refl _ _)).same .sites (by decide)).trans ?_
  refine ((kept_jumpSource (m := [.dds]) 1 u t (List.Subset.refl _) (Kept.refl _ _)).same .sites (by decide)).trans ?_
  split
  · exact emit_sites _ _
  · with_reducible rfl

theorem fireEffects_latch (m : Nat) {u n : Nat} (t : Nat) (s : State) (hn : n < 64) :
    ((fireEffects m u t s).site n).latches.get u = ((s.site n).latches.get u).fire (s.site n).latchT t := by
  rw [site_of_sites (fireEffects_sites m u t s), setLatches_latch t _ hn, site_of_sites (perfEvent_sites ..)]

theorem fireEffects_out (m u t : Nat) {s : State} (h : (s.unit u).outEn = true) :
    .trigOut (s.unit u).outSel t ∈ (fireEffects m u t s).out := by
  unfold fireEffects
  dsimp only
  rw [if_pos h]
  refine mem_sendFiring _ _ _ ?_
  rw [(kept_jumpSource (m := [.dds]) 1 u t (List.Subset.refl _) (Kept.refl _ _)).same .out (by decide)]
  exact List.mem_cons_self

theorem startHold_cfg (x : TrigUnit) (t : Nat) : (x.startHold t).cfg = x.cfg := by
  unfold TrigUnit.startHold
  split <;> rfl

/-- Settles O35: the pin's event is the step of the one unit that listens, which misses or fires. -/
theorem trigInFires : Obligations.TrigInFires := by
  intro i g s now hears
  refine ⟨fun hdeaf => ?_, fun u hu hh ho ht => ?_⟩
  · have hnone : sourceEvent 3 i.val now (atGrain g s) = atGrain g s := by
      rw [sourceEvent_trigIn]
      exact foldl_eq_self fun v hv => trigInStep_deaf (hdeaf v (List.mem_range.mp hv))
    exact congrArg _ hnone
  have hrow : (∀ v, v ≠ u → (conditionMet u now (atGrain g s)).unit v = s.unit v) →
      exec (.trigInEdge i g) s = .next (conditionMet u now (atGrain g s)) := fun hk =>
    congrArg _ (sourceEvent_trigIn_one (s := atGrain g s) hu hh ho hk)
  refine ⟨fun hhold => ?_, fun hhold hr hst => ?_⟩
  · have hc : conditionMet u now (atGrain g s) = missTrigger (s.unit u).master u (atGrain g s) :=
      conditionMet_holding (s := atGrain g s) hh.1 ht hhold
    refine ⟨_, hrow fun v hv => ?_, ?_, ?_⟩
    · rw [hc, missTrigger_unit, modUnit_unit_ne _ _ hv]
      rfl
    · rw [hc]
      exact missTrigger_sites _ u (atGrain g s)
    · rw [hc, missTrigger_unit, modUnit_unit_self, TrigUnit.misses_missed]
      rfl
  · have hc : conditionMet u now (atGrain g s) = fireEffects (s.unit u).master u now
        (modUnit u (fun y => y.startHold now) (atGrain g s)) :=
      conditionMet_fires (s := atGrain g s) hh.1 ht hhold hr hst
    have hunit := modUnit_unit_self u (fun y => y.startHold now) (atGrain g s)
    refine ⟨_, hrow fun v hv => ?_, fun n hn => ?_, fun hout => ?_⟩
    · rw [hc, fireEffects_unit, modUnit_unit_ne _ _ hv]
      rfl
    · rw [hc, fireEffects_latch _ now _ hn]
      exact latch_fire ..
    · have hcfg : ((modUnit u (fun y => y.startHold now) (atGrain g s)).unit u).cfg = (s.unit u).cfg := by
        rw [hunit, startHold_cfg]
        rfl
      have hfire := fireEffects_out (s.unit u).master u now (s := modUnit u (fun y => y.startHold now) (atGrain g s))
        (by rw [TrigUnit.outEn, hcfg]; exact hout)
      rw [TrigUnit.outSel, hcfg] at hfire
      rw [hc]
      exact hfire

end Sys2Proof.Machine

/-!
Acquisition groups: hold-off, auto trigger, re-arming, arming and disarming, and the read of a record.
-/

namespace Sys2Proof.Machine

/-! ## Hold-off and auto trigger (R326, R327) -/

theorem exec_holdoffExpiry {u : UnitId} {s : State} (hi : (s.unit u.val).inHold = true)
    (hm : (s.unit u.val).holdMode = 1)
    (ht : (s.unit u.val).holdT + (s.unit u.val).holdCount * cycleGr ≤ s.now + spanGr) :
    exec (.holdoffExpiry u) s = .next (modUnit u.val (fun y => { y with inHold := false }) s) := by
  have hh : (s.unit u.val).holding (s.now + spanGr) = false := by simp [TrigUnit.holding, hi, hm, ht]
  exact if_pos (by rw [hi, hh]; rfl)

/-- A group triggered, before its record closes. -/
def triggered (m t : Nat) (causes remotes : BitVec 16) (forced : Bool) (s : State) : State :=
  modGroup m (fun y => { y with
    st := .collecting, missedAcc := 0,
    trig := some { ft := t, sample := s.sampleFor m t, causeMap := causes, remoteMap := remotes, forced := forced,
                   missed := (s.group m).missedAcc } }) s

theorem exec_autoTrigger {u : UnitId} {s : State} (hu : u.val < 4) (ha : (s.unit u.val).autoEn = true)
    (hp : (s.unit u.val).autoPeriod ≠ 0) (hr : (s.group u.val).recs = true) (hs : (s.group u.val).st = .armed)
    (ht : (s.group u.val).autoFrom + (s.unit u.val).autoPeriod ≤ s.time.span) :
    exec (.autoTrigger u) s = .next (closeIfDone u.val (triggered u.val
      (((s.group u.val).autoFrom + (s.unit u.val).autoPeriod) * spanGr) 0 0 true s)) :=
  if_pos (by simp [hu, ha, hp, hr, hs, ht])

/-! ## Re-arming (R316, R317, R324) -/

theorem mem_bitList {w : Nat} (x : BitVec w) (i : Nat) : i ∈ bitList x ↔ bit x i = true := by
  unfold bitList bit
  rw [List.mem_filter, List.mem_range]
  exact ⟨And.right, fun h => ⟨BitVec.lt_of_getLsbD h, h⟩⟩

theorem nodup_bitList {w : Nat} (x : BitVec w) : (bitList x).Nodup := List.nodup_range.filter _

/-- One change of the units of a list, each once. -/
theorem foldl_modUnit_unit (f : TrigUnit → TrigUnit) {l : List Nat} (hl : l.Nodup) (s : State) (j : Nat) :
    (l.foldl (fun t n => modUnit n f t) s).unit j = if j ∈ l then f (s.unit j) else s.unit j := by
  induction l generalizing s with
  | nil => rfl
  | cons n l ih =>
    obtain ⟨hn, hl⟩ := List.nodup_cons.mp hl
    rw [List.foldl_cons, ih hl]
    by_cases hj : j = n
    · subst hj
      rw [if_neg hn, if_pos List.mem_cons_self, modUnit_unit_self]
    · rw [modUnit_unit_ne _ _ hj]
      simp only [List.mem_cons, hj, false_or]

/-- A change of units leaves the groups alone. -/
theorem foldl_modUnit_groups (f : TrigUnit → TrigUnit) (l : List Nat) (s : State) :
    (l.foldl (fun t n => modUnit n f t) s).cap.groups = s.cap.groups := by
  induction l generalizing s with
  | nil => rfl
  | cons n l ih => exact ih _

theorem kept_foldl_modUnit (f : TrigUnit → TrigUnit) (l : List Nat) (s : State) :
    Kept [.cap] s (l.foldl (fun t n => modUnit n f t) s) :=
  kept_foldl _ _ (fun _ _ ht => kept_modUnit _ _ (List.Subset.refl _) ht) (Kept.refl _ s)

/-- A group that has written its record count, disarmed and its units released. -/
def countEnded (m : Nat) (s : State) : State :=
  releaseUnits (s.group m).units (modGroup m (fun y => { y with st := .disarmed, cmd := none, disarm := [] }) s)

theorem kept_countEnded (m : Nat) (s : State) : Kept [.cap] s (countEnded m s) :=
  (kept_modGroup m _ (List.Subset.refl _) (Kept.refl _ s)).trans (kept_foldl_modUnit _ _ _)

theorem endCount_eq (m : Nat) (s : State) : endCount m s =
    completeAll ((s.group m).disarm.map Prod.snd) stOK 0
      (completeOpt (s.group m).cmd stOK (s.group m).written (countEnded m s)) := by
  rw [completeAll, List.foldl_map]
  rfl

theorem endCount_cap (m : Nat) (s : State) : (endCount m s).cap = (countEnded m s).cap := by
  rw [endCount_eq]
  exact (kept_completeAll _ _ _ _).same .cap (by decide) |>.trans
    ((kept_completeOpt (m := [.hqm]) _ _ _ (by decide) (Kept.refl _ _)).same .cap (by decide))

theorem endCount_cmd_disarm {m sp j : Nat} {s : State} (h : (sp, some j) ∈ (s.group m).disarm) :
    doneAs j stOK 0 s (endCount m s) := by
  have hk : Kept [.cap, .hqm] s (completeOpt (s.group m).cmd stOK (s.group m).written (countEnded m s)) :=
    kept_completeOpt _ _ _ (by decide) ((kept_countEnded m s).mono (by decide))
  refine doneAs_of_cmd ?_
  rw [endCount_eq, completeAll_cmd, if_pos (List.mem_map.mpr ⟨_, h, rfl⟩), hk.completed (by decide), completeOpt_cmd]
  have hc : (countEnded m s).cmd j = s.cmd j := cmd_of_hqm ((kept_countEnded m s).same .hqm (by decide)) j
  rw [hc]
  split <;> rfl

theorem endCount_cmd_own {m k : Nat} {s : State} (hk : (s.group m).cmd = some k)
    (hd : ∀ x ∈ (s.group m).disarm, x.2 ≠ some k) : doneAs k stOK (s.group m).written s (endCount m s) := by
  refine doneAs_of_cmd ?_
  have hn : some k ∉ (s.group m).disarm.map Prod.snd := fun h => by
    obtain ⟨x, hx, he⟩ := List.mem_map.mp h
    exact hd x hx he
  have hc : (countEnded m s).cmd k = s.cmd k := cmd_of_hqm ((kept_countEnded m s).same .hqm (by decide)) k
  rw [endCount_eq, completeAll_cmd, if_neg hn, completeOpt_cmd, if_pos hk, (kept_countEnded m s).completed (by decide), hc]

/-- A group armed again. -/
def rearmed (m : Nat) (s : State) : State :=
  modGroup m (fun y => { y with
    st := .armed, armAt := s.time.span, autoFrom := s.time.span, entries := [], first := 0,
    nPart := 0, hist := [], trig := none }) s

section
variable {m : UnitId} {s : State} (hs : (s.group m.val).st = .rearming) (hc : (s.group m.val).cur = none)
include hs hc

theorem exec_groupRearm_counted (h0 : (s.group m.val).count ≠ 0) (hw : (s.group m.val).count ≤ (s.group m.val).written) :
    exec (.groupRearm m) s = .next (endCount m.val s) :=
  if_pos (by simp [Group.counted, hs, hc, h0, hw])

theorem exec_groupRearm_again (h : (s.group m.val).count = 0 ∨ (s.group m.val).written < (s.group m.val).count)
    (hl : (s.group m.val).lineSpan < s.time.span) : exec (.groupRearm m) s = .next (rearmed m.val s) := by
  have hn : (s.group m.val).counted = false := by
    rcases h with h | h
    · simp [Group.counted, h]
    · simp [Group.counted, Nat.not_le.mpr h]
  exact (if_neg (by rw [hn]; decide)).trans (if_pos ⟨hs, hc, hl⟩)

end

/-! ## TRIG_ARM and TRIG_DISARM (R314 to R317) -/

/-- The units of a TRIG_ARM: those that it names and its master. -/
def armUnits (d : Desc) : BitVec 16 := setBit (BitVec.ofNat 16 (pay d 2 2)) (pay d 0 1) true

/-- The size of the ring that a TRIG_ARM names. -/
def armSize (d : Desc) : Nat := 65536 * 2 ^ pay d 0x18 1

/-- A group as a TRIG_ARM leaves it. -/
def armedGroup (k : Nat) (d : Desc) (s : State) (g : Group) : Group :=
  { tails := g.tails.map fun x => { x with own := false }, st := .arming, units := armUnits d, recs := pay d 8 1 == 1,
    count := pay d 4 4, gid := BitVec.ofNat 8 (pay d 9 1), devices := BitVec.ofNat 16 (pay d 0x0A 2),
    base := pay d 0x10 8, size := armSize d, cmd := some k, armAt := (s.cmd k).dspan + 1,
    armedAt := (s.cmd k).dspan + 1 }

/-- The units of a TRIG_ARM counted afresh. -/
def unitsCleared (units : BitVec 16) (s : State) : State :=
  (bitList units).foldl (fun x u => modUnit u (fun y => { y with missed := 0, remote := 0 }) x) s

section
variable {k : CmdSlot} {s : State} (h : s.holds k.val 0x28 = true) (hsb : s.sys.state ≠ .standby)
  (hsh : (s.group (pay (s.cmd k.val).desc 0 1)).shut = none)
include h hsb hsh

theorem exec_trigArm : exec (.trigArm k) s = .next
    (match armFault (pay (s.cmd k.val).desc 0 1) (armUnits (s.cmd k.val).desc) (pay (s.cmd k.val).desc 8 1 == 1)
        (armSize (s.cmd k.val).desc) s with
      | some (c, u) => complete k.val stPrecondition (16 * c + u) s
      | none => begin_ k.val (modGroup (pay (s.cmd k.val).desc 0 1) (armedGroup k.val (s.cmd k.val).desc s)
          (unitsCleared (armUnits (s.cmd k.val).desc) s))) := by
  show execTrigArm k s = _
  rw [execTrigArm, onCmd_pos h]
  refine congrArg _ ((if_neg ?_).trans ?_)
  · rintro (hb | hs)
    · exact hsb hb
    · rw [hsh] at hs
      cases hs
  · rfl

end

theorem exec_trigDisarm {k : CmdSlot} {s : State} (h : s.holds k.val 0x29 = true) : exec (.trigDisarm k) s = .next
    (if (s.group (pay (s.cmd k.val).desc 0 1)).st = .disarmed ∨
        (s.group (pay (s.cmd k.val).desc 0 1)).shut.elim false (·.2.2) then complete k.val stOK 0 s
      else begin_ k.val (modGroup (pay (s.cmd k.val).desc 0 1) (fun g => { g with
        disarm := g.disarm ++ [((s.cmd k.val).dspan + 1, some k.val)] }) s)) := by
  show execTrigDisarm k s = _
  rw [execTrigDisarm, onCmd_pos h]

theorem onlyGroup_trigArm (units : BitVec 16) (m : Nat) (f : Group → Group) (s : State) :
    (∀ j, j ≠ m → (modGroup m f (unitsCleared units s)).group j = s.group j) ∧
    (modGroup m f (unitsCleared units s)).group m = f (s.group m) := by
  have hg : ∀ j, (unitsCleared units s).group j = s.group j := fun j => by
    unfold State.group
    rw [unitsCleared, foldl_modUnit_groups]
  exact ⟨fun j hj => (modGroup_group_ne _ _ hj).trans (hg j),
    (modGroup_group_self ..).trans (congrArg f (hg m))⟩

theorem unitsCleared_unit (units : BitVec 16) (s : State) (u : Nat) : (unitsCleared units s).unit u =
    if bit units u then { s.unit u with missed := 0, remote := 0 } else s.unit u := by
  rw [unitsCleared, foldl_modUnit_unit _ (nodup_bitList units)]
  simp only [mem_bitList]

/-! ## ACQ_READ (R329, R464) -/

/-- The records of a group after the one of a number, written or being written. -/
def laterRecs (seq : Nat) (g : Group) : List Rec :=
  (g.past ++ g.cur.toList ++ (g.tails.filter (·.own)).map (·.cur)).filter fun r => decide (seq < r.seq)

theorem mem_laterRecs {seq : Nat} {g : Group} {q : Rec} : q ∈ laterRecs seq g ↔
    seq < q.seq ∧ (q ∈ g.past ∨ g.cur = some q ∨ ∃ x ∈ g.tails, x.own = true ∧ x.cur = q) := by
  simp only [laterRecs, List.mem_filter, List.mem_append, List.mem_map, Option.mem_toList, decide_eq_true_eq, or_assoc,
    and_assoc]
  exact and_comm

/-- A record cannot be read: DRAM is disabled, it is too old, or a later one overlaps it. -/
def readLost (seq : Nat) (r : Rec) (g : Group) (s : State) : Bool :=
  !s.dram.enabled || decide (255 < g.closed - 1 - seq) ||
    (laterRecs seq g).any fun q => decide (q.addr < r.addr + r.len ∧ r.addr < q.addr + 64 * q.lines)

theorem readLost_iff {seq : Nat} {r : Rec} {g : Group} {s : State} : readLost seq r g s = true ↔
    s.dram.enabled = false ∨ 255 < g.closed - 1 - seq ∨
      ∃ q, (seq < q.seq ∧ (q ∈ g.past ∨ g.cur = some q ∨ ∃ x ∈ g.tails, x.own = true ∧ x.cur = q)) ∧
        q.addr < r.addr + r.len ∧ r.addr < q.addr + 64 * q.lines := by
  simp only [readLost, Bool.or_eq_true, Bool.not_eq_true', decide_eq_true_eq, List.any_eq_true, mem_laterRecs, or_assoc]

/-- The status with which the read of a record completes. -/
def readStatus (r : Rec) : BitVec 8 :=
  if bit r.flags 2 then stAborted else if bit r.flags 1 then stTruncated else stOK

/-- The read of a record's bytes. -/
def readReq (k : Nat) (d : Desc) (r : Rec) : BeReq :=
  { kind := .acqRead, cmd := some k, dram := r.addr, host := pay d 8 8, len := min r.len (pay d 0x10 4),
    status := readStatus r, res := r.len }

section
variable {k : CmdSlot} {s : State} (h : s.holds k.val 0x2A = true)
include h

theorem exec_acqRead_none
    (hf : (s.group (pay (s.cmd k.val).desc 0 1)).past.find? (fun r => r.seq == pay (s.cmd k.val).desc 4 4) = none) :
    exec (.acqRead k) s = .next (complete k.val stPrecondition 0 s) := by
  show execAcqRead k s = _
  rw [execAcqRead, onCmd_pos h]
  dsimp only
  rw [hf]

variable {r : Rec}
  (hf : (s.group (pay (s.cmd k.val).desc 0 1)).past.find? (fun r => r.seq == pay (s.cmd k.val).desc 4 4) = some r)
include hf

theorem exec_acqRead_some : exec (.acqRead k) s = .next
    (if readLost (pay (s.cmd k.val).desc 4 4) r (s.group (pay (s.cmd k.val).desc 0 1)) s then
      complete k.val stPrecondition 0 s
    else if min r.len (pay (s.cmd k.val).desc 0x10 4) = 0 then complete k.val (readStatus r) r.len s
    else begin_ k.val (queueBe (readReq k.val (s.cmd k.val).desc r) s)) := by
  show execAcqRead k s = _
  rw [execAcqRead, onCmd_pos h]
  dsimp only
  rw [hf]
  rfl

end

/-- Settles O36: each row is one change of a group, of its units, or of its command. -/
theorem triggerGroups : Obligations.TriggerGroups := by
  refine ⟨fun u s => ⟨fun hi hm ht => ?_, fun hu ha hp hr hs ht => ?_⟩, fun m s => ?_, fun k s => ?_⟩
  · exact ⟨_, exec_holdoffExpiry hi hm ht, modUnit_unit_self .., fun v hv => modUnit_unit_ne _ _ hv,
      (kept_modUnit _ _ (List.Subset.refl _) (Kept.refl _ s)).same⟩
  · exact ⟨_, exec_autoTrigger hu ha hp hr hs ht, (kept_modGroup _ _ (List.Subset.refl _) (Kept.refl _ s)).same,
      fun v hv => modGroup_group_ne _ _ hv, modGroup_group_self ..⟩
  · intro g hs hc
    refine ⟨fun h0 hw => ⟨_, exec_groupRearm_counted hs hc h0 hw, ?_, fun u _ hu => ?_, fun k hk hd =>
      endCount_cmd_own hk hd, fun sp j hj => endCount_cmd_disarm hj⟩, fun h hl => ⟨_, exec_groupRearm_again hs hc h hl,
      (kept_modGroup _ _ (List.Subset.refl _) (Kept.refl _ s)).same, fun j hj => modGroup_group_ne _ _ hj,
      modGroup_group_self ..⟩⟩
    · unfold State.group
      rw [endCount_cap, countEnded, releaseUnits, foldl_modUnit_groups]
      exact modGroup_group_self ..
    · rw [unit_of_cap (endCount_cap ..), countEnded, releaseUnits, foldl_modUnit_unit _ (nodup_bitList _),
        if_pos ((mem_bitList ..).mpr hu)]
  · intro d m g
    refine ⟨fun h hsb hsh => ⟨fun c u hf => ?_, fun hf => ?_⟩, fun h => ⟨fun hd => ?_, fun hd hsh => ?_⟩, fun h => ?_⟩
    · have he := exec_trigArm h hsb hsh
      erw [hf] at he
      exact ⟨_, he, doneAs_complete .., onlySlot_complete .., sameBut_complete _ _ _ _⟩
    · have he := exec_trigArm h hsb hsh
      erw [hf] at he
      obtain ⟨hne, hself⟩ := onlyGroup_trigArm (armUnits d) m (armedGroup k.val d s) s
      have hk : Kept [.cap] s (modGroup m (armedGroup k.val d s) (unitsCleared (armUnits d) s)) :=
        kept_modGroup _ _ (List.Subset.refl _) (kept_foldl_modUnit _ _ s)
      have hq := hk.same .hqm (by decide)
      exact ⟨_, he, begunAs_begin hq, onlySlot_begin hq, (kept_begin_ _ (by decide) (hk.mono (by decide))).same,
        hne, ⟨_, hself⟩, unitsCleared_unit (armUnits d) s⟩
    · exact ⟨_, (exec_trigDisarm h).trans (congrArg _ (if_pos (Or.inl hd))), doneAs_complete .., onlySlot_complete ..,
        sameBut_complete _ _ _ _⟩
    · refine ⟨_, (exec_trigDisarm h).trans (congrArg _ (if_neg ?_)), begunAs_begin rfl, onlySlot_begin rfl,
        (kept_begin_ _ (by decide) (kept_modGroup _ _ (by decide) (Kept.refl _ s))).same,
        fun j hj => modGroup_group_ne _ _ hj, modGroup_group_self ..⟩
      rintro (hn | hn)
      · exact hd hn
      · rw [hsh] at hn
        cases hn
    · refine ⟨fun hf => ⟨_, exec_acqRead_none h hf, doneAs_complete .., onlySlot_complete .., sameBut_complete _ _ _ _⟩,
        fun r hf => ⟨fun hl => ?_, fun hl hn => ?_, fun hl hn => ?_⟩⟩
      · exact ⟨_, (exec_acqRead_some h hf).trans (congrArg _ (if_pos (readLost_iff.mpr hl))), doneAs_complete ..,
          onlySlot_complete .., sameBut_complete _ _ _ _⟩
      · exact ⟨_, (exec_acqRead_some h hf).trans (congrArg _ ((if_neg (mt readLost_iff.mp hl)).trans (if_pos hn))),
          doneAs_complete .., onlySlot_complete .., sameBut_complete _ _ _ _⟩
      · exact ⟨_, (exec_acqRead_some h hf).trans (congrArg _ ((if_neg (mt readLost_iff.mp hl)).trans (if_neg hn))),
          begunAs_begin rfl, onlySlot_begin rfl,
          (kept_begin_ _ (by decide) (kept_queueBe _ (by decide) (Kept.refl _ s))).same, rfl⟩

end Sys2Proof.Machine

/-!
The DDS generators: their commands, and how they begin, go on at a segment boundary and end.
-/

namespace Sys2Proof.Machine

/-! ## DDS_LOAD, DDS_START, DDS_STOP and DDS_JUMP (R343 to R346, R350) -/

theorem restDram_dds (s : State) : (restDram s).dds = s.dds := by
  obtain ⟨_, h⟩ := restDram_eq s
  rw [h]

theorem gen_of_dds {s t : State} (h : t.dds = s.dds) (n : Nat) : t.gen n = s.gen n := by
  unfold State.gen
  rw [h]

section
variable {k : CmdSlot} {linkErr : Bool} {s : State} (h : s.holds k.val 0x30 = true)
include h

theorem exec_ddsLoad_refused (hr : s.dram.enabled = false ∨ (s.gen (pay (s.cmd k.val).desc 0 1)).running = true ∨
      (s.gen (pay (s.cmd k.val).desc 0 1)).startSpan ≠ none) :
    exec (.ddsLoad k linkErr) s = .next (complete k.val stPrecondition 0 s) := by
  show execDdsLoad k linkErr s = _
  rw [execDdsLoad, onCmd_pos h]
  refine congrArg _ (if_pos ?_)
  simpa [or_assoc, Option.isSome_iff_ne_none] using hr

theorem exec_ddsLoad_taken (he : s.dram.enabled = true)
    (hb : ¬ ((s.gen (pay (s.cmd k.val).desc 0 1)).running = true ∨
      (s.gen (pay (s.cmd k.val).desc 0 1)).startSpan ≠ none)) :
    exec (.ddsLoad k linkErr) s = .next (restDram (loadLists k.val (pay (s.cmd k.val).desc 0 1)
      (pay (s.cmd k.val).desc 8 8) linkErr (wakeDram s))) := by
  show execDdsLoad k linkErr s = _
  rw [execDdsLoad, onCmd_pos h]
  refine congrArg _ (if_neg ?_)
  simpa [he, not_or] using hb

end

/-- The records that a DDS_LOAD reads, and whether its sequence was closed. -/
def listsRead (a : Nat) (s : State) : List DdsRec × Bool :=
  readDdsSeq s.dram.mem s.installed (s.installed / 32 + 1) a

theorem listsRead_wakeDram (a : Nat) (s : State) : listsRead a (wakeDram s) = listsRead a s := by
  obtain ⟨_, _, h⟩ := wakeDram_eq s
  rw [h]
  rfl

theorem loadLists_bad {k n a i : Nat} {s : State}
    (h : ddsBadIndex (s.gen n) (listsRead a s).1 (listsRead a s).2 = some i) :
    loadLists k n a false s = complete k stBad (0xFF + i % 65536 * 2 ^ 16) s := by
  unfold listsRead at h
  simp only [loadLists, h, Bool.false_eq_true, if_false]

theorem loadLists_written {k n a : Nat} {s : State}
    (h : ddsBadIndex (s.gen n) (listsRead a s).1 (listsRead a s).2 = none) :
    loadLists k n a false s = complete k stOK 0 (modGen n (fun x => (listsRead a s).1.foldl applyDdsRec x) s) := by
  unfold listsRead at *
  simp only [loadLists, h, Bool.false_eq_true, if_false]

theorem exec_ddsStart {k : CmdSlot} {s : State} (h : s.holds k.val 0x31 = true) (hsb : s.sys.state ≠ .standby) :
    exec (.ddsStart k) s = .next
      (if s.sys.state = .ready ∧ !(s.gen (pay (s.cmd k.val).desc 0 1)).running ∧
          (s.gen (pay (s.cmd k.val).desc 0 1)).startSpan = none ∧
          seqOp ((s.gen (pay (s.cmd k.val).desc 0 1)).seq.get 0) ≠ 0 ∧ !s.cal.trip then
        begin_ k.val (modGen (pay (s.cmd k.val).desc 0 1) (fun x => { x with
          startSpan := some (s.time.span + 2), cmd := some k.val, boundaries := 0 }) s)
      else complete k.val stPrecondition 0 s) := by
  show execDdsStart k s = _
  rw [execDdsStart, onCmd_pos h]
  exact congrArg _ (if_neg hsb)

theorem exec_ddsStop {k : CmdSlot} {s : State} (h : s.holds k.val 0x32 = true) :
    exec (.ddsStop k) s = .next
      (if ((s.gen (pay (s.cmd k.val).desc 0 1)).running || (s.gen (pay (s.cmd k.val).desc 0 1)).startSpan.isSome) = true
      then begin_ k.val (modGen (pay (s.cmd k.val).desc 0 1) (fun x => { x with
        stops := x.stops ++ [((s.cmd k.val).dspan + 1, pay (s.cmd k.val).desc 1 1 == 1, some k.val)] }) s)
      else complete k.val stOK 0 s) := by
  show execDdsStop k s = _
  rw [execDdsStop, onCmd_pos h]

/-- A jump requested of a generator. -/
def jumpAsked (t target : Nat) (g : Gen) : Gen :=
  if !g.running then g
  else
    match g.jump with
    | none => { g with jump := some (t, target) }
    | some (t0, a) =>
      if inTime t0 g.boundary.1 && !inTime t g.boundary.1 && g.due.isNone then
        { g with due := some a, jump := some (t, target) }
      else { g with jump := some (t, target), replaced := satAdd 4095 g.replaced 1 }

theorem requestJump_eq (n t target : Nat) (s : State) : requestJump n t target s = modGen n (jumpAsked t target) s := rfl

/-- A request leaves the target register alone, and pends where the generator runs. -/
theorem jumpAsked_target_jump (t target : Nat) (g : Gen) : (jumpAsked t target g).target = g.target ∧
    (jumpAsked t target g).jump = if g.running = true then some (t, target) else g.jump := by
  unfold jumpAsked
  cases hr : g.running with
  | false => exact ⟨rfl, rfl⟩
  | true =>
    rw [if_neg (by decide)]
    split
    · exact ⟨rfl, rfl⟩
    · split <;> exact ⟨rfl, rfl⟩

/-- A generator as a write of DDS_JUMP leaves it. -/
def jumpWritten (v : W32) (t : Nat) (g : Gen) : Gen :=
  let x := { g with target := BitVec.ofNat 11 (bits v 0 11) }
  if bit v 31 then jumpAsked t (bits v 0 11) x else x

/-- The state after a write of DDS_JUMP. -/
def jumpWrote (j : Nat) (v : W32) (s : State) : State :=
  let u := modGen j (fun g => { g with target := BitVec.ofNat 11 (bits v 0 11) }) s
  if bit v 31 then requestJump j s.now (bits v 0 11) u else u

theorem exec_ddsJumpWrite {j : GenId} {v : W32} {c : Grain} {s : State} (h : s.blockOn false = true) :
    exec (.ddsJumpWrite j v c) s = .next (jumpWrote j.val v (atGrain c s)) := by
  show onBlock false (atGrain c s) (jumpWrote j.val v) = _
  exact onBlock_pos h

theorem jumpWrote_gen_self (j : Nat) (v : W32) (s : State) :
    (jumpWrote j v s).gen j = jumpWritten v s.now (s.gen j) := by
  unfold jumpWrote jumpWritten
  dsimp only
  split
  · rw [requestJump_eq, modGen_gen_self, modGen_gen_self]
  · exact modGen_gen_self ..

theorem jumpWrote_gen_ne {j m : Nat} (v : W32) (s : State) (h : m ≠ j) : (jumpWrote j v s).gen m = s.gen m := by
  unfold jumpWrote
  dsimp only
  split
  · rw [requestJump_eq, modGen_gen_ne _ _ _ _ h, modGen_gen_ne _ _ _ _ h]
  · exact modGen_gen_ne _ _ _ _ h

theorem jumpWritten_target_jump (v : W32) (t : Nat) (g : Gen) :
    (jumpWritten v t g).target = BitVec.ofNat 11 (bits v 0 11) ∧
    (jumpWritten v t g).jump = if bit v 31 = true ∧ g.running = true then some (t, bits v 0 11) else g.jump := by
  unfold jumpWritten
  dsimp only
  split
  next hb =>
    obtain ⟨ht, hj⟩ := jumpAsked_target_jump t (bits v 0 11) { g with target := BitVec.ofNat 11 (bits v 0 11) }
    exact ⟨ht, by simpa [hb] using hj⟩
  next hb => exact ⟨rfl, by simp [hb]⟩

/-- Settles O37: each row by its equation. -/
theorem ddsCommands : Obligations.DdsCommands := by
  intro k linkErr s d n g busy r bad
  refine ⟨fun h => ⟨fun hr => ?_, fun he hb hl => ?_, fun he hb hl => ?_⟩, fun h hsb => ?_,
    fun h => ⟨fun hb => ?_, fun hb => ?_⟩, fun j v c hbl => ?_⟩
  · exact ⟨_, exec_ddsLoad_refused h hr, doneAs_complete .., onlySlot_complete .., rfl⟩
  · subst hl
    obtain ⟨hd, ho⟩ := rested_complete_of_kept k.val stIntegrity 0 (kept_wakeDram_self s) (by decide)
    exact ⟨_, exec_ddsLoad_taken h he hb, hd, ho, (restDram_dds _).trans ((kept_wakeDram_self s).same .dds (by decide))⟩
  · subst hl
    have hdds : (wakeDram s).dds = s.dds := (kept_wakeDram_self s).same .dds (by decide)
    have hrow := exec_ddsLoad_taken (linkErr := false) h he hb
    have hbad : ddsBadIndex ((wakeDram s).gen n) (listsRead (pay d 8 8) (wakeDram s)).1
        (listsRead (pay d 8 8) (wakeDram s)).2 = bad := by
      show _ = ddsBadIndex (s.gen n) (listsRead (pay d 8 8) s).1 (listsRead (pay d 8 8) s).2
      rw [gen_of_dds hdds, listsRead_wakeDram]
    refine ⟨fun i hi => ?_, fun hi => ?_⟩
    · rw [loadLists_bad (hbad.trans hi)] at hrow
      obtain ⟨hd, ho⟩ := rested_complete_of_kept k.val stBad (0xFF + i % 65536 * 2 ^ 16) (kept_wakeDram_self s) (by decide)
      exact ⟨_, hrow, hd, ho, (restDram_dds _).trans hdds⟩
    · rw [loadLists_written (hbad.trans hi), listsRead_wakeDram] at hrow
      have hk : Kept [.dram, .dds] s (modGen n (fun x => (listsRead (pay d 8 8) s).1.foldl applyDdsRec x) (wakeDram s)) :=
        kept_modGen _ _ (by decide) ((kept_wakeDram_self s).mono (by decide))
      obtain ⟨hd, ho⟩ := rested_complete_of_kept k.val stOK 0 hk (by decide)
      refine ⟨_, hrow, hd, ho, ?_, fun m hm => ?_⟩
      · rw [gen_of_dds (restDram_dds _)]
        exact (modGen_gen_self ..).trans (congrArg (fun x => (listsRead (pay d 8 8) s).1.foldl applyDdsRec x)
          (gen_of_dds hdds n))
      · rw [gen_of_dds (restDram_dds _)]
        exact (modGen_gen_ne _ _ _ _ hm).trans (gen_of_dds hdds m)
  · have hiff : (s.sys.state = .ready ∧ !g.running ∧ g.startSpan = none ∧ seqOp (g.seq.get 0) ≠ 0 ∧ !s.cal.trip) ↔
        (s.sys.state = .ready ∧ ¬ busy ∧ seqOp (g.seq.get 0) ≠ 0 ∧ s.cal.trip = false) := by
      simp [busy, and_assoc]
    exact ⟨fun ht => ⟨_, (exec_ddsStart h hsb).trans (congrArg _ (if_pos (hiff.mpr ht))), begunAs_begin rfl,
        onlySlot_begin rfl, modGen_gen_self .., fun m hm => modGen_gen_ne _ _ _ _ hm⟩,
      fun ht => ⟨_, (exec_ddsStart h hsb).trans (congrArg _ (if_neg (mt hiff.mp ht))), doneAs_complete ..,
        onlySlot_complete .., rfl⟩⟩
  · refine ⟨_, (exec_ddsStop h).trans (congrArg _ (if_pos ?_)), begunAs_begin rfl, onlySlot_begin rfl,
      modGen_gen_self .., fun m hm => modGen_gen_ne _ _ _ _ hm⟩
    simpa [Option.isSome_iff_ne_none] using hb
  · refine ⟨_, (exec_ddsStop h).trans (congrArg _ (if_neg ?_)), doneAs_complete .., onlySlot_complete .., rfl⟩
    rw [Bool.or_eq_true, Option.isSome_iff_ne_none]
    exact hb
  · obtain ⟨htarget, hjump⟩ := jumpWritten_target_jump v (atGrain c s).now (s.gen j.val)
    have hself := jumpWrote_gen_self j.val v (atGrain c s)
    exact ⟨_, exec_ddsJumpWrite hbl, (congrArg Gen.target hself).trans htarget, (congrArg Gen.jump hself).trans hjump,
      fun m hm => jumpWrote_gen_ne v (atGrain c s) hm⟩

/-! ## Segments put on, generators parked and stopped (R337, R338, R345, R350) -/

/-- What a segment reads of its generator: its idle bits and its lists. -/
def Gen.lists (g : Gen) : W32 × SMap W64 × SMap W32 × SMap W32 × SMap (BitVec 128) × SMap W64 :=
  (g.cfg, g.freq, g.phase, g.amp, g.seg, g.seq)

/-- The segment that a SEG at an address puts on. -/
def Gen.segAt (g : Gen) (a : Nat) (t0 : Int) (i acc err : Nat) : GenSeg :=
  let e := g.seg.get (bits (g.seq.get a) 0 11)
  let w : BitVec 48 := BitVec.ofNat 48 (bits (g.freq.get (bits e 32 10)) 0 48)
  { from_ := t0 + 4096 * i, t0 := t0, on := true, val := bit g.cfg 0, n0 := i, w := w, p := g.phase.get (bits e 42 10),
    a := BitVec.ofNat 16 (bits (g.amp.get (bits e 52 10)) 0 16),
    acc := BitVec.ofNat 48 (if bits e 62 2 = 0 then acc else if bits e 62 2 = 1 then w.toNat * i % 2 ^ 48 else 0),
    err := err }

/-- The samples of that segment. -/
def Gen.segLen (g : Gen) (a : Nat) : Nat := bits (g.seg.get (bits (g.seq.get a) 0 11)) 0 32 + 1

theorem Gen.putSeg_eq (g : Gen) (i acc err : Nat) (t0 : Int) (a : Nat) (loops : List (Nat × Nat × Nat))
    (calls : List Nat) : g.putSeg i acc err t0 a loops calls = { g with
      pc := a + 1, loops := loops, calls := calls, len := g.segLen a, segs := (g.segAt a t0 i acc err :: g.segs).take 300 } := by
  unfold Gen.putSeg Gen.segAt Gen.segLen
  generalize g.seg.get (bits (g.seq.get a) 0 11) = e
  dsimp only
  split
  next h => rw [if_pos h]
  next h => rw [if_neg (by rw [h]; decide), if_pos h]
  next h0 h1 => rw [if_neg h0, if_neg h1]

/-- A generator that plays the segment of an address, and no other generator changed. -/
def playsSeg (n : Nat) (s t : State) (a : Nat) (loops : List (Nat × Nat × Nat)) (calls : List Nat) (t0 : Int)
    (i acc err : Nat) : Prop :=
  (t.gen n).running = true ∧ (t.gen n).startSpan = none ∧ (t.gen n).pc = a + 1 ∧ (t.gen n).loops = loops ∧
  (t.gen n).calls = calls ∧ (t.gen n).len = (s.gen n).segLen a ∧
  (t.gen n).segs.head? = some ((s.gen n).segAt a t0 i acc err) ∧ ∀ m, m ≠ n → t.gen m = s.gen m

theorem playsSeg_of_gen {n : Nat} {s t : State} {x : Gen} {a i acc err : Nat} {loops : List (Nat × Nat × Nat)}
    {calls : List Nat} {t0 : Int} (hg : t.gen n = x.putSeg i acc err t0 a loops calls) (hl : x.lists = (s.gen n).lists)
    (hr : x.running = true) (hs : x.startSpan = none) (hne : ∀ m, m ≠ n → t.gen m = s.gen m) :
    playsSeg n s t a loops calls t0 i acc err := by
  simp only [Gen.lists, Prod.mk.injEq] at hl
  obtain ⟨hcfg, hfreq, hphase, hamp, hseg, hseq⟩ := hl
  rw [Gen.putSeg_eq] at hg
  refine ⟨by rw [hg]; exact hr, by rw [hg]; exact hs, by rw [hg], by rw [hg], by rw [hg], ?_, ?_, hne⟩
  · rw [hg]
    simp only [Gen.segLen, hseg, hseq]
  · rw [hg]
    simp only [Gen.segAt, hcfg, hfreq, hphase, hamp, hseg, hseq]
    rfl

/-- A generator idle from an instant, and no other generator changed. -/
def idleGen (n : Nat) (s t : State) (c : Int) : Prop :=
  (t.gen n).running = false ∧ (t.gen n).startSpan = none ∧ (t.gen n).jump = none ∧ (t.gen n).stops = [] ∧
  (t.gen n).segs.head? = some { from_ := c, on := false, val := bit (s.gen n).cfg 1 } ∧
  ∀ m, m ≠ n → t.gen m = s.gen m

theorem idleGen_of_park {n : Nat} {s t u : State} {c : Int} (ht : t.dds = (modGen n (fun x => x.park c) u).dds)
    (hcfg : (u.gen n).cfg = (s.gen n).cfg) (hne : ∀ m, m ≠ n → u.gen m = s.gen m) : idleGen n s t c := by
  have hg : t.gen n = (u.gen n).park c := (gen_of_dds ht n).trans (modGen_gen_self ..)
  refine ⟨by rw [hg]; rfl, by rw [hg]; rfl, by rw [hg]; rfl, by rw [hg]; rfl, ?_, fun m hm =>
    (gen_of_dds ht m).trans ((modGen_gen_ne _ _ _ _ hm).trans (hne m hm))⟩
  rw [hg, ← hcfg]
  rfl

theorem endStops_eq (l : List (Nat × Bool × Option Nat)) (s : State) :
    endStops l s = completeAll (l.map fun x => x.2.2) stOK 0 s := by
  rw [completeAll, List.foldl_map]
  rfl

/-- The stops of a list ended and then a command completed. -/
theorem kept_endGen (l : List (Nat × Bool × Option Nat)) (k : Option Nat) (st : BitVec 8) (r : Nat) (s : State) :
    Kept [.hqm] s (completeOpt k st r (endStops l s)) := by
  rw [endStops_eq]
  exact kept_completeOpt _ _ _ (List.Subset.refl _) (kept_completeAll ..)

/-- Command slot k still holds the descriptor of its queue. -/
def sameDesc (k : Nat) (s t : State) : Prop := (t.cmd k).desc = (s.cmd k).desc ∧ (t.cmd k).sq = (s.cmd k).sq

theorem sameDesc.completeOpt {k : Nat} {s t : State} (h : sameDesc k s t) (j : Option Nat) (st : BitVec 8) (r : Nat) :
    sameDesc k s (completeOpt j st r t) := by
  unfold sameDesc
  rw [completeOpt_cmd]
  split <;> exact h

theorem sameDesc.endStops {k : Nat} {s t : State} (h : sameDesc k s t) (l : List (Nat × Bool × Option Nat)) :
    sameDesc k s (endStops l t) := by
  unfold sameDesc
  rw [endStops_eq, completeAll_cmd]
  split <;> exact h

/-- A completion, of a slot that may have been completed before it. -/
theorem doneAs_complete_last {k : Nat} {st : BitVec 8} {r : Nat} {s u : State} (hk : Kept [.hqm, .dds] s u)
    (hd : sameDesc k s u) : doneAs k st r s (complete k st r u) := by
  obtain ⟨hdesc, hsq⟩ := hd
  have hc : (complete k st r u).cmd k = completed st r s (u.cmd k) :=
    (modCmd_cmd_self ..).trans (hk.completed (by decide) ..)
  unfold doneAs
  rw [hc]
  exact ⟨rfl, rfl, rfl, rfl, rfl, hdesc, hsq⟩

theorem parkGen_dds (n : Nat) (t : Int) (s : State) : (parkGen n t s).dds = (modGen n (fun x => x.park t) s).dds :=
  (kept_endGen ..).same .dds (by decide)

theorem doneAs_parkGen {n k : Nat} {s u : State} (t : Int) (hu : Kept [.dds] s u) (hk : (u.gen n).cmd = some k) :
    doneAs k stOK (u.gen n).boundaries s (parkGen n t u) := by
  have hp : Kept [.dds] s (modGen n (fun x => x.park t) u) := kept_modGen _ _ (List.Subset.refl _) hu
  have hc := cmd_of_hqm (hp.same .hqm (by decide)) k
  have hd : sameDesc k s (modGen n (fun x => x.park t) u) := ⟨by rw [hc], by rw [hc]⟩
  rw [parkGen, hk]
  refine doneAs_complete_last ((hp.mono (by decide)).trans (Kept.mono (m := [.hqm]) ?_ (by decide))) (hd.endStops _)
  rw [endStops_eq]
  exact kept_completeAll ..

theorem stopGen_dds (n : Nat) (t : Int) (st : Nat × Bool × Option Nat) (s : State) :
    (stopGen n t st s).dds = (modGen n (fun x => x.park t) s).dds :=
  ((kept_endGen ..).same .dds (by decide)).trans
    ((kept_completeOpt (m := [.hqm]) _ _ _ (by decide) (Kept.refl _ _)).same .dds (by decide))

section
variable {n k : Nat} {s u : State} {st : Nat × Bool × Option Nat} (t : Int) (hu : Kept [.dds] s u)
include hu

theorem doneAs_stopGen_run (hk : (u.gen n).cmd = some k) :
    doneAs k stCancelled (u.gen n).boundaries s (stopGen n t st u) := by
  have hp : Kept [.dds] s (modGen n (fun x => x.park t) u) := kept_modGen _ _ (List.Subset.refl _) hu
  have hc := cmd_of_hqm (hp.same .hqm (by decide)) k
  have hd : sameDesc k s (modGen n (fun x => x.park t) u) := ⟨by rw [hc], by rw [hc]⟩
  have hs : Kept [.hqm, .dds] s (completeOpt st.2.2 stOK 1 (modGen n (fun x => x.park t) u)) :=
    kept_completeOpt _ _ _ (by decide) (hp.mono (by decide))
  rw [stopGen, hk]
  refine doneAs_complete_last (hs.trans (Kept.mono (m := [.hqm]) ?_ (by decide))) ((hd.completeOpt ..).endStops _)
  rw [endStops_eq]
  exact kept_completeAll ..

theorem doneAs_stopGen_stop (hk : st.2.2 = some k) (hg : (u.gen n).cmd ≠ some k)
    (hy : ∀ y, y ∈ (u.gen n).stops → y ≠ st → y.2.2 ≠ some k) : doneAs k stOK 1 s (stopGen n t st u) := by
  have hp : Kept [.dds] s (modGen n (fun x => x.park t) u) := kept_modGen _ _ (List.Subset.refl _) hu
  have hn : some k ∉ ((u.gen n).stops.filter fun x => x != st).map fun x => x.2.2 := fun h => by
    obtain ⟨y, hm, he⟩ := List.mem_map.mp h
    obtain ⟨hm, hne⟩ := List.mem_filter.mp hm
    exact hy y hm (by simpa using hne) he
  refine doneAs_of_cmd ?_
  rw [stopGen, completeOpt_cmd, if_neg hg, endStops_eq, completeAll_cmd, if_neg hn, completeOpt_cmd, if_pos hk,
    hp.completed (by decide), cmd_of_hqm (hp.same .hqm (by decide))]

end

/-! ## The start (R336, R338) -/

theorem stopDue_none {n : Nat} {s : State} (h : ∀ x, x ∈ (s.gen n).stops → x.2.1 = true → s.time.span < x.1) :
    stopDue n s = s := by
  have hf : (s.gen n).stops.find? (fun x => x.2.1 && decide (x.1 ≤ s.time.span)) = none :=
    List.find?_eq_none.mpr fun x hx hp => by
      obtain ⟨hi, hle⟩ := Bool.and_eq_true_iff.mp hp
      exact absurd (of_decide_eq_true hle) (Nat.not_le.mpr (h x hx hi))
  rw [stopDue, hf]

/-- A generator begun with the segment of an address. -/
def genBegun (n a : Nat) (loops : List (Nat × Nat × Nat)) (calls : List Nat) (t0 : Int) (s : State) : State :=
  modGen n (fun x => { x with running := true, startSpan := none }.putSeg 0 0 0 t0 a loops calls) s

section
variable {n : GenId} {s : State} {sp : Nat} (h : (s.gen n.val).startSpan = some sp) (hle : sp ≤ s.time.span)
include h hle

theorem exec_ddsRunBegin_seg {a : Nat} {loops : List (Nat × Nat × Nat)} {calls : List Nat}
    (hs : seekSeg (s.gen n.val).seq 4096 0 [] [] = some (a, loops, calls)) :
    exec (.ddsRunBegin n) s = .next (stopDue n.val
      (genBegun n.val a loops calls ((sp * spanGr : Nat) + (s.gen n.val).skew) s)) := by
  show execDdsRunBegin n s = _
  simp only [execDdsRunBegin, h, hle, hs, if_true]
  rfl

theorem exec_ddsRunBegin_end (hs : seekSeg (s.gen n.val).seq 4096 0 [] [] = none) :
    exec (.ddsRunBegin n) s = .next (parkGen n.val ((sp * spanGr : Nat) + (s.gen n.val).skew) s) := by
  show execDdsRunBegin n s = _
  simp only [execDdsRunBegin, h, hle, hs, if_true]

end

/-! ## The segment boundary (R341, R342, R347 to R350) -/

theorem Gen.jumpAt_eq_some {g : Gen} {b : Int} {a : Nat} : g.jumpAt b = some a ↔
    g.due = some a ∨ (g.due = none ∧ ∃ c, g.jump = some (c, a) ∧ (c : Int) + 65536 ≤ b) := by
  unfold Gen.jumpAt
  cases hd : g.due with
  | some x => simp
  | none =>
    cases hj : g.jump with
    | none => simp
    | some y =>
      obtain ⟨c, x⟩ := y
      simp [inTime, and_comm]

/-- A boundary counted. -/
def genCounted (n : Nat) (s : State) : State := modGen n (fun x => { x with boundaries := x.boundaries + 1 }) s

/-- A jump taken at a boundary. -/
def jumpTaken (due : Option Nat) (g : Gen) : Gen :=
  { g with jump := if due.isSome then g.jump else none, due := none, jumpDone := true, jumpBoundary := g.boundaries }

/-- A generator gone on at a boundary with the segment of an address. -/
def segPut (g : Gen) (a : Nat) (loops : List (Nat × Nat × Nat)) (calls : List Nat) (x : Gen) : Gen :=
  x.putSeg g.boundary.2.1 g.boundary.2.2.1 g.boundary.2.2.2 (x.segs.headD {}).t0 a loops calls

section
variable {n : GenId} {s : State} (hr : (s.gen n.val).running = true)
include hr

theorem exec_ddsSegmentBoundary_stop {st : Nat × Bool × Option Nat}
    (hf : (s.gen n.val).stops.find? (fun x => inTime ((s.gen n.val).stopAt x.1) (s.gen n.val).boundary.1) = some st) :
    exec (.ddsSegmentBoundary n) s =
      .next (stopGen n.val (s.gen n.val).boundary.1 st (genCounted n.val s)) := by
  show execDdsSegmentBoundary n s = _
  simp only [execDdsSegmentBoundary, hr, hf, Bool.not_true, Bool.false_eq_true, if_false]
  rfl

variable (hf : (s.gen n.val).stops.find? (fun x => inTime ((s.gen n.val).stopAt x.1) (s.gen n.val).boundary.1) = none)
include hf

section
variable {a : Nat} (hj : (s.gen n.val).jumpAt (s.gen n.val).boundary.1 = some a)
include hj

theorem exec_ddsSegmentBoundary_jump {a' : Nat} {loops : List (Nat × Nat × Nat)} {calls : List Nat}
    (hs : seekSeg (s.gen n.val).seq 4096 a [] [] = some (a', loops, calls)) : exec (.ddsSegmentBoundary n) s =
      .next (modGen n.val (segPut (s.gen n.val) a' loops calls)
        (modGen n.val (jumpTaken (s.gen n.val).due) (genCounted n.val s))) := by
  show execDdsSegmentBoundary n s = _
  simp only [execDdsSegmentBoundary, hr, hf, hj, hs, Bool.not_true, Bool.false_eq_true, if_false]
  rfl

theorem exec_ddsSegmentBoundary_jumpEnd (hs : seekSeg (s.gen n.val).seq 4096 a [] [] = none) :
    exec (.ddsSegmentBoundary n) s = .next (parkGen n.val (s.gen n.val).boundary.1
      (modGen n.val (jumpTaken (s.gen n.val).due) (genCounted n.val s))) := by
  show execDdsSegmentBoundary n s = _
  simp only [execDdsSegmentBoundary, hr, hf, hj, hs, Bool.not_true, Bool.false_eq_true, if_false]
  rfl

end

variable (hj : (s.gen n.val).jumpAt (s.gen n.val).boundary.1 = none)
include hj

theorem exec_ddsSegmentBoundary_next {a' : Nat} {loops : List (Nat × Nat × Nat)} {calls : List Nat}
    (hs : seekSeg (s.gen n.val).seq 4096 (s.gen n.val).pc (s.gen n.val).loops (s.gen n.val).calls =
      some (a', loops, calls)) : exec (.ddsSegmentBoundary n) s =
      .next (modGen n.val (segPut (s.gen n.val) a' loops calls) (genCounted n.val s)) := by
  show execDdsSegmentBoundary n s = _
  simp only [execDdsSegmentBoundary, hr, hf, hj, hs, Bool.not_true, Bool.false_eq_true, if_false]
  rfl

theorem exec_ddsSegmentBoundary_end
    (hs : seekSeg (s.gen n.val).seq 4096 (s.gen n.val).pc (s.gen n.val).loops (s.gen n.val).calls = none) :
    exec (.ddsSegmentBoundary n) s = .next (parkGen n.val (s.gen n.val).boundary.1 (genCounted n.val s)) := by
  show execDdsSegmentBoundary n s = _
  simp only [execDdsSegmentBoundary, hr, hf, hj, hs, Bool.not_true, Bool.false_eq_true, if_false]
  rfl

end

/-- Settles O38: a segment put on or a generator parked, at the start and at a boundary, by the row's own branches. -/
theorem ddsRuns : Obligations.DdsRuns := by
  intro n s g entryOf puts idle
  refine ⟨fun sp hsp hle hst => ?_, fun hr hs => ?_⟩
  · intro t0
    refine ⟨fun a loops calls hsk => ?_, fun hsk => ?_⟩
    · have hgen : (genBegun n.val a loops calls t0 s).gen n.val =
          { g with running := true, startSpan := none }.putSeg 0 0 0 t0 a loops calls := modGen_gen_self ..
      have hrow := exec_ddsRunBegin_seg hsp hle hsk
      rw [stopDue_none (by
        intro x hx
        refine hst x ?_
        erw [hgen] at hx
        exact hx)] at hrow
      exact ⟨_, hrow, playsSeg_of_gen hgen rfl rfl rfl fun m hm => modGen_gen_ne _ _ _ _ hm, rfl⟩
    · exact ⟨_, exec_ddsRunBegin_end hsp hle hsk, idleGen_of_park (parkGen_dds ..) rfl fun _ _ => rfl,
        fun k hk => doneAs_parkGen _ (Kept.refl _ s) hk⟩
  · intro x b err jumps early
    have hself : (genCounted n.val s).gen n.val = { g with boundaries := g.boundaries + 1 } := modGen_gen_self ..
    have hne : ∀ m, m ≠ n.val → (genCounted n.val s).gen m = s.gen m := fun m hm => modGen_gen_ne _ _ _ _ hm
    have hk : Kept [.dds] s (genCounted n.val s) := kept_modGen _ _ (List.Subset.refl _) (Kept.refl _ s)
    refine ⟨fun st hst he => ?_, fun hlate => ?_⟩
    · have hf : g.stops.find? (fun x => inTime (g.stopAt x.1) g.boundary.1) = some st := by
        obtain ⟨l, hl⟩ := List.head?_eq_some_iff.mp hst
        rw [hl]
        exact List.find?_cons_of_pos (decide_eq_true he)
      refine ⟨_, exec_ddsSegmentBoundary_stop hr hf, idleGen_of_park (stopGen_dds ..) (by rw [hself]) hne,
        fun k hc => ?_, fun k hc hg hy => doneAs_stopGen_stop _ hk hc (by rw [hself]; exact hg) (by rw [hself]; exact hy)⟩
      have hd := doneAs_stopGen_run (st := st) b hk ((congrArg Gen.cmd hself).trans hc)
      rw [hself] at hd
      exact hd
    have hf : g.stops.find? (fun x => inTime (g.stopAt x.1) g.boundary.1) = none :=
      List.find?_eq_none.mpr fun st hm he => hlate st hm (of_decide_eq_true he)
    refine ⟨fun a hj => ?_, fun hj => ?_⟩
    · have hj := Gen.jumpAt_eq_some.mpr hj
      have hself' : (modGen n.val (jumpTaken g.due) (genCounted n.val s)).gen n.val =
          jumpTaken g.due { g with boundaries := g.boundaries + 1 } := (modGen_gen_self ..).trans (congrArg _ hself)
      have hne' : ∀ m, m ≠ n.val → (modGen n.val (jumpTaken g.due) (genCounted n.val s)).gen m = s.gen m := fun m hm =>
        (modGen_gen_ne _ _ _ _ hm).trans (hne m hm)
      refine ⟨fun a' loops calls hsk => ?_, fun hsk => ?_⟩
      · have hgen := (modGen_gen_self n.val (segPut g a' loops calls) (modGen n.val (jumpTaken g.due)
          (genCounted n.val s))).trans (congrArg (segPut g a' loops calls) hself')
        refine ⟨_, exec_ddsSegmentBoundary_jump hr hf hj hsk, playsSeg_of_gen hgen rfl hr hs fun m hm =>
          (modGen_gen_ne _ _ _ _ hm).trans (hne' m hm), ?_, congrArg Gen.due hgen, congrArg Gen.jumpDone hgen,
          congrArg Gen.jumpBoundary hgen⟩
        refine (congrArg Gen.jump hgen).trans ?_
        show (if g.due.isSome then g.jump else none) = _
        cases g.due <;> rfl
      · refine ⟨_, exec_ddsSegmentBoundary_jumpEnd hr hf hj hsk, idleGen_of_park (parkGen_dds ..)
          (by rw [hself']; rfl) hne', fun k hc => ?_⟩
        have hd := doneAs_parkGen b (kept_modGen n.val (jumpTaken g.due) (List.Subset.refl _) hk)
          ((congrArg Gen.cmd hself').trans hc)
        rw [hself'] at hd
        exact hd
    · have hj : g.jumpAt g.boundary.1 = none :=
        Option.eq_none_iff_forall_not_mem.mpr fun a ha => hj a (Gen.jumpAt_eq_some.mp ha)
      refine ⟨fun a' loops calls hsk => ?_, fun hsk => ?_⟩
      · have hgen := (modGen_gen_self n.val (segPut g a' loops calls) (genCounted n.val s)).trans
          (congrArg (segPut g a' loops calls) hself)
        exact ⟨_, exec_ddsSegmentBoundary_next hr hf hj hsk, playsSeg_of_gen hgen rfl hr hs fun m hm =>
          (modGen_gen_ne _ _ _ _ hm).trans (hne m hm), (congrArg Gen.jump hgen).trans rfl, congrArg Gen.boundaries hgen⟩
      · refine ⟨_, exec_ddsSegmentBoundary_end hr hf hj hsk, idleGen_of_park (parkGen_dds ..)
          (by rw [hself]) hne, fun k hc => ?_⟩
        have hd := doneAs_parkGen b hk ((congrArg Gen.cmd hself).trans hc)
        rw [hself] at hd
        exact hd

end Sys2Proof.Machine

/-!
Eye scans and continuous calibration.
-/

namespace Sys2Proof.Machine

/-! ## EYE_SCAN (R266, R268, R269) -/

/-- The scan that an EYE_SCAN begins. -/
def scanBegun (k : Nat) (d : Desc) : Scan :=
  { cmd := k, d := pay d 1 1, pMin := payS d 2, pStep := pay d 4 1,
    pCount := scanCount (payS d 2) (payS d 3) (pay d 4 1), vMin := payS d 5, vStep := pay d 7 1,
    vCount := scanCount (payS d 5) (payS d 6) (pay d 7 1), dest := pay d 8 8 }

/-- A pin with a scan begun. -/
def scanning (z : Scan) (p : Pin) : Pin := { p with scan := some { z with unl := !p.locked } }

theorem exec_eyeScan {k : CmdSlot} {s : State} (h : s.holds k.val 0x3A = true) (hsb : s.sys.state ≠ .standby) :
    exec (.eyeScan k) s = .next
      (if (!s.dram.enabled || !(s.cdrOn (pay (s.cmd k.val).desc 0 1) || (s.pin (pay (s.cmd k.val).desc 0 1)).loop == 1) ||
          !(s.pin (pay (s.cmd k.val).desc 0 1)).locked || (s.pin (pay (s.cmd k.val).desc 0 1)).scan.isSome) = true
      then complete k.val stPrecondition 0 s
      else begin_ k.val (modPin (pay (s.cmd k.val).desc 0 1) (scanning (scanBegun k.val (s.cmd k.val).desc)) s)) := by
  show execEyeScan k s = _
  rw [execEyeScan, onCmd_pos h]
  exact congrArg _ (if_neg hsb)

/-- A pin with its scan at the next point. -/
def scanNext (z : Scan) (p : Pin) : Pin :=
  { p with scan := some { z with done := z.done + 1, unl := !p.locked, moved := false } }

/-- A pin with its scan over. -/
def scanOver (span : Nat) (p : Pin) : Pin := { p with scan := none, scanEnd := span + 1 }

/-- The state once the entry of a point is written. -/
def scanWritten (z : Scan) (errs : Nat) (g : Grain) (s : State) : State :=
  engineStore (z.dest + 8 * z.done) (leBytes 8 (scanEntry z errs)) (atGrain g s)

section
variable {c : Chan} {high low : Nat} {g : Grain} {s : State} {z : Scan} (hz : (s.pin c.val).scan = some z)
include hz

theorem exec_eyeScanPoint_next (hl : z.done + 1 < z.pCount * z.vCount) : exec (.eyeScanPoint c high low g) s =
    .next (modPin c.val (scanNext z) (scanWritten z (high + low) g s)) := by
  show execEyeScanPoint c high low g s = _
  simp only [execEyeScanPoint, hz, hl, if_true]
  rfl

theorem exec_eyeScanPoint_last (hl : ¬ z.done + 1 < z.pCount * z.vCount) : exec (.eyeScanPoint c high low g) s =
    .next (complete z.cmd stOK (z.done + 1) (modPin c.val (scanOver s.time.span) (scanWritten z (high + low) g s))) := by
  show execEyeScanPoint c high low g s = _
  simp only [execEyeScanPoint, hz, hl, if_false]
  rfl

end

/-- Settles O40: the command by its conditions, a point by whether it is the last. -/
theorem eyeScans : Obligations.EyeScans := by
  refine ⟨fun k s h hsb => ?_, fun c high low g s z hz => ?_⟩
  · intro d c p z takes
    have hiff : (!s.dram.enabled || !(s.cdrOn c || p.loop == 1) || !p.locked || p.scan.isSome) = true ↔ ¬ takes := by
      simp [takes, or_assoc, imp_iff_not_or, Option.isSome_iff_ne_none]
    refine ⟨fun ht => ⟨_, (exec_eyeScan h hsb).trans (congrArg _ (if_pos (hiff.mpr ht))), doneAs_complete ..,
      onlySlot_complete .., rfl⟩, fun ht => ⟨_, (exec_eyeScan h hsb).trans (congrArg _ (if_neg fun hc => hiff.mp hc ht)),
      begunAs_begin rfl, onlySlot_begin rfl, fun j hj => modPin_pin_ne _ _ _ _ hj, ?_⟩⟩
    have hl : p.locked = true := ht.2.2.1
    refine (modPin_pin_self ..).trans ?_
    show ({ p with scan := some { z with unl := !p.locked } } : Pin) = _
    rw [hl]
    rfl
  · intro errors ph ve word
    by_cases hl : z.done + 1 < z.pCount * z.vCount
    · refine ⟨_, exec_eyeScanPoint_next hz hl, rfl, fun j hj => modPin_pin_ne _ _ _ _ hj, ?_⟩
      rw [if_pos hl]
      exact ⟨modPin_pin_self .., rfl⟩
    · refine ⟨_, exec_eyeScanPoint_last hz hl, rfl, fun j hj =>
        modPin_pin_ne c.val j (scanOver s.time.span) (scanWritten z (high + low) g s) hj, ?_⟩
      rw [if_neg hl]
      have hk : Kept [.dram, .dramMem, .pins] (atGrain g s)
          (modPin c.val (scanOver s.time.span) (scanWritten z (high + low) g s)) :=
        kept_modPin _ _ (by decide) (kept_engineStore _ _ (by decide) (Kept.refl _ _))
      obtain ⟨hd, ho⟩ := complete_of_kept z.cmd stOK (z.done + 1) hk (by decide)
      exact ⟨modPin_pin_self c.val (scanOver s.time.span) (scanWritten z (high + low) g s), hd, ho⟩

/-! ## Pins changed one after the other -/

/-- Steps that each change one pin, or one field of it, folded over channels that are named once, while something that
they keep holds. -/
theorem foldl_view {α : Type} (view : State → Nat → α) {P : State → Prop} {step : State → Nat → State} {F : Nat → α → α}
    (hP : ∀ t c, P t → P (step t c)) (hself : ∀ t c, P t → view (step t c) c = F c (view t c))
    (hne : ∀ t c j, P t → j ≠ c → view (step t c) j = view t j) {l : List Nat} (hl : l.Nodup) {s : State} (hs : P s)
    (j : Nat) : view (l.foldl step s) j = if j ∈ l then F j (view s j) else view s j := by
  induction l generalizing s with
  | nil => rfl
  | cons c l ih =>
    obtain ⟨hc, hl⟩ := List.nodup_cons.mp hl
    rw [List.foldl_cons, ih hl (hP s c hs)]
    by_cases hj : j = c
    · subst hj
      rw [if_neg hc, if_pos List.mem_cons_self, hself s j hs]
    · rw [hne s c j hs hj]
      simp only [List.mem_cons, hj, false_or]

/-! ## Windows, events and failures of steps -/

/-- What the opening of a window changes of a pin: what tells whether it was disturbed. -/
theorem openWindow_pin (st u : Nat) (s : State) (j : Nat) : ∃ d r t,
    (openWindow st u s).pin j = { s.pin j with disturbed := d, refDist := r, temps := t } := by
  unfold openWindow
  dsimp only
  split
  · rw [modPin_pin]
    split
    · next h => subst h; exact ⟨_, _, _, rfl⟩
    · exact ⟨_, _, _, rfl⟩
  · split
    · rw [modPin_pin]
      split
      · next h => subst h; exact ⟨_, _, _, rfl⟩
      · exact ⟨_, _, _, rfl⟩
    · exact ⟨_, _, _, rfl⟩

theorem kept_openWindow_self (st u : Nat) (s : State) : Kept [.pins] s (openWindow st u s) :=
  kept_openWindow st u (List.Subset.refl _) (Kept.refl _ s)

theorem signalled_stepEvent (code st u : Nat) (s : State) : signalled s (stepEvent code st u s) := by
  unfold stepEvent
  split
  · exact signalled_refl s
  · exact signalled_perfEvent ..

/-- A failure recorded in the CAL block. -/
def calFault (st u pre : Nat) (c : Cal) : Cal :=
  { c with failStep := BitVec.ofNat 8 st, failUnit := BitVec.ofNat 7 u, failPre := BitVec.ofNat 4 pre, failEvent := true }

/-- A failure of a step of an octet, a generator or the converter. -/
theorem recordFail_unit {st : Nat} (h : chanStep st = false) (u pre : Nat) (s : State) :
    recordFail st u pre false s =
      modCal (calFault st u pre) (modCal (fun c => { c with preFail := satAdd 0xFFFF c.preFail 1 }) (stepEvent 0x051 st u s)) := by
  simp only [recordFail, h, Bool.false_eq_true, if_false]
  rfl

/-! ## Visits (R415, R419) -/

/-- A visit counted at its pin. -/
def Pin.countVisit (p : Pin) : Pin := { p with visits := satAdd 0xFFFF p.visits 1 }

/-- A visit counted. -/
def visitCounted (q : Nat) (s : State) : State :=
  if s.cal.visitCh.get q = 0 then s else modPin (s.cal.visitCh.get q - 1) Pin.countVisit s

/-- A visit begun on a channel. -/
def visitBegun (q c : Nat) (steps : List Nat) (s : State) : State :=
  modCal (fun x => { x with
    visitCh := x.visitCh.set q (c + 1), visitAt := x.visitAt.set q s.time.span,
    visitLeft := x.visitLeft.set q steps }) s

/-- The steps of the next visit to a channel. -/
def State.nextSteps (s : State) (c : Nat) : List Nat := if s.calNames c then [] else s.visitSteps c

theorem exec_calVisit_wait {q : Fin 4} {s : State} (hl : s.cal.visitCh.get q.val ≠ 0)
    (ht : s.time.span < s.cal.visitAt.get q.val + 1024) : exec (.calVisit q) s = .next s := if_pos (.inr ⟨hl, ht⟩)

theorem visitCounted_nextVisit (q : Nat) (s : State) : (visitCounted q s).nextVisit q = s.nextVisit q := by
  unfold visitCounted
  split <;> rfl

theorem visitCounted_nextSteps (q c : Nat) (s : State) : (visitCounted q s).nextSteps c = s.nextSteps c := by
  unfold visitCounted
  split
  · rfl
  · have hloop : ((modPin (s.cal.visitCh.get q - 1) Pin.countVisit s).pin c).loop = (s.pin c).loop := by
      rw [modPin_pin]
      split
      · next h => subst h; rfl
      · rfl
    unfold State.nextSteps State.visitSteps
    rw [hloop]
    rfl

theorem visitCounted_time (q : Nat) (s : State) : (visitCounted q s).time = s.time := by
  unfold visitCounted
  split <;> rfl

section
variable {q : Fin 4} {s : State} (hr : s.sys.state = .ready)
  (ht : s.cal.visitCh.get q.val = 0 ∨ s.cal.visitAt.get q.val + 1024 ≤ s.time.span)
include hr ht

theorem calVisit_due : ¬(s.sys.state ≠ .ready ∨
    (s.cal.visitCh.get q.val ≠ 0 ∧ s.time.span < s.cal.visitAt.get q.val + 1024)) := by
  rintro (h | ⟨h0, h1⟩)
  · exact h hr
  · rcases ht with ht | ht
    · exact h0 ht
    · exact absurd h1 (Nat.not_lt.mpr ht)

theorem exec_calVisit_none (hn : s.nextVisit q.val = none) : exec (.calVisit q) s = .next (visitCounted q.val s) := by
  show execCalVisit q s = _
  have hn := (visitCounted_nextVisit q.val s).trans hn
  unfold visitCounted Pin.countVisit at *
  rw [execCalVisit]
  dsimp only
  rw [if_neg (calVisit_due hr ht), hn]

theorem exec_calVisit_some {c : Nat} (hn : s.nextVisit q.val = some c) : exec (.calVisit q) s =
    .next (if (s.nextSteps c).isEmpty then visitBegun q.val c (s.nextSteps c) (visitCounted q.val s)
      else openWindow 3 c (visitBegun q.val c (s.nextSteps c) (visitCounted q.val s))) := by
  show execCalVisit q s = _
  have hn := (visitCounted_nextVisit q.val s).trans hn
  rw [← visitCounted_nextSteps q.val c s, visitBegun, visitCounted_time]
  unfold visitCounted Pin.countVisit State.nextSteps at *
  rw [execCalVisit]
  dsimp only
  rw [if_neg (calVisit_due hr ht), hn]

end

theorem visitCounted_visits {q : Nat} {s : State} (h : s.cal.visitCh.get q ≠ 0) :
    ((visitCounted q s).pin (s.cal.visitCh.get q - 1)).visits =
      satAdd 0xFFFF (s.pin (s.cal.visitCh.get q - 1)).visits 1 := by
  rw [visitCounted, if_neg h, modPin_pin_self]
  rfl

theorem visitBegun_cal (q c : Nat) (steps : List Nat) (s : State) :
    (visitBegun q c steps s).cal.visitCh.get q = c + 1 ∧ (visitBegun q c steps s).cal.visitAt.get q = s.time.span ∧
    (visitBegun q c steps s).cal.visitLeft.get q = steps :=
  ⟨SMap.get_set_eq s.cal.visitCh q (c + 1), SMap.get_set_eq s.cal.visitAt q s.time.span,
    SMap.get_set_eq s.cal.visitLeft q steps⟩

/-! ## Drift and the converter check (R401, R407, R411) -/

theorem calPre_drift (o : Nat) (rs : List Int) (s : State) :
    s.calPre { step := 6, unit := o, live := true, vals := rs } =
      if s.octOff o 64 = true then 3 else if 8 < spread rs then 5 else 0 := by
  by_cases h3 : s.octOff o 64 = true <;> by_cases h5 : 8 < spread rs <;>
    simp [State.calPre, State.preFails, State.unitMoved, lockSpans, h3, h5]

theorem calPre_convCheck (spr : Nat) (mean : Int) (s : State) :
    s.calPre { step := 1, unit := 0, live := true, spread := spr, vals := [mean] } =
      if 3 < spr then 5 else if 8 < mean.natAbs then 8 else 0 := by
  by_cases h5 : 3 < spr <;> by_cases h8 : 8 < mean.natAbs <;>
    simp [State.calPre, State.preFails, State.unitMoved, spreadLimit, h5, h8]

theorem exec_octetDriftEval {o : OctetId} {g : Grain} {rs : List Int} {s : State} (hr : s.sys.state = .ready)
    (hc : bit s.cal.cont 6 = true) (ho : s.calOct o.val = true) : exec (.octetDriftEval o g rs) s =
    if (atGrain g s).calPre { step := 6, unit := o.val, live := true, vals := rs } ≠ 0 then
      .next (recordFail 6 o.val ((atGrain g s).calPre { step := 6, unit := o.val, live := true, vals := rs }) false
        (stepEvent 0x050 6 o.val (atGrain g s)))
    else .next (applyDrift o.val rs (stepEvent 0x050 6 o.val (atGrain g s))) := by
  refine if_neg ?_
  rw [hr, hc, ho]
  simp

theorem exec_convCheckPeriodic {spr : Nat} {mean : Int} {s : State} (hr : s.sys.state = .ready) :
    exec (.convCheckPeriodic spr mean) s =
    if s.calPre { step := 1, unit := 0, live := true, spread := spr, vals := [mean] } ≠ 0 then
      .next (recordFail 1 0 (s.calPre { step := 1, unit := 0, live := true, spread := spr, vals := [mean] }) false
        (stepEvent 0x050 1 0 s))
    else .next (modCal (fun c => { c with convOff := mean }) (stepEvent 0x050 1 0 s)) :=
  if_neg fun h => h hr

/-- A failure of a step of an octet, a generator or the converter is counted, and changes no pin and no octet. -/
theorem recordFail_unit_keeps {st : Nat} (h : chanStep st = false) (u pre : Nat) {s t : State} (hs : signalled s t) :
    (recordFail st u pre false t).pins = s.pins ∧ (recordFail st u pre false t).octets = s.octets ∧
    (recordFail st u pre false t).cal.convOff = s.cal.convOff ∧
    (recordFail st u pre false t).cal.preFail = satAdd 0xFFFF s.cal.preFail 1 := by
  have hk := signalled_trans hs (signalled_stepEvent 0x051 st u t)
  have hcal := signalled_cal hk
  have hpins := signalled_pins hk
  have hoctets := signalled_octets hk
  rw [recordFail_unit h]
  refine ⟨hpins, hoctets, ?_, ?_⟩
  · rw [← hcal]
    rfl
  · rw [← hcal]
    rfl

/-- A pin with a new vernier target. -/
def targetPin (span : Nat) (drv : Bool) (v : Int) (p : Pin) : Pin :=
  let q := if p.tSpan = span + 1 then p else { p with pDrv := p.tDrv, pCmp := p.tCmp, tSpan := span + 1 }
  let q := { q with vernSat := q.vernSat || clampI (-2048) 2047 v != v }
  if drv then { q with tDrv := clampI (-2048) 2047 v } else { q with tCmp := clampI (-2048) 2047 v }

theorem putTarget_eq (c : Nat) (drv : Bool) (v : Int) (s : State) :
    putTarget c drv v s = modPin c (targetPin s.time.span drv v) s := rfl

/-- What a new target leaves of a pin's targets and of its drive window. -/
theorem targetPin_targets (span : Nat) (drv : Bool) (v : Int) (p : Pin) :
    (targetPin span drv v p).tDrv = (if drv then clampI (-2048) 2047 v else p.tDrv) ∧
    (targetPin span drv v p).tCmp = (if drv then p.tCmp else clampI (-2048) 2047 v) ∧
    (targetPin span drv v p).driveTimed = p.driveTimed := by
  unfold targetPin
  cases drv <;> by_cases h : p.tSpan = span + 1 <;> simp [h]

/-- A pin whose drive window is still to be timed. -/
def Pin.untime (p : Pin) : Pin := { p with driveTimed := false }

/-- The targets of a channel moved by the change of the median. -/
def driftStep (dx : Int) (t : State) (c : Nat) : State :=
  let p := t.pin c
  let t1 := putTarget c false (p.tCmp - dx) t
  let t2 := if p.driveTimed then t1 else putTarget c true (p.tDrv - dx) t1
  modPin c Pin.untime t2

/-- A pin with its targets moved. -/
def driftPin (span : Nat) (dx : Int) (p : Pin) : Pin :=
  let q := targetPin span false (p.tCmp - dx) p
  if p.driveTimed then q.untime else (targetPin span true (p.tDrv - dx) q).untime

theorem driftStep_self (dx : Int) (t : State) (c : Nat) : (driftStep dx t c).pin c = driftPin t.time.span dx (t.pin c) := by
  unfold driftStep driftPin
  dsimp only
  rw [modPin_pin_self]
  cases (t.pin c).driveTimed with
  | true => rw [if_pos rfl, if_pos rfl, putTarget_eq, modPin_pin_self]
  | false =>
    rw [if_neg (by decide), if_neg (by decide), putTarget_eq, putTarget_eq, modPin_pin_self, modPin_pin_self, modPin_time]

theorem driftStep_ne (dx : Int) (t : State) {c j : Nat} (h : j ≠ c) : (driftStep dx t c).pin j = t.pin j := by
  unfold driftStep
  dsimp only
  rw [modPin_pin_ne _ _ _ _ h]
  split
  · exact modPin_pin_ne _ _ _ _ h
  · exact (modPin_pin_ne _ _ _ _ h).trans (modPin_pin_ne _ _ _ _ h)

theorem driftStep_time (dx : Int) (t : State) (c : Nat) : (driftStep dx t c).time = t.time := by
  unfold driftStep
  dsimp only
  rw [modPin_time]
  split
  · exact modPin_time ..
  · exact (modPin_time ..).trans (modPin_time ..)

theorem driftPin_targets (span : Nat) (dx : Int) (p : Pin) :
    (driftPin span dx p).tCmp = clampI (-2048) 2047 (p.tCmp - dx) ∧
    (driftPin span dx p).tDrv = (if p.driveTimed then p.tDrv else clampI (-2048) 2047 (p.tDrv - dx)) ∧
    (driftPin span dx p).driveTimed = false := by
  obtain ⟨hd, hc, -⟩ := targetPin_targets span false (p.tCmp - dx) p
  obtain ⟨hd', hc', -⟩ := targetPin_targets span true (p.tDrv - dx) (targetPin span false (p.tCmp - dx) p)
  unfold driftPin
  dsimp only
  cases p.driveTimed with
  | true => exact ⟨hc, hd, rfl⟩
  | false => exact ⟨hc'.trans hc, hd', rfl⟩

/-- The channels of an octet. -/
def octChans (o : Nat) : List Nat := (List.range 8).map fun i => 8 * o + i

theorem mem_octChans {o c : Nat} : c ∈ octChans o ↔ octOf c = o := by
  simp only [octChans, List.mem_map, List.mem_range, octOf]
  constructor
  · rintro ⟨i, hi, rfl⟩
    omega
  · intro h
    exact ⟨c % 8, by omega, by omega⟩

theorem nodup_octChans (o : Nat) : (octChans o).Nodup :=
  List.nodup_range.map fun a b h => by simpa using h

theorem applyDrift_octet (o : Nat) (rs : List Int) (s : State) :
    ((applyDrift o rs s).octet o).baseline = some (medianI rs) := by
  unfold applyDrift
  dsimp only
  rw [modOctet_octet_self]

theorem applyDrift_first {o : Nat} {rs : List Int} {s : State} (h : (s.octet o).baseline = none) :
    (applyDrift o rs s).pins = s.pins := by
  unfold applyDrift
  dsimp only
  rw [h, modOctet_pins]

theorem applyDrift_moved {o : Nat} {b : Int} {rs : List Int} {s : State} (h : (s.octet o).baseline = some b) (c : Nat) :
    (applyDrift o rs s).pin c =
      if octOf c = o then driftPin s.time.span (medianI rs - b) (s.pin c) else s.pin c := by
  have hfold : (applyDrift o rs s).pins = ((octChans o).foldl (driftStep (medianI rs - b)) s).pins := by
    simp only [applyDrift, h, octChans, List.foldl_map, modOctet_pins]
    unfold driftStep Pin.untime
    with_reducible rfl
  have hpin : (applyDrift o rs s).pin c = ((octChans o).foldl (driftStep (medianI rs - b)) s).pin c := by
    rw [State.pin, hfold, State.pin]
  have hone := foldl_view State.pin (P := fun t => t.time = s.time) (step := driftStep (medianI rs - b))
    (F := fun _ => driftPin s.time.span (medianI rs - b)) (fun t c ht => (driftStep_time _ t c).trans ht)
    (fun t c ht => by rw [driftStep_self, ht]) (fun t c j _ hj => driftStep_ne _ t hj) (nodup_octChans o) (s := s) rfl c
  simp only [hpin, hone, mem_octChans]

/-- Settles O41: a visit by what its engine visits next, the drift and the converter check by their preconditions. -/
theorem continuousCalibration : Obligations.ContinuousCalibration := by
  refine ⟨fun q s hr => ?_, fun o g rs s hr hc ho => ?_, fun spr mean s hr => ?_⟩
  · intro last
    refine ⟨fun hl ht => exec_calVisit_wait hl ht, fun ht => ?_⟩
    cases hn : s.nextVisit q.val with
    | none => exact ⟨_, exec_calVisit_none hr ht hn, visitCounted_visits, fun c hc => by cases hc⟩
    | some c =>
      refine ⟨_, exec_calVisit_some hr ht hn, fun hl => ?_, fun c' hc => ?_⟩
      · have hp : ∀ steps j, ((visitBegun q.val c steps (visitCounted q.val s)).pin j) = (visitCounted q.val s).pin j :=
          fun _ _ => rfl
        split
        · rw [hp]
          exact visitCounted_visits hl
        · obtain ⟨_, _, _, hw⟩ := openWindow_pin 3 c (visitBegun q.val c (s.nextSteps c) (visitCounted q.val s)) (last - 1)
          rw [hw, hp]
          exact visitCounted_visits hl
      · obtain rfl : c = c' := Option.some.inj hc
        have hb := visitBegun_cal q.val c (s.nextSteps c) (visitCounted q.val s)
        rw [visitCounted_time] at hb
        split
        · exact hb
        · rw [(kept_openWindow_self 3 c _).same .cal (by decide)]
          exact hb
  · intro m fails
    have hrow := exec_octetDriftEval (g := g) (rs := rs) hr hc ho
    rw [calPre_drift] at hrow
    have hs := signalled_stepEvent 0x050 6 o.val (atGrain g s)
    refine ⟨fun hf => ?_, fun hf => ?_⟩
    · have hn : (if (atGrain g s).octOff o.val 64 = true then 3 else if 8 < spread rs then 5 else 0) ≠ 0 := by
        split
        · decide
        · next h => rw [if_pos (hf.resolve_left h)]; decide
      rw [if_pos hn] at hrow
      obtain ⟨hpins, hoctets, -, hfail⟩ := recordFail_unit_keeps (st := 6) (by decide) o.val _ hs
      exact ⟨_, hrow, hpins, hoctets, hfail⟩
    · obtain ⟨hoff, hspread⟩ := not_or.mp hf
      rw [if_neg hoff, if_neg hspread, if_neg (by decide)] at hrow
      have hbase : ((stepEvent 0x050 6 o.val (atGrain g s)).octet o.val).baseline = (s.octet o.val).baseline :=
        congrArg Octet.baseline (signalled_octet hs o.val)
      have hpin : ∀ c, (stepEvent 0x050 6 o.val (atGrain g s)).pin c = s.pin c := fun c => signalled_pin hs c
      have hpins := signalled_pins hs
      refine ⟨_, hrow, applyDrift_octet .., fun hb => ?_, fun c hc => ?_, fun b c hb hc => ?_⟩
      · exact (applyDrift_first (hbase.trans hb)).trans hpins
      · cases hb : (s.octet o.val).baseline with
        | none =>
          unfold State.pin
          rw [applyDrift_first (hbase.trans hb)]
          exact hpin c
        | some b => rw [applyDrift_moved (hbase.trans hb), if_neg hc, hpin]
      · rw [applyDrift_moved (hbase.trans hb), if_pos hc, hpin]
        exact driftPin_targets ..
  · have hrow := exec_convCheckPeriodic (spr := spr) (mean := mean) hr
    rw [calPre_convCheck] at hrow
    have hs := signalled_stepEvent 0x050 1 0 s
    refine ⟨fun h3 hlo hhi => ?_, fun hf => ?_⟩
    · have h8 : ¬8 < mean.natAbs := by omega
      rw [if_neg (Nat.not_lt.mpr h3), if_neg h8, if_neg (by decide)] at hrow
      have hpins := signalled_pins hs
      exact ⟨_, hrow, rfl, hpins⟩
    · have hn : (if 3 < spr then 5 else if 8 < mean.natAbs then 8 else 0) ≠ 0 := by
        split
        · decide
        · rw [if_pos (by omega)]
          decide
      rw [if_pos hn] at hrow
      obtain ⟨-, -, hoff, hfail⟩ := recordFail_unit_keeps (st := 1) (by decide) 0 _ hs
      exact ⟨_, hrow, hoff, hfail⟩

end Sys2Proof.Machine

/-!
CAL_RUN and CAL_COMMIT.
-/

namespace Sys2Proof.Machine

/-! ## CAL_RUN taken, waiting or refused (R420, R421) -/

theorem onlySlot_trans {k : Nat} {s t u : State} (h : onlySlot k s t) (h' : onlySlot k t u) : onlySlot k s u := by
  obtain ⟨hc, hq⟩ := h
  obtain ⟨hc', hq'⟩ := h'
  exact ⟨fun j hj => (hc' j hj).trans (hc j hj), by rw [hq', hq]⟩

/-- A step that CAL_RUN does not accept. -/
abbrev badStep (st : Nat) : Prop := st = 7 ∨ st = 8 ∨ st = 0xA ∨ 0xE ≤ st

/-- A CAL_RUN begun and put in line. -/
def runQueued (k : Nat) (s : State) : State := begin_ k (modCal (fun x => { x with waiting := x.waiting ++ [k] }) s)

section
variable {k : CmdSlot} {s : State} (h : s.holds k.val 0x38 = true) (hsb : s.sys.state ≠ .standby)
include h hsb

theorem exec_calRun : exec (.calRun k) s = .next
    (if badStep (pay (s.cmd k.val).desc 0 1) then complete k.val stBad 0x10 s
      else calNext (runQueued k.val s).cal.waiting.length (runQueued k.val s)) := by
  show execCalRun k s = _
  rw [execCalRun, onCmd_pos h]
  exact congrArg _ (if_neg hsb)

/-- A CAL_RUN taken while none runs. -/
theorem exec_calRun_idle (ht : ¬badStep (pay (s.cmd k.val).desc 0 1)) (hw : s.cal.waiting = []) (hc : s.cal.cmd = none) : exec (.calRun k) s = .next (startRun k.val (begin_ k.val s)) := by
  have hq : (runQueued k.val s).cal.waiting = [k.val] := congrArg (· ++ [k.val]) hw
  have hn : (runQueued k.val s).cal.cmd = none := hc
  have hr : modCal (fun x => { x with waiting := [] }) (runQueued k.val s) = begin_ k.val s := by
    show { begin_ k.val s with cal := { s.cal with waiting := [] } } = begin_ k.val s
    rw [← hw]
    rfl
  rw [exec_calRun h hsb, if_neg ht, hq, List.length_singleton, calNext, hq, hn]
  dsimp only
  rw [hr, calNext]

/-- A CAL_RUN that waits for the one under way. -/
theorem exec_calRun_waits (ht : ¬badStep (pay (s.cmd k.val).desc 0 1)) (hc : s.cal.cmd ≠ none) :
    exec (.calRun k) s = .next (runQueued k.val s) := by
  have hn : ∀ n, calNext n (runQueued k.val s) = runQueued k.val s := fun n => by
    cases n with
    | zero => rw [calNext]
    | succ n =>
      rw [calNext]
      split
      · next hx => exact absurd hx hc
      · rfl
  rw [exec_calRun h hsb, if_neg ht, hn]

end

/-- A command begun and then completed at once. -/
theorem begun_completed (k : Nat) (st : BitVec 8) (r : Nat) (s : State) :
    doneAs k st r s (complete k st r (begin_ k s)) ∧ onlySlot k s (complete k st r (begin_ k s)) := by
  have hb : (begin_ k s).cmd k = { s.cmd k with begun := true } := modCmd_cmd_self ..
  refine ⟨doneAs_complete_last (kept_begin_ k (by decide) (Kept.refl _ s)) ⟨by rw [hb], by rw [hb]⟩,
    onlySlot_trans (onlySlot_begin rfl) (onlySlot_complete ..)⟩

theorem startRun_refused {k : Nat} {s : State} (h : ¬(s.sys.state = .bringUp ∨ s.sys.state = .ready) ∨
      pay (s.cmd k).desc 0 1 = 0 ∧ s.anyRunning = true) : startRun k s = complete k stPrecondition 0 s := by
  unfold startRun
  dsimp only
  by_cases hm : s.sys.state ≠ .bringUp ∧ s.sys.state ≠ .ready
  · exact if_pos hm
  · obtain ⟨h0, hr⟩ := h.resolve_left fun hn => hm (not_or.mp hn)
    rw [if_neg hm, if_pos h0, if_pos hr]

theorem startRun_full {k : Nat} {s : State} (hm : s.sys.state = .bringUp ∨ s.sys.state = .ready)
    (h0 : pay (s.cmd k).desc 0 1 = 0) (hr : s.anyRunning = false) : startRun k s = enterCalibrate (some k) s := by
  have hm : ¬(s.sys.state ≠ .bringUp ∧ s.sys.state ≠ .ready) := fun ⟨hb, hr⟩ => hm.elim hb hr
  unfold startRun
  dsimp only
  rw [if_neg hm, if_pos h0, hr, if_neg (by decide)]

/-- A CAL_RUN of one step with its units to do. -/
def stepTaken (k st : Nat) (us : List Nat) (s : State) : State :=
  modCal (fun x => { x with mode := .single, cmd := some k, todo := us.map fun u => (st, u) })
    (pauseVisits (us.map fun u => (st, u)) s)

theorem startRun_step {k : Nat} {s : State} (hm : s.sys.state = .bringUp ∨ s.sys.state = .ready)
    (h0 : pay (s.cmd k).desc 0 1 ≠ 0) : startRun k s =
      calTurn ((calUnits (pay (s.cmd k).desc 0 1) (pay (s.cmd k).desc 0x10 16)).length + 1)
        (stepTaken k (pay (s.cmd k).desc 0 1) (calUnits (pay (s.cmd k).desc 0 1) (pay (s.cmd k).desc 0x10 16)) s) := by
  have hm : ¬(s.sys.state ≠ .bringUp ∧ s.sys.state ≠ .ready) := fun ⟨hb, hr⟩ => hm.elim hb hr
  unfold startRun stepTaken
  dsimp only
  rw [if_neg hm, if_neg h0]

/-! ## The units of one step, in turn -/

theorem ownedRunning_of_sites {s t : State} (h : t.sites = s.sites) : t.ownedRunning = s.ownedRunning := funext fun c => by
  simp only [State.ownedRunning, State.ownerOf, State.site, h]

/-- What Table 9.3 asks of a unit reads of a state its chip, its sites, octets and generators, the channel that DDS_SKEW
uses, and of a pin its loop and whether its input is open. -/
theorem calReq_congr {s t : State} (hsys : t.sys.is64 = s.sys.is64 ∧ t.sys.disabled = s.sys.disabled)
    (hsites : t.sites = s.sites) (hoct : t.octets = s.octets) (hdds : t.dds = s.dds) (href : t.cal.ddsRef = s.cal.ddsRef)
    (hpin : ∀ c, (t.pin c).loop = (s.pin c).loop ∧ (t.pin c).openIn = (s.pin c).openIn) (st u : Nat) :
    t.calReq st u = s.calReq st u := by
  obtain ⟨h64, hdis⟩ := hsys
  obtain ⟨hloop, hopen⟩ := hpin u
  have hrun := ownedRunning_of_sites hsites
  have hform : t.loopForm = s.loopForm := funext fun c => by rw [State.loopForm, (hpin c).1, hrun, State.loopForm]
  have hnch : t.nCh = s.nCh := by rw [State.nCh, h64, State.nCh]
  have hnoct : t.nOct = s.nOct := by rw [State.nOct, h64, State.nOct]
  have hchan : t.calChan = s.calChan := funext fun c => by rw [State.calChan, hnch, hdis, State.calChan]
  have hocts : t.calOct = s.calOct := funext fun c => by rw [State.calOct, hnoct, hdis, State.calOct]
  have hown : t.octOwned = s.octOwned := funext fun c => by simp only [State.octOwned, State.owned, hsites]
  have hoctet : t.octet = s.octet := funext fun o => by rw [State.octet, hoct, State.octet]
  have hgen : t.gen = s.gen := funext fun n => gen_of_dds hdds n
  unfold State.calReq
  rw [hchan, hocts, hloop, hopen, hform, hoctet, hown, hgen, href, hrun]

/-- What a recorded failure leaves of the state: what tells of it, in its pin and in the CAL block, and what counting an
event can change, have changed. -/
structure FailNoted (s t : State) : Prop where
  sys : ∃ irq, t.sys = { s.sys with irqStatus := irq }
  cmd : ∀ k, t.cmd k = s.cmd k
  sites : t.sites = s.sites
  octets : t.octets = s.octets
  dds : t.dds = s.dds
  time : t.time = s.time
  halso : t.halso = s.halso
  pin : ∀ j, ∃ a b n, t.pin j = { s.pin j with lastStep := a, lastPre := b, preFail := n }
  cal : ∃ n a b d e, t.cal = { s.cal with preFail := n, failStep := a, failUnit := b, failPre := d, failEvent := e }

theorem FailNoted.of_signalled {s t : State} (h : signalled s t) : FailNoted s t := by
  obtain ⟨_, _, _, _, rfl⟩ := h
  exact ⟨⟨_, rfl⟩, fun _ => rfl, rfl, rfl, rfl, rfl, rfl, fun _ => ⟨_, _, _, rfl⟩, ⟨_, _, _, _, _, rfl⟩⟩

/-- The pin of a failed step with the failure. -/
def failPin (st pre : Nat) (p : Pin) : Pin :=
  { p with lastStep := BitVec.ofNat 8 st, lastPre := BitVec.ofNat 4 pre, preFail := satAdd 0xFFFF p.preFail 1 }

theorem FailNoted.failPin {s t : State} (h : FailNoted s t) (u st pre : Nat) : FailNoted s (modPin u (failPin st pre) t) := by
  refine ⟨h.sys, h.cmd, h.sites, h.octets, h.dds, h.time, h.halso, fun j => ?_, h.cal⟩
  obtain ⟨_, _, _, hp⟩ := h.pin j
  rw [modPin_pin]
  split
  · next hj => subst hj; rw [hp]; exact ⟨_, _, _, rfl⟩
  · exact ⟨_, _, _, hp⟩

/-- A failure counted in the CAL block. -/
def calCounted (c : Cal) : Cal := { c with preFail := satAdd 0xFFFF c.preFail 1 }

theorem FailNoted.counted {s t : State} (h : FailNoted s t) : FailNoted s (modCal calCounted t) := by
  obtain ⟨_, _, _, _, _, hc⟩ := h.cal
  exact ⟨h.sys, h.cmd, h.sites, h.octets, h.dds, h.time, h.halso, h.pin, ⟨_, _, _, _, _, (congrArg calCounted hc).trans rfl⟩⟩

theorem FailNoted.fault {s t : State} (h : FailNoted s t) (st u pre : Nat) : FailNoted s (modCal (calFault st u pre) t) := by
  obtain ⟨_, _, _, _, _, hc⟩ := h.cal
  exact ⟨h.sys, h.cmd, h.sites, h.octets, h.dds, h.time, h.halso, h.pin, ⟨_, _, _, _, _, (congrArg (calFault st u pre) hc).trans rfl⟩⟩

theorem failNoted_recordFail (st u pre : Nat) (cont : Bool) (s : State) : FailNoted s (recordFail st u pre cont s) := by
  have h0 := FailNoted.of_signalled (signalled_stepEvent 0x051 st u s)
  have h1 : FailNoted s (recordFail st u pre true s) := by
    unfold recordFail
    dsimp only
    rw [if_pos rfl]
    split
    · split
      · exact h0.failPin u st pre
      · exact h0
    · exact h0.counted
  cases cont with
  | true => exact h1
  | false => exact h1.fault st u pre

/-- A recorded failure leaves a unit meeting Table 9.3, or not, as before. -/
theorem FailNoted.calReq {s t : State} (h : FailNoted s t) (st u : Nat) : t.calReq st u = s.calReq st u := by
  obtain ⟨_, hs⟩ := h.sys
  obtain ⟨_, _, _, _, _, hc⟩ := h.cal
  refine calReq_congr ⟨by rw [hs], by rw [hs]⟩ h.sites h.octets h.dds (by rw [hc]) (fun c => ?_) st u
  obtain ⟨_, _, _, hp⟩ := h.pin c
  rw [hp]
  exact ⟨rfl, rfl⟩

/-- A unit refused at its turn. -/
def refuseUnit (st u : Nat) (rest : List (Nat × Nat)) (s : State) : State :=
  modCal (fun x => { x with todo := rest }) (calRefuse u 6 (recordFail st u 6 false s))

theorem calTurn_meets {f st u : Nat} {rest : List (Nat × Nat)} {s : State} (ht : s.cal.todo = (st, u) :: rest)
    (hr : s.calReq st u = true) : calTurn (f + 1) s = openWindow st u s := by
  rw [calTurn, ht]
  exact if_pos hr

theorem calTurn_refuses {f st u : Nat} {rest : List (Nat × Nat)} {s : State} (ht : s.cal.todo = (st, u) :: rest)
    (hr : s.calReq st u = false) : calTurn (f + 1) s = calTurn f (refuseUnit st u rest s) := by
  rw [calTurn, ht]
  exact if_neg (by rw [hr]; decide)

/-- The command of the run completed with its counts. -/
def runCounted (s : State) : State :=
  completeOpt s.cal.cmd (if s.cal.refusedN = 0 then stOK else stPrecondition)
    (calResult s.cal.written s.cal.refusedN s.cal.lowUnit s.cal.lowPre.toNat) s

theorem calTurn_over {f : Nat} {s : State} (ht : s.cal.todo = []) : calTurn (f + 1) s = calIdle (runCounted s) := by
  rw [calTurn, ht]
  rfl

/-- What the refusal of a list of units leaves of the run and of what a completion reads. -/
structure UnitsRefused (us : List Nat) (s t : State) : Prop where
  cmd : ∀ k, t.cmd k = s.cmd k
  state : t.sys.state = s.sys.state
  time : t.time = s.time
  halso : t.halso = s.halso
  calCmd : t.cal.cmd = s.cal.cmd
  written : t.cal.written = s.cal.written
  refusedN : t.cal.refusedN = s.cal.refusedN + us.length
  lowUnit : t.cal.lowUnit = if s.cal.refusedN = 0 then us.headD s.cal.lowUnit else s.cal.lowUnit
  lowPre : t.cal.lowPre = if s.cal.refusedN = 0 ∧ us ≠ [] then 6 else s.cal.lowPre

theorem UnitsRefused.nil (s : State) : UnitsRefused [] s s :=
  ⟨fun _ => rfl, rfl, rfl, rfl, rfl, rfl, rfl, by simp, by simp⟩

theorem refuseUnit_cal (st u : Nat) (rest : List (Nat × Nat)) (s : State) : ∃ n a b d e,
    (refuseUnit st u rest s).cal = { s.cal with
      preFail := n, failStep := a, failUnit := b, failPre := d, failEvent := e, todo := rest,
      refusedN := s.cal.refusedN + 1, lowUnit := if s.cal.refusedN = 0 then u else s.cal.lowUnit,
      lowPre := if s.cal.refusedN = 0 then 6 else s.cal.lowPre } := by
  obtain ⟨n, a, b, d, e, hc⟩ := (failNoted_recordFail st u 6 false s).cal
  refine ⟨n, a, b, d, e, ?_⟩
  rw [refuseUnit, calRefuse, modCal_cal, modCal_cal, hc]
  rfl

theorem UnitsRefused.cons {st u : Nat} {us : List Nat} {rest : List (Nat × Nat)} {s t : State}
    (h : UnitsRefused us (refuseUnit st u rest s) t) : UnitsRefused (u :: us) s t := by
  obtain ⟨_, _, _, _, _, hcal⟩ := refuseUnit_cal st u rest s
  have hf := failNoted_recordFail st u 6 false s
  obtain ⟨_, hsys⟩ := hf.sys
  refine ⟨fun k => (h.cmd k).trans (hf.cmd k), h.state.trans ?_, h.time.trans hf.time, h.halso.trans hf.halso,
    h.calCmd.trans (by rw [hcal]), h.written.trans (by rw [hcal]), ?_, ?_, ?_⟩
  · show (recordFail st u 6 false s).sys.state = _
    rw [hsys]
  · rw [h.refusedN, hcal, List.length_cons]
    exact Nat.add_right_comm ..
  · rw [h.lowUnit, hcal, if_neg (Nat.succ_ne_zero _)]
    rfl
  · rw [h.lowPre, hcal, if_neg fun hn => Nat.succ_ne_zero _ hn.1]
    simp

theorem calReq_modCal {f : Cal → Cal} {s : State} (h : (f s.cal).ddsRef = s.cal.ddsRef) (st u : Nat) :
    (modCal f s).calReq st u = s.calReq st u :=
  calReq_congr (s := s) (t := modCal f s) ⟨rfl, rfl⟩ rfl rfl rfl h (fun _ => ⟨rfl, rfl⟩) st u

theorem calReq_refuseUnit (st u : Nat) (rest : List (Nat × Nat)) (s : State) (a b : Nat) :
    (refuseUnit st u rest s).calReq a b = s.calReq a b := by
  rw [refuseUnit, calRefuse, calReq_modCal rfl, calReq_modCal rfl, (failNoted_recordFail st u 6 false s).calReq]

/-- With no unit left that Table 9.3 lets the step begin on, the run is over. -/
theorem calTurn_all_refused {st : Nat} (us : List Nat) {s : State} (ht : s.cal.todo = us.map fun u => (st, u))
    (hr : ∀ u, u ∈ us → s.calReq st u = false) :
    ∃ t, calTurn (us.length + 1) s = calIdle (runCounted t) ∧ UnitsRefused us s t := by
  induction us generalizing s with
  | nil => exact ⟨s, calTurn_over ht, .nil s⟩
  | cons u us ih =>
    obtain ⟨_, _, _, _, _, hcal⟩ := refuseUnit_cal st u (us.map fun u => (st, u)) s
    obtain ⟨t, he, hu⟩ := ih (s := refuseUnit st u (us.map fun u => (st, u)) s) (by rw [hcal]) fun v hv =>
      (calReq_refuseUnit ..).trans (hr v (List.mem_cons_of_mem _ hv))
    exact ⟨t, (calTurn_refuses ht (hr u List.mem_cons_self)).trans he, hu.cons⟩

/-! ## The full sequence begins (R412, R420) -/

theorem bits_setBits {w : Nat} (x : BitVec w) {lo len : Nat} (h : lo + len ≤ w) (v : Nat) :
    bits (setBits x lo len v) lo len = v % 2 ^ len := by
  refine Nat.eq_of_testBit_eq fun i => ?_
  simp only [bits, setBits, Nat.testBit_mod_two_pow, Nat.testBit_div_two_pow, BitVec.testBit_toNat, BitVec.getLsbD_or,
    BitVec.getLsbD_and, BitVec.getLsbD_not, BitVec.getLsbD_ofNat, Nat.testBit_mul_two_pow, Nat.testBit_two_pow_sub_one]
  by_cases hi : i < len
  · have hw : i + lo < w := by omega
    simp [hi, hw]
  · simp [hi]

/-- Every channel keeps its PIN_CFG. -/
def cfgKept (s t : State) : Prop := ∀ c, (t.pin c).cfg = (s.pin c).cfg

theorem cfgKept.refl (s : State) : cfgKept s s := fun _ => rfl

theorem cfgKept_modPin {f : Pin → Pin} (hf : ∀ p, (f p).cfg = p.cfg) (c : Nat) (s : State) : cfgKept s (modPin c f s) :=
  fun j => by
    rw [modPin_pin]
    split
    · next h => subst h; exact hf _
    · rfl

theorem cfgKept_movePin {f : Pin → Pin} (hf : ∀ p, (f p).cfg = p.cfg) (c : Nat) (t : Int) (s : State) :
    cfgKept s (movePin c t f s) := fun j => cfgKept_modPin hf c s j

theorem cfgKept_putLane (c : Nat) (bs : List LinkBlk) (late : Nat) (s : State) : cfgKept s (putLane c bs late s) := by
  unfold putLane
  split <;> exact cfgKept.refl s

theorem cfgKept_parkWord (n c : Nat) (t : Int) (lvl : Nat) (s : State) : cfgKept s (parkWord n c t lvl s) := by
  unfold parkWord
  dsimp only
  split
  · refine fun j => (cfgKept_putLane _ _ _ _ j).trans (cfgKept_modPin ?_ c s j)
    exact fun _ => rfl
  · exact cfgKept_putLane _ _ _ s

theorem cfgKept_parkPin (n c : Nat) (t : Int) (s : State) : cfgKept s (parkPin n c t s) := by
  unfold parkPin
  extract_lets x p code lvl
  split
  · split
    · exact cfgKept.refl s
    · exact cfgKept_parkWord _ _ _ _ _
  · split
    · exact cfgKept.refl s
    · refine cfgKept_movePin ?_ c t s
      exact fun _ => rfl

theorem cfgKept_restPin (c : Nat) (s : State) : cfgKept s (restPin c s) := by
  unfold restPin
  split
  · exact cfgKept_parkPin _ _ _ s
  · unfold releasePin
    split
    · exact cfgKept.refl s
    · refine cfgKept_movePin ?_ c _ s
      exact fun _ => rfl

theorem cfgKept_endFar (was : Option (Nat × Nat)) (s : State) : cfgKept s (endFar was s) := by
  unfold endFar
  split
  · split
    · exact cfgKept.refl s
    · exact cfgKept_restPin _ s
  · exact cfgKept.refl s

/-- A loop set by the engines: the channel's field takes it, and no other configuration changes. -/
theorem setLoop_cfg (c v : Nat) (s : State) (j : Nat) : ((setLoop c v s).pin j).cfg =
    if j = c then setBits (s.pin j).cfg 4 3 v else (s.pin j).cfg := by
  refine (cfgKept_endFar _ _ j).trans ?_
  refine (congrArg Pin.cfg (modPin_pin c j (fun p => { p.disturb with cfg := setBits p.cfg 4 3 v }) s)).trans ?_
  split
  · next h => subst h; rfl
  · rfl

theorem cfgKept_openWindow (st u : Nat) (s : State) : cfgKept s (openWindow st u s) := fun j => by
  obtain ⟨_, _, _, h⟩ := openWindow_pin st u s j
  rw [h]

theorem get_foldl_set {V : Type} [Inhabited V] [DecidableEq V] (f : Nat → V) (l : List Nat) (m : SMap V) (c : Nat) :
    (l.foldl (fun m c => m.set c (f c)) m).get c = if c ∈ l then f c else m.get c := by
  induction l generalizing m with
  | nil => rfl
  | cons a l ih =>
    rw [List.foldl_cons, ih]
    by_cases hc : c = a
    · subst hc
      simp [SMap.get_set_eq]
    · simp [hc, SMap.get_set_ne _ _ _ _ hc]

theorem signalled_enterState (d : DevState) (s : State) :
    signalled (modSys (fun y => { y with state := d, prev := y.state }) s) (enterState d s) := signalled_raiseIrq 0 _

/-- The windows of Calibrate are those of the chip, the sites, the octets and the CAL block. -/
theorem fullTodo_congr {s t : State} (hsys : t.sys = s.sys) (hsites : t.sites = s.sites) (hoct : t.octets = s.octets)
    (hcal : t.cal = s.cal) : t.fullTodo = s.fullTodo := by
  have hn : t.nCh = s.nCh := by rw [State.nCh, hsys, State.nCh]
  have hno : t.nOct = s.nOct := by rw [State.nOct, hsys, State.nOct]
  have hchan : t.calChan = s.calChan := funext fun c => by rw [State.calChan, hn, hsys, State.calChan]
  have hocts : t.calOct = s.calOct := funext fun c => by rw [State.calOct, hno, hsys, State.calOct]
  have hoctet : t.octet = s.octet := funext fun o => by rw [State.octet, hoct, State.octet]
  have howner : t.ownerOf = s.ownerOf := funext fun c => by rw [State.ownerOf, hsites, State.ownerOf]
  unfold State.fullTodo State.calOcts State.calChans State.ddsRefFree
  rw [hchan, hocts, hoctet, hcal, howner]

/-- The channels with their loops set and their windows open. -/
def loopsSet (s : State) : State :=
  (List.range 128).foldl (fun t c => openWindow 0xC 0 (openWindow 2 c t)) ((List.range s.nCh).foldl (fun t c => setLoop c 1 t) s)

theorem kept_loopsSet (s : State) : Kept [.octets, .pins, .out] s (loopsSet s) := by
  refine kept_foldl _ _ (fun t c ht => ?_) (kept_foldl _ _ (fun t c ht => ?_) (Kept.refl _ s))
  · exact kept_openWindow _ _ (by decide) (kept_openWindow _ _ (by decide) ht)
  · exact kept_setLoop _ _ (by decide) ht

theorem loopsSet_loop {c : Nat} {s : State} (h : c < s.nCh) : ((loopsSet s).pin c).loop = 1 := by
  have hopen : ∀ l : List Nat, ∀ t, cfgKept t (l.foldl (fun t c => openWindow 0xC 0 (openWindow 2 c t)) t) := fun l => by
    induction l with
    | nil => exact cfgKept.refl
    | cons a l ih => exact fun t j => (ih _ j).trans ((cfgKept_openWindow _ _ _ j).trans (cfgKept_openWindow _ _ _ j))
  have hset := foldl_view (fun t j => (t.pin j).cfg) (P := fun _ => True) (step := fun t c => setLoop c 1 t)
    (F := fun _ x => setBits x 4 3 1) (fun _ _ _ => trivial) (fun t c _ => (setLoop_cfg c 1 t c).trans (if_pos rfl))
    (fun t c j _ hj => (setLoop_cfg c 1 t j).trans (if_neg hj)) List.nodup_range (s := s) (l := List.range s.nCh) trivial c
  rw [if_pos (List.mem_range.mpr h)] at hset
  rw [Pin.loop, loopsSet, hopen, hset]
  exact bits_setBits _ (by decide) 1

/-- The device state that a block enters, and the one that it leaves. -/
theorem enterState_states (d : DevState) (s : State) :
    (enterState d s).sys.state = d ∧ (enterState d s).sys.prev = s.sys.state := by
  obtain ⟨_, _, _, _, h⟩ := signalled_enterState d s
  rw [h]
  exact ⟨rfl, rfl⟩

/-- The loops of the channels as they are, by channel. -/
def loopsOf (s : State) : SMap (BitVec 3) :=
  (List.range s.nCh).foldl (fun m c => SMap.set m c (BitVec.ofNat 3 (s.pin c).loop)) []

theorem loopsOf_get {c : Nat} {s : State} (h : c < s.nCh) : (loopsOf s).get c = BitVec.ofNat 3 (s.pin c).loop := by
  rw [loopsOf, get_foldl_set, if_pos (List.mem_range.mpr h)]

/-- The full sequence with its windows to do. -/
def fullBegun (cmd : Option Nat) (s : State) : State :=
  modCal (fun x => { x with mode := .full, cmd := cmd, todo := s.fullTodo, savedLoop := loopsOf s }) (loopsSet s)

theorem enterCalibrate_eq (cmd : Option Nat) (s : State) :
    enterCalibrate cmd s = enterState .calibrate (fullBegun cmd s) := by
  unfold enterCalibrate fullBegun loopsSet loopsOf
  with_reducible rfl

theorem enterCalibrate_states (cmd : Option Nat) (s : State) :
    (enterCalibrate cmd s).sys.state = .calibrate ∧ (enterCalibrate cmd s).sys.prev = s.sys.state := by
  rw [enterCalibrate_eq]
  obtain ⟨hs, hp⟩ := enterState_states .calibrate (fullBegun cmd s)
  have hsys : (loopsSet s).sys = s.sys := (kept_loopsSet s).same .sys (by decide)
  rw [fullBegun, modCal_sys, hsys] at hp
  exact ⟨hs, hp⟩

theorem enterCalibrate_cal (cmd : Option Nat) (s : State) :
    (enterCalibrate cmd s).cal = { s.cal with mode := .full, cmd := cmd, todo := s.fullTodo, savedLoop := loopsOf s } := by
  have hcal : (loopsSet s).cal = s.cal := (kept_loopsSet s).same .cal (by decide)
  rw [enterCalibrate_eq]
  refine (signalled_cal (signalled_enterState .calibrate (fullBegun cmd s))).trans ?_
  rw [modSys_cal, fullBegun, modCal_cal, hcal]

theorem enterCalibrate_cmd (cmd : Option Nat) (s : State) (k : Nat) : (enterCalibrate cmd s).cmd k = s.cmd k := by
  have hk := cmd_of_hqm ((kept_loopsSet s).same .hqm (by decide)) k
  rw [enterCalibrate_eq, signalled_cmd (signalled_enterState .calibrate (fullBegun cmd s)), modSys_cmd_view, fullBegun,
    modCal_cmd_view, hk]

theorem enterCalibrate_loop (cmd : Option Nat) {c : Nat} {s : State} (h : c < s.nCh) :
    ((enterCalibrate cmd s).pin c).loop = 1 := by
  rw [enterCalibrate_eq, signalled_pin (signalled_enterState .calibrate (fullBegun cmd s)), modSys_pin_view, fullBegun,
    modCal_pin_view, loopsSet_loop h]

/-! ## CAL_COMMIT (R422) -/

/-- CAL_COMMIT may fold the verniers of a channel. -/
def State.commitFree (s : State) (c : Nat) : Bool := decide (c < s.nCh) && !s.ownedRunning c

/-- Both sums of a channel that CAL_COMMIT may fold are in range. -/
def State.commitGood (s : State) (c : Nat) : Bool := s.commitFree c && (commitPin (s.pin c)).2

/-- One channel of a CAL_COMMIT: the state, the channels written and refused, and the lowest refused. -/
def commitStep (r : State × Nat × Nat × Nat) (c : Nat) : State × Nat × Nat × Nat :=
  let t := r.1
  let q := commitPin (t.pin c)
  let low := if r.2.2.1 = 0 then c else r.2.2.2
  if t.nCh ≤ c || t.ownedRunning c then (t, r.2.1, r.2.2.1 + 1, low)
  else
    let t1 := modPin c (fun _ => q.1) t
    if q.2 then (t1, r.2.1 + 1, r.2.2) else (t1, r.2.1, r.2.2.1 + 1, low)

/-- The channels of a bitmap. -/
def mapChans (map : Nat) : List Nat := (List.range 128).filter fun c => map / 2 ^ c % 2 == 1

theorem commitAll_eq (map : Nat) (s : State) : commitAll map s = (mapChans map).foldl commitStep (s, 0, 0, 0) := rfl

/-- One channel committed: its pin, and the count that it goes to. -/
theorem commitStep_spec (t : State) (w n low c : Nat) :
    (∀ j, (commitStep (t, w, n, low) c).1.pin j =
      if j = c ∧ t.commitFree c = true then (commitPin (t.pin c)).1 else t.pin j) ∧
    (commitStep (t, w, n, low) c).1.sites = t.sites ∧ (commitStep (t, w, n, low) c).1.sys = t.sys ∧
    (commitStep (t, w, n, low) c).2 =
      if t.commitGood c = true then (w + 1, n, low) else (w, n + 1, if n = 0 then c else low) := by
  by_cases hf : t.commitFree c = true
  · have hc : (decide (t.nCh ≤ c) || t.ownedRunning c) = false := by
      simpa [State.commitFree] using hf
    have hpin : ∀ j, (modPin c (fun _ => (commitPin (t.pin c)).1) t).pin j =
        if j = c ∧ t.commitFree c = true then (commitPin (t.pin c)).1 else t.pin j := fun j => by
      rw [modPin_pin]
      simp only [hf, and_true]
    simp only [commitStep, hc, State.commitGood, hf, Bool.true_and, Bool.false_eq_true, if_false]
    split
    · next hq => exact ⟨by simpa [hf] using hpin, rfl, rfl, rfl⟩
    · next hq => exact ⟨by simpa [hf] using hpin, rfl, rfl, rfl⟩
  · have hc : (decide (t.nCh ≤ c) || t.ownedRunning c) = true := by
      simpa [State.commitFree, Nat.not_lt, imp_iff_not_or] using hf
    simp [commitStep, hc, State.commitGood, hf]

theorem commitFree_congr {s t : State} (hsites : t.sites = s.sites) (hsys : t.sys = s.sys) :
    t.commitFree = s.commitFree := funext fun c => by
  have hn : t.nCh = s.nCh := by rw [State.nCh, hsys, State.nCh]
  rw [State.commitFree, hn, ownedRunning_of_sites hsites, State.commitFree]

/-- Channels committed one after the other. -/
theorem commitFold_spec {l : List Nat} (hl : l.Nodup) {s t : State} (hp : ∀ c ∈ l, t.pin c = s.pin c)
    (hsites : t.sites = s.sites) (hsys : t.sys = s.sys) (w n low : Nat) :
    (∀ j, (l.foldl commitStep (t, w, n, low)).1.pin j =
      if j ∈ l ∧ s.commitFree j = true then (commitPin (s.pin j)).1 else t.pin j) ∧
    (l.foldl commitStep (t, w, n, low)).2 = (w + (l.filter s.commitGood).length,
      n + (l.filter fun c => !s.commitGood c).length,
      if n = 0 then (l.filter fun c => !s.commitGood c).headD low else low) := by
  induction l generalizing t w n low with
  | nil => simp
  | cons c l ih =>
    obtain ⟨hcl, hl⟩ := List.nodup_cons.mp hl
    obtain ⟨hpin, hs, hy, hcnt⟩ := commitStep_spec t w n low c
    have hfree := commitFree_congr hsites hsys
    have hgood : t.commitGood c = s.commitGood c := by
      rw [State.commitGood, State.commitGood, hfree, hp c List.mem_cons_self]
    have hrest : ∀ d ∈ l, (commitStep (t, w, n, low) c).1.pin d = s.pin d := fun d hd => by
      have hdc : ¬(d = c ∧ t.commitFree c = true) := fun h => hcl (h.1 ▸ hd)
      rw [hpin, if_neg hdc]
      exact hp d (List.mem_cons_of_mem _ hd)
    rw [List.foldl_cons, ← Prod.mk.eta (p := commitStep (t, w, n, low) c), hcnt, hgood]
    have hpins : ∀ j, (if j ∈ l ∧ s.commitFree j = true then (commitPin (s.pin j)).1
        else (commitStep (t, w, n, low) c).1.pin j) =
        if j ∈ c :: l ∧ s.commitFree j = true then (commitPin (s.pin j)).1 else t.pin j := fun j => by
      rw [hpin, hfree, hp c List.mem_cons_self]
      by_cases hj : j = c
      · subst hj
        simp [hcl]
      · simp [hj]
    split
    · next hg =>
      obtain ⟨h1, h2⟩ := ih hl hrest (hs.trans hsites) (hy.trans hsys) (w + 1) n low
      refine ⟨fun j => (h1 j).trans (hpins j), h2.trans ?_⟩
      rw [List.filter_cons_of_pos hg, List.filter_cons_of_neg (by simp [hg]), List.length_cons]
      simp only [Nat.add_assoc, Nat.add_comm 1]
    · next hg =>
      obtain ⟨h1, h2⟩ := ih hl hrest (hs.trans hsites) (hy.trans hsys) w (n + 1) (if n = 0 then c else low)
      refine ⟨fun j => (h1 j).trans (hpins j), h2.trans ?_⟩
      rw [List.filter_cons_of_neg hg, List.filter_cons_of_pos (by simp [hg]), List.length_cons,
        if_neg (Nat.succ_ne_zero n)]
      simp only [Nat.add_assoc, Nat.add_comm 1, List.headD_cons]

theorem exec_calCommit_waits {k : CmdSlot} {s : State} (h : s.holds k.val 0x39 = true)
    (ht : s.time.span ≤ (s.cmd k.val).dspan) : exec (.calCommit k) s = .next s := by
  show execCalCommit k s = _
  rw [execCalCommit, onCmd_pos h]
  exact congrArg _ (if_pos ht)

/-- The channels that a CAL_COMMIT refuses. -/
def commitBad (l : List Nat) (s : State) : List Nat := l.filter fun c => !s.commitGood c

theorem exec_calCommit {k : CmdSlot} {s : State} (h : s.holds k.val 0x39 = true)
    (ht : (s.cmd k.val).dspan < s.time.span) : ∃ t, exec (.calCommit k) s = .next (complete k.val
        (if commitBad (mapChans (pay (s.cmd k.val).desc 0x10 16)) s = [] then stOK else stPrecondition)
        (calResult ((mapChans (pay (s.cmd k.val).desc 0x10 16)).filter s.commitGood).length
          (commitBad (mapChans (pay (s.cmd k.val).desc 0x10 16)) s).length
          ((commitBad (mapChans (pay (s.cmd k.val).desc 0x10 16)) s).headD 0)
          (if commitBad (mapChans (pay (s.cmd k.val).desc 0x10 16)) s = [] then 0 else 6)) t) ∧ Kept [.pins] s t ∧
      ∀ c, t.pin c = if c ∈ mapChans (pay (s.cmd k.val).desc 0x10 16) ∧ s.commitFree c = true
        then (commitPin (s.pin c)).1 else s.pin c := by
  obtain ⟨hpin, hcnt⟩ := commitFold_spec (l := mapChans (pay (s.cmd k.val).desc 0x10 16))
    (List.nodup_range.filter _) (s := s) (t := s) (fun _ _ => rfl) rfl rfl 0 0 0
  refine ⟨(commitAll (pay (s.cmd k.val).desc 0x10 16) s).1, ?_, kept_commitAll _ (List.Subset.refl _) (Kept.refl _ s), hpin⟩
  have hc : (commitAll (pay (s.cmd k.val).desc 0x10 16) s).2 = _ := hcnt
  show execCalCommit k s = _
  rw [execCalCommit, onCmd_pos h]
  refine congrArg _ ((if_neg (Nat.not_le.mpr ht)).trans ?_)
  dsimp only
  rw [hc]
  unfold commitBad
  simp only [Nat.zero_add, List.length_eq_zero_iff, if_true]

/-- A committed pin: each of D and V is folded where the sum is in range, and its waveforms and configuration stay. -/
theorem commitPin_spec (p : Pin) :
    let a := foldD p.dDrv p.vDrv
    let b := foldD p.dCmp p.vCmp
    let q := (commitPin p).1
    q.dDrv = (if a then p.dDrv + p.vDrv else p.dDrv) ∧ q.vDrv = (if a then 0 else p.vDrv) ∧
    q.tDrv = (if a then p.tDrv - p.vDrv else p.tDrv) ∧ q.dCmp = (if b then p.dCmp + p.vCmp else p.dCmp) ∧
    q.vCmp = (if b then 0 else p.vCmp) ∧ q.tCmp = (if b then p.tCmp - p.vCmp else p.tCmp) ∧
    q.waves = p.waves ∧ q.tset = p.tset ∧ q.level = p.level ∧ q.cfg = p.cfg := by
  by_cases ha : foldD p.dDrv p.vDrv = true <;> by_cases hb : foldD p.dCmp p.vCmp = true <;> simp [commitPin, ha, hb]

theorem calReq_stepTaken (k st : Nat) (us : List Nat) (s : State) (a b : Nat) :
    (stepTaken k st us s).calReq a b = s.calReq a b := by
  rw [stepTaken, calReq_modCal rfl, pauseVisits]
  exact calReq_modCal rfl a b

theorem calReq_begin (k : Nat) (s : State) (a b : Nat) : (begin_ k s).calReq a b = s.calReq a b :=
  calReq_congr (s := s) (t := begin_ k s) ⟨rfl, rfl⟩ rfl rfl rfl rfl (fun _ => ⟨rfl, rfl⟩) a b

/-- A completion in a state that holds what it reads, and the slot's descriptor. -/
theorem doneAs_complete_of_reads {k : Nat} {st : BitVec 8} {r : Nat} {s u : State} (hd : sameDesc k s u)
    (hs : u.sys.state = s.sys.state) (ht : u.time = s.time) (hh : u.halso = s.halso) :
    doneAs k st r s (complete k st r u) := by
  obtain ⟨hdesc, hsq⟩ := hd
  have hc : (complete k st r u).cmd k = completed st r s (u.cmd k) :=
    (modCmd_cmd_self ..).trans (completed_congr (congrArg Time.span ht) (untraceable_congr hs ht hh) ..)
  unfold doneAs
  rw [hc]
  exact ⟨rfl, rfl, rfl, rfl, rfl, hdesc, hsq⟩

/-- Settles O39: CAL_RUN by whether one runs and what it names, CAL_COMMIT by its fold over the named channels. -/
theorem calibrationCommands : Obligations.CalibrationCommands := by
  intro k s d st map idle takes mayRun
  have hbad : badStep st ↔ ¬takes := by
    show (st = 7 ∨ st = 8 ∨ st = 0xA ∨ 0xE ≤ st) ↔ ¬(st ≠ 7 ∧ st ≠ 8 ∧ st ≠ 0xA ∧ st < 0xE)
    omega
  have hdesc : ((begin_ k.val s).cmd k.val).desc = d := by
    rw [begin_, modCmd_cmd_self]
  have hstart : ∀ ht : takes, ∀ hi : idle, s.holds k.val 0x38 = true → s.sys.state ≠ .standby →
      exec (.calRun k) s = .next (startRun k.val (begin_ k.val s)) := fun ht hi h hsb => by
    obtain ⟨hw, hc, -⟩ := hi
    exact exec_calRun_idle h hsb (fun hb => hbad.mp hb ht) hw hc
  refine ⟨fun h hsb => ⟨fun ht => ?_, fun ht hi hn => ?_, fun hi hm h0 hr => ?_, fun ht hi hm h0 u us hu hq => ?_,
    fun ht hi hm h0 hq => ?_, fun ht hc => ?_⟩, fun h => ⟨exec_calCommit_waits h, fun ht => ?_⟩⟩
  · exact ⟨_, (exec_calRun h hsb).trans (congrArg _ (if_pos (hbad.mpr ht))), doneAs_complete .., onlySlot_complete .., rfl⟩
  · obtain ⟨hd, ho⟩ := begun_completed k.val stPrecondition 0 s
    refine ⟨_, (hstart ht hi h hsb).trans (congrArg _ (startRun_refused ?_)), hd, ho, rfl⟩
    rw [hdesc]
    exact hn
  · have ht : takes := by
      show st ≠ 7 ∧ st ≠ 8 ∧ st ≠ 0xA ∧ st < 0xE
      omega
    have htodo : (begin_ k.val s).fullTodo = s.fullTodo := fullTodo_congr rfl rfl rfl rfl
    have hcal := enterCalibrate_cal (some k.val) (begin_ k.val s)
    obtain ⟨hstate, hprev⟩ := enterCalibrate_states (some k.val) (begin_ k.val s)
    refine ⟨_, (hstart ht hi h hsb).trans (congrArg _ (startRun_full hm (by rw [hdesc]; exact h0) hr)), hstate, hprev,
      ?_, ?_, ?_, ?_, fun c hc => ⟨enterCalibrate_loop _ hc, ?_⟩⟩
    · rw [hcal]
    · rw [hcal]
    · rw [hcal, ← htodo]
    · rw [enterCalibrate_cmd, begin_, modCmd_cmd_self]
    · rw [hcal]
      exact loopsOf_get (s := begin_ k.val s) hc
  · have hrow := (hstart ht hi h hsb).trans (congrArg _ (startRun_step hm (by rw [hdesc]; exact h0)))
    rw [hdesc] at hrow
    rw [hu] at hrow
    have hmeets := calTurn_meets (f := us.length + 1) (s := stepTaken k.val st (u :: us) (begin_ k.val s)) (st := st) (u := u)
      (rest := us.map fun x => (st, x)) rfl ((calReq_stepTaken ..).trans ((calReq_begin ..).trans hq))
    have hk := kept_openWindow_self st u (stepTaken k.val st (u :: us) (begin_ k.val s))
    have hq : (openWindow st u (stepTaken k.val st (u :: us) (begin_ k.val s))).hqm = (begin_ k.val s).hqm :=
      hk.same .hqm (by decide)
    have hcal := hk.same .cal (by decide)
    refine ⟨_, hrow.trans (congrArg _ hmeets), ?_, ?_, congrArg Cal.mode hcal, congrArg Cal.cmd hcal, congrArg Cal.todo hcal⟩
    · exact (cmd_of_hqm hq k.val).trans (modCmd_cmd_self ..)
    · exact ⟨fun j hj => (cmd_of_hqm hq j).trans (modCmd_cmd_ne _ _ _ _ hj), by rw [hq]; rfl⟩
  · have hrow := (hstart ht hi h hsb).trans (congrArg _ (startRun_step hm (by rw [hdesc]; exact h0)))
    rw [hdesc] at hrow
    obtain ⟨hw, hc, hwr, hrn, hlu, hlp⟩ := hi
    obtain ⟨t, he, hr⟩ := calTurn_all_refused (st := st) (calUnits st map)
      (s := stepTaken k.val st (calUnits st map) (begin_ k.val s)) rfl fun u hu =>
        (calReq_stepTaken ..).trans ((calReq_begin ..).trans (hq u hu))
    have hcmd : t.cal.cmd = some k.val := hr.calCmd
    have hn0 : (stepTaken k.val st (calUnits st map) (begin_ k.val s)).cal.refusedN = 0 := hrn
    have hres : (if t.cal.refusedN = 0 then stOK else stPrecondition) =
          (if calUnits st map = [] then stOK else stPrecondition) ∧
        calResult t.cal.written t.cal.refusedN t.cal.lowUnit t.cal.lowPre.toNat = calResult 0 (calUnits st map).length
          ((calUnits st map).headD 0) (if calUnits st map = [] then 0 else 6) := by
      have hlow : (stepTaken k.val st (calUnits st map) (begin_ k.val s)).cal.lowUnit = 0 := hlu
      have hpre : (stepTaken k.val st (calUnits st map) (begin_ k.val s)).cal.lowPre = 0 := hlp
      have hwr : (stepTaken k.val st (calUnits st map) (begin_ k.val s)).cal.written = 0 := hwr
      rw [hr.written, hr.refusedN, hr.lowUnit, hr.lowPre, hwr, hn0, if_pos rfl, hlow, hpre]
      cases calUnits st map <;> simp
    have hc : t.cmd k.val = { s.cmd k.val with begun := true } := (hr.cmd k.val).trans (modCmd_cmd_self ..)
    have hdone := doneAs_complete_of_reads (k := k.val) (st := if t.cal.refusedN = 0 then stOK else stPrecondition)
      (r := calResult t.cal.written t.cal.refusedN t.cal.lowUnit t.cal.lowPre.toNat) (s := s) (u := t)
      ⟨by rw [hc], by rw [hc]⟩ hr.state hr.time hr.halso
    refine ⟨_, hrow.trans (congrArg _ he), ?_, rfl⟩
    rw [runCounted, hcmd, completeOpt, ← hres.1, ← hres.2]
    exact hdone
  · exact ⟨_, exec_calRun_waits h hsb (fun hb => hbad.mp hb ht) hc, begunAs_begin rfl, onlySlot_begin rfl, rfl⟩
  · intro named free fits good l bad
    obtain ⟨t, hrow, hk, hpin⟩ := exec_calCommit h ht
    have hl : mapChans map = l := by
      refine List.filter_congr fun c hc => ?_
      simp [named, List.mem_range.mp hc]
    have hfits : ∀ x y, foldD x y = fits x y := fun x y => (Bool.decide_and ..).symm
    have hgood : s.commitGood = good := funext fun c => by
      show (s.commitFree c && (foldD _ _ && foldD _ _)) = (s.commitFree c && fits _ _ && fits _ _)
      rw [hfits, hfits, Bool.and_assoc]
    have hbadl : commitBad (mapChans map) s = bad := by
      rw [commitBad, hl, hgood]
    have hmem : ∀ c, c ∈ mapChans map ↔ named c = true := fun c => by
      rw [hl, List.mem_filter, List.mem_range]
      exact ⟨And.right, fun h => ⟨of_decide_eq_true (Bool.and_eq_true_iff.mp h).1, h⟩⟩
    obtain ⟨hd, ho⟩ := complete_of_kept k.val (if bad = [] then stOK else stPrecondition)
      (calResult (l.filter good).length bad.length (bad.headD 0) (if bad = [] then 0 else 6)) hk (by decide)
    rw [hbadl, hl, hgood] at hrow
    have hboth : ∀ c, (c ∈ mapChans map ∧ s.commitFree c = true) ↔ (named c && free c) = true := fun c =>
      (and_congr_left' (hmem c)).trans Bool.and_eq_true_iff.symm
    refine ⟨_, hrow, ho, hd, fun c hc => (hpin c).trans (if_neg fun hb => ?_), fun c hc => ?_⟩
    · rw [(hboth c).mp hb] at hc
      cases hc
    · have hq : t.pin c = (commitPin (s.pin c)).1 := (hpin c).trans (if_pos ((hboth c).mpr hc))
      intro p q a b
      have hs := commitPin_spec p
      rw [hfits, hfits, ← hq] at hs
      exact hs

end Sys2Proof.Machine

/-!
The end of a calibration step: in a CAL_RUN of one step, in Calibrate, and in a visit.
-/

namespace Sys2Proof.Machine

/-! ## What the end of a window reads -/

theorem calPre_of_signalled {s t : State} (h : signalled s t) (r : StepIn) : t.calPre r = s.calPre r := by
  obtain ⟨_, _, _, _, rfl⟩ := h
  rfl

theorem loopForm_of_signalled {s t : State} (h : signalled s t) (c : Nat) : t.loopForm c = s.loopForm c := by
  obtain ⟨_, _, _, _, rfl⟩ := h
  rfl

theorem scanWaits_of_signalled {s t : State} (h : signalled s t) (live : Bool) (st u : Nat) :
    t.scanWaits live st u = s.scanWaits live st u := by
  obtain ⟨_, _, _, _, rfl⟩ := h
  rfl

/-! ## A window of a CAL_RUN of one step (R421) -/

/-- The state in which the end of a window is counted. -/
def windowEnded (r : StepIn) (s : State) : State := stepEvent 0x050 r.step.toNat r.unit s

theorem signalled_windowEnded (r : StepIn) (s : State) : signalled s (windowEnded r s) := signalled_stepEvent ..

/-- A unit whose preconditions held: its result written. -/
def stepWritten (r : StepIn) (s : State) : State :=
  modCal (fun x => { x with written := x.written + 1 })
    (applyStepResult false (!s.loopForm r.unit) r.step.toNat r.unit r.vals (windowEnded r s))

/-- A unit refused for a precondition. -/
def stepRefused (r : StepIn) (s : State) : State :=
  calRefuse r.unit (s.calPre r) (recordFail r.step.toNat r.unit (s.calPre r) false (windowEnded r s))

/-- The window that ended taken off the list. -/
def windowDone (s : State) : State := modCal (fun x => { x with todo := x.todo.drop 1 }) s

theorem exec_calStepEnd_revoked {r : StepIn} {s : State}
    (h : s.cal.revoked.get (stepEngine r.step.toNat r.unit) = true) : exec (.calStepEnd r) s = .next s := if_pos h

theorem calNext_idle {s : State} (h : s.cal.waiting = []) (f : Nat) : calNext f s = s := by
  cases f with
  | zero => rw [calNext]
  | succ f =>
    rw [calNext]
    split
    · next hw _ => rw [h] at hw; cases hw
    · rfl

section
variable {r : StepIn} {s : State} (hrev : s.cal.revoked.get (stepEngine r.step.toNat r.unit) = false)
include hrev

section
variable (hm : s.cal.mode = .single) (ht : s.cal.todo = [(r.step.toNat, r.unit)]) (hA : r.step.toNat ≠ 0xA)
  (hscan : s.scanWaits (!s.loopForm r.unit) r.step.toNat r.unit = false)
include hm ht hA hscan

theorem exec_calStepEnd_single : exec (.calStepEnd r) s =
    let t := if s.calPre r ≠ 0 then stepRefused r s else stepWritten r s
    let t1 := calTurn t.cal.todo.length (windowDone t)
    .next (calNext t1.cal.waiting.length t1) := by
  have hs := signalled_windowEnded r s
  have hmode : (windowEnded r s).cal.mode = .single := by rw [signalled_cal hs, hm]
  have hdue : (decide (s.cal.mode ≠ .none) && calDue (decide (s.cal.mode = .full)) s.cal.todo
      (r.step.toNat, if r.step.toNat = 0xA then 0 else r.unit)) = true := by
    rw [hm, ht, if_neg hA]
    simp [calDue]
  unfold stepWritten stepRefused windowDone
  rw [← calPre_of_signalled hs, ← loopForm_of_signalled hs]
  rw [← loopForm_of_signalled hs, ← scanWaits_of_signalled hs] at hscan
  unfold windowEnded at *
  show execCalStepEnd r s = _
  simp only [execCalStepEnd, hdue, hrev, hmode, hscan, if_true, if_false, Bool.false_eq_true, reduceCtorEq, decide_false,
    Bool.not_false, Bool.true_and]

end

/-- The window of a step in Calibrate: training has one for the whole device. -/
def fullWindow (r : StepIn) : Nat × Nat := (r.step.toNat, if r.step.toNat = 0xA then 0 else r.unit)

/-- A window of Calibrate whose preconditions held: its result written and its pin free for the next. -/
def fullWritten (r : StepIn) (s : State) : State :=
  openWindow r.step.toNat r.unit (applyStepResult true false r.step.toNat r.unit r.vals (windowEnded r s))

theorem exec_calStepEnd_full (hm : s.cal.mode = .full) (hd : calDue true s.cal.todo (fullWindow r) = true) :
    exec (.calStepEnd r) s =
    let t := if s.calPre r ≠ 0 then calFailed (fullWindow r) r.unit (s.calPre r) (windowEnded r s)
      else calProgress (fullWindow r) (fullWritten r s)
    .next (calNext t.cal.waiting.length t) := by
  have hs := signalled_windowEnded r s
  have hmode : (windowEnded r s).cal.mode = .full := by rw [signalled_cal hs, hm]
  have hdue : (decide (s.cal.mode ≠ .none) && calDue (decide (s.cal.mode = .full)) s.cal.todo
      (r.step.toNat, if r.step.toNat = 0xA then 0 else r.unit)) = true := by
    rw [hm]
    exact hd
  unfold fullWritten fullWindow
  rw [← calPre_of_signalled hs]
  have hscan : (windowEnded r s).scanWaits false r.step.toNat r.unit = false := by
    rw [State.scanWaits, Bool.and_false, Bool.false_and]
  unfold windowEnded at *
  show execCalStepEnd r s = _
  simp only [execCalStepEnd, hdue, hrev, hmode, hscan, if_true, if_false, Bool.false_eq_true, decide_true,
    Bool.not_true, Bool.false_and]

/-- The end of a continuous step. -/
theorem exec_calStepEnd_visit (hm : s.cal.mode = .none) (hl : r.live = true)
    (hscan : s.scanWaits true r.step.toNat r.unit = false) : exec (.calStepEnd r) s = .next (visitEnd r s) := by
  show execCalStepEnd r s = _
  simp only [execCalStepEnd, hm, hl, hrev, hscan, ne_eq, not_true_eq_false, decide_false, Bool.false_and, if_false,
    if_true, Bool.false_eq_true]

end

/-! ## What the result of a step changes (Table 9.2) -/

/-- A result leaves the run of the CAL block alone. -/
theorem applyStepResult_cal (full live : Bool) (st u : Nat) (vals : List Int) (s : State) : ∃ a b,
    (applyStepResult full live st u vals s).cal = { s.cal with convOff := a, oscFreq := b } := by
  have hsame : ∀ t, Kept [.dram, .octets, .pins, .dds, .free] s t →
      ∃ a b, t.cal = { s.cal with convOff := a, oscFreq := b } := fun t ht => ⟨_, _, ht.same .cal (by decide)⟩
  have h0 := Kept.refl [.dram, .octets, .pins, .dds, .free] s
  unfold applyStepResult
  dsimp only
  split
  · exact ⟨_, _, rfl⟩
  · exact hsame _ (kept_foldl _ _ (fun t d ht => kept_putDac _ _ _ _ (by decide) ht) h0)
  · exact hsame _ (kept_foldl _ _ (fun t d ht => kept_putDac _ _ _ _ (by decide) ht) h0)
  · exact hsame _ (kept_driveResult _ _ _ _ _ (by decide) h0)
  · exact hsame _ (kept_compareResult _ _ _ _ (by decide) h0)
  · split
    · exact ⟨_, _, rfl⟩
    · exact hsame _ (kept_applyDrift _ _ (by decide) h0)
  · exact ⟨_, _, rfl⟩
  · exact hsame _ (kept_restartRefresh (by decide) (kept_modDram _ (by decide) rfl h0))
  · exact ⟨_, _, rfl⟩
  · exact ⟨_, _, rfl⟩
  · refine hsame _ (kept_foldl _ _ (fun t j ht => ?_) h0)
    exact kept_foldl _ _ (fun w i hw => kept_modPin _ _ (by decide) hw) (kept_halfOf _ (by decide) ht)
  · exact ⟨_, _, rfl⟩

theorem kept_stepResult (full live : Bool) (st u : Nat) (vals : List Int) (s : State) :
    Kept [.dram, .octets, .pins, .dds, .cal, .free] s (applyStepResult full live st u vals s) :=
  kept_applyStepResult _ _ _ _ _ (List.Subset.refl _) (Kept.refl _ s)

theorem halfOf_even (h : Int) (s : State) : halfOf (2 * h) s = (h, s) := by
  rw [halfOf, if_pos (by omega)]
  exact congrArg (·, s) (by omega)

theorem putDacs_dac {live : Bool} (u : Nat) (vals : List Int) (s : State) {i : Nat} (hi : i < 5) :
    (((applyStepResult false live 2 u vals s).pin u).dacs.get i).tGain = fieldI (-2048) 2047 (vals.getD (2 * i) 0) ∧
    (((applyStepResult false live 2 u vals s).pin u).dacs.get i).tOff = fieldI (-512) 511 (vals.getD (2 * i + 1) 0) := by
  have hself : ∀ t d g o, ((putDac u d g o t).pin u).dacs = (t.pin u).dacs.mod d fun x =>
      { x with tGain := fieldI (-2048) 2047 g, tOff := fieldI (-512) 511 o } := fun t d g o =>
    congrArg Pin.dacs (modPin_pin_self ..)
  have hone := foldl_view (fun t d => (t.pin u).dacs.get d) (P := fun _ => True)
    (step := fun t d => putDac u d (vals.getD (2 * d) 0) (vals.getD (2 * d + 1) 0) t)
    (F := fun d x => { x with tGain := fieldI (-2048) 2047 (vals.getD (2 * d) 0),
                              tOff := fieldI (-512) 511 (vals.getD (2 * d + 1) 0) })
    (fun _ _ _ => trivial) (fun t d _ => by rw [hself]; exact SMap.get_mod_eq ..)
    (fun t d j _ hj => by rw [hself]; exact SMap.get_mod_ne _ _ _ _ hj) List.nodup_range (l := List.range 5) (s := s) trivial i
  rw [if_pos (List.mem_range.mpr hi)] at hone
  have hd : (((applyStepResult false live 2 u vals s).pin u).dacs.get i) = _ := hone
  rw [hd]
  exact ⟨rfl, rfl⟩

theorem driveResult_loop {u : Nat} {a b : Int} {s : State} :
    ((driveResult false false u a b s).pin u).fall = clampI (-128) 127 (a - b) ∧
    ∀ h, a + b = 2 * h → ((driveResult false false u a b s).pin u).dDrv = fieldI (-16384) 16383 (-h - (s.pin u).vDrv) := by
  refine ⟨?_, fun h hh => ?_⟩
  · exact congrArg Pin.fall (modPin_pin_self ..)
  · unfold driveResult
    rw [hh, halfOf_even]
    exact congrArg Pin.dDrv (modPin_pin_self ..)

theorem compareResult_dCmp {u : Nat} {a b h : Int} {s : State} (hh : a + b = 2 * h) :
    ((compareResult false u a b s).pin u).dCmp = fieldI (-16384) 16383 (h - (s.pin u).vCmp) := by
  unfold compareResult
  rw [hh, halfOf_even]
  exact congrArg Pin.dCmp (modPin_pin_self ..)

/-! ## The run of one step ends with its last window -/

/-- The run over, its command completed. -/
def runOver (k : Nat) (st : BitVec 8) (res : Nat) (t : State) : State := calIdle (complete k st res (windowDone t))

theorem runOver_cal (k : Nat) (st : BitVec 8) (res : Nat) (t : State) :
    (runOver k st res t).cal.cmd = none ∧ (runOver k st res t).cal.mode = .none ∧
    (runOver k st res t).cal.convOff = t.cal.convOff ∧ (runOver k st res t).cal.oscFreq = t.cal.oscFreq :=
  ⟨rfl, rfl, rfl, rfl⟩

theorem runOver_views (k : Nat) (st : BitVec 8) (res : Nat) (t : State) : (runOver k st res t).pin = t.pin ∧
    (runOver k st res t).octets = t.octets ∧ (runOver k st res t).dds = t.dds := ⟨rfl, rfl, rfl⟩

theorem doneAs_runOver {m : List Part} {s t : State} (k : Nat) (st : BitVec 8) (res : Nat) (h : Kept m s t)
    (hc : t.cmd k = s.cmd k) (hcal : [.cal] ⊆ m) (hm : ∀ x ∈ [Part.devState, .time, .halso], x ∉ m) :
    doneAs k st res s (runOver k st res t) :=
  doneAs_complete_of_kept (u := windowDone t) k st res (kept_modCal _ hcal h) hc hm

/-- The last window of a run of one step. -/
theorem calTurn_last {k : Nat} {x : Nat × Nat} {t : State} (ht : t.cal.todo = [x]) (hw : t.cal.waiting = [])
    (hk : t.cal.cmd = some k) :
    calNext (calTurn t.cal.todo.length (windowDone t)).cal.waiting.length (calTurn t.cal.todo.length (windowDone t)) =
      runOver k (if t.cal.refusedN = 0 then stOK else stPrecondition)
        (calResult t.cal.written t.cal.refusedN t.cal.lowUnit t.cal.lowPre.toNat) t := by
  have hd : (windowDone t).cal.todo = [] := congrArg (List.drop 1) ht
  have hc : (windowDone t).cal.cmd = some k := hk
  have hover : calTurn t.cal.todo.length (windowDone t) = runOver k
      (if t.cal.refusedN = 0 then stOK else stPrecondition)
      (calResult t.cal.written t.cal.refusedN t.cal.lowUnit t.cal.lowPre.toNat) t := by
    rw [ht, List.length_singleton, calTurn_over hd, runCounted, hc]
    rfl
  rw [hover]
  have hidle : (runOver k (if t.cal.refusedN = 0 then stOK else stPrecondition)
      (calResult t.cal.written t.cal.refusedN t.cal.lowUnit t.cal.lowPre.toNat) t).cal.waiting = [] := hw
  exact calNext_idle hidle _

theorem stepWritten_cal (r : StepIn) (s : State) : ∃ a b, (stepWritten r s).cal =
    { s.cal with convOff := a, oscFreq := b, written := s.cal.written + 1 } := by
  obtain ⟨a, b, hc⟩ := applyStepResult_cal false (!s.loopForm r.unit) r.step.toNat r.unit r.vals (windowEnded r s)
  refine ⟨a, b, ?_⟩
  rw [stepWritten, modCal_cal, hc, signalled_cal (signalled_windowEnded r s)]

theorem kept_windowEnded (r : StepIn) (s : State) : Kept [.sys, .hqm, .perf, .out] s (windowEnded r s) :=
  kept_stepEvent _ _ _ (List.Subset.refl _) (Kept.refl _ s)

theorem kept_stepWritten (r : StepIn) (s : State) :
    Kept [.sys, .hqm, .perf, .out, .dram, .octets, .pins, .dds, .cal, .free] s (stepWritten r s) :=
  kept_modCal _ (by decide) (((kept_windowEnded r s).mono (by decide)).trans ((kept_stepResult ..).mono (by decide)))

theorem stepWritten_cmd (r : StepIn) (s : State) (k : Nat) : (stepWritten r s).cmd k = s.cmd k := by
  have hq := cmd_of_hqm ((kept_stepResult false (!s.loopForm r.unit) r.step.toNat r.unit r.vals (windowEnded r s)).same .hqm
    (by decide)) k
  rw [stepWritten, modCal_cmd_view, hq, signalled_cmd (signalled_windowEnded r s)]

theorem FailNoted.trans {s t u : State} (h : FailNoted s t) (h' : FailNoted t u) : FailNoted s u := by
  obtain ⟨_, hs⟩ := h.sys
  obtain ⟨_, hs'⟩ := h'.sys
  obtain ⟨_, _, _, _, _, hc⟩ := h.cal
  obtain ⟨_, _, _, _, _, hc'⟩ := h'.cal
  refine ⟨⟨_, by rw [hs', hs]⟩, fun k => (h'.cmd k).trans (h.cmd k), h'.sites.trans h.sites, h'.octets.trans h.octets,
    h'.dds.trans h.dds, h'.time.trans h.time, h'.halso.trans h.halso, fun j => ?_, ⟨_, _, _, _, _, by rw [hc', hc]⟩⟩
  obtain ⟨_, _, _, hp⟩ := h.pin j
  obtain ⟨_, _, _, hp'⟩ := h'.pin j
  exact ⟨_, _, _, by rw [hp', hp]⟩

/-- A refused unit before it is counted. -/
def stepFailed (r : StepIn) (s : State) : State :=
  recordFail r.step.toNat r.unit (s.calPre r) false (windowEnded r s)

theorem failNoted_stepFailed (r : StepIn) (s : State) : FailNoted s (stepFailed r s) :=
  (FailNoted.of_signalled (signalled_windowEnded r s)).trans (failNoted_recordFail ..)

theorem kept_stepFailed (r : StepIn) (s : State) : Kept [.sys, .hqm, .pins, .cal, .perf, .out] s (stepFailed r s) :=
  kept_recordFail _ _ _ _ (List.Subset.refl _) ((kept_windowEnded r s).mono (by decide))

theorem stepRefused_eq (r : StepIn) (s : State) :
    stepRefused r s = calRefuse r.unit (s.calPre r) (stepFailed r s) := rfl

section
variable {r : StepIn} {s : State} {k : Nat} (hrev : s.cal.revoked.get (stepEngine r.step.toNat r.unit) = false)
  (hm : s.cal.mode = .single) (ht : s.cal.todo = [(r.step.toNat, r.unit)]) (hk : s.cal.cmd = some k)
  (hw : s.cal.waiting = []) (hA : r.step.toNat ≠ 0xA)
  (hscan : s.scanWaits (!s.loopForm r.unit) r.step.toNat r.unit = false)
include hrev hm ht hk hw hA hscan

theorem exec_calStepEnd_written (h0 : s.calPre r = 0) : exec (.calStepEnd r) s =
    .next (runOver k (if s.cal.refusedN = 0 then stOK else stPrecondition)
      (calResult (s.cal.written + 1) s.cal.refusedN s.cal.lowUnit s.cal.lowPre.toNat) (stepWritten r s)) := by
  obtain ⟨_, _, hc⟩ := stepWritten_cal r s
  have hlast := calTurn_last (k := k) (t := stepWritten r s) (by rw [hc, ht]) (by rw [hc, hw]) (by rw [hc, hk])
  rw [exec_calStepEnd_single hrev hm ht hA hscan, if_neg (not_not.mpr h0)]
  refine congrArg _ (hlast.trans ?_)
  rw [hc]

theorem exec_calStepEnd_refused (h0 : s.calPre r ≠ 0) : exec (.calStepEnd r) s =
    .next (runOver k stPrecondition
      (calResult s.cal.written (s.cal.refusedN + 1) (if s.cal.refusedN = 0 then r.unit else s.cal.lowUnit)
        (if s.cal.refusedN = 0 then (BitVec.ofNat 4 (s.calPre r)).toNat else s.cal.lowPre.toNat))
      (stepRefused r s)) := by
  obtain ⟨_, _, _, _, _, hf⟩ := (failNoted_stepFailed r s).cal
  have hc := congrArg State.cal (stepRefused_eq r s)
  rw [calRefuse, modCal_cal, hf] at hc
  have hlast := calTurn_last (k := k) (t := stepRefused r s) (by rw [hc, ht]) (by rw [hc, hw]) (by rw [hc, hk])
  rw [exec_calStepEnd_single hrev hm ht hA hscan, if_pos h0]
  refine congrArg _ (hlast.trans ?_)
  rw [hc]
  dsimp only
  rw [if_neg (Nat.succ_ne_zero _), apply_ite BitVec.toNat]

end

/-! ## Calibrate ends: back to Bring-up, or in Ready (R412, R413, R420) -/

theorem foldl_cmd {α : Type} {f : State → α → State} {k : Nat} (hf : ∀ t a, (f t a).cmd k = t.cmd k) (l : List α) (s : State) :
    (l.foldl f s).cmd k = s.cmd k := by
  induction l generalizing s with
  | nil => rfl
  | cons a l ih => exact (ih _).trans (hf s a)

theorem setCeiling_cmd (o v : Nat) (s : State) (k : Nat) : (setCeiling o v s).cmd k = s.cmd k := by
  unfold setCeiling
  dsimp only
  split
  · exact signalled_cmd (signalled_raiseIrq 1 _) k
  · rfl

/-- The loops restored, unless only LINK is left. -/
def loopsRestored (s : State) : State := if s.cal.todo.all (fun e => e.1 == 0xD) then s else restoreLoops s

/-- A failed training leaves the channels trained for the rate of Boot, but for the one that failed. -/
def trainingUndone (st u : Nat) (s : State) : State :=
  if st = 0xA then
    restartRefresh (modDram (fun d => { d with activeRate := 0, chans := d.chans.mapAll fun n x =>
      { x with trained := d.rate == 0 && n != u } }) s)
  else s

/-- The ceilings of the octets that have one limited to those of Boot. -/
def ceilingsLimited (n : Nat) (s : State) : State :=
  (List.range n).foldl (fun t o =>
    let x := t.octet o
    if x.ceiling = 0 then t else setCeiling o (min x.bootCeil 2000) t) s

/-- The state that a failed Calibrate leaves, before Bring-up is entered. -/
def bringUpBase (st u : Nat) (s : State) : State :=
  clearBaselines (ceilingsLimited s.nOct (trainingUndone st u (loopsRestored s)))

theorem calBringUp_eq (st u pre : Nat) (s : State) : calBringUp st u pre s =
    calIdle (completeOpt s.cal.cmd stPrecondition (st + u % 128 * 2 ^ 8 + pre * 2 ^ 16)
      (enterState .bringUp (bringUpBase st u s))) := by
  unfold calBringUp bringUpBase ceilingsLimited trainingUndone loopsRestored
  with_reducible rfl

/-- Loops restored leave of the CAL block only what was saved of them behind. -/
theorem restoreLoops_cal (s : State) : (restoreLoops s).cal = { s.cal with savedLoop := [] } := by
  have hk : Kept [.octets, .pins, .out] s
      ((List.range s.nCh).foldl (fun t c => setLoop c (t.cal.savedLoop.get c).toNat t) s) :=
    kept_foldl _ _ (fun t c ht => kept_setLoop _ _ (by decide) ht) (Kept.refl _ s)
  have hcal := hk.same .cal (by decide)
  rw [restoreLoops, modCal_cal, hcal]

theorem restoreLoops_cmd (s : State) (k : Nat) : (restoreLoops s).cmd k = s.cmd k :=
  cmd_of_hqm ((kept_restoreLoops (m := [.octets, .pins, .cal, .out]) (List.Subset.refl _) (Kept.refl _ s)).same .hqm
    (by decide)) k

theorem bringUpBase_cal (st u : Nat) (s : State) : ∃ m, (bringUpBase st u s).cal = { s.cal with savedLoop := m } := by
  have hloops : ∃ m, (loopsRestored s).cal = { s.cal with savedLoop := m } := by
    unfold loopsRestored
    split
    · exact ⟨_, rfl⟩
    · exact ⟨_, restoreLoops_cal s⟩
  have htrain : ∀ t, Kept [.dram] t (trainingUndone st u t) := fun t => by
    unfold trainingUndone
    split
    · exact kept_restartRefresh (by decide) (kept_modDram _ (by decide) rfl (Kept.refl _ t))
    · exact Kept.refl _ t
  have hceil : ∀ n t, Kept [.sys, .hqm, .octets, .perf, .out] t (clearBaselines (ceilingsLimited n t)) := fun n t => by
    refine kept_clearBaselines (by decide) (kept_foldl _ _ (fun v o hv => ?_) (Kept.refl _ t))
    dsimp only
    split
    · exact hv
    · exact kept_setCeiling _ _ (by decide) hv
  obtain ⟨m, hm⟩ := hloops
  exact ⟨m, ((hceil _ _).same .cal (by decide)).trans (((htrain _).same .cal (by decide)).trans hm)⟩

theorem enterState_cal (d : DevState) (s : State) : (enterState d s).cal = s.cal := by
  rw [signalled_cal (signalled_enterState d s), modSys_cal]

theorem enterState_cmd (d : DevState) (s : State) (k : Nat) : (enterState d s).cmd k = s.cmd k := by
  rw [signalled_cmd (signalled_enterState d s), modSys_cmd_view]

theorem completeOpt_cal (k : Option Nat) (st : BitVec 8) (r : Nat) (s : State) : (completeOpt k st r s).cal = s.cal :=
  (kept_completeOpt (m := [.hqm]) k st r (List.Subset.refl _) (Kept.refl _ s)).same .cal (by decide)

theorem completeOpt_sys (k : Option Nat) (st : BitVec 8) (r : Nat) (s : State) : (completeOpt k st r s).sys = s.sys :=
  (kept_completeOpt (m := [.hqm]) k st r (List.Subset.refl _) (Kept.refl _ s)).same .sys (by decide)

/-- The windows of Calibrate that are left once one has failed. -/
theorem exec_calStepEnd_failed {r : StepIn} {s : State} (hrev : s.cal.revoked.get (stepEngine r.step.toNat r.unit) = false)
    (hm : s.cal.mode = .full) (hw : s.cal.waiting = []) (hd : calDue true s.cal.todo (fullWindow r) = true)
    (h0 : s.calPre r ≠ 0) (hB : r.step.toNat ≠ 0xB) (hC : r.step.toNat ≠ 0xC) :
    exec (.calStepEnd r) s = .next (calIdle (completeOpt s.cal.cmd stPrecondition
      (r.step.toNat + r.unit % 128 * 2 ^ 8 + s.calPre r * 2 ^ 16)
      (enterState .bringUp (bringUpBase r.step.toNat r.unit (stepFailed r s))))) := by
  have hside : sideStep r.step.toNat = false := by simp [sideStep, hB, hC]
  obtain ⟨_, _, _, _, _, hf⟩ := (failNoted_stepFailed r s).cal
  obtain ⟨_, hb⟩ := bringUpBase_cal r.step.toNat r.unit (stepFailed r s)
  have hfailed : calFailed (fullWindow r) r.unit (s.calPre r) (windowEnded r s) =
      calIdle (completeOpt s.cal.cmd stPrecondition (r.step.toNat + r.unit % 128 * 2 ^ 8 + s.calPre r * 2 ^ 16)
        (enterState .bringUp (bringUpBase r.step.toNat r.unit (stepFailed r s)))) := by
    refine (if_neg (by rw [fullWindow, hside]; decide)).trans ((calBringUp_eq ..).trans ?_)
    have hc : (stepFailed r s).cal.cmd = s.cal.cmd := by rw [hf]
    rw [← hc]
    rfl
  have hwait : (calFailed (fullWindow r) r.unit (s.calPre r) (windowEnded r s)).cal.waiting = [] := by
    rw [hfailed]
    rw [calIdle, modCal_cal, completeOpt_cal, enterState_cal, hb, hf]
    exact hw
  rw [exec_calStepEnd_full hrev hm hd, if_pos h0]
  exact congrArg _ ((calNext_idle hwait _).trans hfailed)

/-- The temperatures recorded and the ceilings published. -/
def ceilingsPublished (s : State) : State :=
  clearBaselines (s.calOcts.foldl (fun t o =>
    let x := t.octet o
    setCeiling o (ceilingAt x.cFab x.mNow) (modOctet o (fun y => { y with tCal := (t.cal.sensors.get o).temp }) t)) s)

theorem calReady_eq (s : State) : calReady s =
    calIdle (completeOpt s.cal.cmd stOK 0 (enterState .ready (ceilingsPublished s))) := by
  unfold calReady ceilingsPublished
  with_reducible rfl

theorem kept_ceilingsPublished (s : State) : Kept [.sys, .hqm, .octets, .perf, .out] s (ceilingsPublished s) := by
  refine kept_clearBaselines (by decide) (kept_foldl _ _ (fun v o hv => ?_) (Kept.refl _ s))
  exact kept_setCeiling _ _ (by decide) (kept_modOctet _ _ (by decide) hv)

theorem clearBaselines_cmd (s : State) (k : Nat) : (clearBaselines s).cmd k = s.cmd k :=
  cmd_of_hqm ((kept_clearBaselines (m := [.octets]) (List.Subset.refl _) (Kept.refl _ s)).same .hqm (by decide)) k

theorem ceilingsPublished_cmd (s : State) (k : Nat) : (ceilingsPublished s).cmd k = s.cmd k := by
  rw [ceilingsPublished, clearBaselines_cmd]
  exact foldl_cmd (fun t o => (setCeiling_cmd ..).trans (modOctet_cmd_view ..)) _ _

/-- The last window of Calibrate over, before Ready is entered. -/
def lastEnded (e : Nat × Nat) (s : State) : State :=
  if e.1 != 0xD then restoreLoops (modCal (fun x => { x with todo := [] }) s) else modCal (fun x => { x with todo := [] }) s

theorem calProgress_last {e : Nat × Nat} {s : State} (h : s.cal.todo = [e]) : calProgress e s = calReady (lastEnded e s) := by
  have hf : (s.cal.todo.filter fun b => b != e) = [] := by
    rw [h]
    simp
  unfold calProgress lastEnded
  dsimp only
  rw [hf, List.all_nil, Bool.and_true]
  exact if_pos rfl

theorem lastEnded_cal (e : Nat × Nat) (s : State) : ∃ m, (lastEnded e s).cal = { s.cal with todo := [], savedLoop := m } := by
  unfold lastEnded
  split
  · exact ⟨_, restoreLoops_cal _⟩
  · exact ⟨_, rfl⟩

theorem lastEnded_cmd (e : Nat × Nat) (s : State) (k : Nat) : (lastEnded e s).cmd k = s.cmd k := by
  unfold lastEnded
  split
  · exact restoreLoops_cmd _ k
  · rfl

theorem kept_lastEnded (e : Nat × Nat) (s : State) : Kept [.octets, .pins, .cal, .out] s (lastEnded e s) := by
  unfold lastEnded
  split
  · exact kept_restoreLoops (by decide) (kept_modCal _ (by decide) (Kept.refl _ s))
  · exact kept_modCal _ (by decide) (Kept.refl _ s)

theorem fullWritten_cal (r : StepIn) (s : State) : ∃ a b, (fullWritten r s).cal = { s.cal with convOff := a, oscFreq := b } := by
  obtain ⟨a, b, hc⟩ := applyStepResult_cal true false r.step.toNat r.unit r.vals (windowEnded r s)
  refine ⟨a, b, ((kept_openWindow_self _ _ _).same .cal (by decide)).trans ?_⟩
  rw [hc, signalled_cal (signalled_windowEnded r s)]

theorem fullWritten_cmd (r : StepIn) (s : State) (k : Nat) : (fullWritten r s).cmd k = s.cmd k := by
  have ho := cmd_of_hqm ((kept_openWindow_self r.step.toNat r.unit
    (applyStepResult true false r.step.toNat r.unit r.vals (windowEnded r s))).same .hqm (by decide)) k
  have ha := cmd_of_hqm ((kept_stepResult true false r.step.toNat r.unit r.vals (windowEnded r s)).same .hqm (by decide)) k
  rw [fullWritten, ho, ha, signalled_cmd (signalled_windowEnded r s)]

theorem kept_fullWritten (r : StepIn) (s : State) :
    Kept [.sys, .hqm, .perf, .out, .dram, .octets, .pins, .dds, .cal, .free] s (fullWritten r s) :=
  kept_openWindow _ _ (by decide) (((kept_windowEnded r s).mono (by decide)).trans ((kept_stepResult ..).mono (by decide)))

/-- The state in which the last window of Calibrate leads to Ready. -/
def readyBase (r : StepIn) (s : State) : State := ceilingsPublished (lastEnded (fullWindow r) (fullWritten r s))

theorem kept_readyBase (r : StepIn) (s : State) :
    Kept [.sys, .hqm, .perf, .out, .dram, .octets, .pins, .dds, .cal, .free] s (readyBase r s) :=
  ((kept_fullWritten r s).trans ((kept_lastEnded ..).mono (by decide))).trans ((kept_ceilingsPublished _).mono (by decide))

theorem readyBase_cmd (r : StepIn) (s : State) (k : Nat) : (readyBase r s).cmd k = s.cmd k := by
  rw [readyBase, ceilingsPublished_cmd, lastEnded_cmd, fullWritten_cmd]

theorem exec_calStepEnd_ready {r : StepIn} {s : State} (hrev : s.cal.revoked.get (stepEngine r.step.toNat r.unit) = false)
    (hm : s.cal.mode = .full) (hw : s.cal.waiting = []) (ht : s.cal.todo = [fullWindow r]) (h0 : s.calPre r = 0) :
    exec (.calStepEnd r) s = .next (calIdle (completeOpt s.cal.cmd stOK 0 (enterState .ready (readyBase r s)))) := by
  have hd : calDue true s.cal.todo (fullWindow r) = true := by
    rw [ht]
    simp [calDue]
  obtain ⟨_, _, hc⟩ := fullWritten_cal r s
  obtain ⟨_, hl⟩ := lastEnded_cal (fullWindow r) (fullWritten r s)
  have hp : calProgress (fullWindow r) (fullWritten r s) =
      calIdle (completeOpt s.cal.cmd stOK 0 (enterState .ready (readyBase r s))) := by
    rw [calProgress_last (by rw [hc]; exact ht), calReady_eq, hl, hc]
    rfl
  have hbase : (readyBase r s).cal = (lastEnded (fullWindow r) (fullWritten r s)).cal :=
    (kept_ceilingsPublished _).same .cal (by decide)
  have hwait : (calProgress (fullWindow r) (fullWritten r s)).cal.waiting = [] := by
    rw [hp, calIdle, modCal_cal, completeOpt_cal, enterState_cal, hbase, hl, hc]
    exact hw
  rw [exec_calStepEnd_full hrev hm hd, if_neg (not_not.mpr h0)]
  exact congrArg _ ((calNext_idle hwait _).trans hp)

/-! ## A continuous step (R405, R416) -/

/-- The visit with the window of a step over. -/
def visitStepped (r : StepIn) (s : State) : State :=
  stepEvent 0x050 r.step.toNat r.unit (modCal (fun x => { x with
    visitLeft := x.visitLeft.set (r.unit / 32)
      ((s.cal.visitLeft.get (r.unit / 32)).filter fun y => y != r.step.toNat) }) s)

theorem visitEnd_due {r : StepIn} {s : State} (hr : s.sys.state = .ready) (hc : s.cal.visitCh.get (r.unit / 32) = r.unit + 1)
    (hl : r.step.toNat ∈ s.cal.visitLeft.get (r.unit / 32)) (hn : s.calNames r.unit = false) : visitEnd r s =
      if s.calPre r ≠ 0 then recordFail r.step.toNat r.unit (s.calPre r) true (visitStepped r s)
      else applyStepResult false true r.step.toNat r.unit r.vals (visitStepped r s) := by
  have hdue : ¬(s.sys.state ≠ .ready ∨ s.cal.visitCh.get (r.unit / 32) ≠ r.unit + 1 ∨
      ¬(s.cal.visitLeft.get (r.unit / 32)).contains r.step.toNat = true ∨ s.calNames r.unit = true) := by
    simp [hr, hc, hl, hn]
  exact if_neg hdue

theorem visitStepped_pin (r : StepIn) (s : State) (c : Nat) : (visitStepped r s).pin c = s.pin c := by
  rw [visitStepped, signalled_pin (signalled_stepEvent ..), modCal_pin_view]

theorem visitStepped_nCh (r : StepIn) (s : State) : (visitStepped r s).nCh = s.nCh := by
  obtain ⟨_, _, _, _, h⟩ := signalled_stepEvent 0x050 r.step.toNat r.unit (modCal (fun x => { x with
    visitLeft := x.visitLeft.set (r.unit / 32)
      ((s.cal.visitLeft.get (r.unit / 32)).filter fun y => y != r.step.toNat) }) s)
  rw [visitStepped, h]
  rfl

/-- A continuous step of a channel that fails. -/
theorem recordFail_chan {st u : Nat} {s : State} (h : chanStep st = true) (hu : u < s.nCh) (pre : Nat) :
    recordFail st u pre true s = modPin u (failPin st pre) (stepEvent 0x051 st u s) := by
  unfold recordFail
  dsimp only
  rw [if_pos rfl, if_pos h, if_pos hu]
  rfl

/-- Calibrate and Ready are traceable alike. -/
theorem untraceable_ready {s t : State} (hs : s.sys.state = .calibrate) (ht : t.sys.state = .ready) (htime : t.time = s.time)
    (hhalso : t.halso = s.halso) : t.untraceable = s.untraceable := by
  simp only [State.untraceable, State.traceable, State.heldGood, State.src, hs, ht, htime, hhalso]

theorem doneAs_ready {r : StepIn} {s : State} {k : Nat} (hs : s.sys.state = .calibrate) :
    doneAs k stOK 0 s (calIdle (complete k stOK 0 (enterState .ready (readyBase r s)))) := by
  have hk := kept_readyBase r s
  have hsig := signalled_enterState .ready (readyBase r s)
  have htime : (enterState .ready (readyBase r s)).time = s.time :=
    (signalled_time hsig).trans ((modSys_time ..).trans (hk.same .time (by decide)))
  have hhalso : (enterState .ready (readyBase r s)).halso = s.halso :=
    (signalled_halso hsig).trans ((modSys_halso ..).trans (hk.same .halso (by decide)))
  refine doneAs_of_cmd ((modCmd_cmd_self k _ (enterState .ready (readyBase r s))).trans ?_)
  rw [enterState_cmd, readyBase_cmd]
  exact completed_congr (congrArg Time.span htime)
    (untraceable_ready hs (enterState_states ..).1 htime hhalso) ..

theorem visitDrive {u : Nat} {a b : Int} {s : State} :
    ((driveResult false true u a b s).pin u).driveTimed = true ∧
    ((driveResult false true u a b s).pin u).tDrv = clampI (-2048) 2047 ((s.pin u).tDrv + scoreStep a b) ∧
    onlyPin u s (driveResult false true u a b s) := by
  have hself : (driveResult false true u a b s).pin u =
      { targetPin s.time.span true ((s.pin u).tDrv + scoreStep a b) (s.pin u) with driveTimed := true } :=
    (modPin_pin_self ..).trans (congrArg (fun p : Pin => { p with driveTimed := true }) (modPin_pin_self ..))
  obtain ⟨hd, -, -⟩ := targetPin_targets s.time.span true ((s.pin u).tDrv + scoreStep a b) (s.pin u)
  refine ⟨by rw [hself], by rw [hself]; exact hd, fun j hj => ?_⟩
  exact (modPin_pin_ne _ _ _ _ hj).trans (modPin_pin_ne _ _ _ _ hj)

/-- What the result of a step on a unit writes (Table 9.2), in the state that its window leaves. -/
theorem stepWritten_values (r : StepIn) (s : State) :
    (r.step.toNat = 1 → (stepWritten r s).cal.convOff = r.vals.getD 0 0) ∧
    (r.step.toNat = 2 → ∀ i, i < 5 →
      (((stepWritten r s).pin r.unit).dacs.get i).tGain = fieldI (-2048) 2047 (r.vals.getD (2 * i) 0) ∧
      (((stepWritten r s).pin r.unit).dacs.get i).tOff = fieldI (-512) 511 (r.vals.getD (2 * i + 1) 0)) ∧
    (r.step.toNat = 4 → s.loopForm r.unit = true →
      ((stepWritten r s).pin r.unit).fall = clampI (-128) 127 (r.vals.getD 0 0 - r.vals.getD 1 0) ∧
      ∀ h, r.vals.getD 0 0 + r.vals.getD 1 0 = 2 * h →
        ((stepWritten r s).pin r.unit).dDrv = fieldI (-16384) 16383 (-h - (s.pin r.unit).vDrv)) ∧
    (r.step.toNat = 5 → ∀ h, r.vals.getD 0 0 + r.vals.getD 1 0 = 2 * h →
      ((stepWritten r s).pin r.unit).dCmp = fieldI (-16384) 16383 (h - (s.pin r.unit).vCmp)) ∧
    (r.step.toNat = 9 → ((stepWritten r s).octet r.unit).band = (r.vals.getD 0 0).toNat ∧
      ((stepWritten r s).octet r.unit).trim = r.vals.getD 1 0) ∧
    (r.step.toNat = 0xB → (stepWritten r s).cal.oscFreq = r.vals.getD 0 0) ∧
    (r.step.toNat = 0xC → ((stepWritten r s).gen r.unit).skew =
      clampI (-2048) 2047 ((s.gen r.unit).skew - r.vals.getD 0 0)) := by
  have hsig := signalled_windowEnded r s
  have hpin : (windowEnded r s).pin r.unit = s.pin r.unit := signalled_pin hsig r.unit
  have hgen : (windowEnded r s).gen r.unit = s.gen r.unit := gen_of_dds (signalled_dds hsig) r.unit
  unfold stepWritten
  refine ⟨fun h => ?_, fun h i hi => ?_, fun h hf => ?_, fun h x hx => ?_, fun h => ?_, fun h => ?_, fun h => ?_⟩
  · rw [h]
    rfl
  · rw [h, modCal_pin_view]
    exact putDacs_dac (live := !s.loopForm r.unit) r.unit r.vals (windowEnded r s) hi
  · have he : applyStepResult false (!true) 4 r.unit r.vals (windowEnded r s) =
        driveResult false false r.unit (r.vals.getD 0 0) (r.vals.getD 1 0) (windowEnded r s) := rfl
    rw [h, hf, ← hpin, modCal_pin_view, he]
    exact driveResult_loop
  · rw [h, ← hpin, modCal_pin_view]
    exact compareResult_dCmp (u := r.unit) (s := windowEnded r s) hx
  · have ho : (applyStepResult false (!s.loopForm r.unit) 9 r.unit r.vals (windowEnded r s)).octet r.unit =
      { (windowEnded r s).octet r.unit with band := (r.vals.getD 0 0).toNat, trim := r.vals.getD 1 0 } :=
      modOctet_octet_self ..
    rw [h, modCal_octet_view, ho]
    exact ⟨rfl, rfl⟩
  · rw [h]
    rfl
  · rw [h, ← hgen]
    exact congrArg Gen.skew (modGen_gen_self ..)

/-- Settles O42: the four ways in which a window ends, each by its row's equation. -/
theorem calibrationStepsEnd : Obligations.CalibrationStepsEnd := by
  intro r s st u v run
  refine ⟨exec_calStepEnd_revoked, fun hrev => ⟨fun k hm ht hk hw hA hscan => ⟨fun h0 => ?_, fun h0 => ?_⟩,
    fun hm hs hw => ?_, fun hm hl h4 hr hc hleft hn hheld => ?_⟩⟩
  · obtain ⟨h1, h2, h4, h5, h9, hB, hC⟩ := stepWritten_values r s
    obtain ⟨hcmd, hmode, hoff, hosc⟩ := runOver_cal k (if s.cal.refusedN = 0 then stOK else stPrecondition)
      (calResult (s.cal.written + 1) s.cal.refusedN s.cal.lowUnit s.cal.lowPre.toNat) (stepWritten r s)
    obtain ⟨hpin, hoct, hdds⟩ := runOver_views k (if s.cal.refusedN = 0 then stOK else stPrecondition)
      (calResult (s.cal.written + 1) s.cal.refusedN s.cal.lowUnit s.cal.lowPre.toNat) (stepWritten r s)
    refine ⟨_, exec_calStepEnd_written hrev hm ht hk hw hA hscan h0,
      doneAs_runOver k _ _ (kept_stepWritten r s) (stepWritten_cmd r s k) (by decide) (by decide), hcmd, hmode, ?_⟩
    rw [hoff, hosc, hpin, gen_of_dds hdds, State.octet, hoct]
    exact ⟨h1, h2, h4, h5, h9, hB, hC⟩
  · have hf := failNoted_stepFailed r s
    have hkept : Kept [.sys, .hqm, .pins, .cal, .perf, .out] s (stepRefused r s) :=
      kept_calRefuse _ _ (by decide) (kept_stepFailed r s)
    obtain ⟨_, _, _, _, _, hcal⟩ := hf.cal
    obtain ⟨-, -, hoff, -⟩ := runOver_cal k stPrecondition
      (calResult s.cal.written (s.cal.refusedN + 1) (if s.cal.refusedN = 0 then r.unit else s.cal.lowUnit)
        (if s.cal.refusedN = 0 then (BitVec.ofNat 4 (s.calPre r)).toNat else s.cal.lowPre.toNat)) (stepRefused r s)
    obtain ⟨hpin, hoct, hdds⟩ := runOver_views k stPrecondition
      (calResult s.cal.written (s.cal.refusedN + 1) (if s.cal.refusedN = 0 then r.unit else s.cal.lowUnit)
        (if s.cal.refusedN = 0 then (BitVec.ofNat 4 (s.calPre r)).toNat else s.cal.lowPre.toNat)) (stepRefused r s)
    refine ⟨_, exec_calStepEnd_refused hrev hm ht hk hw hA hscan h0,
      doneAs_runOver k _ _ hkept (hf.cmd k) (by decide) (by decide), ?_⟩
    rw [hoff, hpin, hoct, hdds, stepRefused_eq, calRefuse, modCal_cal, modCal_octets, modCal_dds, hcal, hf.octets, hf.dds]
    refine ⟨rfl, rfl, rfl, fun c => ?_⟩
    obtain ⟨_, _, _, hp⟩ := hf.pin c
    rw [modCal_pin_view, hp]
    exact ⟨rfl, rfl, rfl, rfl, rfl⟩
  · intro w
    refine ⟨fun h0 hB hC hd => ?_, fun h0 ht => ?_⟩
    · obtain ⟨_, hb⟩ := bringUpBase_cal r.step.toNat r.unit (stepFailed r s)
      refine ⟨_, exec_calStepEnd_failed hrev hm hw hd h0 hB hC, ?_, rfl, ?_, fun k hk => ?_⟩
      · rw [calIdle, modCal_sys, completeOpt_sys]
        exact (enterState_states ..).1
      · rw [calIdle, modCal_cal, completeOpt_cal, enterState_cal, hb]
        rfl
      · rw [hk, calIdle, modCal_cmd_view, completeOpt_cmd, if_pos rfl]
        exact ⟨rfl, rfl, rfl⟩
    · refine ⟨_, exec_calStepEnd_ready hrev hm hw ht h0, ?_, rfl, fun k hk => ?_⟩
      · rw [calIdle, modCal_sys, completeOpt_sys]
        exact (enterState_states ..).1
      · rw [hk]
        exact doneAs_ready hs
  · have hst : r.step.toNat = 4 := h4
    have hscan : s.scanWaits true r.step.toNat r.unit = false := by
      rw [State.scanWaits, show s.scanHeld r.unit = false from hheld, Bool.and_false]
    have hrow := (exec_calStepEnd_visit hrev hm hl hscan).trans (congrArg _ (visitEnd_due hr hc (hst ▸ hleft) hn))
    refine ⟨fun h0 => ?_, fun h0 hu => ?_⟩
    · rw [if_neg (not_not.mpr h0), hst] at hrow
      obtain ⟨htimed, hdrv, honly⟩ := visitDrive (u := u) (a := v 0) (b := v 1) (s := visitStepped r s)
      rw [visitStepped_pin] at hdrv
      exact ⟨_, hrow, fun j hj => (honly j hj).trans (visitStepped_pin ..), htimed, hdrv⟩
    · rw [if_pos h0, hst, recordFail_chan (by decide) (by rw [visitStepped_nCh]; exact hu)] at hrow
      have hpin : ∀ j, (stepEvent 0x051 4 r.unit (visitStepped r s)).pin j = s.pin j := fun j =>
        (signalled_pin (signalled_stepEvent ..) j).trans (visitStepped_pin ..)
      have hself : (modPin r.unit (failPin 4 (s.calPre r)) (stepEvent 0x051 4 r.unit (visitStepped r s))).pin r.unit =
        failPin 4 (s.calPre r) (s.pin r.unit) := (modPin_pin_self ..).trans (congrArg _ (hpin _))
      refine ⟨_, hrow, fun j hj => (modPin_pin_ne _ _ _ _ hj).trans (hpin j), ?_, ?_⟩
      · rw [hself]
        rfl
      · rw [hself]
        rfl

end Sys2Proof.Machine

/-!
The time base: steps, and the registers with rows of their own.
-/

namespace Sys2Proof.Machine

/-! ## What the operations of the time base leave alone -/

/-- An entry of the event ring changes nothing but what waits for the ring. -/
theorem tsPut_eq (kind msg seq : Nat) (time : Int) (value : Nat) (s : State) :
    ∃ p, tsPut kind msg seq time value s = { s with time := { s.time with tsPend := p } } := by
  unfold tsPut
  split
  · exact ⟨_, rfl⟩
  · exact ⟨_, rfl⟩

theorem tsNote_eq (kind value : Nat) (s : State) :
    ∃ p, tsNote kind value s = { s with time := { s.time with tsPend := p } } := tsPut_eq ..

/-- A slew ended. -/
theorem endSlew_eq (s : State) :
    ∃ p, endSlew s = { s with time := { s.time with slewLeft := 0, tsPend := p } } := by
  unfold endSlew
  split
  · next h => exact ⟨s.time.tsPend, by rw [← h]⟩
  · exact tsNote_eq ..

/-- A servo state entered: the measurement in hand is dropped, and a hold that was not one begins. -/
theorem enterServo_eq (v : Servo) (cause : Nat) (s : State) : ∃ l p n x,
    enterServo v cause s = { s with time := { s.time with
      servo := v, holdCause := BitVec.ofNat 3 cause, holdSpans := n, holdExpired := x, meas := none,
      slewLeft := l, tsPend := p } } ∧
    (s.time.slewLeft = 0 → l = 0) ∧ (s.time.servo ≠ .holdover → n = 0) := by
  obtain ⟨l, p, he, hl⟩ : ∃ l p, (if s.time.servo = .slew ∧ v ≠ .slew then endSlew s else s) =
      { s with time := { s.time with slewLeft := l, tsPend := p } } ∧ (s.time.slewLeft = 0 → l = 0) := by
    split
    · obtain ⟨p, h⟩ := endSlew_eq s
      exact ⟨0, p, h, fun _ => rfl⟩
    · exact ⟨_, _, rfl, id⟩
  have hn : s.time.servo ≠ .holdover →
      (if (decide (s.time.servo = .holdover) && decide (v = .holdover)) = true then s.time.holdSpans else 0) = 0 :=
    fun h => by simp [h]
  unfold enterServo
  dsimp only
  rw [he]
  dsimp only
  split
  · exact ⟨_, _, _, _, rfl, hl, hn⟩
  · obtain ⟨p', hp⟩ := tsNote_eq 5 (servoCode s.time.servo + servoCode v * 2 ^ 8 + cause * 2 ^ 12)
      { s with time := { s.time with
        servo := v, holdCause := BitVec.ofNat 3 cause,
        holdSpans := if (decide (s.time.servo = .holdover) && decide (v = .holdover)) = true then s.time.holdSpans else 0,
        holdExpired := decide (v = .holdover) && (s.holdS == 0 ||
          ((decide (s.time.servo = .holdover) && decide (v = .holdover)) && s.time.holdExpired)),
        meas := none, slewLeft := l, tsPend := p } }
    exact ⟨_, _, _, _, hp, hl, hn⟩

/-- The servo state in which the source is sought again. -/
def State.seeking (s : State) : Servo := if s.src = 0 then .free else .acquire

/-- The servo back in ACQUIRE, or in FREE without a source: the offset and its epoch stay. -/
theorem enterAcquire_eq (n : Nat) (step : Bool) (s : State) : ∃ c l p k x a b,
    enterAcquire n step s = { s with time := { s.time with
      servo := s.seeking, holdCause := c, holdSpans := k, holdExpired := x, meas := none, slewLeft := l, tsPend := p,
      acqN := a, acqStep := b } } ∧ (s.time.slewLeft = 0 → l = 0) := by
  unfold enterAcquire State.seeking
  split
  · obtain ⟨l, p, k, x, he, hl, -⟩ := enterServo_eq .free 0 s
    exact ⟨_, l, p, k, x, _, _, he, hl⟩
  · obtain ⟨l, p, k, x, he, hl, -⟩ := enterServo_eq .acquire 0 (modTime (fun x => { x with acqN := n, acqStep := step }) s)
    exact ⟨_, l, p, k, x, _, _, he, hl⟩

/-- A step of the offset. -/
theorem moveOffset_eq (d : Int) (s : State) : ∃ p, moveOffset d s = { s with time := { s.time with
    offset := s.time.offset + d, epoch := if d < -5 then s.time.epoch + 1 else s.time.epoch, tsPend := p } } := tsNote_eq ..

/-! ## TIME_SET, TIME_ADJUST and the step due (R356, R357, R370, R371, R465) -/

theorem exec_timeSet {k : CmdSlot} {s : State} (h : s.holds k.val 0x40 = true) : exec (.timeSet k) s = .next
    (if s.time.step.isSome then s
    else if s.src = 3 then complete k.val stPrecondition 0 s
    else begin_ k.val (decideStep ((timeGr (pay (s.cmd k.val).desc 0 12) : Int) -
      ((s.time.span + 1) * spanGr : Nat)) true (some k.val) s)) := by
  show execTimeSet k s = _
  rw [execTimeSet, onCmd_pos h]

section
variable {k : CmdSlot} {s : State} (h : s.holds k.val 0x41 = true)
include h

section
variable (hd : pay (s.cmd k.val).desc 0 1 = 1)
include hd

theorem exec_timeAdjust_pending (hs : s.time.step ≠ none) : exec (.timeAdjust k) s = .next s := by
  show execTimeAdjust k s = _
  rw [execTimeAdjust, onCmd_pos h]
  dsimp only
  rw [hd]
  exact congrArg _ (if_pos (Option.isSome_iff_ne_none.mpr hs))

theorem exec_timeAdjust_jump {e : Int} (hs : s.time.step = none) (hj : s.time.jump = some e) :
    exec (.timeAdjust k) s = .next (begin_ k.val (decideStep (-e) false (some k.val) s)) := by
  show execTimeAdjust k s = _
  rw [execTimeAdjust, onCmd_pos h]
  dsimp only
  rw [hd, hs, hj]
  rfl

theorem exec_timeAdjust_noJump (hs : s.time.step = none) (hj : s.time.jump = none) :
    exec (.timeAdjust k) s = .next (complete k.val stPrecondition 0 s) := by
  show execTimeAdjust k s = _
  rw [execTimeAdjust, onCmd_pos h]
  dsimp only
  rw [hd, hs, hj]
  rfl

end

/-- The path delays restarted. -/
def delaysCleared (s : State) : State := modTime (fun x => { x with ptp := { x.ptp with delays := [], fresh := false } }) s

theorem exec_timeAdjust_asym (hd : pay (s.cmd k.val).desc 0 1 = 2) : exec (.timeAdjust k) s = .next
    (if s.time.servo = .holdover ∧ s.time.holdCause = 2 then
      complete k.val stOK 0 (enterAcquire 0 false (delaysCleared s))
    else complete k.val stPrecondition 0 s) := by
  show execTimeAdjust k s = _
  rw [execTimeAdjust, onCmd_pos h]
  dsimp only
  rw [hd]
  rfl

theorem exec_timeAdjust_hop (hd : pay (s.cmd k.val).desc 0 1 = 3) : exec (.timeAdjust k) s = .next
    (if s.time.servo = .holdover ∧ s.time.holdCause = 4 then complete k.val stOK 0 (enterAcquire 0 false s)
    else complete k.val stPrecondition 0 s) := by
  show execTimeAdjust k s = _
  rw [execTimeAdjust, onCmd_pos h]
  dsimp only
  rw [hd]
  rfl

end

/-- What a hold that software ends leaves of the time base. -/
theorem ended_of_enterAcquire (k n : Nat) (step : Bool) (s : State) :
    endedAs k stOK 0 (complete k stOK 0 (enterAcquire n step s)) ∧
    onlySlot k s (complete k stOK 0 (enterAcquire n step s)) ∧
    (complete k stOK 0 (enterAcquire n step s)).time.servo = s.seeking ∧
    (complete k stOK 0 (enterAcquire n step s)).time.offset = s.time.offset ∧
    (complete k stOK 0 (enterAcquire n step s)).time.epoch = s.time.epoch ∧
    (complete k stOK 0 (enterAcquire n step s)).time.ptp = s.time.ptp := by
  obtain ⟨_, _, _, _, _, _, _, he, -⟩ := enterAcquire_eq n step s
  refine ⟨?_, onlySlot_of_hqm (by rw [he]) (onlySlot_complete ..), by rw [he]; rfl, by rw [he]; rfl,
    by rw [he]; rfl, by rw [he]; rfl⟩
  unfold endedAs
  rw [complete_cmd, if_pos rfl]
  exact ⟨rfl, rfl, rfl⟩

section
variable {s : State} {v : Int} {sp : Nat} {isSet : Bool} {cmd : Option Nat} (h : s.time.step = some (v, sp, isSet, cmd))
include h

theorem exec_timeStepApply_early (ht : s.time.span < sp) : exec .timeStepApply s = .next s := by
  show Host.Outcome.next (applyStep s) = _
  simp only [applyStep, h, ht, if_true]

/-- The step taken off. -/
def stepTakenOff (s : State) : State := modTime (fun x => { x with step := none }) s

theorem exec_timeStepApply_blocked (ht : sp ≤ s.time.span) (hb : (if isSet then v - s.time.offset else v) < 0 ∧
      s.stepBlocked = true) : exec .timeStepApply s = .next (completeOpt cmd stPrecondition 0 (stepTakenOff s)) := by
  show Host.Outcome.next (applyStep s) = _
  simp only [applyStep, h, Nat.not_lt.mpr ht, hb, if_false, if_true, and_self]
  rfl

/-- The offset moved by a step that is due: a slew and a jump end with it. -/
def stepMoved (d : Int) (s : State) : State :=
  moveOffset d (endSlew (modTime (fun x => { x with jump := none }) (stepTakenOff s)))

theorem exec_timeStepApply_moves (ht : sp ≤ s.time.span) (hb : ¬((if isSet then v - s.time.offset else v) < 0 ∧
      s.stepBlocked = true)) : exec .timeStepApply s = .next (completeOpt cmd stOK 0
        (if (s.heldElse && !isSet) = true then stepMoved (if isSet then v - s.time.offset else v) s
        else enterAcquire (if (decide (s.time.servo = .acquire) && !isSet) = true then 1 else 0) false
          (stepMoved (if isSet then v - s.time.offset else v) s))) := by
  show Host.Outcome.next (applyStep s) = _
  simp only [applyStep, h, Nat.not_lt.mpr ht, hb, if_false]
  rfl

end

theorem stepMoved_eq (d : Int) (s : State) : ∃ p, stepMoved d s = { s with time := { s.time with
    step := none, jump := none, slewLeft := 0, offset := s.time.offset + d,
    epoch := if d < -5 then s.time.epoch + 1 else s.time.epoch, tsPend := p } } := by
  obtain ⟨_, he⟩ := endSlew_eq (modTime (fun x => { x with jump := none }) (stepTakenOff s))
  obtain ⟨p, hm⟩ := moveOffset_eq d (endSlew (modTime (fun x => { x with jump := none }) (stepTakenOff s)))
  rw [he] at hm
  exact ⟨p, (congrArg (moveOffset d) he).trans hm⟩

/-- The servo and the offset behind a step. -/
theorem stepMoved_seeks (hold : Bool) (n : Nat) (d : Int) (s : State) : ∃ t,
    (if hold then stepMoved d s else enterAcquire n false (stepMoved d s)) = t ∧
    t.time.step = none ∧ t.time.jump = none ∧ t.time.slewLeft = 0 ∧ t.time.offset = s.time.offset + d ∧
    t.time.epoch = (if d < -5 then s.time.epoch + 1 else s.time.epoch) ∧
    t.time.servo = (if hold then s.time.servo else s.seeking) ∧ t.time.span = s.time.span := by
  obtain ⟨p, hm⟩ := stepMoved_eq d s
  cases hold with
  | true =>
    refine ⟨_, rfl, ?_⟩
    rw [if_pos rfl, hm]
    exact ⟨rfl, rfl, rfl, rfl, rfl, rfl, rfl⟩
  | false =>
    obtain ⟨_, l, _, _, _, _, _, he, hl⟩ := enterAcquire_eq n false (stepMoved d s)
    have hl : l = 0 := hl (by rw [hm])
    refine ⟨_, rfl, ?_⟩
    rw [if_neg (by decide), he, hl, hm]
    exact ⟨rfl, rfl, rfl, rfl, rfl, rfl, rfl⟩

/-- Settles O43: TIME_SET and TIME_ADJUST by their cases, the step due by whether it is blocked and what it ends. -/
theorem timeSteps : Obligations.TimeSteps := by
  refine ⟨fun k s => ?_, fun s v sp isSet cmd hstep => ?_⟩
  · intro d wanted again
    refine ⟨fun h => ⟨fun hs => ?_, fun hs h3 => ?_, fun hs h3 => ?_⟩, fun h => ⟨fun h1 hs =>
      exec_timeAdjust_pending h h1 hs, fun h1 hs => ⟨fun e hj => ?_, fun hj => ?_⟩, fun h2 => ⟨fun hv hc => ?_, fun hn => ?_⟩,
      fun h3 => ⟨fun hv hc => ?_, fun hn => ?_⟩⟩⟩
    · exact (exec_timeSet h).trans (congrArg _ (if_pos (Option.isSome_iff_ne_none.mpr hs)))
    · exact ⟨_, (exec_timeSet h).trans (congrArg _ ((if_neg (by rw [hs]; decide)).trans (if_pos h3))), doneAs_complete ..,
        onlySlot_complete .., rfl⟩
    · exact ⟨_, (exec_timeSet h).trans (congrArg _ ((if_neg (by rw [hs]; decide)).trans (if_neg h3))), begunAs_begin rfl,
        onlySlot_begin rfl, rfl⟩
    · exact ⟨_, exec_timeAdjust_jump h h1 hs hj, begunAs_begin rfl, onlySlot_begin rfl, rfl⟩
    · exact ⟨_, exec_timeAdjust_noJump h h1 hs hj, doneAs_complete .., onlySlot_complete .., rfl⟩
    · obtain ⟨he, ho, hs, hoff, hep, hptp⟩ := ended_of_enterAcquire k.val 0 false (delaysCleared s)
      exact ⟨_, (exec_timeAdjust_asym h h2).trans (congrArg _ (if_pos ⟨hv, hc⟩)), he, ho, ⟨hs, hoff, hep⟩, by rw [hptp]; rfl⟩
    · exact ⟨_, (exec_timeAdjust_asym h h2).trans (congrArg _ (if_neg hn)), doneAs_complete .., onlySlot_complete .., rfl⟩
    · obtain ⟨he, ho, hs, hoff, hep, -⟩ := ended_of_enterAcquire k.val 0 false s
      exact ⟨_, (exec_timeAdjust_hop h h3).trans (congrArg _ (if_pos ⟨hv, hc⟩)), he, ho, ⟨hs, hoff, hep⟩⟩
    · exact ⟨_, (exec_timeAdjust_hop h h3).trans (congrArg _ (if_neg hn)), doneAs_complete .., onlySlot_complete .., rfl⟩
  · intro d
    refine ⟨exec_timeStepApply_early hstep, fun ht hd hb => ?_, fun ht hb => ?_⟩
    · have htime := (kept_completeOpt (m := [.hqm]) cmd stPrecondition 0 (List.Subset.refl _)
        (Kept.refl _ (stepTakenOff s))).same .time (by decide)
      have htime : (completeOpt cmd stPrecondition 0 (stepTakenOff s)).time = (stepTakenOff s).time := htime
      refine ⟨_, exec_timeStepApply_blocked hstep ht ⟨hd, hb⟩, by rw [htime]; rfl, by rw [htime]; rfl, by rw [htime]; rfl,
        fun k hk => ?_⟩
      rw [hk]
      exact doneAs_complete k stPrecondition 0 (stepTakenOff s)
    · obtain ⟨t, he, h1, h2, h3, h4, h5, h6, h7⟩ := stepMoved_seeks (s.heldElse && !isSet)
        (if (decide (s.time.servo = .acquire) && !isSet) = true then 1 else 0) d s
      have hrow := exec_timeStepApply_moves hstep ht hb
      have htime : (completeOpt cmd stOK 0 t).time = t.time := (kept_completeOpt (m := [.hqm]) cmd stOK 0
        (List.Subset.refl _) (Kept.refl _ t)).same .time (by decide)
      refine ⟨_, hrow.trans (congrArg _ (congrArg _ he)), ?_⟩
      rw [htime]
      refine ⟨h1, h2, h3, h4, h5, h6.trans ?_, h7, fun k hk => ?_⟩
      · have hiff : (s.heldElse && !isSet) = true ↔ s.time.servo = .holdover ∧ s.time.holdCause ≠ 1 ∧ isSet = false := by
          simp [State.heldElse, and_assoc]
        by_cases hc : (s.heldElse && !isSet) = true
        · rw [if_pos hc, if_pos (hiff.mp hc), (hiff.mp hc).1]
        · rw [if_neg hc, if_neg (mt hiff.mpr hc), State.seeking]
      · rw [hk]
        unfold endedAs
        rw [completeOpt, complete_cmd, if_pos rfl]
        exact ⟨rfl, rfl, rfl⟩

/-! ## Registers with rows of their own (R359, R365, R382) -/

theorem exec_timeNowRead {g : Grain} {s : State} (h : s.blockOn true = true) : exec (.timeNowRead g) s =
    .next (modTime (fun x => { x with
      nowHi := BitVec.ofNat 32 ((timeValue ((atGrain g s).devTime (atGrain g s).now) s.time.epoch).toNat / 2 ^ 64),
      nowSpan := BitVec.ofNat 64 x.span }) (atGrain g s)) := by
  show execTimeNowRead g s = _
  rw [execTimeNowRead, onBlock_pos (by exact h)]
  rfl

/-- A device time in the format of Table 8.1, as a number. -/
theorem timeValue_toNat (g : Int) (epoch : BitVec 4) :
    let m := (g % (2 ^ 48 * 4096000000000 : Nat)).toNat
    (timeValue g epoch).toNat =
      m % 4096 + m / 4096 % 1000000000 * 2 ^ 12 + m / 4096000000000 * 2 ^ 44 + epoch.toNat * 2 ^ 92 := by
  intro m
  have hm : m < 2 ^ 48 * 4096000000000 := by omega
  have he := epoch.isLt
  show (BitVec.ofNat 96 (m % 4096 + m / 4096 % 1000000000 * 2 ^ 12 + m / 4096000000000 % 2 ^ 48 * 2 ^ 44 +
    epoch.toNat * 2 ^ 92)).toNat = _
  rw [BitVec.toNat_ofNat]
  generalize epoch.toNat = e at *
  omega

theorem setBits_setBits {w : Nat} (x : BitVec w) (lo len a b : Nat) :
    setBits (setBits x lo len a) lo len b = setBits x lo len b := by
  refine BitVec.eq_of_getLsbD_eq fun i hi => ?_
  simp only [setBits, BitVec.getLsbD_or, BitVec.getLsbD_and, BitVec.getLsbD_not, BitVec.getLsbD_ofNat,
    Nat.testBit_mul_two_pow, Nat.testBit_mod_two_pow, Nat.testBit_two_pow_sub_one, hi, decide_true, Bool.true_and]
  by_cases hl : lo ≤ i <;> by_cases h : i - lo < len <;> simp [hl, h]

theorem setBits_bits {w : Nat} (x : BitVec w) (lo len : Nat) : setBits x lo len (bits x lo len) = x := by
  refine BitVec.eq_of_getLsbD_eq fun i hi => ?_
  simp only [setBits, bits, BitVec.getLsbD_or, BitVec.getLsbD_and, BitVec.getLsbD_not, BitVec.getLsbD_ofNat,
    Nat.testBit_mul_two_pow, Nat.testBit_mod_two_pow, Nat.testBit_two_pow_sub_one, hi, decide_true, Bool.true_and,
    Nat.testBit_div_two_pow, BitVec.testBit_toNat]
  by_cases hl : lo ≤ i
  · by_cases h : i - lo < len
    · simp [hl, h]
    · simp [hl, h]
  · simp [hl]
/-- TIME_CFG refuses a write: a field out of its range, a running site, or a source that the device may not take. -/
def State.cfgRefused (v : W64) (s : State) : Bool :=
  bits v 3 2 == 3 || decide (bits v 48 9 < 1) || decide (500 < bits v 48 9) ||
    ((bits v 0 2 != bits s.timeCfg 0 2 || bit v 2 != bit s.timeCfg 2) && s.anyRunning) ||
    (bits v 0 2 != bits s.timeCfg 0 2 && !s.srcOk (bits v 0 2))

theorem cfgRefused_iff (v : W64) (s : State) : s.cfgRefused v = true ↔
    bits v 3 2 = 3 ∨ bits v 48 9 < 1 ∨ 500 < bits v 48 9 ∨
      (bits v 0 2 ≠ bits s.timeCfg 0 2 ∨ bit v 2 ≠ bit s.timeCfg 2) ∧ s.anyRunning = true ∨
      bits v 0 2 ≠ bits s.timeCfg 0 2 ∧ ¬ (if bits v 0 2 = 3 then s.halso.joined = true ∧ s.isMaster = false
        else s.isMaster = true ∨ s.halso.joined = false) := by
  have hsrc : s.srcOk (bits v 0 2) = true ↔ (if bits v 0 2 = 3 then s.halso.joined = true ∧ s.isMaster = false
      else s.isMaster = true ∨ s.halso.joined = false) := by
    unfold State.srcOk
    split <;> simp
  simp only [State.cfgRefused, Bool.or_eq_true, Bool.and_eq_true, decide_eq_true_eq, beq_iff_eq, bne_iff_ne, Bool.not_eq_true',
    ← Bool.not_eq_true, hsrc, or_assoc]

/-- TIME_CFG with a new value: its source waits for the tick. -/
def cfgTaken (v cur : W64) (x : Time) : Time :=
  { x with
    cfg := setBits v 0 2 (bits x.cfg 0 2),
    srcNext := if bits v 0 2 != bits cur 0 2 then
        (if bits v 0 2 = bits x.cfg 0 2 then none else some (BitVec.ofNat 2 (bits v 0 2)))
      else x.srcNext }

theorem exec_timeCfgWrite {w : Wr} {s : State} (h : s.blockOn true = true) : exec (.timeCfgWrite w) s =
    .next (if s.cfgRefused (rwMerge (timeCfgRw ||| fm 0 2) w s.timeCfg) then modTime (fun x => { x with refused := true }) s
      else modTime (cfgTaken (rwMerge (timeCfgRw ||| fm 0 2) w s.timeCfg) s.timeCfg) s) := by
  show execTimeCfgWrite w s = _
  rw [execTimeCfgWrite, onBlock_pos h]
  rfl

theorem bits_lt {w : Nat} (x : BitVec w) (lo len : Nat) : bits x lo len < 2 ^ len := Nat.mod_lt _ (Nat.two_pow_pos len)

/-- A taken write reads back. -/
theorem timeCfg_cfgTaken (v : W64) (s : State) : (modTime (cfgTaken v s.timeCfg) s).timeCfg = v := by
  have hv : (BitVec.ofNat 2 (bits v 0 2)).toNat = bits v 0 2 :=
    (BitVec.toNat_ofNat ..).trans (Nat.mod_eq_of_lt (bits_lt v 0 2))
  have hput : ∀ a b, bits v 0 2 = b → setBits (setBits v 0 2 a) 0 2 b = v := fun a b hb => by
    rw [setBits_setBits, ← hb, setBits_bits]
  show (cfgTaken v s.timeCfg s.time).srcNext.elim (setBits v 0 2 (bits s.time.cfg 0 2))
    (fun x => setBits (setBits v 0 2 (bits s.time.cfg 0 2)) 0 2 x.toNat) = v
  unfold cfgTaken
  dsimp only
  by_cases hn : bits v 0 2 = bits s.timeCfg 0 2
  · rw [if_neg (by simp [hn])]
    unfold State.timeCfg at hn
    cases hs : s.time.srcNext with
    | none =>
      rw [hs] at hn
      rw [Option.elim_none, ← show bits v 0 2 = bits s.time.cfg 0 2 from hn, setBits_bits]
    | some x =>
      rw [hs, Option.elim_some, bits_setBits _ (by decide), Nat.mod_eq_of_lt x.isLt] at hn
      exact hput _ _ hn
  · rw [if_pos (by simpa using hn)]
    split
    · next he => rw [Option.elim_none, ← he, setBits_bits]
    · exact hput _ _ hv.symm

/-- The source in force stays until the tick. -/
theorem src_cfgTaken (v : W64) (s : State) : (modTime (cfgTaken v s.timeCfg) s).src = s.src := by
  show bits (setBits v 0 2 s.src) 0 2 = s.src
  rw [bits_setBits v (by decide)]
  exact Nat.mod_eq_of_lt (bits_lt s.time.cfg 0 2)

/-- TIME_PTP_ASYM with a new value. -/
def asymTaken (w : Wr) (x : Time) : Time :=
  { x with ptpAsym := BitVec.ofNat 40 (rwMerge (fm 0 40) w (BitVec.ofNat 64 x.ptpAsym.toNat)).toNat }

theorem exec_timePtpAsymWrite {w : Wr} {s : State} (h : s.blockOn true = true) : exec (.timePtpAsymWrite w) s =
    .next (if w.lo = true ∧ s.time.servo = .holdover ∧ s.time.holdCause = 2 then
        enterAcquire 0 false (delaysCleared (modTime (asymTaken w) s))
      else modTime (asymTaken w) s) := by
  show execTimePtpAsymWrite w s = _
  rw [execTimePtpAsymWrite, onBlock_pos h]
  rfl

/-- Settles O44: the latch by the value of the device time, the writes by what refuses them and what they end. -/
theorem timeRegisters : Obligations.TimeRegisters := by
  refine ⟨fun g s h => ⟨_, exec_timeNowRead h, ?_⟩, fun w s h => ?_, fun w s h => ⟨_, exec_timePtpAsymWrite h, ?_⟩⟩
  · intro n m v
    refine ⟨?_, rfl, rfl, rfl⟩
    show BitVec.ofNat 32 ((timeValue n s.time.epoch).toNat / 2 ^ 64) = _
    rw [timeValue_toNat]
  · intro cur v src newSrc refused
    have hiff : s.cfgRefused v = true ↔ refused := cfgRefused_iff v s
    exact ⟨fun hr => ⟨_, (exec_timeCfgWrite h).trans (congrArg _ (if_pos (hiff.mpr hr))), rfl⟩,
      fun hr => ⟨_, (exec_timeCfgWrite h).trans (congrArg _ (if_neg (mt hiff.mp hr))), timeCfg_cfgTaken v s, src_cfgTaken v s,
        rfl, rfl⟩⟩
  · split
    · next hc =>
      obtain ⟨_, _, _, _, _, _, _, he, -⟩ := enterAcquire_eq 0 false (delaysCleared (modTime (asymTaken w) s))
      rw [he]
      exact ⟨rfl, fun _ => ⟨rfl, rfl⟩, fun hn => absurd hc hn⟩
    · next hc => exact ⟨rfl, fun he => absurd he hc, fun _ => ⟨rfl, rfl⟩⟩

end Sys2Proof.Machine

/-!
The time base: its clock inputs and outputs, and what it records of them.
-/

namespace Sys2Proof.Machine

/-! ## What the time base does on its own -/

/-- The time base went on: its flag of a jump, its last measurement and the entries that wait for the ring stand. -/
def timeGoesOn (s t : State) : Prop :=
  ∃ x, t = { s with time := x } ∧ x.timeJump = s.time.timeJump ∧ x.lastE = s.time.lastE ∧ s.time.tsPend <+: x.tsPend

theorem timeGoesOn.refl (s : State) : timeGoesOn s s := ⟨_, rfl, rfl, rfl, List.prefix_rfl⟩

theorem timeGoesOn.trans {s t u : State} (h : timeGoesOn s t) (k : timeGoesOn t u) : timeGoesOn s u := by
  obtain ⟨x, rfl, hj, hl, hp⟩ := h
  obtain ⟨y, rfl, kj, kl, kp⟩ := k
  exact ⟨y, rfl, kj.trans hj, kl.trans hl, hp.trans kp⟩

theorem timeGoesOn_modTime {f : Time → Time} {s : State} (hj : (f s.time).timeJump = s.time.timeJump)
    (hl : (f s.time).lastE = s.time.lastE) (hp : (f s.time).tsPend = s.time.tsPend) : timeGoesOn s (modTime f s) :=
  ⟨_, rfl, hj, hl, by rw [hp]⟩

theorem timeGoesOn_tsPut (kind msg seq : Nat) (time : Int) (value : Nat) (s : State) :
    timeGoesOn s (tsPut kind msg seq time value s) := by
  unfold tsPut
  split
  · exact ⟨_, rfl, rfl, rfl, List.prefix_append ..⟩
  · exact .refl s

theorem timeGoesOn_endSlew (s : State) : timeGoesOn s (endSlew s) := by
  unfold endSlew
  split
  · exact .refl s
  · exact (timeGoesOn_modTime (f := fun x => { x with slewLeft := 0 }) rfl rfl rfl).trans (timeGoesOn_tsPut ..)

theorem timeGoesOn_enterServo (v : Servo) (cause : Nat) (s : State) : timeGoesOn s (enterServo v cause s) := by
  have hend : timeGoesOn s (if s.time.servo = .slew ∧ v ≠ .slew then endSlew s else s) := by
    split
    · exact timeGoesOn_endSlew s
    · exact .refl s
  have hset := hend.trans (timeGoesOn_modTime (f := fun x => { x with
    servo := v, holdCause := BitVec.ofNat 3 cause,
    holdSpans := if (decide ((if s.time.servo = .slew ∧ v ≠ .slew then endSlew s else s).time.servo = .holdover) &&
      decide (v = .holdover)) = true then x.holdSpans else 0,
    holdExpired := decide (v = .holdover) && ((if s.time.servo = .slew ∧ v ≠ .slew then endSlew s else s).holdS == 0 ||
      ((decide ((if s.time.servo = .slew ∧ v ≠ .slew then endSlew s else s).time.servo = .holdover) &&
        decide (v = .holdover)) && x.holdExpired)),
    meas := none }) rfl rfl rfl)
  unfold enterServo
  dsimp only
  split
  · exact hset
  · exact hset.trans (timeGoesOn_tsPut ..)

theorem timeGoesOn_enterAcquire (n : Nat) (step : Bool) (s : State) : timeGoesOn s (enterAcquire n step s) := by
  unfold enterAcquire
  split
  · exact timeGoesOn_enterServo ..
  · exact (timeGoesOn_modTime (f := fun x => { x with acqN := n, acqStep := step }) rfl rfl rfl).trans
      (timeGoesOn_enterServo ..)

theorem timeGoesOn_resolveJump (s : State) : timeGoesOn s (resolveJump s) := by
  unfold resolveJump
  split
  · exact .refl s
  · split
    · exact .refl s
    · split
      · exact timeGoesOn_modTime rfl rfl rfl
      · split
        · next e _ _ _ _ =>
          have hend := (timeGoesOn_modTime (s := s) (f := fun x => { x with jump := none }) rfl rfl rfl).trans
            (timeGoesOn_endSlew _)
          have hservo : timeGoesOn s (if s.heldElse = true then endSlew (modTime (fun x => { x with jump := none }) s)
              else enterServo .slew 0 (endSlew (modTime (fun x => { x with jump := none }) s))) := by
            split
            · exact hend
            · exact hend.trans (timeGoesOn_enterServo ..)
          exact (hservo.trans (timeGoesOn_modTime (f := fun x => { x with slewLeft := e }) rfl rfl rfl)).trans
            (timeGoesOn_tsPut ..)
        · exact .refl s

/-- A jump: flagged and raised, and nothing taken out of the ring. -/
theorem newJump_notes (hold : Bool) (e : Int) (s : State) :
    (newJump hold e s).time.timeJump = true ∧ (newJump hold e s).time.lastE = s.time.lastE ∧
    s.time.tsPend <+: (newJump hold e s).time.tsPend ∧ bit (newJump hold e s).sys.irqStatus 6 = true := by
  have hheld : ∀ u : State, timeGoesOn u (if hold then enterHold 1 u else u) := fun u => by
    split
    · exact timeGoesOn_enterServo ..
    · exact .refl u
  obtain ⟨x, hx, hj, hl, hp⟩ := hheld (modTime (fun x => { x with jump := some e, timeJump := true }) s)
  unfold newJump
  dsimp only
  rw [hx]
  obtain ⟨y, hy, yj, yl, yp⟩ := timeGoesOn_resolveJump (raiseIrq 6
    { modTime (fun x => { x with jump := some e, timeJump := true }) s with time := x })
  rw [signalled_time (signalled_raiseIrq 6 _)] at yj yl yp
  rw [hy]
  exact ⟨yj.trans hj, yl.trans hl, hp.trans yp, bit_raiseIrq_irqStatus (by decide) _⟩

theorem timeGoesOn_acquireMeas (e : Int) (s : State) : timeGoesOn s (acquireMeas e s) := by
  unfold acquireMeas
  dsimp only
  split
  · exact .refl s
  · split
    · split
      · exact (timeGoesOn_modTime (f := fun y => { y with jump := some e }) rfl rfl rfl).trans (timeGoesOn_resolveJump _)
      · exact timeGoesOn_modTime rfl rfl rfl
    · exact timeGoesOn_modTime rfl rfl rfl
    · exact (timeGoesOn_modTime rfl rfl rfl).trans (timeGoesOn_enterServo ..)

/-- The measurement noted. -/
def lastNoted (e : Int) (s : State) : State := modTime (fun x => { x with lastE := e }) s

/-- A measurement of the source is kept as the last, and takes nothing out of the ring. -/
theorem measure_notes (e : Int) (s : State) :
    (measure e s).time.lastE = e ∧ s.time.tsPend <+: (measure e s).time.tsPend := by
  have hsame : (lastNoted e s).time.lastE = e ∧ s.time.tsPend <+: (lastNoted e s).time.tsPend := ⟨rfl, List.prefix_rfl⟩
  have hon : ∀ t, timeGoesOn (lastNoted e s) t → t.time.lastE = e ∧ s.time.tsPend <+: t.time.tsPend := by
    rintro _ ⟨x, rfl, -, hl, hp⟩
    exact ⟨hl, hp⟩
  have hjump : (newJump true e (lastNoted e s)).time.lastE = e ∧
      s.time.tsPend <+: (newJump true e (lastNoted e s)).time.tsPend := by
    obtain ⟨-, hl, hp, -⟩ := newJump_notes true e (lastNoted e s)
    exact ⟨hl, hp⟩
  unfold measure
  dsimp only
  split
  · exact hsame
  · cases s.time.servo with
    | free => exact hsame
    | slew => exact hsame
    | acquire => exact hon _ (timeGoesOn_acquireMeas ..)
    | locked =>
      dsimp only
      split
      · exact hjump
      · exact ⟨rfl, List.prefix_rfl⟩
    | holdover =>
      dsimp only
      split
      · split
        · exact hjump
        · exact hon _ (timeGoesOn_enterAcquire ..)
      · exact hsame

/-- A measurement in LOCKED: one below the threshold waits for the servo. -/
theorem measure_locked_small {e : Int} {s : State} (hs : s.steered = true) (hv : s.time.servo = .locked)
    (h : (e.natAbs : Int) < s.jumpThr) : measure e s = acceptMeas e (lastNoted e s) := by
  have hbig : decide (s.jumpThr ≤ (e.natAbs : Int)) = false := decide_eq_false (Int.not_le.mpr h)
  simp only [measure, hs, hv, hbig]
  rfl

/-- A measurement in LOCKED: one at or above the threshold is a jump. -/
theorem measure_locked_big {e : Int} {s : State} (hs : s.steered = true) (hv : s.time.servo = .locked)
    (h : s.jumpThr ≤ (e.natAbs : Int)) : measure e s = newJump true e (lastNoted e s) := by
  simp only [measure, hs, hv, decide_eq_true h]
  rfl

/-! ## Source loss, the traceable hold and REF_IN (R361, R372, R374, R561) -/

/-- The source given up: a slew ends, and PTP has no parent. -/
def sourceDropped (s : State) : State := endSlew (modTime (fun x => { x with ptp := { x.ptp with parent := none } }) s)

theorem exec_sourceLost {s : State} (hs : s.src ≠ 0)
    (hv : s.time.servo = .acquire ∨ s.time.servo = .locked ∨ s.time.servo = .slew) :
    exec .sourceLost s = .next (enterHold 3 (sourceDropped s)) := by
  show execSourceLost s = _
  exact if_pos ⟨hs, hv⟩

theorem sourceLost_holds {s : State} (hv : s.time.servo = .acquire ∨ s.time.servo = .locked ∨ s.time.servo = .slew) :
    (enterHold 3 (sourceDropped s)).time.servo = .holdover ∧ (enterHold 3 (sourceDropped s)).time.holdCause = 3 ∧
    (enterHold 3 (sourceDropped s)).time.holdSpans = 0 ∧ (enterHold 3 (sourceDropped s)).time.offset = s.time.offset := by
  obtain ⟨p, hp⟩ := endSlew_eq (modTime (fun x => { x with ptp := { x.ptp with parent := none } }) s)
  obtain ⟨_, _, n, _, he, -, hn⟩ := enterServo_eq .holdover 3 (sourceDropped s)
  have hdrop : (sourceDropped s).time.servo = s.time.servo ∧ (sourceDropped s).time.offset = s.time.offset := by
    rw [sourceDropped, hp]
    exact ⟨rfl, rfl⟩
  have hzero : n = 0 := hn (by rw [hdrop.1]; rcases hv with h | h | h <;> rw [h] <;> decide)
  rw [enterHold, he]
  exact ⟨rfl, rfl, hzero, hdrop.2⟩

theorem exec_traceableHoldExpiry (s : State) : exec .traceableHoldExpiry s =
    if s.time.servo = .holdover ∧ s.holdLimit ≤ s.time.holdSpans then
      .next (modTime (fun x => { x with holdExpired := true }) s)
    else .next s := rfl

/-- With its hold over, a device in HOLDOVER on src 1 or 2 is not traceable. -/
theorem not_traceable_of_expired {s : State} (hv : s.time.servo = .holdover) (he : s.time.holdExpired = true)
    (hs : s.src = 1 ∨ s.src = 2) : s.traceable = false := by
  have hgood : s.heldGood = false := by simp [State.heldGood, hv, he]
  unfold State.traceable
  rcases hs with h | h <;> simp [h, hgood]

/-- REF_IN gone, in a device that runs. -/
def refGone (s : State) : State :=
  modTime (fun x => { x with refPresent := false, refLostNow := true, refLost := true, refT := s.now + 1 }) s

theorem exec_refLost {s : State} (hst : s.sys.state ≠ .reset) (hp : s.time.refPresent = true) :
    exec .refLost s = .next (raiseIrq 9 (refGone s)) := by
  show execRefLost s = _
  exact (if_neg hst).trans (if_pos hp)

/-- REF_IN there again. -/
def refBack (s : State) : State :=
  modTime (fun x => { x with
    refPresent := true, refLostNow := false, refT := if s.time.refLostNow then s.now + 1 else x.refT }) s

/-- Boot is begun, or nothing changes: the time base stays. -/
theorem tryBoot_effect (s : State) : (tryBoot s).time = s.time ∧ (tryBoot s).sys.state =
    if s.sys.state = .reset ∧ ¬ s.sys.por ∧ ¬ s.sys.resetN ∧ s.sys.railsGood ∧ s.time.refPresent then .boot
    else s.sys.state := by
  unfold tryBoot
  split
  · exact ⟨by rw [signalled_time (signalled_enterState .boot s), modSys_time], (enterState_states .boot s).1⟩
  · exact ⟨rfl, rfl⟩

/-! ## PPS_IN and PPS_OUT (R363, R364) -/

/-- The timestamp of an edge of PPS_IN. -/
def State.ppsStamp (g : Grain) (s : State) : Int :=
  (atGrain g s).devTime (atGrain g s).now - sbits s.time.cfg 16 16

/-- The distance of a device time from the whole second next to it. -/
def offSecond (ts : Int) : Int :=
  if 2 * (ts % (secGr : Int)) < (secGr : Int) then ts % (secGr : Int) else ts % (secGr : Int) - (secGr : Int)

/-- The edge of PPS_IN in the event ring. -/
def ppsLogged (g : Grain) (s : State) : State := tsPut 3 0 0 (s.ppsStamp g) 0 (atGrain g s)

theorem exec_ppsInEdge {g : Grain} {s : State} (h : s.sys.state ≠ .reset) : exec (.ppsInEdge g) s =
    .next (if s.src = 1 then measure (offSecond (s.ppsStamp g)) (ppsLogged g s) else ppsLogged g s) := by
  show execPpsInEdge g s = _
  exact if_neg h

/-- An entry of an enabled event ring waits behind the others. -/
theorem tsPut_on {kind msg seq : Nat} {time : Int} {value : Nat} {s : State} (h : bit s.time.tsRing 4 = true) :
    (tsPut kind msg seq time value s).time.tsPend = s.time.tsPend ++ [{
      bits := BitVec.ofNat 256 (kind + msg * 2 ^ 8 + seq * 2 ^ 16 + (timeValue time s.time.epoch).toNat * 2 ^ 32 +
        s.stamp.toNat * 2 ^ 128 + s.cycle * 2 ^ 176 + value * 2 ^ 192), at_ := s.now }] := by
  rw [tsPut, if_pos h]
  rfl

/-- An entry of the event ring at an instant of the span, without a value. -/
theorem tsPut_atGrain {kind msg seq : Nat} {time : Int} {g : Grain} {s : State} (h : bit s.time.tsRing 4 = true) :
    (tsPut kind msg seq time 0 (atGrain g s)).time.tsPend = s.time.tsPend ++ [{
      bits := BitVec.ofNat 256 (kind + msg * 2 ^ 8 + seq * 2 ^ 16 + (timeValue time s.time.epoch).toNat * 2 ^ 32 +
        (BitVec.ofNat 48 s.time.span).toNat * 2 ^ 128 + g.val / 2048 * 2 ^ 176),
      at_ := s.time.span * 524288 + g.val }] := by
  rw [tsPut_on (by exact h), Nat.zero_mul, Nat.add_zero]
  simp only [State.stamp, State.cycle, State.now, cycleGr, spanGr, atGrain_time]

/-- The pulse of PPS_OUT brought up to this instant. -/
def pulseEnded (s : State) : State :=
  match s.time.ppsFall with
  | some t => if t ≤ s.now then emit (.ppsOut t (some false)) (modTime (fun x => { x with ppsFall := none }) s) else s
  | none => s

theorem ppsLevel_eq (s : State) : ppsLevel s =
    if (pulseEnded s).time.ppsDriven = (pulseEnded s).ppsOn then pulseEnded s
    else emit (.ppsOut (pulseEnded s).now (if (pulseEnded s).ppsOn then some false else none))
      (modTime (fun x => { x with ppsDriven := (pulseEnded s).ppsOn, ppsFall := none }) (pulseEnded s)) := rfl

/-- What the end of the pulse leaves: all but the output and its fall. -/
theorem pulseEnded_eq (s : State) : ∃ f, pulseEnded s = { s with
    time := { s.time with ppsFall := f },
    out := match s.time.ppsFall with
      | some t => if t ≤ s.now then .ppsOut t (some false) :: s.out else s.out
      | none => s.out } := by
  unfold pulseEnded
  cases h : s.time.ppsFall with
  | none => exact ⟨s.time.ppsFall, rfl⟩
  | some t =>
    dsimp only
    split
    · exact ⟨none, rfl⟩
    · exact ⟨s.time.ppsFall, rfl⟩

/-- PPS_OUT at its level: driven as it should be, and nothing else of the state but the output and its fall. -/
theorem ppsLevel_effect (s : State) : ∃ f, ppsLevel s = { s with
    time := { s.time with ppsFall := f, ppsDriven := s.ppsOn },
    out := if s.time.ppsDriven = s.ppsOn then (pulseEnded s).out
      else .ppsOut s.now (if s.ppsOn then some false else none) :: (pulseEnded s).out } := by
  obtain ⟨f, hf⟩ := pulseEnded_eq s
  have hon : (pulseEnded s).ppsOn = s.ppsOn := by rw [hf]; rfl
  have hnow : (pulseEnded s).now = s.now := by rw [hf]; rfl
  have hdriven : (pulseEnded s).time.ppsDriven = s.time.ppsDriven := by rw [hf]
  rw [ppsLevel_eq, hon, hnow, hdriven]
  split
  · next h =>
    refine ⟨f, ?_⟩
    rw [← h, hf]
  · refine ⟨none, ?_⟩
    rw [hf]
    rfl

/-- PPS_OUT rises. -/
def ppsRisen (s : State) : State :=
  emit (.ppsOut s.now (some true)) (modTime (fun x => { x with lastPps := s.now + 1, ppsFall := some (s.now + s.ppsWidth) }) s)

/-- PPS_OUT is at a whole second. -/
def State.ppsWhole (s : State) : Prop := (s.devTime s.now + sbits s.time.cfg 32 16) % (secGr : Int) = 0

/-- PPS_OUT has risen within 500 ms. -/
def State.ppsNear (s : State) : Prop := s.time.lastPps ≠ 0 ∧ 2 * (s.now + 1 - s.time.lastPps) < secGr

open Classical in
theorem exec_ppsOutEdge (g : Grain) (s : State) : exec (.ppsOutEdge g) s =
    .next (if (atGrain g s).ppsOn = true ∧ (atGrain g s).ppsWhole ∧ ¬ (atGrain g s).ppsNear then
      ppsRisen (ppsLevel (atGrain g s)) else ppsLevel (atGrain g s)) := by
  obtain ⟨f, hf⟩ := ppsLevel_effect (atGrain g s)
  have hon : (ppsLevel (atGrain g s)).ppsOn = (atGrain g s).ppsOn := by rw [hf]; rfl
  have hwhole : (ppsLevel (atGrain g s)).ppsWhole ↔ (atGrain g s).ppsWhole := by rw [hf]; exact Iff.rfl
  have hnear : (s.time.lastPps != 0 && decide (2 * ((ppsLevel (atGrain g s)).now + 1 - s.time.lastPps) < secGr)) = true ↔
      (atGrain g s).ppsNear := by
    rw [hf, Bool.and_eq_true, bne_iff_ne, decide_eq_true_eq]
    exact Iff.rfl
  have hcond : ((ppsLevel (atGrain g s)).ppsOn && (((ppsLevel (atGrain g s)).devTime (ppsLevel (atGrain g s)).now +
      sbits s.time.cfg 32 16) % (secGr : Int) == 0) &&
      !(s.time.lastPps != 0 && decide (2 * ((ppsLevel (atGrain g s)).now + 1 - s.time.lastPps) < secGr))) = true ↔
      ((atGrain g s).ppsOn = true ∧ (atGrain g s).ppsWhole ∧ ¬ (atGrain g s).ppsNear) := by
    have hcfg : s.time.cfg = (ppsLevel (atGrain g s)).time.cfg := by rw [hf]; rfl
    rw [Bool.and_eq_true, Bool.and_eq_true, Bool.not_eq_true', ← Bool.not_eq_true, hnear, hon, beq_iff_eq, and_assoc,
      ← hwhole, State.ppsWhole, hcfg]
  show execPpsOutEdge g s = _
  unfold execPpsOutEdge
  dsimp only
  split
  · next h => exact congrArg _ (if_pos (hcond.mp h)).symm
  · next h => exact congrArg _ (if_neg (mt hcond.mpr h)).symm

/-! ## The event ring (R380) -/

theorem exec_tsRingEntryDrop {e : TsEnt} {rest : List TsEnt} {s : State} (h : s.time.tsPend = e :: rest) :
    exec .tsRingEntryDrop s = if e.at_ + 4096000000 ≤ s.now then
      .next (modTime (fun x => { x with tsPend := rest, tsLost := satAdd 0xFFFF x.tsLost 1 }) s) else .next s := by
  show execTsRingEntryDrop s = _
  rw [execTsRingEntryDrop, h]

/-- The edge of PPS_IN that steers the servo. -/
theorem ppsInEdge_measures {g : Grain} {s : State} (hs : s.steered = true) (hv : s.time.servo = .locked) :
    (((offSecond (s.ppsStamp g)).natAbs : Int) < s.jumpThr →
      (measure (offSecond (s.ppsStamp g)) (ppsLogged g s)).time.meas =
        some (offSecond (s.ppsStamp g), (atGrain g s).now)) ∧
    (s.jumpThr ≤ ((offSecond (s.ppsStamp g)).natAbs : Int) →
      (measure (offSecond (s.ppsStamp g)) (ppsLogged g s)).time.timeJump = true ∧
      bit (measure (offSecond (s.ppsStamp g)) (ppsLogged g s)).sys.irqStatus 6 = true) := by
  obtain ⟨p, hp⟩ := tsPut_eq 3 0 0 (s.ppsStamp g) 0 (atGrain g s)
  have hlog : ppsLogged g s = _ := hp
  have hs' : (ppsLogged g s).steered = true := by rw [hlog]; exact hs
  have hv' : (ppsLogged g s).time.servo = .locked := by rw [hlog]; exact hv
  have hthr : (ppsLogged g s).jumpThr = s.jumpThr := by rw [hlog]; rfl
  rw [← hthr]
  refine ⟨fun h => ?_, fun h => ?_⟩
  · rw [measure_locked_small hs' hv' h, hlog]
    rfl
  · rw [measure_locked_big hs' hv' h]
    obtain ⟨hj, -, -, hb⟩ := newJump_notes true (offSecond (s.ppsStamp g)) (lastNoted (offSecond (s.ppsStamp g)) (ppsLogged g s))
    exact ⟨hj, hb⟩

/-- Settles O45: the source and the hold by the servo's state, REF_IN by what it ends, PPS_OUT by its level first. -/
theorem clockEvents : Obligations.ClockEvents := by
  intro g s now
  refine ⟨fun hs hv => ⟨_, exec_sourceLost hs hv, sourceLost_holds hv⟩, fun hv hl => ?_, fun h => ?_, fun hst hp => ?_, ?_,
    fun hst => ?_, ?_, fun e rest h => ⟨fun he => ?_, fun he => ?_⟩⟩
  · exact ⟨_, (exec_traceableHoldExpiry s).trans (if_pos ⟨hv, hl⟩), rfl, fun hsrc => not_traceable_of_expired hv rfl hsrc⟩
  · refine (exec_traceableHoldExpiry s).trans (if_neg fun hc => ?_)
    rcases h with h | h
    · exact h hc.1
    · exact absurd hc.2 (Nat.not_le.mpr h)
  · refine ⟨_, exec_refLost hst hp, ?_, bit_raiseIrq_irqStatus (by decide) _⟩
    rw [signalled_time (signalled_raiseIrq 9 (refGone s))]
    rfl
  · obtain ⟨htime, hstate⟩ := tryBoot_effect (refBack s)
    refine ⟨tryBoot (refBack s), rfl, htime, hstate.trans ?_⟩
    simp [refBack]
  · intro ts x e
    obtain ⟨hlast, hpre⟩ := measure_notes (offSecond (s.ppsStamp g)) (ppsLogged g s)
    have hmeas := ppsInEdge_measures (g := g) (s := s)
    refine ⟨_, exec_ppsInEdge hst, fun hring => ?_, fun hsrc => ?_, fun hsrc => ?_, fun hsrc hsteer hv => ?_⟩
    · have hput : (ppsLogged g s).time.tsPend = s.time.tsPend ++ [e] := by
        rw [ppsLogged, tsPut_atGrain hring, Nat.zero_mul, Nat.zero_mul, Nat.add_zero]
        rfl
      have hat : ∀ l, (ppsLogged g s).time.tsPend <+: l → l[s.time.tsPend.length]? = some e := by
        rintro _ ⟨r, rfl⟩
        rw [hput]
        simp
      split
      · exact hat _ hpre
      · exact hat _ List.prefix_rfl
    · rw [if_neg hsrc]
      obtain ⟨p, hp⟩ := tsPut_eq 3 0 0 (s.ppsStamp g) 0 (atGrain g s)
      have hlog : ppsLogged g s = _ := hp
      rw [hlog]
      exact ⟨rfl, rfl⟩
    · rw [if_pos hsrc]
      exact hlast
    · rw [if_pos hsrc, hlast]
      exact hmeas hsteer hv
  · intro whole near on ended level
    obtain ⟨f, hf⟩ := ppsLevel_effect (atGrain g s)
    obtain ⟨f', hf'⟩ := pulseEnded_eq (atGrain g s)
    have hout : (ppsLevel (atGrain g s)).out = level := by
      rw [hf, hf']
      rfl
    refine ⟨fun hon hw hn => ⟨_, (exec_ppsOutEdge g s).trans (congrArg _ (if_pos ⟨hon, hw, hn⟩)), ?_⟩,
      fun h => ⟨_, (exec_ppsOutEdge g s).trans (congrArg _ (if_neg ?_)), hout, ?_⟩⟩
    · refine ⟨?_, ?_, ?_, ?_⟩
      · show _ :: (ppsLevel (atGrain g s)).out = _
        rw [hout, hf]
        rfl
      · rw [ppsRisen, hf]
        exact hon
      · rw [ppsRisen, hf]
        rfl
      · rw [ppsRisen, hf]
        rfl
    · rintro ⟨h1, h2, h3⟩
      rcases h with h | h | h
      · exact absurd (h1.symm.trans h) (by decide)
      · exact h h2
      · exact h3 h
    · rw [hf]
      exact ⟨rfl, rfl⟩
  · exact ⟨_, (exec_tsRingEntryDrop h).trans (if_pos he), rfl⟩
  · exact (exec_tsRingEntryDrop h).trans (if_neg (Nat.not_le.mpr he))

end Sys2Proof.Machine

/-!
The PTP port: its event ring, transmit timestamps, and the exchanges that give a measurement.
-/

namespace Sys2Proof.Machine

/-! ## The rows, by the direction of the message (R376 to R381) -/

/-- The timestamp of an event message received. -/
def State.ptpRx (g : Grain) (s : State) : Int :=
  (atGrain g s).devTime (atGrain g s).now - bits s.time.ptpLat 16 16

/-- The timestamp of an event message sent. -/
def State.ptpTx (g : Grain) (s : State) : Int :=
  (atGrain g s).devTime (atGrain g s).now + bits s.time.ptpLat 0 16

/-- A message received in the event ring. -/
def ptpHeard (msg seq : Nat) (g : Grain) (s : State) : State := tsPut 2 msg seq (s.ptpRx g) 0 (atGrain g s)

/-- A message sent in the event ring. -/
def ptpTold (msg seq : Nat) (g : Grain) (s : State) : State := tsPut 1 msg seq (s.ptpTx g) 0 (atGrain g s)

/-- The entry that an event message without a value leaves in the ring. -/
def ptpEntry (kind msg seq : Nat) (time : Int) (g : Grain) (s : State) : TsEnt where
  bits := BitVec.ofNat 256 (kind + msg * 2 ^ 8 + seq * 2 ^ 16 + (timeValue time s.time.epoch).toNat * 2 ^ 32 +
    (BitVec.ofNat 48 s.time.span).toNat * 2 ^ 128 + g.val / 2048 * 2 ^ 176)
  at_ := s.time.span * 524288 + g.val

/-- The state with another ring, at an instant of the span. -/
def ringAt (g : Grain) (p : List TsEnt) (s : State) : State :=
  { s with time := { s.time with grain := g.val, tsPend := p } }

/-- A message received leaves all but the ring and the instant. -/
theorem ptpHeard_eq (msg seq : Nat) (g : Grain) (s : State) : ∃ p, ptpHeard msg seq g s = ringAt g p s ∧
    (bit s.time.tsRing 4 = true → p = s.time.tsPend ++ [ptpEntry 2 msg seq (s.ptpRx g) g s]) := by
  obtain ⟨p, hp⟩ := tsPut_eq 2 msg seq (s.ptpRx g) 0 (atGrain g s)
  refine ⟨p, hp, fun h => ?_⟩
  have hput := tsPut_atGrain (kind := 2) (msg := msg) (seq := seq) (time := s.ptpRx g) (g := g) h
  rw [hp] at hput
  exact hput

section
variable {s : State} {dom : BitVec 8} {m : PtpEvent} {g : Grain} (hon : s.ptpOn = true)
include hon

theorem exec_ptpEvent_received {k : Nat × Nat} (hk : eventKey m = some k) (hd : dom.toNat = s.ptpDomain) :
    ∃ p, exec (.ptpEventMessage m { dom := dom, t := g }) s = .next (ptpReceive m (s.ptpRx g) (ringAt g p s)) ∧
      (bit s.time.tsRing 4 = true → p = s.time.tsPend ++ [ptpEntry 2 k.1 k.2 (s.ptpRx g) g s]) := by
  obtain ⟨p, hp, hl⟩ := ptpHeard_eq k.1 k.2 g s
  refine ⟨p, ?_, hl⟩
  show execPtpEventMessage m _ s = _
  rw [← hp]
  simp only [execPtpEventMessage, hon, hk, hd, Bool.not_true, if_true]
  rfl

theorem exec_ptpEvent_elsewhere {k : Nat × Nat} (hk : eventKey m = some k) (hd : dom.toNat ≠ s.ptpDomain) :
    ∃ p, exec (.ptpEventMessage m { dom := dom, t := g }) s = .next (ringAt g p s) ∧
      (bit s.time.tsRing 4 = true → p = s.time.tsPend ++ [ptpEntry 2 k.1 k.2 (s.ptpRx g) g s]) := by
  obtain ⟨p, hp, hl⟩ := ptpHeard_eq k.1 k.2 g s
  refine ⟨p, ?_, hl⟩
  show execPtpEventMessage m _ s = _
  rw [← hp]
  simp only [execPtpEventMessage, hon, hk, hd, Bool.not_true, if_false]
  rfl

theorem exec_ptpEvent_sent (hk : eventKey m = none) :
    exec (.ptpEventMessage m { dom := dom, t := g }) s = .next (ptpTransmit m (s.ptpTx g) (atGrain g s)) := by
  show execPtpEventMessage m _ s = _
  simp only [execPtpEventMessage, hon, hk, Bool.not_true]
  rfl

end

/-- A message sent leaves the port, its configuration and the output as they are. -/
theorem ptpTold_kept (msg seq : Nat) (g : Grain) (s : State) :
    (ptpTold msg seq g s).time.ptp = s.time.ptp ∧ (ptpTold msg seq g s).time.ptpCfg = s.time.ptpCfg ∧
    (ptpTold msg seq g s).out = s.out ∧
    (bit s.time.tsRing 4 = true →
      (ptpTold msg seq g s).time.tsPend = s.time.tsPend ++ [ptpEntry 1 msg seq (s.ptpTx g) g s]) := by
  obtain ⟨p, hp⟩ := tsPut_eq 1 msg seq (s.ptpTx g) 0 (atGrain g s)
  refine ⟨?_, ?_, ?_, tsPut_atGrain⟩ <;> rw [ptpTold, hp] <;> rfl

/-! ## Transmit timestamps (R379) -/

/-- The transmit timestamps dropped, flagged and raised. -/
def txDropped (s : State) : State := raiseIrq 8 (modTime (fun x => { x with txTsOvf := true }) s)

theorem txDropped_notes (s : State) : (txDropped s).time = { s.time with txTsOvf := true } ∧
    bit (txDropped s).sys.irqStatus 8 = true :=
  ⟨by rw [txDropped, signalled_time (signalled_raiseIrq 8 _), modTime_time], bit_raiseIrq_irqStatus (by decide) _⟩

theorem txStamp_full {seq : BitVec 16} {msg : Nat} {t : Int} {keep : Bool} {s : State} (h : 16 ≤ s.time.ptp.txq.length) :
    txStamp seq msg t keep s = txDropped s := if_pos h

theorem txStamp_kept {seq : BitVec 16} {msg : Nat} {t : Int} {s : State} (h : s.time.ptp.txq.length < 16) :
    txStamp seq msg t true s = modPtp (fun p => { p with txq := p.txq ++ [(seq, msg, t)] }) s :=
  (if_neg (Nat.not_le.mpr h)).trans (if_pos rfl)

theorem txStamp_passed {seq : BitVec 16} {msg : Nat} {t : Int} {s : State} (h : s.time.ptp.txq.length < 16) :
    txStamp seq msg t false s = s :=
  (if_neg (Nat.not_le.mpr h)).trans (if_neg (by decide))

/-- A message whose timestamp joins the queue: it leaves and the timestamp stands last, or the queue was full. -/
theorem stamped_sent (msg : Nat) (seq : BitVec 16) (tx : Int) (s : State) :
    let t := txStamp seq msg tx true (sendPtp msg seq.toNat 0 s)
    t.time.tsPend = s.time.tsPend ∧
    (s.time.ptp.txq.length < 16 → t.time.ptp.txq = s.time.ptp.txq ++ [(seq, msg, tx)] ∧
      t.out = .ptp msg (bit s.time.ptpCfg 3) s.ptpDomain seq.toNat 0 :: s.out) ∧
    (16 ≤ s.time.ptp.txq.length → t.time.ptp.txq = s.time.ptp.txq ∧ t.time.txTsOvf = true ∧
      bit t.sys.irqStatus 8 = true) := by
  intro t
  by_cases h : 16 ≤ s.time.ptp.txq.length
  · have ht : t = txDropped (sendPtp msg seq.toNat 0 s) := txStamp_full h
    obtain ⟨htime, hb⟩ := txDropped_notes (sendPtp msg seq.toNat 0 s)
    rw [ht, htime]
    exact ⟨rfl, fun hl => absurd hl (Nat.not_lt.mpr h), fun _ => ⟨rfl, rfl, hb⟩⟩
  · have ht : t = _ := txStamp_kept (Nat.not_le.mp h)
    rw [ht]
    exact ⟨rfl, fun _ => ⟨rfl, rfl⟩, fun hl => absurd hl h⟩

/-- A two-step message: it leaves with the Follow_Up that takes its timestamp, or the queue was full. -/
theorem twoStep_sent (msg follow : Nat) (seq : BitVec 16) (receipt tx : Int) (s : State) :
    let t := sendTwoStep msg follow seq receipt tx s
    t.time.tsPend = s.time.tsPend ∧ t.time.ptp = s.time.ptp ∧
    (s.time.ptp.txq.length < 16 → t.out = .ptp follow (bit s.time.ptpCfg 3) s.ptpDomain seq.toNat tx ::
      .ptp msg (bit s.time.ptpCfg 3) s.ptpDomain seq.toNat receipt :: s.out) ∧
    (16 ≤ s.time.ptp.txq.length → t.time.txTsOvf = true ∧ bit t.sys.irqStatus 8 = true) := by
  intro t
  by_cases h : 16 ≤ s.time.ptp.txq.length
  · have ht : t = txDropped (sendPtp msg seq.toNat receipt s) := (if_pos h).trans (txStamp_full h)
    obtain ⟨htime, hb⟩ := txDropped_notes (sendPtp msg seq.toNat receipt s)
    rw [ht, htime]
    exact ⟨rfl, rfl, fun hl => absurd hl (Nat.not_lt.mpr h), fun _ => ⟨rfl, hb⟩⟩
  · have ht : t = sendPtp follow seq.toNat tx (sendPtp msg seq.toNat receipt s) :=
      (if_neg h).trans (congrArg _ (txStamp_passed (s := sendPtp msg seq.toNat receipt s) (Nat.not_le.mp h)))
    rw [ht]
    exact ⟨rfl, rfl, fun _ => rfl, fun hl => absurd hl h⟩

/-- A transmit timestamp taken. -/
def txTaken (seq : BitVec 16) (msg : Nat) (s : State) : State :=
  modPtp (fun p => { p with txq := p.txq.filter fun z => !(z.1 == seq && z.2.1 == msg) }) s

/-- The transmit timestamp at the head of the queue is the one taken. -/
theorem takeTx_head {seq : BitVec 16} {msg : Nat} {t : Int} {rest : List (BitVec 16 × Nat × Int)} {s : State}
    (h : s.time.ptp.txq = (seq, msg, t) :: rest) : takeTx seq msg s = (some t, txTaken seq msg s) := by
  rw [takeTx, h, List.find?_cons_of_pos (by simp)]
  rfl

/-! ## The exchanges (R378) -/

/-- Half a value is off by half a unit at most, and nothing but a free value is drawn for it. -/
theorem halfOf_near (x : Int) (s : State) :
    (2 * (halfOf x s).1 = x ∨ 2 * (halfOf x s).1 = x + 1 ∨ 2 * (halfOf x s).1 = x - 1) ∧
    ∃ n, (halfOf x s).2 = { s with free := n } := by
  unfold halfOf
  split
  · exact ⟨.inl (by dsimp only; omega), s.free, rfl⟩
  · refine ⟨?_, s.free + 1, rfl⟩
    dsimp only
    omega

theorem ptpTry_noSync {s : State} (h : s.time.ptp.t12 = none) : ptpTry s = s := by
  rw [ptpTry, h]

theorem ptpTry_noDelay {s : State} (h : s.time.ptp.mpd = none) : ptpTry s = s := by
  rw [ptpTry, h]
  cases s.time.ptp.t12 with
  | none => rfl
  | some _ => rfl

/-- The Sync in hand used. -/
def syncUsed (s : State) : State := modPtp (fun p => { p with t12 := none }) s

theorem ptpTry_both {s : State} {t1 t2 m : Int} (h1 : s.time.ptp.t12 = some (t1, t2)) (h2 : s.time.ptp.mpd = some m) :
    ptpTry s = ptpMeasure (t2 - t1 - m - sbits s.time.ptpAsym 0 32) m (syncUsed s) := by
  rw [ptpTry, h1, h2]
  rfl

/-- Without a Sync in hand a path delay waits: it is half the sum measured. -/
theorem ptpDelay_waits {x : Int} {s : State} (h : s.time.ptp.t12 = none) :
    let t := ptpTry (ptpDelay x s)
    t.time.tsPend = s.time.tsPend ∧ t.time.ptp.pd = s.time.ptp.pd ∧
    ∃ m, t.time.ptp.mpd = some m ∧ (2 * m = x ∨ 2 * m = x + 1 ∨ 2 * m = x - 1) ∧ t.time.ptp.fresh = true := by
  obtain ⟨hn, n, hs⟩ := halfOf_near x s
  intro t
  have ht : t = ptpDelay x s := ptpTry_noSync (by rw [ptpDelay, hs]; exact h)
  rw [ht, ptpDelay, hs]
  exact ⟨rfl, rfl, _, rfl, hn, rfl⟩

/-- A Sync in hand. -/
def syncHeld (origin t2 : Int) (s : State) : State :=
  modPtp (fun p => { p with t12 := some (origin, t2), lastSync := some (origin, t2), sync := none }) s

/-- Without a path delay a Sync waits for it. -/
theorem syncDone_waits {origin t2 : Int} {s : State} (h : s.time.ptp.mpd = none) :
    syncDone origin t2 s = syncHeld origin t2 s := ptpTry_noDelay (s := syncHeld origin t2 s) h

/-- A measurement of PTP kept as the last one, with its path delay. -/
def offsetKept (o m : Int) (s : State) : State :=
  modPtp (fun p => { p with
    delays := if p.fresh then (m :: p.delays).take 8 else p.delays, fresh := false, lastOff := some o }) s

/-- A measurement that is not suspect, at the source that is in force. -/
theorem ptpMeasure_applied {o m : Int} {s : State} (ha : s.asymSuspect o m = false) (hs : s.src = 2) :
    ptpMeasure o m s = measure o (offsetKept o m s) := by
  unfold ptpMeasure
  rw [ha]
  exact if_pos hs

/-- An event message that leaves with its timestamp kept: its ring entry, and the queue. -/
theorem told_stamped (msg : Nat) (seq : BitVec 16) (g : Grain) (s : State) :
    let t := txStamp seq msg (s.ptpTx g) true (sendPtp msg seq.toNat 0 (ptpTold msg seq.toNat g s))
    (bit s.time.tsRing 4 = true → t.time.tsPend = s.time.tsPend ++ [ptpEntry 1 msg seq.toNat (s.ptpTx g) g s]) ∧
    (s.time.ptp.txq.length < 16 → t.time.ptp.txq = s.time.ptp.txq ++ [(seq, msg, s.ptpTx g)] ∧
      t.out = .ptp msg (bit s.time.ptpCfg 3) s.ptpDomain seq.toNat 0 :: s.out) ∧
    (16 ≤ s.time.ptp.txq.length → t.time.ptp.txq = s.time.ptp.txq ∧ t.time.txTsOvf = true ∧
      bit t.sys.irqStatus 8 = true) := by
  intro t
  obtain ⟨hptp, hcfg, hout, hl⟩ := ptpTold_kept msg seq.toNat g s
  obtain ⟨hp, hs, hf⟩ := stamped_sent msg seq (s.ptpTx g) (ptpTold msg seq.toNat g s)
  rw [State.ptpDomain, hptp, hcfg, hout] at hs
  rw [hptp] at hf
  exact ⟨fun hr => hp.trans (hl hr), hs, hf⟩

/-- A two-step message that leaves: its ring entry, the Follow_Up and the port. -/
theorem told_twoStep (msg follow : Nat) (seq : BitVec 16) (receipt : Int) (g : Grain) (s : State) :
    let t := sendTwoStep msg follow seq receipt (s.ptpTx g) (ptpTold msg seq.toNat g s)
    (bit s.time.tsRing 4 = true → t.time.tsPend = s.time.tsPend ++ [ptpEntry 1 msg seq.toNat (s.ptpTx g) g s]) ∧
    ((s.time.ptp.txq.length < 16 → t.out = .ptp follow (bit s.time.ptpCfg 3) s.ptpDomain seq.toNat (s.ptpTx g) ::
      .ptp msg (bit s.time.ptpCfg 3) s.ptpDomain seq.toNat receipt :: s.out ∧ t.time.ptp.txq = s.time.ptp.txq) ∧
    (16 ≤ s.time.ptp.txq.length → t.time.txTsOvf = true ∧ bit t.sys.irqStatus 8 = true)) ∧
    t.time.ptp = s.time.ptp := by
  intro t
  obtain ⟨hptp, hcfg, hout, hl⟩ := ptpTold_kept msg seq.toNat g s
  obtain ⟨hp, hpp, hs, hf⟩ := twoStep_sent msg follow seq receipt (s.ptpTx g) (ptpTold msg seq.toNat g s)
  rw [State.ptpDomain, hptp, hcfg, hout] at hs
  rw [hptp] at hf hpp
  exact ⟨fun hr => hp.trans (hl hr), ⟨fun h => ⟨hs h, congrArg Ptp.txq hpp⟩, hf⟩, hpp⟩

/-- A Sync that completes an exchange steers a servo in LOCKED. -/
theorem syncDone_applied {origin t2 m o : Int} {s : State} (hm : s.time.ptp.mpd = some m)
    (ho : t2 - origin - m - sbits s.time.ptpAsym 0 32 = o) (ha : s.asymSuspect o m = false) (hsrc : s.src = 2)
    (hs : s.steered = true) (hv : s.time.servo = .locked) (h : (o.natAbs : Int) < s.jumpThr) :
    syncDone origin t2 s = acceptMeas o (lastNoted o (offsetKept o m (syncUsed (syncHeld origin t2 s)))) := by
  have htry : syncDone origin t2 s = ptpMeasure (t2 - origin - m - sbits s.time.ptpAsym 0 32) m
      (syncUsed (syncHeld origin t2 s)) := ptpTry_both (s := syncHeld origin t2 s) rfl hm
  have happly : ptpMeasure o m (syncUsed (syncHeld origin t2 s)) =
      measure o (offsetKept o m (syncUsed (syncHeld origin t2 s))) := ptpMeasure_applied ha hsrc
  obtain ⟨x, hx⟩ : ∃ x, offsetKept o m (syncUsed (syncHeld origin t2 s)) =
    { s with time := { s.time with ptp := x } } := ⟨_, rfl⟩
  rw [htry, ho, happly, hx]
  exact measure_locked_small (s := { s with time := { s.time with ptp := x } }) hs hv h

/-- The request answered. -/
def preqTaken (s : State) : State := modPtp (fun p => { p with preq := none }) s

theorem ptpTransmit_pdelayResp {seq : BitVec 16} {r : Int} {g : Grain} {s : State} (hp : s.ptpP2p = true)
    (hr : s.time.ptp.preq = some (seq, r)) : ptpTransmit (.pdelayRespTx seq) (s.ptpTx g) (atGrain g s) =
    sendTwoStep 3 0xA seq r ((preqTaken s).ptpTx g) (ptpTold 3 seq.toNat g (preqTaken s)) := by
  have hcond : ((atGrain g s).ptpP2p && seq == seq) = true := Bool.and_eq_true_iff.mpr ⟨hp, beq_self_eq_true seq⟩
  have hreq : (atGrain g s).time.ptp.preq = some (seq, r) := hr
  simp only [ptpTransmit, hreq, hcond, if_true]
  rfl

theorem ptpReceive_delayReq (seq : BitVec 16) (rx : Int) (s : State) : ptpReceive (.delayReqRx seq) rx s =
    if s.ptpMaster = true ∧ s.ptpP2p = false then sendPtp 9 seq.toNat rx s else s := by
  simp only [ptpReceive, Bool.and_eq_true, Bool.not_eq_true']

/-- A Pdelay_Resp that answers the request at the head of the queue. -/
theorem ptpReceive_pdelayResp {seq : BitVec 16} {rec corr rx t1 : Int} {two : Bool} {rest : List (BitVec 16 × Nat × Int)}
    {s : State} (hp : s.ptpP2p = true) (hq : s.time.ptp.txq = (seq, 2, t1) :: rest) :
    ptpReceive (.pdelayRespRx seq rec two corr) rx s =
      if two then modPtp (fun p => { p with pd := some (seq, t1, rec, rx, corr) }) (txTaken seq 2 s)
      else pdelayDone t1 rx 0 corr (txTaken seq 2 s) := by
  simp only [ptpReceive, hp, Bool.not_true, takeTx_head hq]
  rfl

theorem exec_ptpGeneral {s : State} {dom : BitVec 8} {m : PtpGeneral} {g : Grain} (hon : s.ptpOn = true)
    (hd : dom.toNat ≠ s.ptpDomain) : exec (.ptpGeneralMessage m { dom := dom, t := g }) s = .next s :=
  if_pos (by simp [hon, hd])

section
variable {s : State} {dom : BitVec 8} {g : Grain} (hon : s.ptpOn = true) (hd : dom.toNat = s.ptpDomain)
include hon hd

theorem exec_announceTx {seq : BitVec 16} : exec (.ptpGeneralMessage (.announceTx seq) { dom := dom, t := g }) s =
    .next (if s.ptpMaster then emit (.ptpAnnounce (bit s.time.ptpCfg 3) s.ptpDomain seq.toNat s.ownClock) (atGrain g s)
      else atGrain g s) := if_neg (by simp [hon, hd])

theorem exec_announce {a : Announce} : exec (.ptpGeneralMessage (.announce a) { dom := dom, t := g }) s =
    .next (modPtp (fun p => { p with parent :=
      match p.parent with
      | none => some a
      | some q => if q.identity = a.identity ∨ annBetter a q then some a else some q }) (atGrain g s)) :=
  if_neg (by simp [hon, hd])

theorem exec_followUp {seq : BitVec 16} {t2 c o corr : Int} (hs : s.time.ptp.sync = some (seq, t2, c)) :
    exec (.ptpGeneralMessage (.followUp seq o corr) { dom := dom, t := g }) s =
    .next (syncDone (o + c + corr) t2 (atGrain g s)) := by
  refine (if_neg (by simp [hon, hd])).trans ?_
  dsimp only
  rw [hs]
  exact congrArg _ (if_pos rfl)

theorem exec_delayResp {seq : BitVec 16} {t3 rec corr t1 t2 : Int} {rest : List (BitVec 16 × Nat × Int)}
    (hp : s.ptpP2p = false) (hq : s.time.ptp.txq = (seq, 1, t3) :: rest) (hl : s.time.ptp.lastSync = some (t1, t2)) :
    exec (.ptpGeneralMessage (.delayResp seq rec corr) { dom := dom, t := g }) s =
    .next (ptpTry (ptpDelay (t2 - t3 + rec - t1 - corr) (txTaken seq 1 (atGrain g s)))) := by
  have htake := takeTx_head (s := atGrain g s) hq
  have htwice : (atGrain g s).e2eTwice t3 rec corr = some (t2 - t3 + rec - t1 - corr) := by
    rw [State.e2eTwice, atGrain_time, hl]
    rfl
  refine (if_neg (by simp [hon, hd])).trans ?_
  dsimp only
  rw [hp, if_neg (by decide), htake]
  dsimp only
  rw [htwice]

theorem exec_pdelayRespFollowUp {seq : BitVec 16} {t1 rec t4 c o corr : Int} (hp : s.ptpP2p = true)
    (hpd : s.time.ptp.pd = some (seq, t1, rec, t4, c)) :
    exec (.ptpGeneralMessage (.pdelayRespFollowUp seq o corr) { dom := dom, t := g }) s =
    .next (pdelayDone t1 t4 (o - rec) (c + corr) (modPtp (fun p => { p with pd := none }) (atGrain g s))) := by
  refine (if_neg (by simp [hon, hd])).trans ?_
  dsimp only
  rw [hpd]
  exact congrArg _ (if_pos ⟨rfl, hp⟩)

end

/-- Settles O46: each message by what its ring entry, its timestamp and its exchange leave. -/
theorem ptpMessages : Obligations.PtpMessages := by
  intro g s dom hon hdom event general now rx tx p udp n word logged stamped twoSteps half
  refine ⟨fun seq hs hp => ?_, fun seq hp => ?_, fun seq => ?_, fun seq => ?_, fun seq hm => ?_, fun seq r hp hr => ?_,
    fun seq o corr hs hm => ?_, fun seq o corr d hd => ?_, fun seq t2 c o corr hs hm => ?_,
    fun seq t3 rec corr t1 t2 rest hp hq hl h12 => ?_, fun seq hm => ?_, fun a => ?_,
    fun seq rec corr t1 rest hp hq => ?_, fun seq t1 rec t4 c o corr hp hpd h12 => ?_,
    fun o m t1 seq hm hs ha hsrc hst hv ho hsmall => ?_⟩
  · have hcond : (s.ptpSlave && !s.ptpP2p) = true := by rw [hs, hp]; rfl
    exact ⟨_, (exec_ptpEvent_sent hon rfl).trans (congrArg _ (if_pos (by exact hcond))), told_stamped 1 seq g s⟩
  · exact ⟨_, (exec_ptpEvent_sent hon rfl).trans (congrArg _ (if_pos (by exact hp))), told_stamped 2 seq g s⟩
  · obtain ⟨q, hrow, hl⟩ := exec_ptpEvent_received (g := g) hon (m := .delayReqRx seq) rfl hdom
    rw [ptpReceive_delayReq] at hrow
    by_cases hc : s.ptpMaster = true ∧ s.ptpP2p = false
    · exact ⟨_, hrow.trans (congrArg _ (if_pos hc)), hl, (if_pos hc).symm⟩
    · exact ⟨_, hrow.trans (congrArg _ (if_neg hc)), hl, (if_neg hc).symm⟩
  · obtain ⟨q, hrow, hl⟩ := exec_ptpEvent_received (g := g) hon (m := .pdelayReqRx seq) rfl hdom
    by_cases hp : s.ptpP2p = true
    · exact ⟨_, hrow.trans (congrArg _ (if_pos hp)), hl, rfl, (if_pos hp).symm⟩
    · exact ⟨_, hrow.trans (congrArg _ (if_neg hp)), hl, rfl, (if_neg hp).symm⟩
  · have hrow : event (.syncTx seq) = _ := exec_ptpEvent_sent hon rfl
    obtain ⟨hl, h2, -⟩ := told_twoStep 0 8 seq 0 g s
    exact ⟨_, hrow.trans (congrArg _ (if_pos (by exact hm))), hl, h2⟩
  · have hrow : event (.pdelayRespTx seq) = _ := exec_ptpEvent_sent hon rfl
    obtain ⟨hl, h2, hpp⟩ := told_twoStep 3 0xA seq r g (preqTaken s)
    exact ⟨_, hrow.trans (congrArg _ (ptpTransmit_pdelayResp hp hr)), hl, h2, congrArg Ptp.preq hpp⟩
  · have hslave : ¬ (!s.ptpSlave) = true := by rw [hs]; decide
    refine ⟨?_, ?_⟩
    · obtain ⟨q, hrow, hl⟩ := exec_ptpEvent_received (g := g) hon (m := .syncRx seq (some o) corr) rfl hdom
      exact ⟨_, hrow.trans (congrArg _ ((if_neg hslave).trans (syncDone_waits hm))), hl, rfl, rfl⟩
    · obtain ⟨q, hrow, hl⟩ := exec_ptpEvent_received (g := g) hon (m := .syncRx seq none corr) rfl hdom
      exact ⟨_, hrow.trans (congrArg _ (if_neg hslave)), hl, rfl, rfl⟩
  · have hdn : d.toNat ≠ s.ptpDomain := fun h => hd (BitVec.eq_of_toNat_eq (h.trans hdom.symm))
    obtain ⟨q, hrow, hl⟩ := exec_ptpEvent_elsewhere (g := g) hon (m := .syncRx seq o corr) rfl hdn
    exact ⟨_, hrow, hl, rfl, fun m => exec_ptpGeneral hon hdn⟩
  · exact ⟨_, (exec_followUp hon hdom hs).trans (congrArg _ (syncDone_waits hm)), rfl, rfl⟩
  · obtain ⟨-, -, hh⟩ := ptpDelay_waits (x := t2 - t3 + rec - t1 - corr) (s := txTaken seq 1 (atGrain g s)) h12
    exact ⟨_, exec_delayResp hon hdom hp hq hl, hh⟩
  · exact ⟨_, (exec_announceTx hon hdom).trans (congrArg _ (if_pos hm)), rfl, rfl⟩
  · exact ⟨_, exec_announce hon hdom, rfl⟩
  · refine ⟨?_, fun h12 => ?_⟩
    · obtain ⟨q, hrow, hl⟩ := exec_ptpEvent_received (g := g) hon (m := .pdelayRespRx seq rec true corr) rfl hdom
      exact ⟨_, hrow.trans (congrArg _ (ptpReceive_pdelayResp (s := ringAt g q s) hp hq)), hl, rfl⟩
    · obtain ⟨q, hrow, hl⟩ := exec_ptpEvent_received (g := g) hon (m := .pdelayRespRx seq rec false corr) rfl hdom
      obtain ⟨hts, -, m, h1, h2, h3⟩ := ptpDelay_waits (x := s.ptpRx g - t1 - 0 - corr)
        (s := txTaken seq 2 (ringAt g q s)) h12
      rw [Int.sub_zero] at h2
      exact ⟨_, hrow.trans (congrArg _ (ptpReceive_pdelayResp (s := ringAt g q s) hp hq)), fun h => hts.trans (hl h),
        m, h1, h2, h3⟩
  · obtain ⟨-, hpd', hh⟩ := ptpDelay_waits (x := t4 - t1 - (o - rec) - (c + corr)) (s := modPtp (fun p => { p with
      pd := none }) (atGrain g s)) h12
    exact ⟨_, exec_pdelayRespFollowUp hon hdom hp hpd, hpd', hh⟩
  · obtain ⟨q, hrow, -⟩ := exec_ptpEvent_received (g := g) hon (m := .syncRx seq (some t1) 0) rfl hdom
    have hslave : ¬ (!s.ptpSlave) = true := by rw [hs]; decide
    have ho' : s.ptpRx g - (t1 + 0) - m - sbits s.time.ptpAsym 0 32 = o := by rw [Int.add_zero, ho]; rfl
    have happly := syncDone_applied (s := ringAt g q s) hm ho' ha hsrc hst hv hsmall
    exact ⟨_, hrow.trans (congrArg _ ((if_neg hslave).trans happly)), rfl, rfl, rfl⟩

end Sys2Proof.Machine

/-!
The DRAM controller's refresh: what a channel owes, and what that debt forces.
-/

namespace Sys2Proof.Machine

/-! ## Interrupts stand -/

theorem bit_raiseIrq_of_bit {b : Nat} (k : Nat) {s : State} (hb : b < 20) (h : bit s.sys.irqStatus b = true) :
    bit (raiseIrq k s).sys.irqStatus b = true := by
  have hset : bit (setBit s.sys.irqStatus k true) b = true := bit_setBit_of_bit k h
  unfold raiseIrq
  dsimp only
  split
  · exact h
  · split
    · exact bit_sendMsix_irqStatus _ hb hset
    · exact hset

/-! ## One channel of the DRAM (R193 to R196, R579) -/

/-- A channel of the DRAM. -/
def State.dramChan (s : State) (n : Nat) : DramChan := s.dram.chans.get n

theorem modChan_self (n : Nat) (f : DramChan → DramChan) (s : State) : (modChan n f s).dramChan n = f (s.dramChan n) :=
  SMap.get_mod_eq ..

theorem modChan_ne {n m : Nat} (f : DramChan → DramChan) (s : State) (h : m ≠ n) :
    (modChan n f s).dramChan m = s.dramChan m := SMap.get_mod_ne _ _ _ _ h

/-- A channel by the signals that pass it. -/
theorem dramChan_of_signalled {s t : State} (h : signalled s t) (m : Nat) : t.dramChan m = s.dramChan m := by
  rw [State.dramChan, signalled_dram h, State.dramChan]

/-- A refresh bears on its own channel. -/
theorem refreshOnce_other {n m : Nat} (busy : BitVec 16) (s : State) (h : m ≠ n) :
    (refreshOnce n busy s).dramChan m = s.dramChan m := by
  unfold refreshOnce
  dsimp only
  split
  · rfl
  · split
    · rfl
    · rw [dramChan_of_signalled (signalled_perfEvent ..), modChan_ne _ _ h]

theorem chanAt_other {n m : Nat} (g : Grain) (s : State) (h : m ≠ n) : (chanAt n g s).dramChan m = s.dramChan m := by
  unfold chanAt
  split
  · unfold refreshSecond
    split
    · rfl
    · dsimp only
      split
      · rw [refreshOnce_other _ _ h, modChan_ne _ _ h]
      · exact modChan_ne _ _ h
  · rfl

/-- Before cycle 128, or with no second refresh to come, a channel is as it was. -/
theorem chanAt_early {n : Nat} {g : Grain} {s : State} (h : g.val < 262144 ∨ (s.dramChan n).second = none) :
    chanAt n g s = s := by
  unfold chanAt
  split
  · next hg =>
    rcases h with h | h
    · exact absurd hg (Nat.not_le.mpr h)
    · unfold refreshSecond
      rw [State.dramChan] at h
      rw [h]
  · rfl

/-- A channel with its debt: FORCED is entered, flagged, counted and raised at 9 or more, and no other channel changes. -/
theorem enterForced_effect (n : Nat) (s : State) :
    ((enterForced n s).dramChan n).rate = (s.dramChan n).rate ∧
    ((enterForced n s).dramChan n).quarter = (s.dramChan n).quarter ∧
    ((enterForced n s).dramChan n).debt = (s.dramChan n).debt ∧
    (9 ≤ (s.dramChan n).debt → (s.dramChan n).forced = false →
      ((enterForced n s).dramChan n).forced = true ∧ ((enterForced n s).dramChan n).forcedEvent = true ∧
      ((enterForced n s).dramChan n).forcedCount = min 0xFFFF ((s.dramChan n).forcedCount + 1) ∧
      bit (enterForced n s).sys.irqStatus 2 = true) ∧
    ((s.dramChan n).debt < 9 ∨ (s.dramChan n).forced = true →
      ((enterForced n s).dramChan n).forced = (s.dramChan n).forced ∧
      ((enterForced n s).dramChan n).forcedCount = (s.dramChan n).forcedCount) ∧
    ∀ m, m ≠ n → (enterForced n s).dramChan m = s.dramChan m := by
  have hiff : (decide (9 ≤ (s.dramChan n).debt) && !(s.dramChan n).forced) = true ↔
      9 ≤ (s.dramChan n).debt ∧ (s.dramChan n).forced = false := by simp
  by_cases hc : 9 ≤ (s.dramChan n).debt ∧ (s.dramChan n).forced = false
  · have he : enterForced n s = raiseIrq 2 (modChan n (fun x => { x with
        forced := true, forcedEvent := true, wasForced := true, forcedCount := satAdd 0xFFFF x.forcedCount 1 }) s) :=
      if_pos (hiff.mpr hc)
    have hb := bit_raiseIrq_irqStatus (b := 2) (by decide) (modChan n (fun x => { x with
        forced := true, forcedEvent := true, wasForced := true, forcedCount := satAdd 0xFFFF x.forcedCount 1 }) s)
    have hchan := dramChan_of_signalled (signalled_raiseIrq 2 (modChan n (fun x => { x with
        forced := true, forcedEvent := true, wasForced := true, forcedCount := satAdd 0xFFFF x.forcedCount 1 }) s))
    rw [he, hchan, modChan_self]
    refine ⟨rfl, rfl, rfl, fun _ _ => ⟨rfl, rfl, rfl, hb⟩, fun h => ?_, fun m hm => (hchan m).trans (modChan_ne _ _ hm)⟩
    rcases h with h | h
    · omega
    · exact absurd (hc.2.symm.trans h) (by decide)
  · have he : enterForced n s = s := if_neg (mt hiff.mp hc)
    rw [he]
    exact ⟨rfl, rfl, rfl, fun h1 h2 => absurd ⟨h1, h2⟩ hc, fun _ => ⟨rfl, rfl⟩, fun _ _ => rfl⟩

/-- Entering FORCED clears no interrupt. -/
theorem enterForced_irq {b : Nat} (n : Nat) {s : State} (hb : b < 20) (h : bit s.sys.irqStatus b = true) :
    bit (enterForced n s).sys.irqStatus b = true := by
  unfold enterForced
  dsimp only
  split
  · exact bit_raiseIrq_of_bit 2 hb h
  · exact h

/-- The debt of a channel after an accrual. -/
def accrued (q : Nat) (x : DramChan) : DramChan := { x with quarter := q % 4, debt := min 32 (x.debt + q / 4) }

/-- A channel at a rate that MR4 gives, with its debt scaled. -/
def rated (r debt : Nat) (x : DramChan) : DramChan := { x with rate := r, debt := debt }

theorem exec_refreshAccrualTick {ch : DramCh} {g : Grain} {s : State} (h : s.dramLive = true) :
    let s1 := chanAt ch.val g (atGrain g s)
    let c := s1.dramChan ch.val
    exec (.refreshAccrualTick { ch := ch, t := g }) s =
      .next (enterForced ch.val (modChan ch.val (accrued (c.quarter + rateQuarters c.rate)) s1)) := if_pos h

/-- A channel polled: its rate and debt, and the interrupt of a rise to 4 times. -/
def polled (n r : Nat) (s : State) : State :=
  let c := s.dramChan n
  let s1 := modChan n (rated r (if c.rate < r then min 32 (c.debt * (rateQuarters r / rateQuarters c.rate)) else c.debt)) s
  if r = 2 ∧ c.rate ≠ 2 then raiseIrq 4 s1 else s1

theorem polled_dramChan (n r m : Nat) (s : State) : (polled n r s).dramChan m =
    (modChan n (rated r (if (s.dramChan n).rate < r then min 32 ((s.dramChan n).debt *
      (rateQuarters r / rateQuarters (s.dramChan n).rate)) else (s.dramChan n).debt)) s).dramChan m := by
  unfold polled
  dsimp only
  split
  · exact dramChan_of_signalled (signalled_raiseIrq ..) m
  · rfl

/-- A channel's poll is due. -/
def State.pollDue (n : Nat) (g : Grain) (s : State) : Prop :=
  s.time.span % 125 * 524288 + g.val = n * 4096000 ∧ s.retraining = false

section
variable {ch : DramCh} {g : Grain} {m : Mr4} {s : State}

theorem exec_mr4Poll_due (h : s.dramLive = true) (hd : s.pollDue ch.val g) :
    exec (.mr4Poll { ch := ch, t := g } m) s =
      .next (enterForced ch.val (polled ch.val (mr4Code m) (chanAt ch.val g (atGrain g s)))) := by
  have hpoll : s.pollAt ch.val g = true := beq_iff_eq.mpr hd.1
  exact if_pos (by simp only [h, hpoll, hd.2]; decide)

theorem exec_mr4Poll_off (h : ¬ (s.dramLive = true ∧ s.pollDue ch.val g)) :
    exec (.mr4Poll { ch := ch, t := g } m) s = .next s := by
  refine if_neg fun hc => h ?_
  rw [Bool.and_eq_true, Bool.and_eq_true, Bool.not_eq_true'] at hc
  exact ⟨hc.1.1, beq_iff_eq.mp hc.1.2, hc.2⟩

end

/-- What a channel that has changed in its rate, quarters and debt leaves once FORCED is judged. -/
theorem landed {n : Nat} {c x : DramChan} {s u : State} (hx : u.dramChan n = x) (hf : x.forced = c.forced)
    (hc : x.forcedCount = c.forcedCount) (hothers : ∀ m, m ≠ n → u.dramChan m = s.dramChan m) :
    let y := (enterForced n u).dramChan n
    y.rate = x.rate ∧ y.quarter = x.quarter ∧ y.debt = x.debt ∧
    (9 ≤ x.debt → c.forced = false → y.forced = true ∧ y.forcedEvent = true ∧
      y.forcedCount = min 0xFFFF (c.forcedCount + 1) ∧ bit (enterForced n u).sys.irqStatus 2 = true) ∧
    (x.debt < 9 ∨ c.forced = true → y.forced = c.forced ∧ y.forcedCount = c.forcedCount) ∧
    ∀ m, m ≠ n → (enterForced n u).dramChan m = s.dramChan m := by
  obtain ⟨hr, hq, hd, hforce, hstay, ho⟩ := enterForced_effect n u
  rw [hx] at hr hq hd hforce hstay
  rw [hf, hc] at hforce hstay
  exact ⟨hr, hq, hd, hforce, hstay, fun m hm => (ho m hm).trans (hothers m hm)⟩

/-- Settles O53: each step of a channel, then FORCED judged on the debt that it leaves. -/
theorem dramRefreshes : Obligations.DramRefreshes := by
  intro ch g s c quarters lands
  have hother : ∀ m, m ≠ ch.val → (chanAt ch.val g (atGrain g s)).dramChan m = s.dramChan m := fun m hm =>
    chanAt_other g _ hm
  refine ⟨fun h => ?_, fun hlive => ⟨?_, fun m => ?_⟩, fun hlive => ⟨?_, fun m => ?_⟩, fun tgt hst => ?_⟩
  · exact congrArg (fun u => u.dramChan ch.val) (show chanAt ch.val g (atGrain g s) = atGrain g s from chanAt_early h)
  · intro q
    refine ⟨_, exec_refreshAccrualTick hlive, ?_⟩
    exact landed (c := c) (modChan_self ..) rfl rfl fun m hm => (modChan_ne _ _ hm).trans (hother m hm)
  · intro r due
    have hr : mr4Code m = r := by cases m <;> rfl
    refine ⟨fun hdue => ⟨_, exec_mr4Poll_due hlive hdue, ?_, fun h2 h4 => ?_⟩,
      fun hdue => exec_mr4Poll_off fun h => hdue h.2⟩
    · rw [hr]
      exact landed (c := c) ((polled_dramChan ..).trans (modChan_self ..)) rfl rfl fun m hm =>
        (polled_dramChan ..).trans ((modChan_ne _ _ hm).trans (hother m hm))
    · refine enterForced_irq _ (by decide) ?_
      rw [hr, h2, polled, if_pos (by exact ⟨rfl, h4⟩)]
      exact bit_raiseIrq_irqStatus (by decide) _
  · exact if_neg (by simp [hlive])
  · exact exec_mr4Poll_off fun h => absurd (hlive.symm.trans h.1) (by decide)
  · exact ⟨_, if_pos hst, modChan_self ..⟩

end Sys2Proof.Machine

/-!
The lanes of an octet in link configuration: what the external device answers.
-/

namespace Sys2Proof.Machine

/-! ## The octet of a lane (R271, R277, R284) -/

/-- The octet as it is, ready where every lane is. -/
def readyOf (x : Octet) : Octet :=
  { x with linkReady := x.linkReady || (x.linkEn && x.locked && x.rxLol == 0 && x.txFault == 0 &&
    ((List.range 4).all fun j => x.rtts.get j != 0) && x.mgmt.all fun e => e.2.1 != 0) }

theorem tryReady_eq (o : Nat) (s : State) : tryReady o s = modOctet o readyOf s := rfl

/-- A range opened or closed on a channel leaves the octets. -/
theorem openSuspect_octets (c cause win : Nat) (s : State) : (openSuspect c cause win s).octets = s.octets :=
  (kept_openSuspect (m := [.pins]) c cause win (List.Subset.refl _) (Kept.refl _ s)).same .octets (by decide)

theorem closeSuspect_octets (c : Nat) (s : State) : (closeSuspect c s).octets = s.octets :=
  (kept_closeSuspect (m := [.sys, .hqm, .sites, .pins, .cap, .dds, .halso, .perf, .out]) c (List.Subset.refl _)
    (Kept.refl _ s)).same .octets (by decide)

/-- The octet with its lanes changed, and the event of a lane that has lost its lock. -/
def laned (f : Octet → Octet) (x : Octet) : Octet :=
  { f x with laneEvent := (f x).laneEvent || ((f x).rxLol &&& ~~~ x.rxLol) != 0 || ((f x).txFault &&& ~~~ x.txFault) != 0 }

/-- What a logical pin sees of its lane's change. -/
def seeLane (o : Nat) (a b : Octet) (i : Nat) (t : State) : State :=
  if a.pinGood (8 * o + i) = b.pinGood (8 * o + i) then t
  else
    let t1 := modPin (8 * o + i) (fun p => { p with lchg := noteChg t.now (b.pinGood (8 * o + i)) p.lchg }) t
    if b.pinGood (8 * o + i) then closeSuspect (8 * o + i) t1
    else openSuspect (8 * o + i) (if bit b.rxLol (i / 2) || bit b.txFault (i / 2) then 5 else 6) 0 t1

theorem setLanes_eq (o : Nat) (f : Octet → Octet) (s : State) : setLanes o f s = modOctet o readyOf
    ((List.range 8).foldl (fun t i => seeLane o (s.octet o) ((modOctet o (laned f) s).octet o) i t)
      (modOctet o (laned f) s)) := rfl

theorem seeLane_octets (o : Nat) (a b : Octet) (i : Nat) (t : State) : (seeLane o a b i t).octets = t.octets := by
  unfold seeLane
  dsimp only
  split
  · rfl
  · split
    · rw [closeSuspect_octets, modPin_octets]
    · rw [openSuspect_octets, modPin_octets]

/-- A foldl of steps that each leave a part of the state leaves it. -/
theorem foldl_same {α β : Type} (view : State → β) (f : State → α → State) (hf : ∀ t a, view (f t a) = view t)
    (l : List α) (s : State) : view (l.foldl f s) = view s := by
  induction l generalizing s with
  | nil => rfl
  | cons a l ih => rw [List.foldl_cons, ih, hf]

theorem octet_of_octets {s t : State} (h : t.octets = s.octets) (o : Nat) : t.octet o = s.octet o := by
  rw [State.octet, h, State.octet]

/-- The lanes of an octet after a change, by the octet alone. -/
theorem setLanes_octet (o : Nat) (f : Octet → Octet) (s : State) :
    (setLanes o f s).octet o = readyOf (laned f (s.octet o)) := by
  have hsee := foldl_same State.octets _ (fun t i => seeLane_octets o (s.octet o)
    ((modOctet o (laned f) s).octet o) i t) (List.range 8) (modOctet o (laned f) s)
  rw [setLanes_eq, modOctet_octet_self, octet_of_octets hsee, modOctet_octet_self]

/-! ## Management words (R275, R283) -/

/-- A management word that waits replaces an older one of its lane and address. -/
def mgmtPut (lane addr w : Nat) (x : Octet) : Octet :=
  { x with mgmt := (x.mgmt.filter fun e => e.1 != lane || e.2.1 != addr) ++ [(lane, addr, w)] }

theorem sendMgmt_eq (o lane addr w : Nat) (s : State) : sendMgmt o lane addr w s =
    if s.octRunning o then modOctet o (mgmtPut lane addr w) s else emitMgmt o lane addr w s := rfl

theorem sendMgmt_octet (o lane addr w : Nat) (s : State) : (sendMgmt o lane addr w s).octet o =
    if s.octRunning o then mgmtPut lane addr w (s.octet o) else s.octet o := by
  rw [sendMgmt_eq]
  split
  · exact modOctet_octet_self ..
  · rfl

theorem sendMgmt_onlyOctet (o lane addr w : Nat) (s : State) : onlyOctet o s (sendMgmt o lane addr w s) := by
  intro j hj
  rw [sendMgmt_eq]
  split
  · exact modOctet_octet_ne _ _ _ _ hj
  · rfl

/-- The round trip of a lane noted. -/
def rttNoted (lane rtt : Nat) (x : Octet) : Octet := { x with rtts := x.rtts.set lane (rtt + 1) }

section
variable {o : OctetId} {lane : Fin 4} {s : State} (hl : (s.octet o.val).linkEn = true)
include hl

theorem exec_linkMarkEcho (rtt : Nat) : exec (.linkMarkEcho o lane rtt) s = .next (modOctet o.val readyOf
    (sendMgmt o.val lane.val 0 (131072 - (rtt - 65536) / 2) (modOctet o.val (rttNoted lane.val rtt) s))) := if_pos hl

/-- An octet's lane states with those that a status block tells of. -/
def laneTold (lane : Nat) (lock : Bool) (f : BitVec 2) (x : Octet) : Octet :=
  { x with
    txFault := setBit x.txFault lane !lock,
    faults := setBit (setBit x.faults (2 * lane) (bit f 0)) (2 * lane + 1) (bit f 1) }

theorem exec_linkStatusBlock (lock : Bool) (f : BitVec 2) (g : Grain) : exec (.linkStatusBlock o lane lock f g) s =
    .next (setLanes o.val (laneTold lane.val lock f) (atGrain g s)) := if_pos hl

theorem exec_linkResultWord {slotB : Bool} {w : W32} (h : bit w 22 = true) :
    exec (.linkResultWord o lane slotB w) s =
    .next (answerSite (8 * o.val + 2 * lane.val + b2n slotB) (answers w) (wordCls w) s) :=
  if_pos (Bool.and_eq_true_iff.mpr ⟨hl, h⟩)

end

/-! ## Compares that wait for their answer (R281) -/

/-- A compare with its answer. -/
def answered (a : Option Cls) (r : CmpRes) : CmpRes :=
  { r with sent := false, cls := a, supp := a.isNone, judged := r.judged && a.isSome }

/-- The suspect range of a compare without a result, where the channel has none open. -/
def rangeMade (c : Nat) (a : Option Cls) (ranged : Bool) : List SusEnt :=
  if a = none ∧ ranged = false then [(c, 8, 0)] else []

/-- An answer for the compare at the head of what a site holds. -/
theorem answerHeld_head {c : Nat} {pick : CmpRes → Bool} {a : Option Cls} {p : At} {ts : Nat} {u : Bool} {pr : Option Nat}
    {lm : Bool} {q : PinRes} {rs : List PinRes} {os cs : List SusEnt} {l : List Held} {r : CmpRes} {rest : List CmpRes}
    (hq : q.ch = c) (hr : q.cmps = r :: rest) (hs : r.sent = true) (hp : pick r = true) :
    answerHeld c pick a (.vec p ts u pr lm (q :: rs) os cs :: l) =
      .vec p ts u pr lm ({ q with cmps := answered a r :: rest } :: rs)
        (os ++ rangeMade c a ((q :: rs).any (fun z => z.ch == c && z.ranged) || os.any fun e => e.1 == c))
        (cs ++ rangeMade c a ((q :: rs).any (fun z => z.ch == c && z.ranged) || os.any fun e => e.1 == c)) :: l := by
  have hcmps : answerCmps pick a q.cmps = some (answered a r :: rest) := by
    rw [hr]
    exact if_pos (Bool.and_eq_true_iff.mpr ⟨hs, hp⟩)
  have hpins : answerPins c pick a (q :: rs) = some ({ q with cmps := answered a r :: rest } :: rs) := by
    rw [answerPins, if_pos hq, hcmps]
  have hadd : (a.isNone && (q :: rs).all (fun r => r.ch != c || !r.ranged) && os.all fun e => e.1 != c) = true ↔
      a = none ∧ ((q :: rs).any (fun z => z.ch == c && z.ranged) || os.any fun e => e.1 == c) = false := by
    rw [Bool.and_eq_true, Bool.and_eq_true, Option.isNone_iff_eq_none, Bool.or_eq_false_iff, and_assoc,
      List.any_eq_not_all_not, List.any_eq_not_all_not, Bool.not_eq_false', Bool.not_eq_false']
    simp only [Bool.not_and, bne]
  unfold answerHeld rangeMade
  rw [hpins]
  dsimp only
  by_cases hc : a = none ∧ ((q :: rs).any (fun z => z.ch == c && z.ranged) || os.any fun e => e.1 == c) = false
  · rw [if_pos (hadd.mpr hc), if_pos (hadd.mpr hc), if_pos hc]
  · rw [if_neg (mt hadd.mp hc), if_neg (mt hadd.mp hc), if_neg hc, List.append_nil, List.append_nil]

/-- What a site holds, answered. -/
def heldAnswered (c : Nat) (pick : CmpRes → Bool) (a : Option Cls) (y : Site) : Site :=
  { y with held := answerHeld c pick a y.held }

theorem answerSite_found {c n : Nat} {pick : CmpRes → Bool} {a : Option Cls} {x : Site} {s : State}
    (h : (s.sites.find? fun e => bit e.2.pinMap c && !e.2.held.isEmpty) = some (n, x)) :
    answerSite c pick a s = settle n (flush n x.held.length (modSite n (heldAnswered c pick a) s)) := by
  unfold answerSite
  rw [h]
  rfl

/-- A result word that names the compare. -/
theorem answers_iff (w : W32) (r : CmpRes) : answers w r = true ↔
    (r.t % 524288).toNat = bits w 0 19 ∧ (r.t / 524288 % 16).toNat = bits w 23 4 := by
  rw [answers, Bool.and_eq_true, beq_iff_eq, beq_iff_eq]
  rfl

/-- The class of a result word by its code. -/
theorem wordCls_eq (w : W32) : wordCls w = if bits w 19 2 = 0 then some .between else if bits w 19 2 = 1 then some .low
    else if bits w 19 2 = 2 then some .high else none := by
  unfold wordCls
  generalize bits w 19 2 = n
  match n with
  | 0 => rfl
  | 1 => rfl
  | 2 => rfl
  | n + 3 => rfl

/-- The echo of a lane: its round trip, the word sent to its device, and the octet ready with the last lane. -/
theorem echo_effect (o lane addr w rtt : Nat) (s : State) (hl : (s.octet o).linkEn = true) :
    let t := modOctet o readyOf (sendMgmt o lane addr w (modOctet o (rttNoted lane rtt) s))
    (t.octet o).rtts.get lane = rtt + 1 ∧ onlyOctet o s t ∧ mgmtSent o lane addr w s t ∧
    (s.octRunning o = false → (s.octet o).mgmt = [] → (s.octet o).locked = true → (s.octet o).rxLol = 0 →
      (s.octet o).txFault = 0 → (∀ j, j < 4 → j ≠ lane → (s.octet o).rtts.get j ≠ 0) → (t.octet o).linkReady = true) := by
  intro t
  have hrun : (modOctet o (rttNoted lane rtt) s).octRunning o = s.octRunning o := rfl
  have hoct : t.octet o = readyOf (if s.octRunning o then mgmtPut lane addr w (rttNoted lane rtt (s.octet o))
      else rttNoted lane rtt (s.octet o)) := by
    rw [modOctet_octet_self, sendMgmt_octet, hrun, modOctet_octet_self]
  have hrtts : (t.octet o).rtts = (s.octet o).rtts.set lane (rtt + 1) := by
    rw [hoct]
    split <;> rfl
  refine ⟨by rw [hrtts, SMap.get_set_eq], fun j hj => ?_, ?_, fun hr hm hk hx hf hall => ?_⟩
  · rw [modOctet_octet_ne _ _ _ _ hj, sendMgmt_onlyOctet o lane addr w _ j hj, modOctet_octet_ne _ _ _ _ hj]
  · have hout : t.out = (sendMgmt o lane addr w (modOctet o (rttNoted lane rtt) s)).out := rfl
    unfold mgmtSent
    rw [hout, sendMgmt_eq, hrun]
    split
    · next hr =>
      rw [hoct, if_pos hr]
      exact ⟨rfl, rfl⟩
    · rfl
  · have hrtt : ∀ j, j < 4 → ((s.octet o).rtts.set lane (rtt + 1)).get j ≠ 0 := fun j hj => by
      by_cases h : j = lane
      · rw [h, SMap.get_set_eq]
        exact Nat.succ_ne_zero rtt
      · rw [SMap.get_set_ne _ _ _ _ h]
        exact hall j hj h
    rw [hoct, if_neg (by rw [hr]; decide)]
    simp only [readyOf, rttNoted, hl, hk, hx, hf, hm, List.all_nil, Bool.or_eq_true]
    exact .inr (by simp; exact fun j hj => hrtt j hj)

/-- Settles O50: the echo and the status block by their octet, an answer by the site that holds the compare. -/
theorem linkLanesAnswer : Obligations.LinkLanesAnswer := by
  intro o lane s hl
  refine ⟨fun rtt => ⟨_, exec_linkMarkEcho hl rtt, ?_⟩, fun lock f g => ⟨_, exec_linkStatusBlock hl lock f g, ?_⟩, ?_⟩
  · exact echo_effect o.val lane.val 0 _ rtt s hl
  · rw [setLanes_octet]
    exact ⟨rfl, rfl⟩
  · intro slotB w n x p ts u pr lm q rs os cs l r rest c hf hx hheld hq hr hs answered' ranged after
    have hafter : ∀ pick a, pick r = true → heldAnswered c pick a x = { x with held := after a } := fun pick a hp => by
      rw [heldAnswered, hheld, answerHeld_head hq hr hs hp]
      rfl
    have hput : ∀ pick a, pick r = true → (modSite n (heldAnswered c pick a) s).site n = { x with held := after a } ∧
        onlySite n s (modSite n (heldAnswered c pick a) s) := fun pick a hp => by
      rw [modSite_site_self, hx]
      exact ⟨hafter pick a hp, fun j hj => modSite_site_ne _ _ _ _ hj⟩
    refine ⟨fun h22 ht hsp => ?_, fun ch hc ht => ?_⟩
    · intro a
      have ha : wordCls w = a := wordCls_eq w
      have hrow := (exec_linkResultWord (slotB := slotB) hl h22).trans (congrArg _ (answerSite_found hf))
      rw [ha] at hrow
      exact ⟨_, hrow, hput _ a ((answers_iff w r).mpr ⟨ht, hsp⟩)⟩
    · have hrow : exec (.linkResultTimeout ch) s = .next (answerSite ch.val _ none s) := rfl
      rw [hc, answerSite_found hf] at hrow
      exact ⟨_, hrow, hput _ none (decide_eq_true ht)⟩

end Sys2Proof.Machine

/-!
What the fail log, the trigger units and the latches can do to a state, for any property of states that their few
primitive steps keep; and that of the channels and of IRQ_STATUS.
-/

namespace Sys2Proof.Machine

/-! ## Properties that the fail log keeps -/

/-- The count of a channel's fails moved on. -/
def failsCounted (n : Nat) (p : Pin) : Pin := { p with fails := satAdd (2 ^ 32 - 1) p.fails n }

/-- A property of states that the log's primitive steps keep: those that change no more than sites, capture, generators,
the link and the output record; interrupts, events, completions, and the counts of fails. -/
structure Steady (R : State → Prop) : Prop where
  quiet : ∀ {s t : State}, Kept [.sites, .cap, .dds, .halso, .out] s t → R s → R t
  raised : ∀ (b : Nat) {s : State}, R s → R (raiseIrq b s)
  counted : ∀ (code unit occ : Nat) {s : State}, R s → R (perfEvent code unit occ s)
  completed : ∀ (k : Option Nat) (st : BitVec 8) (r : Nat) {s : State}, R s → R (completeOpt k st r s)
  failed : ∀ (c n : Nat) {s : State}, R s → R (modPin c (failsCounted n) s)

section
variable {R : State → Prop} (hR : Steady R) {s : State}
include hR

theorem Steady.modEng (n : Nat) (f : CapEng → CapEng) (h : R s) : R (modEng n f s) :=
  hR.quiet (kept_modEng n f (by decide) (Kept.refl _ s)) h

theorem Steady.modSiteCap (n : Nat) (f : SiteCap → SiteCap) (h : R s) : R (modSiteCap n f s) :=
  hR.quiet (kept_modSiteCap n f (by decide) (Kept.refl _ s)) h

theorem Steady.modUnit (n : Nat) (f : TrigUnit → TrigUnit) (h : R s) : R (modUnit n f s) :=
  hR.quiet (kept_modUnit n f (by decide) (Kept.refl _ s)) h

theorem Steady.modGroup (n : Nat) (f : Group → Group) (h : R s) : R (modGroup n f s) :=
  hR.quiet (kept_modGroup n f (by decide) (Kept.refl _ s)) h

theorem Steady.modSite (n : Nat) (f : Site → Site) (h : R s) : R (modSite n f s) :=
  hR.quiet (kept_modSite n f (by decide) (Kept.refl _ s)) h

theorem Steady.emit (o : Out) (h : R s) : R (emit o s) := hR.quiet (kept_emit o (by decide) (Kept.refl _ s)) h

omit hR in
theorem Steady.foldl {α : Type} (f : State → α → State) (l : List α) (hf : ∀ t a, R t → R (f t a)) (h : R s) :
    R (l.foldl f s) := by
  induction l generalizing s with
  | nil => exact h
  | cons a l ih => exact ih (hf s a h)

/-! ### Entries of the log -/

theorem Steady.putStaged (n : Nat) (bits : BitVec 256) (r : Bool) (h : R s) : R (putStaged n bits r s) :=
  hR.counted _ _ _ (hR.modSiteCap _ _ (hR.modEng _ _ h))

theorem Steady.loseEntry (n : Nat) (f : Bool) (h : R s) : R (loseEntry n f s) :=
  hR.raised _ (hR.counted _ _ _ (hR.modEng _ _ (hR.modSiteCap _ _ h)))

theorem Steady.putTrunc (n c : Nat) (p : At) (h : R s) : R (putTrunc n c p s) :=
  hR.modSiteCap _ _ (hR.putStaged _ _ _ h)

theorem Steady.stageEntry (n : Nat) (f : Bool) (b : BitVec 256) (p : At) (h : R s) : R (stageEntry n f b p s) := by
  unfold Machine.stageEntry
  dsimp only
  split
  · exact h
  · split
    · exact hR.loseEntry n f h
    · split
      · exact hR.putStaged _ _ _ (hR.putTrunc _ _ _ h)
      · exact hR.putStaged _ _ _ h

theorem Steady.stageFail (n : Nat) (b : BitVec 256) (p : At) (h : R s) : R (stageFail n b p s) := by
  unfold Machine.stageFail
  dsimp only
  split
  · exact hR.modSiteCap _ _ h
  · exact hR.stageEntry _ _ _ _ (hR.modSiteCap _ _ h)

theorem Steady.stageEnd (n : Nat) (stopped : Bool) (b : BitVec 256) (p : At) (h : R s) : R (stageEnd n stopped b p s) := by
  have hput : ∀ c : Bool, R (if c then Machine.putTrunc n (if stopped then 1 else (s.cap.sites.get n).truncCause) p s else s) :=
    fun c => by
      split
      · exact hR.putTrunc _ _ _ h
      · exact h
  unfold Machine.stageEnd
  dsimp only
  split
  · exact h
  · split
    · exact hR.modSiteCap _ _ (hR.loseEntry n false h)
    · split
      · exact hR.putStaged _ _ _ (hput _)
      · exact hR.loseEntry _ _ (hput _)

/-! ### Trigger units and groups -/

theorem Steady.missTrigger (m u : Nat) (h : R s) : R (missTrigger m u s) :=
  hR.modGroup _ _ (hR.counted _ _ _ (hR.modUnit _ _ h))

theorem Steady.holdFor (u t : Nat) (sm : Option Sample) (h : R s) : R (holdFor u t sm s) := hR.modUnit _ _ h

theorem Steady.setLatches (i t : Nat) (h : R s) : R (setLatches i t s) :=
  hR.quiet (kept_setLatches i t (by decide) (Kept.refl _ s)) h

theorem Steady.jumpSource (k i t : Nat) (h : R s) : R (jumpSource k i t s) :=
  hR.quiet (kept_jumpSource k i t (by decide) (Kept.refl _ s)) h

theorem Steady.sendFiring (g : Group) (u t : Nat) (h : R s) : R (sendFiring g u t s) :=
  hR.quiet (kept_sendFiring g u t (by decide) (Kept.refl _ s)) h

theorem Steady.trigger (m t : Nat) (a b : BitVec 16) (f : Bool) (h : R s) : R (trigger m t a b f s) :=
  hR.quiet (kept_trigger m t a b f (by decide) (Kept.refl _ s)) h

theorem Steady.fireEffects (m u t : Nat) (h : R s) : R (fireEffects m u t s) := by
  unfold Machine.fireEffects
  dsimp only
  refine hR.sendFiring _ _ _ (hR.jumpSource _ _ _ ?_)
  split
  · exact hR.emit _ (hR.setLatches _ _ (hR.counted _ _ _ h))
  · exact hR.setLatches _ _ (hR.counted _ _ _ h)

theorem Steady.conditionMet (u t : Nat) (h : R s) : R (conditionMet u t s) := by
  unfold Machine.conditionMet
  dsimp only
  split
  · exact h
  split
  · exact hR.missTrigger _ _ h
  split
  · split
    · with_reducible exact hR.fireEffects _ _ _ (hR.modUnit _ _ h)
    · exact hR.missTrigger _ _ h
  split
  · with_reducible exact hR.trigger _ _ _ _ _ (hR.fireEffects _ _ _ (hR.holdFor _ _ _ h))
  split
  · split
    · with_reducible exact hR.modGroup _ _ (hR.fireEffects _ _ _ (hR.holdFor _ _ _ h))
    · with_reducible exact hR.missTrigger _ _ h
  · split
    · with_reducible exact hR.modGroup _ _ (hR.fireEffects _ _ _ (hR.holdFor _ _ _ h))
    · with_reducible exact hR.missTrigger _ _ h

theorem Steady.sourceEvent (src sel t : Nat) (h : R s) : R (sourceEvent src sel t s) :=
  Steady.foldl _ _ (fun x u hx => by
    dsimp only
    split
    · exact hR.conditionMet _ _ hx
    · exact hx) h

theorem Steady.settleTrigger (m : Nat) (h : R s) : R (settleTrigger m s) :=
  hR.quiet (kept_settleTrigger m (by decide) (Kept.refl _ s)) h

theorem Steady.closeIfDone (m : Nat) (h : R s) : R (closeIfDone m s) :=
  hR.quiet (kept_closeIfDone m (by decide) (Kept.refl _ s)) h

theorem Steady.closeRecord (m e : Nat) (h : R s) : R (closeRecord m e s) :=
  hR.quiet (kept_closeRecord m e (by decide) (Kept.refl _ s)) h

theorem Steady.endArming (m : Nat) (h : R s) : R (endArming m s) := by
  unfold Machine.endArming
  dsimp only
  split
  · exact hR.modGroup _ _ (hR.modGroup _ _ h)
  · exact hR.completed _ _ _ (Steady.foldl _ _ (fun t x ht => hR.completed _ _ _ ht) (hR.modGroup _ _ h))

theorem Steady.resolveShut (m : Nat) (h : R s) : R (resolveShut m s) := by
  unfold Machine.resolveShut
  split
  · exact h
  · split
    · exact h
    · dsimp only
      split
      · exact hR.endArming _ (hR.modGroup _ _ (hR.closeRecord _ _ (hR.settleTrigger _ h)))
      · exact hR.modGroup _ _ (hR.closeRecord _ _ (hR.settleTrigger _ h))

theorem Steady.shutGroup (m flags : Nat) (dis : Bool) (h : R s) : R (shutGroup m flags dis s) := by
  unfold Machine.shutGroup
  dsimp only
  split
  · exact hR.resolveShut _ (hR.modGroup _ _ h)
  · split
    · exact hR.endArming _ h
    · exact h

theorem Steady.siteIdleGroups (n : Nat) (h : R s) : R (siteIdleGroups n s) := by
  refine Steady.foldl _ _ (fun t m ht => ?_) h
  dsimp only
  split
  · split
    · split
      · exact hR.resolveShut _ ht
      · exact hR.closeRecord _ _ (hR.settleTrigger _ ht)
    · split
      · exact hR.modGroup _ _ ht
      · exact ht
  · exact ht

/-! ### Vectors and runs that enter the log -/

theorem Steady.noteProbe (n di : Nat) (rs : List PinRes) (h : R s) : R (noteProbe n di rs s) :=
  hR.quiet (kept_noteProbe n di rs (by decide) (Kept.refl _ s)) h

theorem Steady.firstFail (n : Nat) (p : At) (c : Nat) (h : R s) : R (firstFail n p c s) :=
  hR.quiet (kept_firstFail n p c (by decide) (Kept.refl _ s)) h

theorem Steady.countVector (n a b c : Nat) (h : R s) : R (countVector n a b c s) := hR.modSiteCap _ _ h

theorem Steady.sampleVector (n t v : Nat) (cls : Nat → Option Cls) (marks : List (Nat × Nat)) (h : R s) :
    R (sampleVector n t v cls marks s) := by
  unfold Machine.sampleVector
  refine Steady.foldl _ _ (fun x m hx => ?_) (Steady.foldl _ _ (fun x k hx => ?_) (Steady.foldl _ _ (fun x m hx => ?_) h))
  · split
    · exact hR.resolveShut _ (hR.closeIfDone _ hx)
    · exact hx
  · dsimp only
    split
    · split
      · exact hR.conditionMet _ _ (hR.modUnit _ _ hx)
      · exact hR.modUnit _ _ hx
    · exact hx
  · dsimp only
    split
    · exact hR.settleTrigger _ (hR.modGroup _ _ hx)
    · exact hx

theorem Steady.countPin (r : PinRes) (h : R s) : R (countPin s r) := by
  unfold Machine.countPin
  refine hR.counted _ _ _ (hR.counted _ _ _ (hR.counted _ _ _ ?_))
  split
  · exact h
  · exact hR.failed r.ch (r.cmps.filter CmpRes.fails).length h

theorem Steady.finishVec (n : Nat) (p : At) (ts : Nat) (untr : Bool) (probe : Option Nat) (logM : Bool)
    (rs : List PinRes) (opens closes : List SusEnt) (h : R s) : R (finishVec n p ts untr probe logM rs opens closes s) := by
  have hsus : ∀ (l : List SusEnt) ty t, R t → R (l.foldl (susEntry n ty untr p) t) := fun l ty t ht =>
    Steady.foldl _ _ (fun u e hu => hR.stageEntry _ _ _ _ hu) ht
  unfold Machine.finishVec
  dsimp only
  refine hR.sampleVector _ _ _ _ _ ?_
  have hopened := hsus opens 0x04 _ (Steady.foldl Machine.countPin rs (fun t r ht => hR.countPin r ht)
    (hR.countVector n ((rs.flatMap (·.cmps)).filter (·.judged)).length
      (rs.filter fun r => r.cmps.any CmpRes.fails).length ((rs.flatMap (·.cmps)).filter (·.supp)).length h))
  split
  · refine hR.noteProbe _ _ _ (hsus closes 0x05 _ (Steady.foldl _ _ (fun t o ht => hR.stageFail _ _ _ ht) ?_))
    split
    · exact hopened
    · exact hR.firstFail _ _ _ hopened
  · refine hsus closes 0x05 _ (Steady.foldl _ _ (fun t o ht => hR.stageFail _ _ _ ht) ?_)
    split
    · exact hopened
    · exact hR.firstFail _ _ _ hopened

theorem Steady.finishRun (n : Nat) (p : At) (stopped : Bool) (st re : BitVec 8) (u : Bool) (h : R s) :
    R (finishRun n p stopped st re u s) := by
  unfold Machine.finishRun
  with_reducible exact hR.stageEnd _ _ _ _ (hR.siteIdleGroups _ h)

theorem Steady.flush (n f : Nat) (h : R s) : R (flush n f s) := by
  induction f generalizing s with
  | zero => exact h
  | succ f ih =>
    have hd : ∀ r, R (Machine.modSite n (fun x => { x with held := r }) s) := fun r => hR.modSite _ _ h
    unfold Machine.flush
    dsimp only
    split
    · exact h
    · split
      · split
        · exact h
        · exact ih (hR.finishVec _ _ _ _ _ _ _ _ _ (hd _))
      · split
        · exact h
        · exact ih (hR.stageEntry _ _ _ _ (hd _))
      · exact ih (hR.finishRun _ _ _ _ _ _ (hd _))

theorem Steady.hold (n : Nat) (x : Held) (h : R s) : R (hold n x s) := hR.flush n _ (hR.modSite _ _ h)

end

/-! ## What the fail log leaves of the channels and of IRQ_STATUS -/

theorem bit_perfEvent_of_bit {b : Nat} (code unit occ : Nat) {s : State} (hb : b < 20)
    (h : bit s.sys.irqStatus b = true) : bit (perfEvent code unit occ s).sys.irqStatus b = true := by
  unfold perfEvent perfFrom
  dsimp only
  split
  · split
    · exact bit_raiseIrq_of_bit 19 hb h
    · exact h
  · exact h

/-- Interrupts stand, and of a channel only its count of fails has changed. -/
def Noted (s t : State) : Prop :=
  (∀ b, b < 20 → bit s.sys.irqStatus b = true → bit t.sys.irqStatus b = true) ∧
  ∀ j, ∃ n, t.pin j = { s.pin j with fails := n }

theorem Noted.refl (s : State) : Noted s s := ⟨fun _ _ => id, fun _ => ⟨_, rfl⟩⟩

theorem Noted.trans {s t u : State} (h : Noted s t) (k : Noted t u) : Noted s u := by
  refine ⟨fun b hb hs => k.1 b hb (h.1 b hb hs), fun j => ?_⟩
  obtain ⟨_, ht⟩ := h.2 j
  obtain ⟨_, hu⟩ := k.2 j
  exact ⟨_, by rw [hu, ht]⟩

theorem noted_ofKept {m : List Part} {s t : State} (h : Kept m s t) (hsys : Part.sys ∉ m) (hpins : Part.pins ∉ m) :
    Noted s t := by
  have hs : t.sys = s.sys := h.same .sys hsys
  have hp : t.pins = s.pins := h.same .pins hpins
  refine ⟨fun b _ => ?_, fun j => ⟨(s.pin j).fails, ?_⟩⟩
  · rw [hs]
    exact id
  · rw [State.pin, hp, State.pin]

/-- The log's steps keep them. -/
theorem noted_steady (s0 : State) : Steady (Noted s0) where
  quiet k h := h.trans (noted_ofKept k (by decide) (by decide))
  raised b {s} h := h.trans ⟨fun _ hc => bit_raiseIrq_of_bit b hc, fun j => ⟨_, signalled_pin (signalled_raiseIrq b s) j⟩⟩
  counted c u o {s} h := h.trans ⟨fun _ => bit_perfEvent_of_bit c u o,
    fun j => ⟨_, signalled_pin (signalled_perfEvent c u o s) j⟩⟩
  completed k st r {s} h := h.trans (noted_ofKept (kept_completeOpt (m := [.hqm]) k st r (List.Subset.refl _) (Kept.refl _ s))
    (by decide) (by decide))
  failed c n {s} h := h.trans ⟨fun _ _ => id, fun j => by
    rw [modPin_pin]
    split
    · next hj => exact ⟨_, by rw [hj, failsCounted]⟩
    · exact ⟨_, rfl⟩⟩

end Sys2Proof.Machine

/-!
Loss and return of lock: the channels, the octet's UI PLL, and the suspect ranges that they open.
-/

namespace Sys2Proof.Machine

/-! ## What the ranges and the lanes leave of a channel -/

/-- Interrupts stand, and of a channel only its fails, its suspect range and its lane's changes have moved. -/
def TrackKept (s t : State) : Prop :=
  (∀ b, b < 20 → bit s.sys.irqStatus b = true → bit t.sys.irqStatus b = true) ∧
  ∀ j, ∃ n z l, t.pin j = { s.pin j with fails := n, suspect := z, lchg := l }

theorem TrackKept.refl (s : State) : TrackKept s s := ⟨fun _ _ => id, fun _ => ⟨_, _, _, rfl⟩⟩

theorem TrackKept.trans {s t u : State} (h : TrackKept s t) (k : TrackKept t u) : TrackKept s u := by
  refine ⟨fun b hb hs => k.1 b hb (h.1 b hb hs), fun j => ?_⟩
  obtain ⟨_, _, _, ht⟩ := h.2 j
  obtain ⟨_, _, _, hu⟩ := k.2 j
  exact ⟨_, _, _, by rw [hu, ht]⟩

theorem Noted.trackKept {s t : State} (h : Noted s t) : TrackKept s t := by
  refine ⟨h.1, fun j => ?_⟩
  obtain ⟨n, ht⟩ := h.2 j
  exact ⟨n, _, _, ht⟩

theorem trackKept_modPin {c : Nat} {f : Pin → Pin} {s : State}
    (hf : ∃ n z l, f (s.pin c) = { s.pin c with fails := n, suspect := z, lchg := l }) : TrackKept s (modPin c f s) := by
  refine ⟨fun _ _ => id, fun j => ?_⟩
  rw [modPin_pin]
  split
  · next h => rw [h]; exact hf
  · exact ⟨_, _, _, rfl⟩

/-- The range of a channel, opened unless one is open. -/
def rangeOpened (n cause win : Nat) (p : Pin) : Pin :=
  { p with suspect :=
    match p.suspect with
    | some z => some { z with closing := false }
    | none => some { site := n, cause := cause, lockWin := win } }

theorem openSuspect_eq (c cause win : Nat) (s : State) : openSuspect c cause win s =
    match s.ownerOf c with
    | none => s
    | some n => if (s.site n).running && (s.site n).play != .starting && (s.site n).play != .ended then
        modPin c (rangeOpened n cause win) s else s := rfl

theorem trackKept_openSuspect (c cause win : Nat) (s : State) : TrackKept s (openSuspect c cause win s) := by
  rw [openSuspect_eq]
  split
  · exact .refl s
  · split
    · exact trackKept_modPin ⟨_, _, _, rfl⟩
    · exact .refl s

theorem trackKept_closeSuspect (c : Nat) (s : State) : TrackKept s (closeSuspect c s) := by
  unfold closeSuspect
  split
  · exact .refl s
  · split
    · exact .refl s
    · dsimp only
      split
      · exact trackKept_modPin ⟨_, _, _, rfl⟩
      · split
        · exact (trackKept_modPin ⟨_, none, _, rfl⟩).trans ((noted_steady _).hold _ _ (.refl _)).trackKept
        · exact trackKept_modPin ⟨_, none, _, rfl⟩

theorem trackKept_seeLane (o : Nat) (a b : Octet) (i : Nat) (s : State) : TrackKept s (seeLane o a b i s) := by
  unfold seeLane
  dsimp only
  split
  · exact .refl s
  · have hnote : TrackKept s (modPin (8 * o + i) (fun p => { p with
        lchg := noteChg s.now (b.pinGood (8 * o + i)) p.lchg }) s) := trackKept_modPin ⟨_, _, _, rfl⟩
    split
    · exact hnote.trans (trackKept_closeSuspect _ _)
    · exact hnote.trans (trackKept_openSuspect _ _ _ _)

theorem trackKept_setLanes (o : Nat) (f : Octet → Octet) (s : State) : TrackKept s (setLanes o f s) := by
  rw [setLanes_eq]
  exact List.foldlRecOn (motive := TrackKept s) (List.range 8) _ (b := modOctet o (laned f) s)
    (TrackKept.refl s) fun t ht i _ => ht.trans (trackKept_seeLane ..)

theorem trackKept_setRxLane (c : Nat) (locked : Bool) (s : State) : TrackKept s (setRxLane c locked s) := by
  unfold setRxLane
  dsimp only
  split
  · exact trackKept_setLanes _ _ s
  · exact .refl s

/-! ## A channel loses or finds its lock (R256, R257) -/

/-- A channel that loses its lock. -/
def lockLost (now : Nat) (y : Pin) : Pin :=
  { y with
    locked := false, lolEvent := true, lolCount := satAdd 0xFFFF y.lolCount 1, goodWin := 0,
    chg := noteChg now false y.chg, scan := y.scan.map fun z => { z with unl := true } }

/-- A channel that finds its lock. -/
def lockFound (now : Nat) (y : Pin) : Pin := { y with locked := true, goodWin := 0, chg := noteChg now true y.chg }

theorem unlockPin_off {c cause : Nat} {s : State} (h : ¬ (s.cdrOn c = true ∧ (s.pin c).locked = true)) :
    unlockPin c cause s = s := if_neg (by rwa [Bool.and_eq_true])

theorem unlockPin_on {c cause : Nat} {s : State} (hc : s.cdrOn c = true) (hl : (s.pin c).locked = true) :
    unlockPin c cause s = if (s.octet (octOf c)).linkEn then setRxLane c false (modPin c (lockLost s.now) s)
      else openSuspect c cause (if cause = 1 then 4096 else 0) (modPin c (lockLost s.now) s) :=
  if_pos (Bool.and_eq_true_iff.mpr ⟨hc, hl⟩)

theorem unlockPin_trackKept {c cause : Nat} {s : State} (hc : s.cdrOn c = true) (hl : (s.pin c).locked = true) :
    TrackKept (modPin c (lockLost s.now) s) (unlockPin c cause s) := by
  rw [unlockPin_on hc hl]
  split
  · exact trackKept_setRxLane ..
  · exact trackKept_openSuspect ..

theorem relockPin_trackKept (c : Nat) (s : State) : TrackKept (modPin c (lockFound s.now) s) (relockPin c s) := by
  unfold relockPin
  dsimp only
  split
  · exact trackKept_setRxLane ..
  · exact trackKept_closeSuspect ..

/-- A channel that was locked has lost its lock: flagged and counted, its other state but its range as it was. -/
theorem unlockPin_pin {c cause : Nat} {s : State} (hc : s.cdrOn c = true) (hl : (s.pin c).locked = true) : ∃ n z l,
    (unlockPin c cause s).pin c = { lockLost s.now (s.pin c) with fails := n, suspect := z, lchg := l } := by
  obtain ⟨n, z, l, h⟩ := (unlockPin_trackKept (cause := cause) hc hl).2 c
  rw [modPin_pin_self] at h
  exact ⟨n, z, l, h⟩

/-! ## A range opens (R260, R298) -/

/-- A site plays with a channel of its own. -/
def State.playsOn (s : State) (c n : Nat) : Prop :=
  s.ownerOf c = some n ∧ (s.site n).running = true ∧ (s.site n).play ≠ .starting ∧ (s.site n).play ≠ .ended

theorem playsOn_of_sites {s t : State} (h : t.sites = s.sites) {c n : Nat} (hp : s.playsOn c n) : t.playsOn c n := by
  have hown : t.ownerOf c = s.ownerOf c := by rw [State.ownerOf, h, State.ownerOf]
  rw [State.playsOn, hown, site_of_sites h]
  exact hp

theorem openSuspect_playing {c n cause win : Nat} {s : State} (h : s.playsOn c n) :
    openSuspect c cause win s = modPin c (rangeOpened n cause win) s := by
  obtain ⟨hown, hrun, hs, he⟩ := h
  rw [openSuspect_eq, hown]
  exact if_pos (by simp [hrun, hs, he])

theorem openSuspect_onlyPin (c cause win : Nat) (s : State) : onlyPin c s (openSuspect c cause win s) := by
  intro j hj
  rw [openSuspect_eq]
  split
  · rfl
  · split
    · exact modPin_pin_ne _ _ _ _ hj
    · rfl

theorem openSuspect_sites (c cause win : Nat) (s : State) : (openSuspect c cause win s).sites = s.sites :=
  (kept_openSuspect (m := [.pins]) c cause win (List.Subset.refl _) (Kept.refl _ s)).same .sites (by decide)

/-- Off the link lanes a channel that loses its lock under a playing site opens a range with the cause. -/
theorem unlockPin_opens {c n cause : Nat} {s : State} (hc : s.cdrOn c = true) (hl : (s.pin c).locked = true)
    (hlink : (s.octet (octOf c)).linkEn = false) (hp : s.playsOn c n) (hz : (s.pin c).suspect = none) :
    ((unlockPin c cause s).pin c).suspect = some { site := n, cause := cause, lockWin := if cause = 1 then 4096 else 0 } := by
  have hplays : (modPin c (lockLost s.now) s).playsOn c n := hp
  rw [unlockPin_on hc hl, if_neg (by rw [hlink]; decide), openSuspect_playing hplays, modPin_pin_self, modPin_pin_self]
  show (match (s.pin c).suspect with | some z => _ | none => _) = _
  rw [hz]

/-- An unlocked channel as the statement of its loss says. -/
theorem unlockPin_unlocks {c cause : Nat} {s : State} (hc : s.cdrOn c = true) (hl : (s.pin c).locked = true) :
    ((unlockPin c cause s).pin c).locked = false ∧ ((unlockPin c cause s).pin c).lolEvent = true ∧
    ((unlockPin c cause s).pin c).lolCount = min 0xFFFF ((s.pin c).lolCount + 1) := by
  obtain ⟨_, _, _, h⟩ := unlockPin_pin (cause := cause) hc hl
  rw [h]
  exact ⟨rfl, rfl, rfl⟩

/-! ## One channel: limits of its phase and its signal (R252, R255, R256, R258) -/

theorem cdrOn_of_pin {c : Nat} {s t : State} (ho : t.octets = s.octets) (hp : (t.pin c).cfg = (s.pin c).cfg) :
    t.cdrOn c = s.cdrOn c := by
  rw [State.cdrOn, octet_of_octets ho, Pin.tracked, hp, State.cdrOn, Pin.tracked]

/-- A channel changed and then unlocked, where it was locked: what the change has set stays, and the loss is noted. -/
theorem unlockPin_after {c cause : Nat} {f : Pin → Pin} {s : State} (hcfg : (f (s.pin c)).cfg = (s.pin c).cfg)
    (hlock : (f (s.pin c)).locked = (s.pin c).locked) (hlol : (f (s.pin c)).lolCount = (s.pin c).lolCount)
    (hsus : (f (s.pin c)).suspect = (s.pin c).suspect) (hc : s.cdrOn c = true) (hl : (s.pin c).locked = true) :
    let t := unlockPin c cause (modPin c f s)
    ((t.pin c).locked = false ∧ (t.pin c).lolEvent = true ∧ (t.pin c).lolCount = min 0xFFFF ((s.pin c).lolCount + 1)) ∧
    ∀ n, s.playsOn c n → (s.pin c).suspect = none → (s.octet (octOf c)).linkEn = false →
      (t.pin c).suspect = some { site := n, cause := cause, lockWin := if cause = 1 then 4096 else 0 } := by
  have hpin : (modPin c f s).pin c = f (s.pin c) := modPin_pin_self ..
  have hc' : (modPin c f s).cdrOn c = true := (cdrOn_of_pin (modPin_octets ..) (by rw [hpin, hcfg])).trans hc
  have hl' : ((modPin c f s).pin c).locked = true := by rw [hpin, hlock, hl]
  refine ⟨?_, fun n hp hz hlink => unlockPin_opens hc' hl' hlink hp (by rw [hpin, hsus, hz])⟩
  have h := unlockPin_unlocks (cause := cause) hc' hl'
  rw [hpin, hlol] at h
  exact h

/-- What a loss of lock leaves of a channel, locked before it or not. -/
theorem unlockPin_keeps (c cause : Nat) (s : State) : ((unlockPin c cause s).pin c).phase = (s.pin c).phase ∧
    ((unlockPin c cause s).pin c).phaseLimit = (s.pin c).phaseLimit ∧
    ((unlockPin c cause s).pin c).los = (s.pin c).los ∧ ((unlockPin c cause s).pin c).losEvent = (s.pin c).losEvent ∧
    ((unlockPin c cause s).pin c).ferr = (s.pin c).ferr ∧ ((unlockPin c cause s).pin c).winT = (s.pin c).winT := by
  by_cases h : s.cdrOn c = true ∧ (s.pin c).locked = true
  · obtain ⟨_, _, _, hp⟩ := unlockPin_pin (cause := cause) h.1 h.2
    rw [hp]
    exact ⟨rfl, rfl, rfl, rfl, rfl, rfl⟩
  · rw [unlockPin_off h]
    exact ⟨rfl, rfl, rfl, rfl, rfl, rfl⟩

theorem unlockPin_locked {c cause : Nat} {s : State} (hc : s.cdrOn c = true) :
    ((unlockPin c cause s).pin c).locked = false := by
  by_cases hl : (s.pin c).locked = true
  · exact (unlockPin_unlocks hc hl).1
  · rw [unlockPin_off fun h => hl h.2]
    exact Bool.eq_false_iff.mpr hl

/-- A phase at its limit. -/
def phaseLimited (up : Bool) (now : Nat) (p : Pin) : Pin :=
  setPhase now (if up then 32767 else -32767) { p with phaseLimit := true }

theorem exec_phaseLimit {c : Chan} {up : Bool} {g : Grain} {s : State} (h : s.cdrOn c.val = true) :
    exec (.phaseLimit c up g) s =
      .next (unlockPin c.val 2 (modPin c.val (phaseLimited up (atGrain g s).now) (atGrain g s))) := if_pos h

/-- A signal lost. -/
def signalLost (p : Pin) : Pin := { p with los := true, losEvent := true }

theorem exec_losAssert {c : Chan} {g : Grain} {s : State} (h7 : bit (s.pin c.val).cfg 7 = true)
    (hl : (s.pin c.val).los = false) : exec (.losAssert c g) s =
      .next (unlockPin c.val 3 (modPin c.val signalLost (atGrain g s))) :=
  if_pos (by rw [h7, hl]; rfl)

/-! ## The end of a lock window (R252, R254 to R257) -/

/-- A ball that moves keeps all of its channel but what it drives. -/
def DriveOnly (s t : State) : Prop :=
  ∀ j, ∃ d o l, t.pin j = { s.pin j with drv := d, openIn := o, lastDrv := l }

/-- A ball driven to a level at an instant. -/
def farDriven (lvl : Nat) (t : Int) (y : Pin) : Pin := { y with drv := lvl, openIn := false, lastDrv := some t }

theorem driveOnly_movePin {s u : State} (c : Nat) (t : Int) (lvl : Nat) (h : DriveOnly s u) :
    DriveOnly s (movePin c t (farDriven lvl t) u) := by
  intro j
  obtain ⟨_, _, _, hj⟩ := h j
  have hpin : (movePin c t (farDriven lvl t) u).pin j = if j = c then farDriven lvl t (u.pin c) else u.pin j :=
    modPin_pin c j (farDriven lvl t) u
  rw [hpin]
  split
  · next hc =>
    rw [← hc, hj]
    exact ⟨_, _, _, rfl⟩
  · exact ⟨_, _, _, hj⟩

theorem driveOnly_farWindow (c e : Nat) (sliced : List Bool) (s : State) : DriveOnly s (farWindow c e sliced s) := by
  have hrefl : DriveOnly s s := fun _ => ⟨_, _, _, rfl⟩
  unfold farWindow
  split
  · split
    · unfold sendFar
      refine List.foldlRecOn (motive := fun acc : Nat × State => DriveOnly s acc.2) _ _ hrefl fun acc ht b _ => ?_
      dsimp only
      generalize (if b = true then 2 else 1) = lvl
      split
      · exact ht
      · exact driveOnly_movePin _ _ _ ht
    · exact hrefl
  · exact hrefl

/-- The channel that a lock window has told of: its error, its phase, and its good windows. -/
def windowTold (e : Nat) (ph : Int) (ferr : Int) (n : Nat) (y : Pin) : Pin :=
  setPhase e ph { y with ferr := clampI (-32768) 32767 ferr, winT := e, goodWin := n }

/-- The good windows in a row of a channel. -/
def goodWindows (ferr : Int) (p : Pin) : Nat :=
  if p.locked then 0 else if decide (-2500 ≤ ferr ∧ ferr ≤ 2500) then min 2 (p.goodWin + 1) else 0

/-- The channel at the end of its lock window, before its lock is judged. -/
def windowRead (c e : Nat) (ferr : Int) (w : CdrWindow) (s : State) : State :=
  modPin c (windowTold e (windowPhase (s.pin c).locked (s.uiOf c) (s.pin c).phase w.phase) ferr (goodWindows ferr (s.pin c)))
    (farWindow c e w.sliced (modTime (fun x => { x with grain := e % spanGr }) s))

theorem exec_lockWindowEnd {c : Chan} {ferr : Int} {w : CdrWindow} {s : State} {e : Nat} (hc : s.cdrOn c.val = true)
    (he : s.windowEnd c.val = some e) : exec (.lockWindowEnd c ferr w) s = .next (
      if (s.pin c.val).locked then
        (if ferr < -10000 ∨ 10000 < ferr then unlockPin c.val 1 (windowRead c.val e ferr w s)
        else windowRead c.val e ferr w s)
      else if goodWindows ferr (s.pin c.val) = 2 ∧ (s.octet (octOf c.val)).locked ∧ ¬(s.pin c.val).los ∧
          ((windowRead c.val e ferr w s).pin c.val).phase.natAbs < 32767 then
        relockPin c.val (windowRead c.val e ferr w s)
      else windowRead c.val e ferr w s) := by
  show execLockWindowEnd c ferr w s = _
  rw [execLockWindowEnd, hc, if_neg (by decide), he]
  rfl

/-- The window read moves the balls' drives and its own channel, and leaves the octets and the sites. -/
theorem windowRead_effect (c e : Nat) (ferr : Int) (w : CdrWindow) (s : State) :
    (windowRead c e ferr w s).octets = s.octets ∧ (windowRead c e ferr w s).sites = s.sites ∧
    ∃ d o l, (windowRead c e ferr w s).pin c = windowTold e
      (windowPhase (s.pin c).locked (s.uiOf c) (s.pin c).phase w.phase) ferr (goodWindows ferr (s.pin c))
      { s.pin c with drv := d, openIn := o, lastDrv := l } := by
  have hk := kept_farWindow (m := [.pins, .out]) c e w.sliced (List.Subset.refl _)
    (Kept.refl _ (modTime (fun x => { x with grain := e % spanGr }) s))
  obtain ⟨d, o, l, hp⟩ := driveOnly_farWindow c e w.sliced (modTime (fun x => { x with grain := e % spanGr }) s) c
  refine ⟨hk.same .octets (by decide), hk.same .sites (by decide), d, o, l, ?_⟩
  rw [windowRead, modPin_pin_self, hp]
  rfl

/-- A locked channel's phase moves by at most one grain in each of its 4,096 UI, inside its limits. -/
theorem windowPhase_locked (u : Option Nat) (old m : Int) :
    (windowPhase true u old m - old).natAbs ≤ 4096 ∨ 32767 < old.natAbs := by
  unfold windowPhase clampI
  dsimp only
  split <;> split <;> omega

/-! ## The UI PLL of an octet (R228, R229, R517) -/

/-- The state of an octet's UI PLL. -/
def Octet.pll (x : Octet) : Bool × Bool × Nat × Nat × Bool := (x.locked, x.unlockEvent, x.unlockCount, x.ceiling, x.linkEn)

theorem setLanes_octet_ne {o j : Nat} (f : Octet → Octet) (s : State) (h : j ≠ o) :
    (setLanes o f s).octet j = s.octet j := by
  have hsee := foldl_same State.octets _ (fun t i => seeLane_octets o (s.octet o)
    ((modOctet o (laned f) s).octet o) i t) (List.range 8) (modOctet o (laned f) s)
  rw [setLanes_eq, modOctet_octet_ne _ _ _ _ h, octet_of_octets hsee, modOctet_octet_ne _ _ _ _ h]

theorem setRxLane_pll (c : Nat) (locked : Bool) (s : State) (o : Nat) :
    ((setRxLane c locked s).octet o).pll = (s.octet o).pll := by
  unfold setRxLane
  dsimp only
  split
  · by_cases h : o = octOf c
    · rw [h, setLanes_octet]
      rfl
    · rw [setLanes_octet_ne _ _ h]
  · rfl

theorem unlockPin_pll (c cause : Nat) (s : State) (o : Nat) : ((unlockPin c cause s).octet o).pll = (s.octet o).pll := by
  by_cases h : s.cdrOn c = true ∧ (s.pin c).locked = true
  · rw [unlockPin_on h.1 h.2]
    split
    · rw [setRxLane_pll, modPin_octet_view]
    · rw [octet_of_octets (openSuspect_octets ..), modPin_octet_view]
  · rw [unlockPin_off h]

/-- A channel whose octet's UI PLL unlocks. -/
def pllGone (o : Nat) (s : State) (i : Nat) : State := openSuspect (8 * o + i) 4 0 (unlockPin (8 * o + i) 4 s)

/-- The octet whose UI PLL unlocks, flagged and counted. -/
def pllCounted (o : OctetId) (g : Grain) (s : State) : State :=
  modOctet o.val (fun x => { x with unlockEvent := true, unlockCount := satAdd 0xFFFF x.unlockCount 1 })
    (setLock o.val (atGrain g s).now false (atGrain g s))

theorem pllCounted_pll {o : OctetId} (g : Grain) {s : State} (h : (s.octet o.val).locked = true) :
    ((pllCounted o g s).octet o.val).pll = (false, true, min 0xFFFF ((s.octet o.val).unlockCount + 1),
      (s.octet o.val).ceiling, (s.octet o.val).linkEn) := by
  have hne : ¬ ((atGrain g s).octet o.val).locked = false := by
    rw [atGrain_octet_view, h]
    decide
  rw [pllCounted, setLock, modOctet_octet_self, modOctet_octet_self, if_neg hne]
  rfl

/-- The octet whose UI PLL unlocks, before its channels. -/
def pllUnlocked (o : OctetId) (g : Grain) (s : State) : State := setCeiling o.val 0 (pllCounted o g s)

theorem exec_uiPllUnlock {o : OctetId} {g : Grain} {s : State} (h : (s.octet o.val).locked = true) :
    exec (.uiPllUnlock o g) s = .next ((List.range 8).foldl (pllGone o.val) (pllUnlocked o g s)) := if_pos h

theorem setCeiling_effect (o v : Nat) (s : State) : (setCeiling o v s).pins = s.pins ∧ (setCeiling o v s).sites = s.sites ∧
    (((setCeiling o v s).octet o).locked = (s.octet o).locked ∧
      ((setCeiling o v s).octet o).unlockEvent = (s.octet o).unlockEvent ∧
      ((setCeiling o v s).octet o).unlockCount = (s.octet o).unlockCount ∧
      ((setCeiling o v s).octet o).linkEn = (s.octet o).linkEn) ∧
    ((setCeiling o v s).octet o).ceiling = v ∧
    (v < (s.octet o).ceiling → bit (setCeiling o v s).sys.irqStatus 1 = true) := by
  unfold setCeiling
  dsimp only
  split
  · have hsig := signalled_raiseIrq 1 (modSys (fun y => { y with
      ceilOctet := BitVec.ofNat 4 o, ceilDropped := setBit y.ceilDropped o true })
      (modOctet o (fun x => { x with drop := true }) (modOctet o (fun x => { x with ceiling := v }) s)))
    rw [signalled_octet hsig, signalled_pins hsig, signalled_sites hsig, modSys_octet_view, modOctet_octet_self,
      modOctet_octet_self]
    exact ⟨rfl, rfl, ⟨rfl, rfl, rfl, rfl⟩, rfl, fun _ => bit_raiseIrq_irqStatus (by decide) _⟩
  · next h =>
    rw [modOctet_octet_self]
    exact ⟨rfl, rfl, ⟨rfl, rfl, rfl, rfl⟩, rfl, fun hv => absurd hv h⟩

/-- The octet before its channels: unlocked, flagged, counted, without a ceiling. -/
theorem pllUnlocked_effect {o : OctetId} (g : Grain) {s : State} (h : (s.octet o.val).locked = true) :
    (pllUnlocked o g s).pins = s.pins ∧ (pllUnlocked o g s).sites = s.sites ∧
    ((pllUnlocked o g s).octet o.val).pll =
      (false, true, min 0xFFFF ((s.octet o.val).unlockCount + 1), 0, (s.octet o.val).linkEn) ∧
    (0 < (s.octet o.val).ceiling → bit (pllUnlocked o g s).sys.irqStatus 1 = true) := by
  obtain ⟨hp, hs, hpll, hc, hb⟩ := setCeiling_effect o.val 0 (pllCounted o g s)
  have hcount := pllCounted_pll g h
  simp only [Octet.pll, Prod.mk.injEq] at hcount
  obtain ⟨h1, h2, h3, h4, h5⟩ := hcount
  obtain ⟨p1, p2, p3, p5⟩ := hpll
  refine ⟨hp, hs, ?_, fun hlt => hb (h4.symm ▸ hlt)⟩
  rw [Octet.pll, pllUnlocked, p1, p2, p3, hc, p5, h1, h2, h3, h5]

/-- A fold of steps that each bear on one index: at an index it is the step there, from a state that agrees with the first
at that index. -/
theorem foldl_at {α : Type} (view : State → Nat → α) {P : State → Prop} {step : State → Nat → State}
    {l : List Nat} (hP : ∀ t, ∀ c ∈ l, P t → P (step t c))
    (hne : ∀ t, ∀ c ∈ l, ∀ j, P t → j ≠ c → view (step t c) j = view t j) (hl : l.Nodup) {s : State} (hs : P s) {i : Nat}
    (hi : i ∈ l) : ∃ u, P u ∧ view u i = view s i ∧ view (l.foldl step s) i = view (step u i) i := by
  have hrest : ∀ r : List Nat, r ⊆ l → ∀ t, P t → i ∉ r → view (r.foldl step t) i = view t i := fun r => by
    induction r with
    | nil => exact fun _ _ _ _ => rfl
    | cons a r ih =>
      intro hr t ht hi
      have ha := hr List.mem_cons_self
      rw [List.foldl_cons, ih (fun x hx => hr (List.mem_cons_of_mem a hx)) _ (hP t a ha ht)
        (fun h => hi (List.mem_cons_of_mem a h)), hne t a ha i ht fun h => hi (h ▸ List.mem_cons_self)]
  induction l generalizing s with
  | nil => exact absurd hi (List.not_mem_nil)
  | cons c l ih =>
    obtain ⟨hc, hl⟩ := List.nodup_cons.mp hl
    have htail : l ⊆ c :: l := List.subset_cons_self c l
    by_cases h : i = c
    · exact ⟨s, hs, rfl, by rw [h, List.foldl_cons, ← h, hrest l htail _ (hP s i hi hs) (h ▸ hc)]⟩
    · obtain ⟨u, hu, hv, hf⟩ := ih (fun t a ha => hP t a (htail ha)) (fun t a ha => hne t a (htail ha)) hl
        (hP s c List.mem_cons_self hs) ((List.mem_cons.mp hi).resolve_left h) fun r hr => hrest r fun x hx => htail (hr hx)
      exact ⟨u, hu, hv.trans (hne s c List.mem_cons_self i hs h), hf⟩

/-- What of a channel tells whether it is locked, and how often it has lost its lock. -/
def Pin.lock (p : Pin) : Bool × Bool × Nat × W32 := (p.locked, p.lolEvent, p.lolCount, p.cfg)

theorem TrackKept.lock {s t : State} (h : TrackKept s t) (j : Nat) : (t.pin j).lock = (s.pin j).lock := by
  obtain ⟨_, _, _, hp⟩ := h.2 j
  rw [hp]
  rfl

theorem pllGone_pll (o i : Nat) (s : State) : ((pllGone o s i).octet o).pll = (s.octet o).pll := by
  rw [pllGone, octet_of_octets (openSuspect_octets ..), unlockPin_pll]

/-- The other channels keep their locks. -/
theorem pllGone_lock_ne {o i j : Nat} (s : State) (h : j ≠ i) :
    ((pllGone o s i).pin (8 * o + j)).lock = (s.pin (8 * o + j)).lock := by
  rw [pllGone, (trackKept_openSuspect ..).lock]
  by_cases hc : s.cdrOn (8 * o + i) = true ∧ (s.pin (8 * o + i)).locked = true
  · rw [(unlockPin_trackKept hc.1 hc.2).lock, modPin_pin_ne _ _ _ _ (by omega)]
  · rw [unlockPin_off hc]

/-- Interrupts stand where an octet's channels lose their lock. -/
theorem pllGone_irq {o i b : Nat} {s : State} (hb : b < 20) (h : bit s.sys.irqStatus b = true) :
    bit (pllGone o s i).sys.irqStatus b = true := by
  refine (trackKept_openSuspect ..).1 b hb ?_
  by_cases hc : s.cdrOn (8 * o + i) = true ∧ (s.pin (8 * o + i)).locked = true
  · exact (unlockPin_trackKept hc.1 hc.2).1 b hb h
  · rw [unlockPin_off hc]
    exact h

/-- The channels of the octet with the UI PLL unlocked. -/
def pllChannels (o : OctetId) (g : Grain) (s : State) : State := (List.range 8).foldl (pllGone o.val) (pllUnlocked o g s)

theorem linkEn_of_pll {x y : Octet} (h : x.pll = y.pll) : x.linkEn = y.linkEn :=
  congrArg (fun p : Bool × Bool × Nat × Nat × Bool => p.2.2.2.2) h

theorem pllGone_foldl (o : Nat) (l : List Nat) (s : State) : ((l.foldl (pllGone o) s).octet o).pll = (s.octet o).pll ∧
    (bit s.sys.irqStatus 1 = true → bit (l.foldl (pllGone o) s).sys.irqStatus 1 = true) := by
  refine ⟨foldl_same (fun t => (t.octet o).pll) (pllGone o) (fun t i => pllGone_pll o i t) l s, fun h => ?_⟩
  induction l generalizing s with
  | nil => exact h
  | cons i l ih => exact ih _ (pllGone_irq (by decide) h)

/-- The octet and its interrupt behind its channels. -/
theorem pllChannels_octet {o : OctetId} (g : Grain) {s : State} (h : (s.octet o.val).locked = true) :
    ((pllChannels o g s).octet o.val).pll =
      (false, true, min 0xFFFF ((s.octet o.val).unlockCount + 1), 0, (s.octet o.val).linkEn) ∧
    (0 < (s.octet o.val).ceiling → bit (pllChannels o g s).sys.irqStatus 1 = true) := by
  obtain ⟨-, -, hpll, hb⟩ := pllUnlocked_effect g h
  obtain ⟨hfold, hirq⟩ := pllGone_foldl o.val (List.range 8) (pllUnlocked o g s)
  unfold pllChannels
  exact ⟨hfold.trans hpll, fun hc => hirq (hb hc)⟩

/-- A channel of the octet that was locked has lost its lock. -/
theorem pllChannels_unlocks {o : OctetId} (g : Grain) {s : State} {i : Nat} (h : (s.octet o.val).locked = true) (hi : i < 8)
    (hc : s.cdrOn (8 * o.val + i) = true) (hl : (s.pin (8 * o.val + i)).locked = true) :
    ((pllChannels o g s).pin (8 * o.val + i)).lock = (false, true, min 0xFFFF ((s.pin (8 * o.val + i)).lolCount + 1),
      (s.pin (8 * o.val + i)).cfg) := by
  obtain ⟨hp, -, hpll, -⟩ := pllUnlocked_effect g h
  have hoct : octOf (8 * o.val + i) = o.val := by unfold octOf; omega
  have hpins : (pllUnlocked o g s).pin (8 * o.val + i) = s.pin (8 * o.val + i) := by rw [State.pin, hp, State.pin]
  have hlink0 : ((pllUnlocked o g s).octet o.val).linkEn = (s.octet o.val).linkEn :=
    congrArg (fun p : Bool × Bool × Nat × Nat × Bool => p.2.2.2.2) hpll
  obtain ⟨u, hlink, hv, hf⟩ := foldl_at (fun t i => (t.pin (8 * o.val + i)).lock)
    (P := fun t => (t.octet o.val).linkEn = (s.octet o.val).linkEn) (step := pllGone o.val)
    (fun t i _ ht => (linkEn_of_pll (pllGone_pll o.val i t)).trans ht) (fun t i _ j _ hj => pllGone_lock_ne t hj)
    List.nodup_range (s := pllUnlocked o g s) hlink0 (List.mem_range.mpr hi)
  have hlock : (u.pin (8 * o.val + i)).lock = (s.pin (8 * o.val + i)).lock := hv.trans (congrArg Pin.lock hpins)
  simp only [Pin.lock, Prod.mk.injEq] at hlock
  obtain ⟨hl', -, hn, hcfg⟩ := hlock
  have hcdr : u.cdrOn (8 * o.val + i) = true := by
    rw [State.cdrOn, hoct, hlink, Pin.tracked, hcfg]
    rw [State.cdrOn, hoct, Pin.tracked] at hc
    exact hc
  obtain ⟨_, _, _, hpin⟩ := unlockPin_pin (cause := 4) hcdr (hl'.trans hl)
  have hstep : ((pllGone o.val u i).pin (8 * o.val + i)).lock = (false, true,
      min 0xFFFF ((s.pin (8 * o.val + i)).lolCount + 1), (s.pin (8 * o.val + i)).cfg) := by
    rw [pllGone, (trackKept_openSuspect ..).lock, hpin, ← hn, ← hcfg]
    rfl
  exact hf.trans hstep

section
variable {o i : Nat} {s : State} (hlink : (s.octet o).linkEn = false) (hi : i < 8)
include hlink hi

theorem linkEn_octOf : (s.octet (octOf (8 * o + i))).linkEn = false := by
  have hoct : octOf (8 * o + i) = o := by unfold octOf; omega
  rw [hoct, hlink]

/-- Off the link lanes a loss of lock is its channel's and its range's alone. -/
theorem unlockPin_direct (cause : Nat) : unlockPin (8 * o + i) cause s =
    if s.cdrOn (8 * o + i) = true ∧ (s.pin (8 * o + i)).locked = true then
      openSuspect (8 * o + i) cause (if cause = 1 then 4096 else 0) (modPin (8 * o + i) (lockLost s.now) s)
    else s := by
  split
  · next h => rw [unlockPin_on h.1 h.2, if_neg (by rw [linkEn_octOf hlink hi]; decide)]
  · next h => exact unlockPin_off h

theorem pllGone_sites : (pllGone o s i).sites = s.sites := by
  rw [pllGone, openSuspect_sites, unlockPin_direct hlink hi]
  split
  · rw [openSuspect_sites, modPin_sites]
  · rfl

theorem pllGone_onlyPin : onlyPin (8 * o + i) s (pllGone o s i) := by
  intro j hj
  rw [pllGone, openSuspect_onlyPin _ _ _ _ j hj, unlockPin_direct hlink hi]
  split
  · rw [openSuspect_onlyPin _ _ _ _ j hj, modPin_pin_ne _ _ _ _ hj]
  · rfl

/-- A channel under a playing site opens a range with the unlocking, locked before it or not. -/
theorem pllGone_opens {n : Nat} (hp : s.playsOn (8 * o + i) n) (hz : (s.pin (8 * o + i)).suspect = none) :
    ((pllGone o s i).pin (8 * o + i)).suspect = some { site := n, cause := 4, lockWin := 0 } := by
  have hun : (unlockPin (8 * o + i) 4 s).playsOn (8 * o + i) n ∧
      (((unlockPin (8 * o + i) 4 s).pin (8 * o + i)).suspect = none ∨
      ((unlockPin (8 * o + i) 4 s).pin (8 * o + i)).suspect = some { site := n, cause := 4, lockWin := 0 }) := by
    by_cases hc : s.cdrOn (8 * o + i) = true ∧ (s.pin (8 * o + i)).locked = true
    · refine ⟨playsOn_of_sites ?_ hp, .inr (unlockPin_opens hc.1 hc.2 (linkEn_octOf hlink hi) hp hz)⟩
      rw [unlockPin_direct hlink hi, if_pos hc, openSuspect_sites, modPin_sites]
    · rw [unlockPin_off hc]
      exact ⟨hp, .inl hz⟩
  rw [pllGone, openSuspect_playing hun.1, modPin_pin_self, rangeOpened]
  rcases hun.2 with h | h
  · rw [h]
  · rw [h]

end

theorem pllGone_direct {o i : Nat} {s t : State} (h : (t.octet o).linkEn = false ∧ t.sites = s.sites) (hi : i < 8) :
    ((pllGone o t i).octet o).linkEn = false ∧ (pllGone o t i).sites = s.sites :=
  ⟨(linkEn_of_pll (pllGone_pll o i t)).trans h.1, (pllGone_sites h.1 hi).trans h.2⟩

theorem pllGone_suspect_ne {o i j : Nat} {s : State} (h : (s.octet o).linkEn = false) (hi : i < 8) (hj : j ≠ i) :
    ((pllGone o s i).pin (8 * o + j)).suspect = (s.pin (8 * o + j)).suspect := by
  rw [pllGone_onlyPin h hi (8 * o + j) (by omega)]

/-- A channel of the octet in direct drive under a playing site opens a range, cause 4. -/
theorem pllChannels_opens {o : OctetId} (g : Grain) {s : State} {i n : Nat} (h : (s.octet o.val).locked = true) (hi : i < 8)
    (hlink : (s.octet o.val).linkEn = false) (hp : s.playsOn (8 * o.val + i) n)
    (hz : (s.pin (8 * o.val + i)).suspect = none) :
    ((pllChannels o g s).pin (8 * o.val + i)).suspect = some { site := n, cause := 4, lockWin := 0 } := by
  obtain ⟨hpins, hsites, hpll, -⟩ := pllUnlocked_effect g h
  have hpin : (pllUnlocked o g s).pin (8 * o.val + i) = s.pin (8 * o.val + i) := by rw [State.pin, hpins, State.pin]
  have hlink0 : ((pllUnlocked o g s).octet o.val).linkEn = false :=
    (congrArg (fun p : Bool × Bool × Nat × Nat × Bool => p.2.2.2.2) hpll).trans hlink
  obtain ⟨u, ⟨hul, hus⟩, hv, hf⟩ := foldl_at (fun t i => (t.pin (8 * o.val + i)).suspect)
    (P := fun t => (t.octet o.val).linkEn = false ∧ t.sites = s.sites) (step := pllGone o.val)
    (fun t i hi ht => pllGone_direct ht (List.mem_range.mp hi))
    (fun t i hi j ht hj => pllGone_suspect_ne ht.1 (List.mem_range.mp hi) hj) List.nodup_range
    (s := pllUnlocked o g s) ⟨hlink0, hsites⟩ (List.mem_range.mpr hi)
  exact hf.trans (pllGone_opens hul hi (playsOn_of_sites hus hp) (hv.trans ((congrArg Pin.suspect hpin).trans hz)))

/-! ## A UI PLL locks again -/

/-- The octet with its UI PLL locked, before its ranges close. -/
def pllRelocked (o : OctetId) (g : Grain) (s : State) : State :=
  modOctet o.val (fun y => { y with relock := false }) (setLock o.val (atGrain g s).now true (atGrain g s))

theorem exec_uiPllLock {o : OctetId} {g : Grain} {s : State} (hl : (s.octet o.val).locked = false)
    (hoff : (s.octet o.val).pllOff = false) (hr : s.sys.state ≠ .reset) (hb : s.sys.state ≠ .boot) (hn : o.val < s.nOct) :
    exec (.uiPllLock o g) s = .next (modOctet o.val readyOf
      ((List.range 8).foldl (fun u i => closeSuspect (8 * o.val + i) u) (pllRelocked o g s))) :=
  if_neg (by simp [hl, hoff, hr, hb, hn])

theorem pllRelocked_octet {o : OctetId} (g : Grain) {s : State} (hl : (s.octet o.val).locked = false) :
    ((pllRelocked o g s).octet o.val).locked = true ∧ ((pllRelocked o g s).octet o.val).relock = false ∧
    ((pllRelocked o g s).octet o.val).ceiling = (s.octet o.val).ceiling := by
  have hne : ¬ ((atGrain g s).octet o.val).locked = true := by
    rw [atGrain_octet_view, hl]
    decide
  rw [pllRelocked, setLock, modOctet_octet_self, modOctet_octet_self, if_neg hne]
  exact ⟨rfl, rfl, rfl⟩

/-- The octet behind its channels' ranges. -/
theorem pllLocked_octet (o : Nat) (l : List Nat) (s : State) :
    (modOctet o readyOf (l.foldl (fun u i => closeSuspect (8 * o + i) u) s)).octet o = readyOf (s.octet o) := by
  have hclose := foldl_same State.octets (fun u i => closeSuspect (8 * o + i) u)
    (fun t i => closeSuspect_octets (8 * o + i) t) l s
  rw [modOctet_octet_self, octet_of_octets hclose]

/-! ## The obligation -/

/-- The end of a lock window, by whether the channel is locked. -/
theorem lockWindow_effect (c : Nat) (e : Nat) (f : Int) (w : CdrWindow) (s : State) (hc : s.cdrOn c = true) :
    let p := s.pin c
    let u := windowRead c e f w s
    (∀ k, p.locked = true →
      (((unlockPin c k u).pin c).locked = false ∧ ((unlockPin c k u).pin c).lolEvent = true ∧
        ((unlockPin c k u).pin c).lolCount = min 0xFFFF (p.lolCount + 1)) ∧
      ∀ n, s.playsOn c n → p.suspect = none → (s.octet (octOf c)).linkEn = false →
        ((unlockPin c k u).pin c).suspect = some { site := n, cause := k, lockWin := if k = 1 then 4096 else 0 }) ∧
    (u.pin c).ferr = clampI (-32768) 32767 f ∧ (u.pin c).phase = windowPhase p.locked (s.uiOf c) p.phase w.phase ∧
    (u.pin c).winT = e ∧ (u.pin c).locked = p.locked := by
  intro p u
  obtain ⟨hoct, hsites, d, o, l, hp⟩ := windowRead_effect c e f w s
  have hup : u.pin c = windowTold e (windowPhase p.locked (s.uiOf c) p.phase w.phase) f (goodWindows f p)
    { p with drv := d, openIn := o, lastDrv := l } := hp
  have hcdr : u.cdrOn c = true := (cdrOn_of_pin hoct (by rw [hup]; rfl)).trans hc
  refine ⟨fun k hl => ?_, by rw [hup]; rfl, by rw [hup]; rfl, by rw [hup]; rfl, by rw [hup]; rfl⟩
  have hlock : (u.pin c).locked = true := by rw [hup]; exact hl
  have hun := unlockPin_unlocks (cause := k) hcdr hlock
  rw [show (u.pin c).lolCount = p.lolCount by rw [hup]; rfl] at hun
  exact ⟨hun, fun n hn hz hlink => unlockPin_opens hcdr hlock ((congrArg Octet.linkEn (octet_of_octets hoct _)).trans hlink)
    (playsOn_of_sites hsites hn) (by rw [hup]; exact hz)⟩

/-- Settles O49: the octet by its channels in turn, a channel by whether it was locked. -/
theorem lockIsLostAndFound : Obligations.LockIsLostAndFound := by
  intro s opens unlocks
  have hopens : ∀ {c cause win t}, (∀ n, s.playsOn c n → (s.pin c).suspect = none → (s.octet (octOf c)).linkEn = false →
      (t.pin c).suspect = some { site := n, cause := cause, lockWin := win }) → opens c cause win t :=
    fun h n ho hr hs he hz hlink => h n ⟨ho, hr, hs, he⟩ hz hlink
  refine ⟨fun o g hl => ?_, fun o g hl => if_neg (by rw [hl]; decide), fun o g hl hoff hr hb hn => ?_,
    fun c f ph sl e hc he => ?_, fun c up g hc => ⟨_, exec_phaseLimit hc, ?_⟩, fun c g h7 hl => ⟨_, exec_losAssert h7 hl, ?_⟩,
    fun c g => ⟨_, rfl, ?_, ?_⟩⟩
  · obtain ⟨hoct, hirq⟩ := pllChannels_octet g hl
    simp only [Octet.pll, Prod.mk.injEq] at hoct
    obtain ⟨h1, h2, h3, h4, -⟩ := hoct
    refine ⟨pllChannels o g s, exec_uiPllUnlock hl, h1, h2, h4, h3, hirq, fun c hc => ?_⟩
    obtain ⟨i, hi, rfl⟩ : ∃ i, i < 8 ∧ c = 8 * o.val + i := ⟨c % 8, by omega, by unfold octOf at hc; omega⟩
    refine ⟨hopens fun n hn hz hlink => pllChannels_opens g hl hi (hc ▸ hlink) hn hz, fun hcdr hlock => ?_⟩
    have hun := pllChannels_unlocks g hl hi hcdr hlock
    simp only [Pin.lock, Prod.mk.injEq] at hun
    exact ⟨hun.1, hun.2.1, hun.2.2.1⟩
  · obtain ⟨h1, h2, h3⟩ := pllRelocked_octet g hl
    refine ⟨_, exec_uiPllLock hl hoff hr hb hn, ?_⟩
    rw [pllLocked_octet]
    exact ⟨h1, h2, h3⟩
  · intro p ph' n
    obtain ⟨hlost, hferr, hph, hwin, hlock⟩ := lockWindow_effect c.val e f { phase := ph, sliced := sl } s hc
    have hrow := exec_lockWindowEnd (ferr := f) (w := { phase := ph, sliced := sl }) hc he
    have hmove : p.locked = true → (ph' - p.phase).natAbs ≤ 4096 ∨ 32767 < p.phase.natAbs := fun hl => by
      show (windowPhase p.locked _ _ _ - _).natAbs ≤ 4096 ∨ _
      rw [hl]
      exact windowPhase_locked ..
    by_cases hl : p.locked = true
    · rw [if_pos hl] at hrow
      by_cases hf : f < -10000 ∨ 10000 < f
      · obtain ⟨k1, -, -, -, k5, k6⟩ := unlockPin_keeps c.val 1 (windowRead c.val e f { phase := ph, sliced := sl } s)
        obtain ⟨hun, hop⟩ := hlost 1 hl
        exact ⟨_, hrow.trans (congrArg _ (if_pos hf)), k5.trans hferr, k1.trans hph, hmove, k6.trans hwin,
          fun _ _ => ⟨hun, hopens hop⟩, fun _ h1 h2 => absurd hf (by omega), fun h => absurd (hl.symm.trans h) (by decide)⟩
      · exact ⟨_, hrow.trans (congrArg _ (if_neg hf)), hferr, hph, hmove, hwin, fun _ h => absurd h hf,
          fun _ _ _ => hlock.trans hl, fun h => absurd (hl.symm.trans h) (by decide)⟩
    · rw [if_neg hl] at hrow
      have hn : goodWindows f p = n := by
        rw [goodWindows, if_neg hl]
        simp only [decide_eq_true_eq]
        rfl
      have hcond : (goodWindows f p = 2 ∧ (s.octet (octOf c.val)).locked = true ∧ ¬p.los = true ∧
          ((windowRead c.val e f { phase := ph, sliced := sl } s).pin c.val).phase.natAbs < 32767) ↔
          n = 2 ∧ (s.octet (octOf c.val)).locked = true ∧ p.los = false ∧ ph'.natAbs < 32767 := by
        rw [hn, hph, Bool.not_eq_true]
      by_cases hg : n = 2 ∧ (s.octet (octOf c.val)).locked = true ∧ p.los = false ∧ ph'.natAbs < 32767
      · obtain ⟨_, _, _, hpin⟩ := (relockPin_trackKept c.val (windowRead c.val e f { phase := ph, sliced := sl } s)).2 c.val
        rw [modPin_pin_self] at hpin
        refine ⟨_, hrow.trans (congrArg _ (if_pos (hcond.mpr hg))), ?_, ?_, hmove, ?_, fun h => absurd h hl,
          fun h => absurd h hl, fun _ => ⟨fun _ => hg, fun _ => ?_⟩⟩
        · rw [hpin]
          exact hferr
        · rw [hpin]
          exact hph
        · rw [hpin]
          exact hwin
        · rw [hpin]
          rfl
      · exact ⟨_, hrow.trans (congrArg _ (if_neg (mt hcond.mp hg))), hferr, hph, hmove, hwin, fun h => absurd h hl,
          fun h => absurd h hl, fun _ => ⟨fun h => absurd (hlock.symm.trans h) hl, fun h => absurd h hg⟩⟩
  · obtain ⟨k1, k2, -⟩ := unlockPin_keeps c.val 2 (modPin c.val (phaseLimited up (atGrain g s).now) (atGrain g s))
    rw [modPin_pin_self] at k1 k2
    have hcdr : (modPin c.val (phaseLimited up (atGrain g s).now) (atGrain g s)).cdrOn c.val = s.cdrOn c.val :=
      cdrOn_of_pin rfl (by rw [modPin_pin_self]; rfl)
    refine ⟨k1, k2, unlockPin_locked (hcdr.trans hc), fun hl => ?_⟩
    obtain ⟨hun, hop⟩ := unlockPin_after (cause := 2) (f := phaseLimited up (atGrain g s).now) (s := atGrain g s) rfl rfl rfl rfl
      hc hl
    exact ⟨hun, hopens hop⟩
  · obtain ⟨-, -, k3, k4, -⟩ := unlockPin_keeps c.val 3 (modPin c.val signalLost (atGrain g s))
    rw [modPin_pin_self] at k3 k4
    refine ⟨k3, k4, fun hc hl => ?_⟩
    obtain ⟨hun, hop⟩ := unlockPin_after (cause := 3) (f := signalLost) (s := atGrain g s) rfl rfl rfl rfl hc hl
    exact ⟨hun, hopens hop⟩
  · exact fun j hj => modPin_pin_ne _ _ _ _ hj
  · exact modPin_pin_self ..

end Sys2Proof.Machine

/-!
The span tick, leases, and writes of registers: what a tick leaves of the clock, the dispatches and the device state,
what a lapse and a renewal do to a lease, and where a write goes.
-/

namespace Sys2Proof.Machine

/-! ## The span tick -/

theorem countSpan_span (s : State) :
    (countSpan s).time.span = if s.time.ticked then s.time.span + 1 else s.time.span := rfl

theorem dispatchTick_dispatched (s : State) : (dispatchTick s).hqm.dispatched = 0 := rfl

/-- What a tick does before its requests. -/
def tickStart (i : TickIn) (s : State) : State := leaseTick i.missed (snapTick (countSpan s))

/-- The events and the spans without a renewal counted: what changes before the requests of a tick. -/
def counted (p : Perf) (m : SMap Nat) (s : State) : State := { s with perf := p, cal := { s.cal with missed := m } }

theorem tickStart_eq (i : TickIn) (s : State) : ∃ p m, tickStart i s = counted p m (countSpan s) := by
  unfold tickStart snapTick execPerfSnapshot
  split
  · exact ⟨_, _, rfl⟩
  · exact ⟨_, _, rfl⟩

/-- The power request taken up. -/
def taken (s : State) : State := modSys (fun y => { y with powerReq := 0 }) s

/-- The condition of a standby request looks at no count of leases, of events or of requests. -/
theorem restOk_irrelevant (p : Perf) (m : SMap Nat) (s : State) : (taken (counted p m s)).restOk = s.restOk := rfl

theorem softReset_state (s : State) : (softReset s).sys.state = .boot := by
  have hl : (loseWork (stopWork s)).sys.state = s.sys.state :=
    (kept_loseWork (List.Subset.refl _) (Kept.refl _ (stopWork s))).same .devState (by decide) |>.trans
      ((kept_stopWork (List.Subset.refl _) (Kept.refl _ s)).same .devState (by decide))
  have hr : (if (loseWork (stopWork s)).dram.selfRef then restartRefresh (loseWork (stopWork s))
      else loseWork (stopWork s)).sys.state = s.sys.state := by
    split
    · exact ((kept_restartRefresh (List.Subset.refl _) (Kept.refl _ (loseWork (stopWork s)))).same .devState
        (by decide)).trans hl
    · exact hl
  unfold softReset
  dsimp only
  split
  · next h => exact hr.trans (of_decide_eq_true h)
  · exact (enterState_states _ _).1

theorem powerTick_one {s : State} (h : s.sys.powerReq = 1) : powerTick s =
    if s.sys.state = .ready ∧ (taken s).restOk then enterStandby (taken s) else refuseReq 1 (taken s) := by
  unfold powerTick
  rw [h]
  rfl

theorem powerTick_two {s : State} (h : s.sys.powerReq = 2) : powerTick s =
    if (s.sys.state = .ready ∨ (s.sys.state = .standby ∧ ¬s.sys.waking)) ∧ (taken s).restOk then enterDeep (taken s)
    else refuseReq 2 (taken s) := by
  unfold powerTick
  rw [h]
  rfl

theorem powerTick_standby {s : State} (h : s.sys.powerReq = 1) : (powerTick s).sys.state =
    if s.sys.state = .ready ∧ (taken s).restOk = true then .standby else s.sys.state := by
  rw [powerTick_one h]
  split
  · exact (enterState_states _ _).1
  · rfl

theorem powerTick_deep {s : State} (h : s.sys.powerReq = 2) : (powerTick s).sys.state =
    if (s.sys.state = .ready ∨ s.sys.state = .standby ∧ s.sys.waking = false) ∧ (taken s).restOk = true
      then .deepStandby else s.sys.state := by
  rw [powerTick_two h]
  simp only [Bool.not_eq_true]
  split
  · exact (enterState_states _ _).1
  · rfl

theorem powerTick_other {s : State} (h : s.sys.powerReq = 0 ∨ s.sys.powerReq = 3) :
    (powerTick s).sys.state = s.sys.state := by
  unfold powerTick
  rcases h with h | h
  · rw [h]
    rfl
  · rw [h]
    show (match (taken s).sys.state with
      | .standby | .deepStandby => modSys (fun y => { y with waking := true }) (taken s)
      | .ready | .bringUp | .calibrate => taken s
      | _ => refuseReq 3 (taken s)).sys.state = _
    split <;> rfl

/-- Nothing to test, with neither a PCIe nor a soft reset pending: the power request is what the tick acts on. -/
theorem requestTick_power {s : State} (hp : s.sys.pcieReq = false) (hs : s.sys.softReq = false) (hd : s.sys.disTest = 0) :
    requestTick s = powerTick s := by
  have hf : (List.range 16).foldl (fun t o => testDisable o t) s = s :=
    foldl_eq_self fun o _ => by
      unfold testDisable
      rw [hd, if_pos (by simp [bit])]
  unfold requestTick pcieTick
  simp only [hp, hs, hf, Bool.false_eq_true, if_false]

theorem requestTick_soft {s : State} (hp : s.sys.pcieReq = false) (hs : s.sys.softReq = true) :
    requestTick s = softReset s := by
  unfold requestTick pcieTick
  simp only [hp, hs, Bool.false_eq_true, if_false, if_true]

/-- The allotments of a span, and what a tick does after them. -/
def tickEnd (i : TickIn) (s : State) : State :=
  settleAll (countTick (headTick (expireDelays (dispatchTick (planAllot i (timeAllot i s))))))

theorem exec_spanTick {i : TickIn} {s : State} (h : s.sys.state ≠ .reset) :
    exec (.spanTick i) s = .next (tickEnd i (requestTick (tickStart i s))) := if_neg h

/-- The allotments leave the clock and the device state, and open the span's dispatches. -/
theorem tickEnd_keeps (i : TickIn) (s : State) : (tickEnd i s).time.span = s.time.span ∧
    (tickEnd i s).hqm.dispatched = 0 ∧ (tickEnd i s).sys.state = s.sys.state := by
  have hb := kept_planAllot i (List.Subset.refl _) (Kept.refl _ (timeAllot i s))
  have ha := kept_timeAllot i (List.Subset.refl _) (Kept.refl _ s)
  have hd := kept_dispatchTick (List.Subset.refl _) (Kept.refl _ (planAllot i (timeAllot i s)))
  have he : Kept [.sys, .hqm, .host, .sites, .octets, .pins, .cap, .dds, .halso, .perf, .out]
      (dispatchTick (planAllot i (timeAllot i s))) (tickEnd i s) :=
    kept_settleAll (by decide) (kept_countTick (by decide) (kept_headTick (by decide)
      (kept_expireDelays (by decide) (Kept.refl _ _))))
  refine ⟨?_, (he.same .dispatched (by decide)).trans (dispatchTick_dispatched _), ?_⟩
  · calc (tickEnd i s).time.span = _ := he.same .clock (by decide)
      _ = _ := hd.same .clock (by decide)
      _ = _ := hb.same .clock (by decide)
      _ = s.time.span := ha.same .clock (by decide)
  · calc (tickEnd i s).sys.state = _ := he.same .devState (by decide)
      _ = _ := hd.same .devState (by decide)
      _ = _ := hb.same .devState (by decide)
      _ = s.sys.state := ha.same .devState (by decide)

/-- What the statement says of a tick. -/
theorem spanTick_effect (i : TickIn) {s : State} (h : s.sys.state ≠ .reset) : ∃ t, exec (.spanTick i) s = .next t ∧
    t.time.span = (if s.time.ticked then s.time.span + 1 else s.time.span) ∧ t.hqm.dispatched = 0 ∧
    (s.sys.pcieReq = false → s.sys.softReq = false → s.sys.disTest = 0 →
      (s.sys.powerReq = 1 → t.sys.state =
        if s.sys.state = .ready ∧ (countSpan s).restOk = true then .standby else s.sys.state) ∧
      (s.sys.powerReq = 2 → t.sys.state =
        if (s.sys.state = .ready ∨ s.sys.state = .standby ∧ s.sys.waking = false) ∧ (countSpan s).restOk = true
        then .deepStandby else s.sys.state) ∧
      (s.sys.powerReq = 0 ∨ s.sys.powerReq = 3 → t.sys.state = s.sys.state)) ∧
    (s.sys.pcieReq = false → s.sys.softReq = true → t.sys.state = .boot) := by
  obtain ⟨p, m, hst⟩ := tickStart_eq i s
  obtain ⟨hspan, hdis, hstate⟩ := tickEnd_keeps i (requestTick (tickStart i s))
  have hk := (kept_requestTick (List.Subset.refl _) (Kept.refl _ (tickStart i s))).same .clock (by decide)
  refine ⟨_, exec_spanTick h, hspan.trans (hk.trans ?_), hdis, fun hp hs hd => ⟨fun hr => ?_, fun hr => ?_, fun hr => ?_⟩,
    fun hp hs => ?_⟩
  · rw [hst]
    exact countSpan_span s
  all_goals rw [hstate, hst]; generalize hc : counted p m (countSpan s) = u
  · rw [requestTick_power (s := u), powerTick_standby (s := u)] <;> rw [← hc]
    exacts [rfl, hr, hp, hs, hd]
  · rw [requestTick_power (s := u), powerTick_deep (s := u)] <;> rw [← hc]
    exacts [rfl, hr, hp, hs, hd]
  · rw [requestTick_power (s := u), powerTick_other (s := u)] <;> rw [← hc]
    exacts [rfl, hr, hp, hs, hd]
  · rw [requestTick_soft (s := u), softReset_state] <;> rw [← hc]
    exacts [hp, hs]

/-! ## Writes of registers -/

/-- A write of all 64 bits replaces the word. -/
theorem rwMerge_whole (v c : W64) : rwMerge (fm 0 64) { val := v } c = v := by
  have hm : fm 0 64 &&& wrMask { val := v } = BitVec.allOnes 64 := by
    show fm 0 64 &&& (fm 0 32 ||| fm 32 32) = BitVec.allOnes 64
    decide
  unfold rwMerge
  rw [BitVec.and_assoc, hm, BitVec.not_allOnes, BitVec.and_zero, BitVec.zero_or, BitVec.and_allOnes]

/-- A write of 4 bytes carries the low 32 bits of its word. -/
theorem ofNat_wr32_lo32 {n : Nat} (hn : n ≤ 32) (v : W64) :
    BitVec.ofNat n (wr32 (lo32 v)).val.toNat = BitVec.ofNat n v.toNat := by
  have hd : (2 : Nat) ^ n ∣ 2 ^ 32 := Nat.pow_dvd_pow 2 hn
  have hv : (wr32 (lo32 v)).val.toNat = v.toNat % 2 ^ 32 := by
    show (BitVec.ofNat 64 (BitVec.ofNat 32 v.toNat).toNat).toNat = _
    rw [BitVec.toNat_ofNat, BitVec.toNat_ofNat]
    exact Nat.mod_eq_of_lt (lt_of_lt_of_le (Nat.mod_lt _ (by decide)) (by decide))
  apply BitVec.eq_of_toNat_eq
  rw [BitVec.toNat_ofNat, BitVec.toNat_ofNat, hv, Nat.mod_mod_of_dvd _ hd]

theorem exec_registerWrite {off : BitVec 22} {size : Nat} {v : W64} {s : State} :
    exec (.registerWrite off size v) s = .next (hostWrite off.toNat size v s) := rfl

/-- The registers of the SYS block are written wherever it answers. -/
theorem writeReg_sys {o : Nat} (w : Wr) {s : State} (hon : s.blockOn true = true) (h : o < 0x10000) :
    writeReg o w s = writeSys o w s := by
  have ha : alwaysBlock o = true := by
    unfold alwaysBlock
    rw [decide_eq_true h]
    rfl
  unfold writeReg
  rw [ha, hon, if_neg (by decide), if_pos h]

theorem exec_write_scratch {v : W64} {s : State} (hon : s.blockOn true = true) :
    exec (.registerWrite 0x0F0 8 v) s = .next (modSys (fun y => { y with scratch := v }) s) := by
  have hw : hostWrite 0x0F0 8 v s = writeReg 0x0F0 { val := v } s := rfl
  have hs : writeSys 0x0F0 { val := v } s = modSys (fun y => { y with scratch := rwMerge (fm 0 64) { val := v } y.scratch }) s :=
    rfl
  rw [exec_registerWrite, show (0x0F0 : BitVec 22).toNat = 0x0F0 from rfl, hw, writeReg_sys _ hon (by decide), hs]
  simp only [rwMerge_whole]

theorem exec_write_irqStatus {v : W64} {s : State} (hon : s.blockOn true = true) :
    exec (.registerWrite 0x040 4 v) s =
      .next (modSys (fun y => { y with irqStatus := y.irqStatus &&& ~~~ (BitVec.ofNat 20 v.toNat) }) s) := by
  have hw : hostWrite 0x040 4 v s = writeReg 0x040 (wr32 (lo32 v)) s := rfl
  have hs (w : Wr) : writeSys 0x040 w s =
      modSys (fun y => { y with irqStatus := y.irqStatus &&& ~~~ (BitVec.ofNat 20 w.val.toNat) }) s := rfl
  rw [exec_registerWrite, show (0x040 : BitVec 22).toNat = 0x040 from rfl, hw, writeReg_sys _ hon (by decide), hs,
    ofNat_wr32_lo32 (by decide)]

theorem exec_write_alertSel {v : W64} {s : State} (hon : s.blockOn true = true) :
    exec (.registerWrite 0x048 4 v) s = .next (modSys (fun y => { y with alertSel := BitVec.ofNat 20 v.toNat }) s) := by
  have hw : hostWrite 0x048 4 v s = writeReg 0x048 (wr32 (lo32 v)) s := rfl
  have hs (w : Wr) : writeSys 0x048 w s = modSys (fun y => { y with alertSel := BitVec.ofNat 20 w.val.toNat }) s := rfl
  rw [exec_registerWrite, show (0x048 : BitVec 22).toNat = 0x048 from rfl, hw, writeReg_sys _ hon (by decide), hs,
    ofNat_wr32_lo32 (by decide)]

theorem exec_write_gain {v : W64} {s : State} (hon : s.blockOn true = true) :
    exec (.registerWrite 0xC0028 8 v) s = .next (modTime (fun x => { x with gain := v }) s) := by
  have hw : hostWrite 0xC0028 8 v s = writeReg 0xC0028 { val := v } s := rfl
  have hr : writeReg 0xC0028 { val := v } s = writeTime 0x028 { val := v } s := by
    unfold writeReg
    rw [show alwaysBlock 0xC0028 = true from rfl, hon]
    rfl
  have hs : writeTime 0x028 { val := v } s = modTime (fun x => { x with gain := rwMerge (fm 0 64) { val := v } x.gain }) s :=
    rfl
  rw [exec_registerWrite, show (0xC0028 : BitVec 22).toNat = 0xC0028 from rfl, hw, hr, hs]
  simp only [rwMerge_whole]

theorem exec_write_otherSize {off : BitVec 22} {size : Nat} {v : W64} {s : State} (h4 : size ≠ 4) (h8 : size ≠ 8) :
    exec (.registerWrite off size v) s = .next s := by
  rw [exec_registerWrite, hostWrite, if_neg fun h => h4 h.1, if_neg fun h => h8 h.1]

/-! ## What a revocation leaves of the leases -/

/-- The leases and the count of revocations stand. -/
structure LeaseKept (s t : State) : Prop where
  count : t.hqm.revCount = s.hqm.revCount
  revoked : t.cal.revoked = s.cal.revoked
  missed : t.cal.missed = s.cal.missed

theorem LeaseKept.refl (s : State) : LeaseKept s s := ⟨rfl, rfl, rfl⟩

theorem LeaseKept.trans {s t u : State} (h : LeaseKept s t) (k : LeaseKept t u) : LeaseKept s u :=
  ⟨k.count.trans h.count, k.revoked.trans h.revoked, k.missed.trans h.missed⟩

theorem leaseKept_of_signalled {s t : State} (h : signalled s t) : LeaseKept s t := by
  obtain ⟨_, _, _, _, rfl⟩ := h
  exact ⟨rfl, rfl, rfl⟩

section
variable {s0 s : State} (h : LeaseKept s0 s)
include h

theorem LeaseKept.kept {m : List Part} {t : State} (k : Kept m s t) (hq : Part.hqm ∉ m) (hc : Part.cal ∉ m) :
    LeaseKept s0 t := by
  have hh : t.hqm = s.hqm := k.same .hqm hq
  have hcal : t.cal = s.cal := k.same .cal hc
  exact h.trans ⟨by rw [hh], by rw [hcal], by rw [hcal]⟩

theorem LeaseKept.signalled {t : State} (k : signalled s t) : LeaseKept s0 t := h.trans (leaseKept_of_signalled k)

theorem LeaseKept.modCal {f : Cal → Cal} (hr : (f s.cal).revoked = s.cal.revoked) (hm : (f s.cal).missed = s.cal.missed) :
    LeaseKept s0 (modCal f s) := h.trans ⟨rfl, hr, hm⟩

theorem LeaseKept.complete (k : Nat) (st : BitVec 8) (r : Nat) : LeaseKept s0 (complete k st r s) :=
  h.trans ⟨rfl, rfl, rfl⟩

theorem LeaseKept.completeOpt (k : Option Nat) (st : BitVec 8) (r : Nat) : LeaseKept s0 (completeOpt k st r s) := by
  cases k with
  | none => exact h
  | some k => exact h.complete k st r

theorem LeaseKept.modPin (c : Nat) (f : Pin → Pin) : LeaseKept s0 (modPin c f s) :=
  h.kept (kept_modPin c f (List.Subset.refl _) (Kept.refl _ s)) (by decide) (by decide)

theorem LeaseKept.modSite (n : Nat) (f : Site → Site) : LeaseKept s0 (modSite n f s) :=
  h.kept (kept_modSite n f (List.Subset.refl _) (Kept.refl _ s)) (by decide) (by decide)

theorem LeaseKept.modOctet (n : Nat) (f : Octet → Octet) : LeaseKept s0 (modOctet n f s) := h.trans ⟨rfl, rfl, rfl⟩

theorem LeaseKept.modSys (f : Sys → Sys) : LeaseKept s0 (modSys f s) := h.trans ⟨rfl, rfl, rfl⟩

theorem LeaseKept.modDram (f : Dram → Dram) : LeaseKept s0 (modDram f s) := h.trans ⟨rfl, rfl, rfl⟩

theorem LeaseKept.modVs (f : Vstore → Vstore) : LeaseKept s0 (modVs f s) := h.trans ⟨rfl, rfl, rfl⟩

theorem LeaseKept.modTime (f : Time → Time) : LeaseKept s0 (modTime f s) := h.trans ⟨rfl, rfl, rfl⟩

theorem LeaseKept.popQ (n : Nat) : LeaseKept s0 (popQ n s) := h.modSite n _

end

theorem leaseKept_steady (s0 : State) : Steady (LeaseKept s0) where
  quiet k h := h.kept k (by decide) (by decide)
  raised b {s} h := h.signalled (signalled_raiseIrq b s)
  counted c u o {s} h := h.signalled (signalled_perfEvent c u o s)
  completed k st r {_} h := h.completeOpt k st r
  failed c n {_} h := h.modPin c _

/-! ### Engines of sites, capture, streams, loads, scans and time -/

section
variable {s0 s : State} (h : LeaseKept s0 s)
include h

theorem LeaseKept.parkPins (n : Nat) (t : Int) : LeaseKept s0 (parkPins n t s) :=
  h.kept (kept_parkPins n t (List.Subset.refl _) (Kept.refl _ s)) (by decide) (by decide)

theorem LeaseKept.newSet (n ts : Nat) : LeaseKept s0 (newSet n ts s) :=
  h.kept (kept_newSet n ts (List.Subset.refl _) (Kept.refl _ s)) (by decide) (by decide)

theorem LeaseKept.endRun (n : Nat) (e : EndInfo) (stopped : Bool) (t addr ovl : Nat) :
    LeaseKept s0 (endRun n e stopped t addr ovl s) := by
  unfold Machine.endRun
  exact (leaseKept_steady s0).flush _ _ (LeaseKept.modSite
    (Steady.foldl (R := LeaseKept s0) _ _ (fun _ c k => k.modPin c _) (h.parkPins n t)) n _)

theorem LeaseKept.signalAt (n dst t : Nat) : LeaseKept s0 (signalAt n dst t s) := by
  have hst := leaseKept_steady s0
  unfold Machine.signalAt halsoEvent
  dsimp only
  split
  · exact h
  · split
    · exact hst.sourceEvent _ _ _ (h.modSite n _)
    · split
      · exact hst.emit _ (h.modSite n _)
      · refine hst.jumpSource _ _ _ (hst.sourceEvent _ _ _ (hst.setLatches _ _ ?_))
        split
        · exact LeaseKept.kept (h.modSite n _) (kept_broadcast0 _ _ (List.Subset.refl _) (Kept.refl _ _)) (by decide)
            (by decide)
        · exact h.modSite n _

theorem LeaseKept.settleOne {n : Nat} {t : State} (ht : settleOne n s = some t) : LeaseKept s0 t := by
  have hp : LeaseKept s0 (Machine.popQ n s) := h.popQ n
  unfold Machine.settleOne at ht
  dsimp only at ht
  split at ht
  · cases ht
  split at ht
  · cases ht
    exact hp.newSet n _
  · cases ht
    exact (leaseKept_steady s0).hold n _ hp
  · cases ht
    exact hp.signalAt n _ _
  · split at ht
    · cases ht
      exact hp.endRun ..
    · cases ht
      exact LeaseKept.kept ((hp.modSite n _).newSet n _) (kept_dropHits _ (List.Subset.refl _) (Kept.refl _ _)) (by decide)
        (by decide)
  · cases ht
    exact hp.endRun ..
  · split at ht
    · cases ht
    · cases ht
      exact hp.modSite n _
  · split at ht
    · cases ht
    · cases ht
      exact (hp.modSite n _).parkPins n _
  · split at ht
    · cases ht
    · cases ht
      exact hp.endRun ..
  · split at ht
    · cases ht
    · cases ht
      exact h.endRun ..
  · cases ht

theorem LeaseKept.settleN (n f : Nat) : LeaseKept s0 (settleN n f s) := by
  induction f generalizing s with
  | zero => exact h
  | succ f ih =>
    rw [Machine.settleN]
    split
    · exact h
    · next t ht => exact ih (h.settleOne ht)

theorem LeaseKept.revokeSite (n : Nat) : LeaseKept s0 (revokeSite n s) := by
  unfold Machine.revokeSite
  dsimp only
  split
  · exact LeaseKept.settleN (h.modSite n _) n _
  · exact h

theorem LeaseKept.revokeCapture (m : Nat) : LeaseKept s0 (revokeCapture m s) :=
  (leaseKept_steady s0).modEng m _ ((leaseKept_steady s0).shutGroup m 2 false h)

theorem LeaseKept.revokeStream (j : Nat) : LeaseKept s0 (revokeStream j s) :=
  h.kept (kept_revokeStream j (List.Subset.refl _) (Kept.refl _ s)) (by decide) (by decide)

theorem LeaseKept.revokeLoad : LeaseKept s0 (revokeLoad s) := by
  unfold Machine.revokeLoad
  split
  · exact LeaseKept.complete ((h.modVs _).kept (kept_pllDown _ (List.Subset.refl _) (Kept.refl _ _)) (by decide)
      (by decide)) _ _ _
  · exact h

theorem LeaseKept.revokeScans (q : Nat) : LeaseKept s0 (revokeScans q s) := by
  unfold Machine.revokeScans
  refine Steady.foldl (R := LeaseKept s0) _ _ (fun t i k => ?_) h
  dsimp only
  split
  · exact LeaseKept.complete (k.modPin _ _) _ _ _
  · exact k

theorem LeaseKept.revokeTime : LeaseKept s0 (revokeTime s) := by
  unfold Machine.revokeTime
  split
  · exact (h.modTime _).complete _ _ _
  · exact h

/-! ### The calibration of a revoked engine -/

theorem LeaseKept.setCeiling (o v : Nat) : LeaseKept s0 (setCeiling o v s) := by
  unfold Machine.setCeiling
  dsimp only
  split
  · exact (((h.modOctet _ _).modOctet _ _).modSys _).signalled (signalled_raiseIrq 1 _)
  · exact h.modOctet _ _

theorem LeaseKept.enterState (d : DevState) : LeaseKept s0 (enterState d s) :=
  (h.modSys _).signalled (signalled_enterState d s)

theorem LeaseKept.setLoops (f : State → Nat → Nat) (l : List Nat) :
    LeaseKept s0 (l.foldl (fun t c => setLoop c (f t c) t) s) :=
  Steady.foldl (R := LeaseKept s0) _ _ (fun t c k => k.kept (kept_setLoop c (f t c) (List.Subset.refl _) (Kept.refl _ t))
    (by decide) (by decide)) h

theorem LeaseKept.restoreLoops : LeaseKept s0 (restoreLoops s) :=
  LeaseKept.modCal (h.setLoops (fun t c => (t.cal.savedLoop.get c).toNat) _) rfl rfl

theorem LeaseKept.clearBaselines : LeaseKept s0 (clearBaselines s) :=
  h.kept (kept_clearBaselines (List.Subset.refl _) (Kept.refl _ s)) (by decide) (by decide)

theorem LeaseKept.openWindow (st u : Nat) : LeaseKept s0 (openWindow st u s) :=
  h.kept (kept_openWindow st u (List.Subset.refl _) (Kept.refl _ s)) (by decide) (by decide)

theorem LeaseKept.calIdle : LeaseKept s0 (calIdle s) := h.modCal rfl rfl

theorem LeaseKept.recordFail (st u pre : Nat) (cont : Bool) : LeaseKept s0 (recordFail st u pre cont s) := by
  have he : LeaseKept s0 (stepEvent 0x051 st u s) := by
    unfold stepEvent
    split
    · exact h
    · exact h.signalled (signalled_perfEvent ..)
  unfold Machine.recordFail
  dsimp only
  split <;> split
  · split
    · exact he.modPin _ _
    · exact he
  · exact he.modCal rfl rfl
  · split
    · exact (he.modPin _ _).modCal rfl rfl
    · exact he.modCal rfl rfl
  · exact LeaseKept.modCal (he.modCal rfl rfl) rfl rfl

theorem LeaseKept.calReady : LeaseKept s0 (calReady s) := by
  have hc := Steady.foldl (R := LeaseKept s0) (fun t o =>
      let x := t.octet o
      Machine.setCeiling o (ceilingAt x.cFab x.mNow) (Machine.modOctet o (fun y => { y with tCal := (t.cal.sensors.get o).temp }) t))
    s.calOcts (fun _ o k => (k.modOctet o _).setCeiling _ _) h
  exact ((hc.clearBaselines.enterState _).completeOpt _ _ _).calIdle

theorem LeaseKept.restartRefresh : LeaseKept s0 (restartRefresh s) :=
  h.kept (kept_restartRefresh (List.Subset.refl _) (Kept.refl _ s)) (by decide) (by decide)

theorem LeaseKept.calBringUp (st u pre : Nat) : LeaseKept s0 (calBringUp st u pre s) := by
  unfold Machine.calBringUp
  dsimp only
  refine LeaseKept.calIdle (LeaseKept.completeOpt (LeaseKept.enterState (LeaseKept.clearBaselines
    (Steady.foldl (R := LeaseKept s0) _ _ (fun t o k => ?_) ?_)) _) _ _ _)
  · split
    · exact k
    · exact k.setCeiling _ _
  · have hl : LeaseKept s0 (if s.cal.todo.all (fun e => e.1 == 0xD) then s else Machine.restoreLoops s) := by
      split
      · exact h
      · exact h.restoreLoops
    split
    · exact (hl.modDram _).restartRefresh
    · exact hl

theorem LeaseKept.calProgress (e : Nat × Nat) : LeaseKept s0 (calProgress e s) := by
  have h1 : LeaseKept s0 (Machine.modCal (fun x => { x with todo := s.cal.todo.filter fun b => b != e }) s) := h.modCal rfl rfl
  unfold Machine.calProgress
  dsimp only
  split
  · split
    · exact h1.restoreLoops.calReady
    · exact h1.calReady
  · split
    · exact h1.restoreLoops
    · exact h1

theorem LeaseKept.calFailed (e : Nat × Nat) (u pre : Nat) : LeaseKept s0 (calFailed e u pre s) := by
  unfold Machine.calFailed
  dsimp only
  split
  · exact (h.recordFail _ _ _ _).calProgress _
  · exact (h.recordFail _ _ _ _).calBringUp _ _ _

theorem LeaseKept.calRefuse (u pre : Nat) : LeaseKept s0 (calRefuse u pre s) := h.modCal rfl rfl

theorem LeaseKept.calTurn (f : Nat) : LeaseKept s0 (calTurn f s) := by
  induction f generalizing s with
  | zero => exact h
  | succ f ih =>
    rw [Machine.calTurn]
    split
    · exact (h.completeOpt _ _ _).calIdle
    · split
      · exact h.openWindow _ _
      · exact ih (((h.recordFail _ _ _ _).calRefuse _ _).modCal rfl rfl)

theorem LeaseKept.enterCalibrate (cmd : Option Nat) : LeaseKept s0 (enterCalibrate cmd s) :=
  (LeaseKept.modCal (Steady.foldl (R := LeaseKept s0) _ _ (fun _ c k => LeaseKept.openWindow (k.openWindow 2 c) 0xC 0)
    (h.setLoops (fun _ _ => 1) _)) rfl rfl).enterState _

theorem LeaseKept.pauseVisits (todo : List (Nat × Nat)) : LeaseKept s0 (pauseVisits todo s) :=
  h.trans ⟨rfl, rfl, rfl⟩

theorem LeaseKept.startRun (k : Nat) : LeaseKept s0 (startRun k s) := by
  unfold Machine.startRun
  dsimp only
  split
  · exact h.complete _ _ _
  · split
    · split
      · exact h.complete _ _ _
      · exact h.enterCalibrate _
    · exact LeaseKept.calTurn ((h.pauseVisits _).modCal rfl rfl) _

theorem LeaseKept.calNext (f : Nat) : LeaseKept s0 (calNext f s) := by
  induction f generalizing s with
  | zero => exact h
  | succ f ih =>
    rw [Machine.calNext]
    split
    · exact ih (LeaseKept.startRun (h.modCal rfl rfl) _)
    · exact h

theorem LeaseKept.calRevoke (e : Nat) : LeaseKept s0 (calRevoke e s) := by
  have h1 : LeaseKept s0 (if 89 ≤ e ∧ e ≤ 92 then
      Machine.modCal (fun x => { x with visitLeft := x.visitLeft.set (e - 89) [] }) s else s) := by
    split
    · exact h.modCal rfl rfl
    · exact h
  unfold Machine.calRevoke
  dsimp only
  split
  · exact (h1.calFailed _ _ _).calNext _
  · exact ((((h1.recordFail _ _ _ _).calRefuse _ _).modCal rfl rfl).calTurn _).calNext _
  · exact h1

theorem LeaseKept.revokeUnit (e : Nat) : LeaseKept s0 (revokeUnit e s) := by
  unfold Machine.revokeUnit
  split
  · exact h.revokeSite e
  split
  · exact h.revokeCapture _
  split
  · exact h.revokeStream _
  split
  · exact h.revokeLoad
  split
  · exact (h.calRevoke e).revokeScans _
  split
  · exact (h.calRevoke e).revokeTime
  split
  · exact h.calRevoke e
  · exact h

end

/-! ## Leases -/

/-- The lease of an engine marked revoked, or renewed. -/
def leaseMarked (e : Nat) (r : Bool) (s : State) : State :=
  modCal (fun c => { c with revoked := c.revoked.set e r, missed := c.missed.set e 0 }) s

/-- The revocation in HQM_REVOKE. -/
def revokeReported (e : Nat) (s : State) : State :=
  modHqm (fun h => { h with
    revEngine := BitVec.ofNat 7 e, revEvent := true, revCount := satAdd (2 ^ 32 - 1) h.revCount 1 }) s

theorem revoke_eq (e : Nat) (s : State) :
    revoke e s = raiseIrq 17 (perfEvent 0x05A e 1 (revokeReported e (revokeUnit e (leaseMarked e true s)))) := rfl

theorem leaseMarked_get (e : Nat) (r : Bool) (s : State) :
    (leaseMarked e r s).cal.revoked.get e = r ∧ (leaseMarked e r s).cal.missed.get e = 0 :=
  ⟨SMap.get_set_eq s.cal.revoked e r, SMap.get_set_eq s.cal.missed e 0⟩

theorem revoke_effect (e : Nat) (s : State) : (revoke e s).cal.revoked.get e = true ∧ (revoke e s).cal.missed.get e = 0 ∧
    (revoke e s).hqm.revEngine = BitVec.ofNat 7 e ∧ (revoke e s).hqm.revEvent = true ∧
    (revoke e s).hqm.revCount = min (2 ^ 32 - 1) (s.hqm.revCount + 1) ∧ bit (revoke e s).sys.irqStatus 17 = true := by
  have hk : LeaseKept (leaseMarked e true s) (revokeUnit e (leaseMarked e true s)) := (LeaseKept.refl _).revokeUnit e
  obtain ⟨hr, hm⟩ := leaseMarked_get e true s
  have hs := signalled_trans (signalled_perfEvent 0x05A e 1 (revokeReported e (revokeUnit e (leaseMarked e true s))))
    (signalled_raiseIrq 17 _)
  rw [revoke_eq]
  have hb := bit_raiseIrq_irqStatus (b := 17) (by decide)
    (perfEvent 0x05A e 1 (revokeReported e (revokeUnit e (leaseMarked e true s))))
  obtain ⟨_, _, _, _, hs⟩ := hs
  rw [hs] at hb ⊢
  refine ⟨?_, ?_, rfl, rfl, ?_, hb⟩
  · exact (congrArg (fun r => SMap.get r e) hk.revoked).trans hr
  · exact (congrArg (fun r => SMap.get r e) hk.missed).trans hm
  · show satAdd (2 ^ 32 - 1) (revokeUnit e (leaseMarked e true s)).hqm.revCount 1 = _
    rw [hk.count]
    rfl

theorem exec_leaseLapse_due {e : EngineId} {s : State} (h : 4 ≤ s.cal.missed.get e.val)
    (hr : s.cal.revoked.get e.val = false) : exec (.leaseLapse e) s = .next (revoke e.val s) :=
  if_pos ⟨h, by rw [hr]; decide⟩

theorem exec_leaseLapse_early {e : EngineId} {s : State} (h : s.cal.missed.get e.val < 4) :
    exec (.leaseLapse e) s = .next s := if_neg fun k => Nat.not_le_of_lt h k.1

theorem exec_engineFirstRenewal {e : EngineId} {s : State} (hr : s.cal.revoked.get e.val = true) :
    exec (.engineFirstRenewal e) s = .next (if 64 ≤ e.val ∧ e.val < 80 then
      renewCapture (e.val - 64) (leaseMarked e.val false s) else leaseMarked e.val false s) := if_pos hr

theorem engineFirstRenewal_effect {e : EngineId} {s : State} (hr : s.cal.revoked.get e.val = true) :
    ∃ t, exec (.engineFirstRenewal e) s = .next t ∧ t.cal.revoked.get e.val = false ∧ t.cal.missed.get e.val = 0 := by
  refine ⟨_, exec_engineFirstRenewal hr, ?_⟩
  split
  · have hc : (renewCapture (e.val - 64) (leaseMarked e.val false s)).cal = (leaseMarked e.val false s).cal :=
      (kept_renewCapture _ (List.Subset.refl _) (Kept.refl _ _)).same .cal (by decide)
    rw [hc]
    exact leaseMarked_get ..
  · exact leaseMarked_get ..

/-- Settles O60: the tick by its requests and allotments, the leases by what a revocation leaves of them, a write by the
register that it reaches. -/
theorem ticksLeasesAndWrites : Obligations.TicksLeasesAndWrites := by
  intro s s1
  refine ⟨fun i h => spanTick_effect i h, fun e => ⟨fun h hr => ⟨_, exec_leaseLapse_due h hr, revoke_effect e.val s⟩,
    exec_leaseLapse_early, engineFirstRenewal_effect⟩, fun v => ⟨fun hon => ⟨?_, ?_, ?_, ?_⟩, fun off size =>
    exec_write_otherSize⟩⟩
  · exact ⟨_, exec_write_scratch hon, rfl, (kept_modSys _ (by decide) rfl (Kept.refl [.sys] s)).same⟩
  · exact ⟨_, exec_write_irqStatus hon, rfl, (kept_modSys _ (by decide) rfl (Kept.refl [.sys] s)).same⟩
  · exact ⟨_, exec_write_alertSel hon, rfl, (kept_modSys _ (by decide) rfl (Kept.refl [.sys] s)).same⟩
  · exact ⟨_, exec_write_gain hon, rfl, (kept_modTime _ (by decide) rfl (Kept.refl [.time] s)).same⟩

end Sys2Proof.Machine

/-!
Resets, Boot, the requests of the SYS block, and wakes: what a hard reset leaves, what the sections and the ceilings of
Boot leave of the device, and what a wake does to the UI PLLs.
-/

namespace Sys2Proof.Machine

/-! ## Hard resets -/

/-- Every register is at its reset value; configuration memory, host memory and what waits stand. -/
theorem hardReset_fresh (s : State) :
    let t := hardReset s
    t.sys.state = .reset ∧ t.sys.irqStatus = 0 ∧ t.sys.irqEnable = 0 ∧
      t.sys.disabled = 0 ∧ t.hqm = {} ∧ t.dram = {} ∧ t.vs = {} ∧ t.sites = [] ∧ t.barriers = [] ∧ t.octets = [] ∧
      t.pins = [] ∧ t.timing = {} ∧ t.cap = {} ∧ t.dds = {} ∧ t.halso = {} ∧ t.perf = {} ∧ t.time.span = 0 ∧
      t.time.offset = 0 ∧ t.time.epoch = 0 ∧ t.time.cfg = 0x0064000000000000 ∧ t.cal.cont = 0x5E ∧ t.cal.mode = .none ∧
      t.cfg = { flash := s.cfg.flash } ∧ t.host = s.host ∧ t.pending = s.pending :=
  ⟨rfl, rfl, rfl, rfl, rfl, rfl, rfl, rfl, rfl, rfl, rfl, rfl, rfl, rfl, rfl, rfl, rfl, rfl, rfl, rfl, rfl, rfl, rfl, rfl,
    rfl⟩

/-- Over RESET_N the peak temperatures stand. -/
theorem hardReset_peak {s : State} (h : s.sys.por = false) (i : Nat) :
    ((hardReset s).cal.sensors.get i).peak = (s.cal.sensors.get i).peak := by
  have hs : (hardReset s).cal.sensors = if s.sys.por then [] else s.cal.sensors.mapAll fun _ x => { x with temp := 0 } := rfl
  rw [hs, h, if_neg (by decide), SMap.get_mapAll _ _ _ rfl]

theorem exec_powerOnReset (s : State) : exec .powerOnReset s = .next (hardReset (modTime (fun x =>
    { x with refPresent := false, refLostNow := true }) (modSys (fun y => { y with por := true, railsGood := false }) s))) :=
  rfl

theorem exec_resetNAssert (s : State) :
    exec .resetNAssert s = .next (hardReset (modSys (fun y => { y with resetN := true }) s)) := rfl

theorem exec_resetNDeassert (s : State) :
    exec .resetNDeassert s = .next (tryBoot (modSys (fun y => { y with resetN := false }) s)) := rfl

theorem exec_powerOnResetEnd {s : State} (h : s.sys.por = true) : exec .powerOnResetEnd s =
    .next (tryBoot (modTime (fun x => { x with refPresent := true, refLostNow := false })
      (modSys (fun y => { y with por := false, railsGood := true }) s))) := if_pos h

/-- Boot, begun or not, moves none of the reset lines. -/
theorem tryBoot_lines (s : State) : (tryBoot s).sys.por = s.sys.por ∧ (tryBoot s).sys.resetN = s.sys.resetN := by
  unfold tryBoot
  split
  · obtain ⟨_, _, _, _, h⟩ := signalled_enterState .boot s
    rw [h]
    exact ⟨rfl, rfl⟩
  · exact ⟨rfl, rfl⟩

/-! ## Records that Boot and a wake apply -/

theorem inst_place {o base stride n : Nat} (h : (inst o base stride n).isSome = true) (hn : 0 < stride) :
    base ≤ o ∧ o < base + stride * n := by
  unfold inst at h
  split at h
  · next hc =>
    obtain ⟨hb, -, hlt⟩ := hc
    have := (Nat.div_lt_iff_lt_mul hn).mp hlt
    exact ⟨hb, by rw [Nat.mul_comm]; omega⟩
  · cases h

/-- A register that a section admits is DRAM_CTRL, or a register of the DDS, TIME and CAL blocks. -/
theorem kind1Ok_place {sec o : Nat} (h : kind1Ok sec o = true) : o = 0x50000 ∨ (0xB0000 ≤ o ∧ o < 0xE0000) := by
  unfold kind1Ok at h
  split at h
  · simp only [Bool.or_eq_true, beq_iff_eq] at h
    rcases h with h | h
    · omega
    · have := inst_place h (by decide); omega
  · simp only [List.contains_eq_mem, List.mem_cons, List.not_mem_nil, or_false, decide_eq_true_eq] at h
    omega
  · simp only [Bool.or_eq_true, beq_iff_eq] at h
    rcases h with (h | h) | h
    · omega
    · have := inst_place h (by decide); omega
    · have := inst_place h (by decide); omega
  · simp only [Bool.or_eq_true, beq_iff_eq] at h
    rcases h with (h | h) | h
    · omega
    · omega
    · have := inst_place h (by decide); omega
  · cases h

/-- Section 6 holds DRAM_CTRL, CAL_CTRL and registers of the DDS block. -/
theorem kind1Ok_six {o : Nat} (h : kind1Ok 6 o = true) : o = 0x50000 ∨ o = 0xD0000 ∨ (0xB0000 ≤ o ∧ o < 0xC0000) := by
  unfold kind1Ok at h
  simp only [Bool.or_eq_true, beq_iff_eq] at h
  rcases h with (h | h) | h
  · exact .inl h
  · exact .inr (.inl h)
  · have := inst_place h (by decide); omega

/-- A record of a register is a write of that register, whole, or nothing. -/
theorem applyKind1_eq (o v : Nat) (s : State) : applyKind1 o v s = s ∨ ∃ w, applyKind1 o v s = writeReg o w s := by
  unfold applyKind1
  split
  · next wide x hr =>
    unfold hostWrite
    cases wide
    · by_cases ha : o % 4 = 0
      · refine .inr ⟨wr32 (lo32 (BitVec.ofNat 64 (v % 2 ^ 32))), ?_⟩
        rw [if_pos ⟨rfl, ha⟩, write32, hr]
        rfl
      · exact .inl ((if_neg fun h => ha h.2).trans (if_neg fun h => absurd h.1 (by decide)))
    · rw [if_neg fun h => absurd h.1 (by decide), hr]
      by_cases ha : o % 8 = 0
      · exact .inr ⟨_, if_pos ⟨rfl, ha⟩⟩
      · exact .inl (if_neg fun h => ha h.2)
  · exact .inl rfl

/-- What a write leaves of a place that a section admits. -/
theorem writeReg_place {o : Nat} (h : o = 0x50000 ∨ (0xB0000 ≤ o ∧ o < 0xE0000)) (w : Wr) (s : State) :
    writeReg o w s = s ∨ (o = 0x50000 ∧ writeReg o w s = writeDram 0 w s) ∨
    (0xB0000 ≤ o ∧ o < 0xC0000 ∧ writeReg o w s = writeDds (o - 0xB0000) w s) ∨
    writeReg o w s = writeTime (o - 0xC0000) w s ∨ (0xD0000 ≤ o ∧ writeReg o w s = writeCal (o - 0xD0000) w s) := by
  unfold writeReg
  cases hb : s.blockOn (alwaysBlock o) with
  | false => exact .inl rfl
  | true =>
  rw [if_neg (by decide)]
  rcases h with rfl | ⟨hlo, hhi⟩
  · exact .inr (.inl ⟨rfl, rfl⟩)
  · rw [if_neg (by omega : ¬ o < 0x10000), if_neg (by omega : ¬ o < 0x20000), if_neg (by omega : ¬ o < 0x40000),
      if_neg (by omega : ¬ o < 0x50000), if_neg (by omega : ¬ o < 0x60000), if_neg (by omega : ¬ o < 0x80000),
      if_neg (by omega : ¬ o < 0xA0000), if_neg (by omega : ¬ o < 0xB0000)]
    by_cases hc : o < 0xC0000
    · rw [if_pos hc]
      by_cases hg : o < 0xB1000
      · rw [if_pos hg]
        exact .inr (.inr (.inl ⟨hlo, hc, rfl⟩))
      · rw [if_neg hg]
        cases inst o 0xB1000 4 s.nCh with
        | none => exact .inl (Option.elim_none ..)
        | some _ => exact .inr (.inr (.inl ⟨hlo, hc, Option.elim_some ..⟩))
    · rw [if_neg hc]
      by_cases hd : o < 0xD0000
      · rw [if_pos hd]
        exact .inr (.inr (.inr (.inl rfl)))
      · rw [if_neg hd, if_pos hhi]
        exact .inr (.inr (.inr (.inr ⟨Nat.le_of_not_lt hd, rfl⟩)))

/-- What Boot's sections leave: the ordering code and whether DRAM is enabled. -/
structure BootKept (s t : State) : Prop where
  is64 : t.sys.is64 = s.sys.is64
  enabled : t.dram.enabled = s.dram.enabled

theorem BootKept.refl (s : State) : BootKept s s := ⟨rfl, rfl⟩

theorem BootKept.trans {s t u : State} (h : BootKept s t) (k : BootKept t u) : BootKept s u :=
  ⟨k.is64.trans h.is64, k.enabled.trans h.enabled⟩

theorem bootKept_of_kept {m : List Part} {s t : State} (k : Kept m s t) (hs : Part.sys ∉ m) (hd : Part.dram ∉ m) :
    BootKept s t :=
  ⟨congrArg Sys.is64 (k.same .sys hs), congrArg Dram.enabled (k.same .dram hd)⟩

theorem setGrain_enabled (g : BitVec 3) (d : Dram) : (setGrain g d).enabled = d.enabled := by
  unfold setGrain
  split
  · rfl
  · rfl

theorem writeDram_enabled (w : Wr) (s : State) : (writeDram 0 w s).dram.enabled = s.dram.enabled := by
  show (after s (execDramCtrlWrite (lo32 w.val) s)).dram.enabled = _
  unfold execDramCtrlWrite onBlock
  split
  · dsimp only
    split
    · rfl
    · exact setGrain_enabled _ s.dram
  · rfl

theorem bootKept_applyKind1 {sec o : Nat} (h : kind1Ok sec o = true) (v : Nat) (s : State) :
    BootKept s (applyKind1 o v s) := by
  rcases applyKind1_eq o v s with e | ⟨w, e⟩
  · rw [e]
    exact .refl s
  rw [e]
  rcases writeReg_place (kind1Ok_place h) w s with e | ⟨-, e⟩ | ⟨-, -, e⟩ | e | ⟨-, e⟩ <;> rw [e]
  · exact .refl s
  · exact ⟨congrArg Sys.is64 ((kept_writeDram 0 w (List.Subset.refl _) (Kept.refl _ s)).same .sys (by decide)),
      writeDram_enabled w s⟩
  · exact bootKept_of_kept (kept_writeDds _ w (List.Subset.refl _) (Kept.refl _ s)) (by decide) (by decide)
  · exact bootKept_of_kept (kept_writeTime _ w (List.Subset.refl _) (Kept.refl _ s)) (by decide) (by decide)
  · exact bootKept_of_kept (kept_writeCal _ w (List.Subset.refl _) (Kept.refl _ s)) (by decide) (by decide)

theorem applyKind1_six {o : Nat} (h : kind1Ok 6 o = true) (v : Nat) (s : State) :
    (applyKind1 o v s).sys = s.sys ∧ (applyKind1 o v s).octets = s.octets := by
  rcases applyKind1_eq o v s with e | ⟨w, e⟩
  · rw [e]
    exact ⟨rfl, rfl⟩
  rw [e]
  rcases writeReg_place (kind1Ok_place h) w s with e | ⟨-, e⟩ | ⟨-, -, e⟩ | e | ⟨hd, e⟩ <;> rw [e]
  · exact ⟨rfl, rfl⟩
  · have k := kept_writeDram 0 w (List.Subset.refl _) (Kept.refl _ s)
    exact ⟨k.same .sys (by decide), k.same .octets (by decide)⟩
  · have k := kept_writeDds (o - 0xB0000) w (List.Subset.refl _) (Kept.refl _ s)
    exact ⟨k.same .sys (by decide), k.same .octets (by decide)⟩
  · have k := kept_writeTime (o - 0xC0000) w (List.Subset.refl _) (Kept.refl _ s)
    exact ⟨k.same .sys (by decide), k.same .octets (by decide)⟩
  · obtain rfl : o = 0xD0000 := by
      have := kind1Ok_six h
      omega
    exact ⟨rfl, rfl⟩

theorem bootKept_applyRec {sec : Nat} {r : CfgRec} {s t : State} (h : applyRec sec r s = some t) : BootKept s t := by
  unfold applyRec at h
  split at h
  · exact bootKept_of_kept (keptO_applyCoef r (List.Subset.refl _) (Kept.refl _ s) t h) (by decide) (by decide)
  · split at h
    · obtain ⟨o, -, rfl⟩ := Option.map_eq_some_iff.mp h
      exact ⟨rfl, rfl⟩
    · cases h
  · split at h
    · next hk =>
      cases h
      exact bootKept_applyKind1 hk.2 _ s
    · cases h

theorem bootKept_applySection (b : Option Bool) (sec : Nat) (s : State) : BootKept s (applySection b sec s) := by
  unfold applySection
  split
  · unfold applyRecs
    refine Steady.foldl (R := BootKept s) _ _ (fun t r k => ?_) (.refl s)
    split
    · next u hu => exact k.trans (bootKept_applyRec hu)
    · exact k.trans ⟨rfl, rfl⟩
  · exact .refl s

theorem bootKept_bootSections (hard : Bool) (b : Option Bool) (s : State) : BootKept s (bootSections hard b s) := by
  have h0 : BootKept s ((List.range s.nOct).foldl (fun t o => modOctet o (fun x => { x with bootCeil := x.cFab }) t) s) :=
    Steady.foldl (R := BootKept s) _ _ (fun _ _ k => k.trans ⟨rfl, rfl⟩) (.refl s)
  unfold bootSections
  dsimp only
  split
  · refine Steady.foldl (R := BootKept s) _ _ (fun t i k => k.trans (bootKept_applySection b i t)) ?_
    split
    · exact h0.trans ((bootKept_applySection b 1 _).trans ⟨rfl, rfl⟩)
    · exact h0.trans (bootKept_applySection b 1 _)
  · exact h0.trans ((bootKept_applySection b 2 _).trans (bootKept_applySection b 6 _))

/-! ## The ceilings of Bring-up -/

/-- The ceilings of the octets stand. -/
def CeilingsKept (s t : State) : Prop := ∀ o, (t.octet o).ceiling = (s.octet o).ceiling

theorem CeilingsKept.refl (s : State) : CeilingsKept s s := fun _ => rfl

theorem CeilingsKept.trans {s t u : State} (h : CeilingsKept s t) (k : CeilingsKept t u) : CeilingsKept s u :=
  fun o => (k o).trans (h o)

theorem ceilingsKept_of_kept {m : List Part} {s t : State} (k : Kept m s t) (ho : Part.octets ∉ m) : CeilingsKept s t := by
  have h : t.octets = s.octets := k.same .octets ho
  exact fun o => congrArg Octet.ceiling (octet_of_octets h o)

theorem ceilingsKept_putLane (c : Nat) (bs : List LinkBlk) (late : Nat) (s : State) : CeilingsKept s (putLane c bs late s) := by
  intro o
  unfold putLane
  split
  · by_cases h : o = octOf c
    · rw [h, modOctet_octet_self]
    · rw [modOctet_octet_ne _ _ _ _ h]
  · rfl

theorem ceilingsKept_parkWord (n c : Nat) (t : Int) (lvl : Nat) (s : State) : CeilingsKept s (parkWord n c t lvl s) := by
  unfold parkWord
  dsimp only
  split
  · exact .trans (ceilingsKept_of_kept (kept_modPin _ _ (List.Subset.refl _) (Kept.refl _ s)) (by decide))
      (ceilingsKept_putLane _ _ _ _)
  · exact ceilingsKept_putLane _ _ _ _

theorem ceilingsKept_parkPin (n c : Nat) (t : Int) (s : State) : CeilingsKept s (parkPin n c t s) := by
  unfold parkPin
  dsimp only
  generalize (if (s.site n).parkCode c = 1 then 1 else if (s.site n).parkCode c = 2 then 2
    else if (decide ((s.site n).parkCode c = 3) && (s.site n).vcount != 0) = true then (s.pin c).drv else 0) = lvl
  split
  · split
    · exact .refl s
    · exact ceilingsKept_parkWord _ _ _ _ _
  · split
    · exact .refl s
    · exact ceilingsKept_of_kept (kept_movePin _ _ _ (List.Subset.refl _) (Kept.refl _ s)) (by decide)

theorem ceilingsKept_restPin (c : Nat) (s : State) : CeilingsKept s (restPin c s) := by
  unfold restPin
  split
  · exact ceilingsKept_parkPin _ _ _ _
  · exact ceilingsKept_of_kept (kept_releasePin _ _ (List.Subset.refl _) (Kept.refl _ s)) (by decide)

theorem ceilingsKept_setLoop (c v : Nat) (s : State) : CeilingsKept s (setLoop c v s) := by
  unfold setLoop endFar
  refine .trans (ceilingsKept_of_kept (kept_movePin c s.now (fun p => { p.disturb with cfg := setBits p.cfg 4 3 v })
    (List.Subset.refl _) (Kept.refl _ s)) (by decide)) ?_
  split
  · split
    · exact .refl _
    · exact ceilingsKept_restPin _ _
  · exact .refl _

theorem ceilingsKept_enterCalibrate (cmd : Option Nat) (s : State) : CeilingsKept s (enterCalibrate cmd s) := by
  have h := Steady.foldl (R := CeilingsKept s) (fun t c => setLoop c 1 t) (List.range s.nCh)
    (fun t c k => k.trans (ceilingsKept_setLoop c 1 t)) (.refl s)
  refine .trans (Steady.foldl (R := CeilingsKept s) (fun t c => openWindow 0xC 0 (openWindow 2 c t)) (List.range 128)
    (fun t c k => k.trans (ceilingsKept_of_kept (kept_openWindow 0xC 0 (List.Subset.refl _)
      (kept_openWindow 2 c (List.Subset.refl _) (Kept.refl _ t))) (by decide))) h) ?_
  exact ceilingsKept_of_kept (kept_enterState (m := [.cal, .sys, .hqm, .perf, .out, .devState]) _ (by decide)
    (kept_modCal _ (by decide) (Kept.refl _ _))) (by decide)

theorem setCeiling_octet_ne {o j : Nat} (v : Nat) (s : State) (h : j ≠ o) : (setCeiling o v s).octet j = s.octet j := by
  unfold setCeiling
  dsimp only
  split
  · rw [signalled_octet (signalled_raiseIrq 1 _), modSys_octet_view, modOctet_octet_ne _ _ _ _ h,
      modOctet_octet_ne _ _ _ _ h]
  · exact modOctet_octet_ne _ _ _ _ h

theorem bringUpCeilings_le {s : State} {o : Nat} (h : o < s.nOct) : ((bringUpCeilings s).octet o).ceiling ≤ 2000 := by
  obtain ⟨u, -, -, hu⟩ := foldl_at (fun t j => t.octet j) (P := fun _ => True)
    (step := fun t o => setCeiling o (min (t.octet o).bootCeil 2000) t) (fun _ _ _ _ => trivial)
    (fun t c _ j _ hj => setCeiling_octet_ne _ t hj) List.nodup_range (s := s) trivial (List.mem_range.mpr h)
  have hc := (setCeiling_effect o (min (u.octet o).bootCeil 2000) u).2.2.2.1
  unfold bringUpCeilings
  rw [hu, hc]
  exact Nat.min_le_right ..

/-! ## The end of Boot -/

/-- The bank that Boot reads. -/
def bootBank (b : BootIn) (s : State) : Option Bool := if b.memAnswers then bankInUse s.cfg.flash else none

/-- Boot has read the bank and the factory region. -/
def identified (b : BootIn) (s : State) : State :=
  loadFactory b.memAnswers (!s.sys.softBoot) (bootIdentity (bootBank b s) (bootStatus b (bootBank b s) s))

/-- The hardware is up, unless the reset was a soft one. -/
def equipped (b : BootIn) (s : State) : State :=
  if !s.sys.softBoot then seedAgeing b.memAnswers (bootHardware b (identified b s)) else identified b s

/-- Boot's work before the ceilings are set. -/
def booted (b : BootIn) (s : State) : State := bootSections (!s.sys.softBoot) (bootBank b s) (equipped b s)

/-- Bring-up entered, before a Calibrate that follows at once. -/
def broughtUp (b : BootIn) (s : State) : State :=
  bootServo (enterState .bringUp (modSys (fun y => { y with softBoot := false, alertHeld := false })
    (bringUpCeilings (booted b s))))

theorem exec_bootComplete {b : BootIn} {s : State} (h : s.sys.state = .boot) : exec (.bootComplete b) s =
    .next (if (broughtUp b s).cal.autoCal then enterCalibrate none (broughtUp b s) else broughtUp b s) := if_pos h

theorem bootKept_identified (b : BootIn) (s : State) : BootKept s (identified b s) := by
  have hs : BootKept s (bootStatus b (bootBank b s) s) := ⟨rfl, rfl⟩
  have hi (u : Option Bool) (t : State) : BootKept t (bootIdentity u t) := by
    refine ⟨?_, congrArg Dram.enabled ((kept_bootIdentity u (List.Subset.refl _) (Kept.refl _ t)).same .dram (by decide))⟩
    unfold bootIdentity
    split
    · rw [modCal_sys]
    · dsimp only
      split
      · rw [modCal_sys, modSys_sys]
      · rw [modCal_sys]
  exact (hs.trans (hi _ _)).trans (bootKept_of_kept (kept_loadFactory _ _ (List.Subset.refl _) (Kept.refl _ _)) (by decide)
    (by decide))

theorem equipped_effect (b : BootIn) (s : State) : (equipped b s).sys.is64 = s.sys.is64 ∧
    (s.sys.softBoot = false → (equipped b s).dram.enabled = b.dramOk) := by
  have hi := bootKept_identified b s
  unfold equipped
  cases hs : s.sys.softBoot
  · have hh := (kept_bootHardware b (List.Subset.refl _) (Kept.refl _ (identified b s))).same .sys (by decide)
    have hk := bootKept_of_kept (kept_seedAgeing b.memAnswers (List.Subset.refl _) (Kept.refl _ (bootHardware b
      (identified b s)))) (by decide) (by decide)
    exact ⟨hk.is64.trans ((congrArg Sys.is64 hh).trans hi.is64), fun _ => hk.enabled⟩
  · exact ⟨hi.is64, nofun⟩

theorem booted_effect (b : BootIn) (s : State) : (booted b s).sys.is64 = s.sys.is64 ∧
    (s.sys.softBoot = false → (booted b s).dram.enabled = b.dramOk) := by
  obtain ⟨h64, hen⟩ := equipped_effect b s
  have hk := bootKept_bootSections (!s.sys.softBoot) (bootBank b s) (equipped b s)
  exact ⟨hk.is64.trans h64, fun h => hk.enabled.trans (hen h)⟩

/-- The device in Bring-up: its state, its ceilings, and whether DRAM is enabled. -/
theorem broughtUp_effect (b : BootIn) (s : State) : (broughtUp b s).sys.state = .bringUp ∧
    (broughtUp b s).sys.alertHeld = false ∧ (s.sys.softBoot = false → (broughtUp b s).dram.enabled = b.dramOk) ∧
    ∀ o, o < s.nOct → ((broughtUp b s).octet o).ceiling ≤ 2000 := by
  obtain ⟨h64, hen⟩ := booted_effect b s
  have hk := kept_bootServo (List.Subset.refl _) (Kept.refl _ (enterState .bringUp (modSys (fun y =>
    { y with softBoot := false, alertHeld := false }) (bringUpCeilings (booted b s)))))
  have hsys : (broughtUp b s).sys = _ := hk.same .sys (by decide)
  have hoct : (broughtUp b s).octets = _ := hk.same .octets (by decide)
  have hdram : (broughtUp b s).dram = _ := hk.same .dram (by decide)
  have hc := (kept_bringUpCeilings (List.Subset.refl _) (Kept.refl _ (booted b s))).same .dram (by decide)
  obtain ⟨_, _, _, _, he⟩ := signalled_enterState .bringUp (modSys (fun y =>
    { y with softBoot := false, alertHeld := false }) (bringUpCeilings (booted b s)))
  rw [he] at hsys hoct hdram
  refine ⟨by rw [hsys]; rfl, by rw [hsys]; rfl, fun h => ?_, fun o ho => ?_⟩
  · rw [hdram]
    exact (congrArg Dram.enabled hc).trans (hen h)
  · rw [octet_of_octets (s := bringUpCeilings (booted b s)) hoct o]
    refine bringUpCeilings_le ?_
    rw [State.nOct, h64]
    exact ho

theorem enterState_alertHeld (d : DevState) (s : State) : (enterState d s).sys.alertHeld = s.sys.alertHeld := by
  obtain ⟨_, _, _, _, h⟩ := signalled_enterState d s
  rw [h]
  rfl

theorem enterCalibrate_keeps (cmd : Option Nat) (s : State) :
    (enterCalibrate cmd s).sys.alertHeld = s.sys.alertHeld ∧ (enterCalibrate cmd s).cal.autoCal = s.cal.autoCal ∧
    (enterCalibrate cmd s).dram = s.dram := by
  have hl : Kept [.octets, .pins, .out, .cal] s (fullBegun cmd s) :=
    kept_modCal _ (by decide) ((kept_loopsSet s).mono (by decide))
  refine ⟨?_, by rw [enterCalibrate_cal], ?_⟩
  · rw [enterCalibrate_eq, enterState_alertHeld]
    exact congrArg Sys.alertHeld (hl.same .sys (by decide))
  · rw [enterCalibrate_eq, signalled_dram (signalled_enterState _ _), modSys_dram]
    exact hl.same .dram (by decide)

theorem bootComplete_effect {b : BootIn} {s : State} (h : s.sys.state = .boot) : ∃ t, exec (.bootComplete b) s = .next t ∧
    t.sys.state = (if t.cal.autoCal then .calibrate else .bringUp) ∧ t.sys.alertHeld = false ∧
    (s.sys.softBoot = false → t.dram.enabled = b.dramOk) ∧ ∀ o, o < s.nOct → (t.octet o).ceiling ≤ 2000 := by
  obtain ⟨hstate, halert, hen, hceil⟩ := broughtUp_effect b s
  refine ⟨_, exec_bootComplete h, ?_⟩
  split
  · next ha =>
    obtain ⟨hal, hauto, hdram⟩ := enterCalibrate_keeps none (broughtUp b s)
    rw [hauto, if_pos ha, hal, hdram]
    refine ⟨(enterState_states _ _).1, halert, hen, fun o ho => ?_⟩
    rw [ceilingsKept_enterCalibrate none (broughtUp b s) o]
    exact hceil o ho
  · exact ⟨hstate, halert, hen, hceil⟩

/-! ## Wakes -/

/-- Section 6 leaves SYS and the octets. -/
theorem applySection_six (b : Option Bool) (s : State) :
    (applySection b 6 s).sys = s.sys ∧ (applySection b 6 s).octets = s.octets := by
  unfold applySection
  split
  · next rs _ =>
    unfold applyRecs
    refine Steady.foldl (R := fun t => t.sys = s.sys ∧ t.octets = s.octets) _ _ (fun t r k => ?_) ⟨rfl, rfl⟩
    cases hr : applyRec 6 r t with
    | none => exact k
    | some u =>
      have hr' : (if r.1 = 1 ∧ kind1Ok 6 r.2.1 then some (applyKind1 r.2.1 r.2.2 t) else none) = some u := hr
      have hk : u.sys = t.sys ∧ u.octets = t.octets := by
        split at hr'
        · next hok =>
          cases hr'
          exact applyKind1_six hok.2 _ t
        · cases hr'
      exact ⟨hk.1.trans k.1, hk.2.trans k.2⟩
  · exact ⟨rfl, rfl⟩

/-- The device is Ready again. -/
def wokenUp (s : State) : State := restartRefresh (enterState .ready (modSys (fun y => { y with waking := false }) s))

/-- The UI PLLs of the octets that are not disabled lock again. -/
def relocked (n : Nat) (s : State) : State :=
  (List.range n).foldl (fun t o => if bit t.sys.disabled o then t else setLock o t.now true t) s

/-- What a wake from Deep standby sets beside. -/
def restored (s : State) : State :=
  modDram (fun d => { d with
    activeRate := d.rate,
    chans := (List.range 16).foldl (fun m n => m.mod n fun x => { x with trained := d.enabled }) d.chans })
    (wakeServo (applySection s.bank 6 s))

theorem exec_wakeComplete {s : State} (h : s.sys.waking = true) : exec .wakeComplete s =
    .next (if s.sys.state = .deepStandby then restored (relocked s.nOct (wokenUp s)) else wokenUp s) := by
  show execWakeComplete s = _
  unfold execWakeComplete
  rw [if_neg (by rw [h]; decide)]
  by_cases hd : s.sys.state = .deepStandby
  · rw [if_pos hd, decide_eq_true hd]
    rfl
  · rw [if_neg hd, decide_eq_false hd]
    rfl

theorem exec_wakeComplete_notWaking {s : State} (h : s.sys.waking = false) : exec .wakeComplete s = .next s :=
  if_pos (by rw [h]; decide)

theorem wokenUp_effect (s : State) : (wokenUp s).sys.state = .ready ∧ (wokenUp s).sys.waking = false ∧
    (wokenUp s).sys.disabled = s.sys.disabled := by
  have hr : (wokenUp s).sys = _ := (kept_restartRefresh (List.Subset.refl _) (Kept.refl _ (enterState .ready
    (modSys (fun y => { y with waking := false }) s)))).same .sys (by decide)
  obtain ⟨_, _, _, _, h⟩ := signalled_enterState .ready (modSys (fun y => { y with waking := false }) s)
  rw [hr, h]
  exact ⟨rfl, rfl, rfl⟩

theorem relocked_effect (n : Nat) (s : State) : (relocked n s).sys = s.sys ∧
    ∀ o, o < n → bit s.sys.disabled o = false → ((relocked n s).octet o).locked = true := by
  have hstep (t : State) (o : Nat) : (if bit t.sys.disabled o then t else setLock o t.now true t).sys = t.sys := by
    split
    · rfl
    · rfl
  refine ⟨Steady.foldl (R := fun t => t.sys = s.sys) _ _ (fun t o k => (hstep t o).trans k) rfl, fun o ho hd => ?_⟩
  obtain ⟨u, hu, -, hl⟩ := foldl_at (fun t j => (t.octet j).locked) (P := fun t => t.sys = s.sys)
    (step := fun t o => if bit t.sys.disabled o then t else setLock o t.now true t)
    (fun t c _ k => (hstep t c).trans k) (fun t c _ j _ hj => by
      split
      · rfl
      · rw [setLock, modOctet_octet_ne _ _ _ _ hj]) List.nodup_range (s := s) rfl (List.mem_range.mpr ho)
  unfold relocked
  rw [hl, hu, hd, if_neg (by decide), setLock, modOctet_octet_self]
  split
  · next h => exact h
  · rfl

theorem restored_keeps (s : State) : (restored s).sys = s.sys ∧ (restored s).octets = s.octets := by
  obtain ⟨hs, ho⟩ := applySection_six s.bank s
  have hw := kept_wakeServo (List.Subset.refl _) (Kept.refl _ (applySection s.bank 6 s))
  exact ⟨(hw.same .sys (by decide)).trans hs, (hw.same .octets (by decide)).trans ho⟩

theorem wakeComplete_effect {s : State} (h : s.sys.waking = true) : ∃ t, exec .wakeComplete s = .next t ∧
    t.sys.state = .ready ∧ t.sys.waking = false ∧
    (s.sys.state = .deepStandby → ∀ o, o < s.nOct → bit s.sys.disabled o = false → (t.octet o).locked = true) := by
  obtain ⟨hstate, hwak, hdis⟩ := wokenUp_effect s
  refine ⟨_, exec_wakeComplete h, ?_⟩
  split
  · obtain ⟨hsys, hlock⟩ := relocked_effect s.nOct (wokenUp s)
    obtain ⟨hsys', hoct⟩ := restored_keeps (relocked s.nOct (wokenUp s))
    rw [hsys', hsys]
    refine ⟨hstate, hwak, fun _ o ho hd => ?_⟩
    rw [octet_of_octets hoct o]
    exact hlock o ho (by rw [hdis]; exact hd)
  · next hn => exact ⟨hstate, hwak, fun hd => absurd hd hn⟩

/-! ## Requests -/

theorem exec_softReset_key {key : BitVec 8} {s : State} (h : key ≠ 0xD1) : exec (.softResetRequest key) s = .next s := by
  have hk : key.toNat ≠ 0xD1 := fun e => h (BitVec.eq_of_toNat_eq e)
  show onBlock true s (requestReset key.toNat) = _
  unfold onBlock requestReset
  rw [if_neg hk]
  split
  · rfl
  · rfl

/-- Settles O59: each reset, request and wake by what it leaves. -/
theorem resetsAndRequests : Obligations.ResetsAndRequests := by
  intro s fresh boots
  refine ⟨⟨_, exec_powerOnReset s, hardReset_fresh _, rfl, rfl⟩, ⟨_, exec_resetNAssert s, hardReset_fresh _, rfl,
    fun h i => hardReset_peak h i⟩, ⟨_, exec_resetNDeassert s, (tryBoot_lines _).2, ?_⟩, fun h => ⟨_, exec_powerOnResetEnd h,
    (tryBoot_lines _).1, ?_, ?_⟩, fun b h => bootComplete_effect h, fun hon => ⟨?_, ?_, ?_, ?_, fun _ => exec_softReset_key⟩,
    fun h => ⟨⟨_, if_neg h, rfl⟩, ⟨_, if_neg h, rfl⟩⟩, wakeComplete_effect, exec_wakeComplete_notWaking⟩
  · rw [(tryBoot_effect _).2]
    simp [boots]
  · rw [(tryBoot_effect _).1, modTime_time]
  · rw [(tryBoot_effect _).2]
    simp [boots]
  · exact ⟨_, onBlock_pos hon, rfl⟩
  · exact ⟨_, onBlock_pos hon, rfl⟩
  · exact ⟨_, onBlock_pos hon, rfl⟩
  · exact ⟨_, onBlock_pos hon, rfl⟩

end Sys2Proof.Machine

/-!
Window monitors, the sensors, the main converter and the ageing readings: what a sample, a write and a reading leave of
the calibration block, and whom a fault or a trip stops.
-/

namespace Sys2Proof.Machine

/-! ## Stops of every site and generator -/

/-- Whom a stop of the running sites reaches depends on the sites and on the span. -/
theorem stopSites_sites (p : Nat → Bool) {s t : State} (hs : t.sites = s.sites) (ht : t.time.span = s.time.span) :
    (stopSites p t).sites = (stopSites p s).sites := by
  have hfold : ∀ (l : List Nat) (a b : State), b.sites = a.sites → b.time.span = a.time.span →
      (l.foldl (fun t n => if p n then requestStop n none false (t.time.span + 1) 0 t else t) b).sites =
        (l.foldl (fun t n => if p n then requestStop n none false (t.time.span + 1) 0 t else t) a).sites := fun l => by
    induction l with
    | nil => exact fun a b h _ => h
    | cons n l ih =>
      intro a b h k
      refine ih _ _ ?_ ?_
      · beta_reduce
        split
        · rw [k]
          unfold requestStop
          rw [modSite_sites, modSite_sites, h]
        · exact h
      · beta_reduce
        split
        · exact k
        · exact k
  unfold stopSites
  have hr : t.running = s.running := by rw [State.running, hs, State.running]
  rw [hr]
  exact hfold _ s t hs ht

theorem stopSites_cal (p : Nat → Bool) (s : State) : (stopSites p s).cal = s.cal :=
  (kept_stopSites p (List.Subset.refl _) (Kept.refl _ s)).same .cal (by decide)

theorem stopSites_sys (p : Nat → Bool) (s : State) : (stopSites p s).sys = s.sys :=
  (kept_stopSites p (List.Subset.refl _) (Kept.refl _ s)).same .sys (by decide)

/-- A running generator takes one more stop, immediate, from the span that follows. -/
theorem stopGens_stops {g : Nat} {s : State} (hg : g < 8) (hr : (s.gen g).running = true) :
    ((stopGens s).gen g).stops = (s.gen g).stops ++ [(s.time.span + 1, true, none)] := by
  obtain ⟨u, hspan, hu, hl⟩ := foldl_at (fun t j => t.gen j) (P := fun t => t.time.span = s.time.span)
    (step := fun t n => if (t.gen n).running || (t.gen n).startSpan.isSome then
      modGen n (fun g => { g with stops := g.stops ++ [(t.time.span + 1, true, none)] }) t else t)
    (fun t c _ k => by
      split
      · exact k
      · exact k)
    (fun t c _ j _ hj => by
      split
      · exact modGen_gen_ne _ _ _ _ hj
      · rfl) List.nodup_range (s := s) rfl (List.mem_range.mpr hg)
  unfold stopGens
  rw [hl, hu, hr, Bool.true_or, if_pos rfl, modGen_gen_self, hu, hspan]

/-! ## Window monitors -/

/-- The raw decision of a sample. -/
def Mon.rawAt (m : Mon) (uv : Int) : Bool :=
  if ((m.hi * 2000 : Nat) : Int) < uv then true else if uv < ((m.lo * 2000 : Nat) : Int) then false else m.raw

/-- The raw decisions of the filter after a sample. -/
def Mon.histAt (m : Mon) (uv : Int) : List Bool := (m.rawAt uv :: m.hist).take m.n

/-- The filtered output after a sample. -/
def Mon.outAt (m : Mon) (uv : Int) : Bool := majority (m.histAt uv)

theorem Mon.decide_fst (m : Mon) (uv : Int) : (m.decide uv).1 = m.rawAt uv := by
  unfold Mon.decide Mon.rawAt
  split
  · rfl
  · split
    · rfl
    · rfl

/-- What a sample leaves of a monitor, whatever its output does. -/
theorem Mon.sample_fields (m : Mon) (uv : Int) : (m.sample uv).1.raw = m.rawAt uv ∧ (m.sample uv).1.hist = m.histAt uv ∧
    (m.sample uv).1.out = m.outAt uv ∧ (m.sample uv).1.cfg = m.cfg := by
  have hd := m.decide_fst uv
  unfold Mon.sample
  dsimp only
  rw [hd]
  split
  · exact ⟨rfl, rfl, rfl, rfl⟩
  · split
    · exact ⟨rfl, rfl, rfl, rfl⟩
    · exact ⟨rfl, rfl, rfl, rfl⟩

/-- A full filter resolves the output. -/
theorem Mon.sample_resolved {m : Mon} {uv : Int} (h : m.unresolved = true) (hl : (m.histAt uv).length = m.n) :
    (m.sample uv).1.unresolved = false := by
  unfold Mon.histAt at hl
  unfold Mon.sample
  dsimp only
  rw [h, if_pos rfl, m.decide_fst uv, hl, beq_self_eq_true]
  rfl

/-- A resolved output that changes is flagged and counted. -/
theorem Mon.sample_changed {m : Mon} {uv : Int} (h : m.unresolved = false) (ho : m.outAt uv ≠ m.out) :
    (m.sample uv).2 = true ∧ (m.sample uv).1.rise = (m.rise || m.outAt uv) ∧
    (m.sample uv).1.fall = (m.fall || !m.outAt uv) ∧ (m.sample uv).1.edges = min 0xFFFF (m.edges + 1) := by
  have ho' : ¬ majority ((m.rawAt uv :: m.hist).take m.n) = m.out := ho
  unfold Mon.sample
  dsimp only
  rw [h, if_neg (by decide), m.decide_fst uv, if_neg ho']
  exact ⟨rfl, rfl, rfl, rfl⟩

/-- Any other sample changes no edge count. -/
theorem Mon.sample_same {m : Mon} {uv : Int} (h : ¬ (m.unresolved = false ∧ m.outAt uv ≠ m.out)) :
    (m.sample uv).2 = false ∧ (m.sample uv).1.edges = m.edges := by
  cases hu : m.unresolved
  · have ho : majority ((m.rawAt uv :: m.hist).take m.n) = m.out := by
      by_contra hne
      exact h ⟨hu, hne⟩
    unfold Mon.sample
    dsimp only
    rw [hu, if_neg (by decide), m.decide_fst uv, if_pos ho]
    exact ⟨rfl, rfl⟩
  · unfold Mon.sample
    dsimp only
    rw [hu, if_pos rfl]
    exact ⟨rfl, rfl⟩

/-- A monitor replaced, and its interrupt raised. -/
def monPut (i : Nat) (m : Mon) (irq : Bool) (s : State) : State :=
  if irq then raiseIrq 13 (modMon i (fun _ => m) s) else modMon i (fun _ => m) s

theorem monPut_signalled (i : Nat) (m : Mon) (irq : Bool) (s : State) :
    signalled (modMon i (fun _ => m) s) (monPut i m irq s) := by
  unfold monPut
  split
  · exact signalled_raiseIrq 13 _
  · exact signalled_refl _

theorem exec_monSample_off {i : MonId} {uv : Int} {s : State} (h : (s.cal.mons.get i.val).en = false) :
    exec (.monSample i uv) s = .next s := if_pos (by rw [h]; rfl)

theorem exec_monSample {i : MonId} {uv : Int} {s : State} (h : (s.cal.mons.get i.val).en = true)
    (hr : s.sys.state ≠ .reset) :
    let m := s.cal.mons.get i.val
    let u := monPut i.val (m.sample uv).1 ((m.sample uv).2 && (m.action == 1 || m.action == 2)) s
    exec (.monSample i uv) s = .next (if (m.sample uv).2 && m.action == 2 && (m.sample uv).1.fault then
      stopSites (fun n => bit m.sites n) u else u) := by
  refine (if_neg ?_).trans rfl
  rw [h, beq_false_of_ne hr]
  decide

/-- The state that the sample of an enabled monitor leaves. -/
theorem monSample_effect {i : MonId} {uv : Int} {s : State} (h : (s.cal.mons.get i.val).en = true)
    (hr : s.sys.state ≠ .reset) :
    let m := s.cal.mons.get i.val
    ∃ t, exec (.monSample i uv) s = .next t ∧ t.cal.mons.get i.val = (m.sample uv).1 ∧
      ((m.sample uv).2 = true → m.action = 1 ∨ m.action = 2 → bit t.sys.irqStatus 13 = true) ∧
      ((m.sample uv).2 = true → m.action = 2 → (m.sample uv).1.fault = true →
        t.sites = (stopSites (fun n => bit m.sites n) s).sites) ∧
      ((m.sample uv).2 = false → t.sites = s.sites) := by
  intro m
  have hsig := monPut_signalled i.val (m.sample uv).1 ((m.sample uv).2 && (m.action == 1 || m.action == 2)) s
  have hmon : (monPut i.val (m.sample uv).1 ((m.sample uv).2 && (m.action == 1 || m.action == 2)) s).cal.mons.get i.val =
      (m.sample uv).1 := by
    rw [signalled_cal hsig]
    exact SMap.get_mod_eq s.cal.mons i.val fun _ => (m.sample uv).1
  have hirq : (m.sample uv).2 = true → m.action = 1 ∨ m.action = 2 →
      bit (monPut i.val (m.sample uv).1 ((m.sample uv).2 && (m.action == 1 || m.action == 2)) s).sys.irqStatus 13 = true := by
    intro h2 ha
    rw [h2, Bool.true_and, monPut, if_pos (by simpa using ha)]
    exact bit_raiseIrq_irqStatus (by decide) _
  refine ⟨_, exec_monSample h hr, ?_, ?_, fun h2 ha hf => ?_, fun h2 => ?_⟩
  · split
    · rw [stopSites_cal]
      exact hmon
    · exact hmon
  · split
    · rw [stopSites_sys]
      exact hirq
    · exact hirq
  · rw [if_pos (by rw [h2, hf, ha]; rfl)]
    exact stopSites_sites _ ((signalled_sites hsig).trans rfl) (by rw [signalled_time hsig]; rfl)
  · rw [if_neg (by rw [h2]; exact Bool.false_ne_true)]
    exact (signalled_sites hsig).trans rfl

/-! ### Their configuration -/

/-- A monitor after a write of its configuration. -/
def Mon.written (v : W32) (m : Mon) : Mon :=
  let n : Mon := { m with cfg := v &&& 0x0FFFFFFF }
  if n.hi < n.lo || 1000 < n.hi || n.action == 3 then { m with refused := true }
  else if !n.en then { n.restart with out := false }
  else if !m.en then { n.restart with out := false, raw := false }
  else if n.n != m.n then n.restart
  else n

theorem exec_calMonCfgWrite {i : MonId} {v : W32} {s : State} (h : s.blockOn true = true) :
    exec (.calMonCfgWrite i v) s = .next (modMon i.val (Mon.written v) s) := onBlock_pos h

theorem Mon.written_bad {v : W32} {m : Mon} (h : Mon.hi { m with cfg := v &&& 0x0FFFFFFF } < Mon.lo { m with cfg := v &&& 0x0FFFFFFF } ∨
    1000 < Mon.hi { m with cfg := v &&& 0x0FFFFFFF } ∨ Mon.action { m with cfg := v &&& 0x0FFFFFFF } = 3) :
    m.written v = { m with refused := true } := if_pos (by simpa [or_assoc] using h)

/-- A write that is not reserved is taken; where it enables the monitor or changes its N, the filter is empty. -/
theorem Mon.written_ok {v : W32} {m : Mon} (h : ¬ (Mon.hi { m with cfg := v &&& 0x0FFFFFFF } < Mon.lo { m with cfg := v &&& 0x0FFFFFFF } ∨
    1000 < Mon.hi { m with cfg := v &&& 0x0FFFFFFF } ∨ Mon.action { m with cfg := v &&& 0x0FFFFFFF } = 3)) :
    (m.written v).cfg = v &&& 0x0FFFFFFF ∧ (m.written v).refused = m.refused ∧
    (Mon.en { m with cfg := v &&& 0x0FFFFFFF } = true → m.en = false ∨ Mon.n { m with cfg := v &&& 0x0FFFFFFF } ≠ m.n →
      (m.written v).hist = [] ∧ (m.written v).unresolved = true) := by
  unfold Mon.written
  dsimp only
  rw [if_neg (by simpa [or_assoc] using h)]
  split
  · exact ⟨rfl, rfl, fun _ _ => ⟨rfl, rfl⟩⟩
  · split
    · exact ⟨rfl, rfl, fun _ _ => ⟨rfl, rfl⟩⟩
    · next hen =>
      split
      · exact ⟨rfl, rfl, fun _ _ => ⟨rfl, rfl⟩⟩
      · next hn =>
        refine ⟨rfl, rfl, fun _ hc => ?_⟩
        rcases hc with hc | hc
        · exact absurd (by rw [hc]; rfl) hen
        · exact absurd (bne_iff_ne.mpr hc) hn

/-! ## Sensors -/

/-- Readings put into sensors one after another. -/
def putReadings (l : List (Nat × BitVec 12)) (m : SMap Sensor) : SMap Sensor :=
  l.foldl (fun m e => m.mod e.1 fun x => x.put e.2) m

/-- Each sensor takes its own reading. -/
theorem putReadings_get {l : List (Nat × BitVec 12)} (hl : (l.map Prod.fst).Nodup) (m : SMap Sensor) (k : Nat) :
    (∀ v, (k, v) ∈ l → (putReadings l m).get k = (m.get k).put v) ∧
    (k ∉ l.map Prod.fst → (putReadings l m).get k = m.get k) := by
  induction l generalizing m with
  | nil => exact ⟨fun _ h => absurd h List.not_mem_nil, fun _ => rfl⟩
  | cons e l ih =>
    obtain ⟨hne, hl⟩ := List.nodup_cons.mp hl
    obtain ⟨hin, hout⟩ := ih hl (m.mod e.1 fun x => x.put e.2)
    refine ⟨fun v hv => ?_, fun hk => ?_⟩
    · rcases List.mem_cons.mp hv with rfl | hv
      · exact (hout hne).trans (SMap.get_mod_eq ..)
      · have hk : k ≠ e.1 := fun h => hne (h ▸ List.mem_map_of_mem (f := Prod.fst) hv)
        rw [putReadings, List.foldl_cons, ← putReadings, hin v hv, SMap.get_mod_ne _ _ _ _ hk]
    · obtain ⟨h1, h2⟩ := not_or.mp fun h => hk (List.mem_cons.mpr h)
      exact (hout h2).trans (SMap.get_mod_ne _ _ _ _ h1)

/-- The readings of the 24 sensors, each with its number. -/
def readings (temps : List (BitVec 12)) : List (Nat × BitVec 12) := (List.range 24).zip temps

theorem readings_nodup {temps : List (BitVec 12)} (h : temps.length = 24) : ((readings temps).map Prod.fst).Nodup := by
  rw [readings, List.map_fst_zip (by rw [h, List.length_range])]
  exact List.nodup_range

theorem mem_readings {temps : List (BitVec 12)} (h : temps.length = 24) {i : Nat} (hi : i < temps.length) :
    (i, temps[i]) ∈ readings temps := by
  have hlen : i < ((List.range 24).zip temps).length := by rw [List.length_zip, List.length_range, h]; omega
  have hget : ((List.range 24).zip temps)[i] = (i, temps[i]) := by rw [List.getElem_zip, List.getElem_range]
  unfold readings
  rw [← hget]
  exact List.getElem_mem hlen

/-- A level that some sensor reaches in a sample. -/
def State.reached (s : State) (temps : List (BitVec 12)) (level : Int) : Bool :=
  (readings temps).any fun e => (s.cal.sensors.get e.1).reaches e.2 level

theorem reached_of {s : State} {temps : List (BitVec 12)} (hl : temps.length = 24) {level : Int}
    (h : ∃ i, ∃ h : i < temps.length, ((s.cal.sensors.get i).seen = false ∨ (s.cal.sensors.get i).temp.toInt < level) ∧
      level ≤ temps[i].toInt) : s.reached temps level = true := by
  obtain ⟨i, hi, hlow, hhigh⟩ := h
  refine List.any_eq_true.mpr ⟨_, mem_readings hl hi, ?_⟩
  simpa [Sensor.reaches, hhigh] using hlow

/-- A sample hot enough for the trip. -/
def tripped (temps : List (BitVec 12)) : Bool := (readings temps).any fun e => decide (tripLevel ≤ e.2.toInt)

theorem tripped_of {temps : List (BitVec 12)} (hl : temps.length = 24)
    (h : ∃ i, ∃ h : i < temps.length, 1000 ≤ temps[i].toInt) : tripped temps = true := by
  obtain ⟨i, hi, ht⟩ := h
  exact List.any_eq_true.mpr ⟨_, mem_readings hl hi, decide_eq_true ht⟩

theorem not_tripped_of {temps : List (BitVec 12)} (h : ∀ i (h : i < temps.length), temps[i].toInt < 1000) :
    tripped temps = false := by
  refine List.any_eq_false.mpr fun e he => ?_
  obtain ⟨i, hi, hget⟩ := List.getElem_of_mem (List.of_mem_zip he).2
  have := h i hi
  rw [hget] at this
  unfold tripLevel
  simpa using this

/-- A level reached is noted and raised. -/
def levelNoted (b : Nat) (f : Cal → Cal) (hit : Bool) (s : State) : State := if hit then raiseIrq b (modCal f s) else s

theorem levelNoted_cal (b : Nat) (f : Cal → Cal) (hit : Bool) (s : State) :
    (levelNoted b f hit s).cal = if hit then f s.cal else s.cal := by
  unfold levelNoted
  split
  · rw [signalled_cal (signalled_raiseIrq b _), modCal_cal]
  · rfl

theorem levelNoted_keeps (b : Nat) (f : Cal → Cal) (hit : Bool) (s : State) :
    (levelNoted b f hit s).sites = s.sites ∧ (levelNoted b f hit s).dds = s.dds ∧
    (levelNoted b f hit s).time = s.time ∧ (hit = true → b < 20 → bit (levelNoted b f hit s).sys.irqStatus b = true) ∧
    ∀ c, c < 20 → bit s.sys.irqStatus c = true → bit (levelNoted b f hit s).sys.irqStatus c = true := by
  have hs := signalled_raiseIrq b (modCal f s)
  unfold levelNoted
  split
  · exact ⟨(signalled_sites hs).trans rfl, (signalled_dds hs).trans rfl, (signalled_time hs).trans rfl, fun _ hb => bit_raiseIrq_irqStatus hb _,
      fun c hc h => bit_raiseIrq_of_bit b hc h⟩
  · next hn => exact ⟨rfl, rfl, rfl, fun h => absurd h hn, fun _ _ => id⟩

/-- A sample read, before the trip is decided. -/
def sampled (temps : List (BitVec 12)) (s : State) : State :=
  levelNoted 15 (fun c => { c with critEvent := true }) (s.reached temps s.cal.crit.toInt)
    (levelNoted 14 (fun c => { c with warnEvent := true }) (s.reached temps s.cal.warn.toInt)
      (noteTemps (modCal (fun c => { c with sensors := putReadings (readings temps) c.sensors }) s)))

theorem exec_thermSample {temps : List (BitVec 12)} {s : State} (h : s.sys.state ≠ .reset) :
    exec (.thermSample temps) s = .next (if tripped temps && !s.cal.trip then tripNow (sampled temps s)
      else if (sampled temps s).hot then sampled temps s
      else modCal (fun c => { c with trip := false }) (sampled temps s)) := if_neg h

/-- What a sample leaves, before the trip is decided. -/
theorem sampled_effect (temps : List (BitVec 12)) (s : State) :
    (sampled temps s).sites = s.sites ∧ (sampled temps s).dds = s.dds ∧ (sampled temps s).time = s.time ∧
    (sampled temps s).cal.sensors = putReadings (readings temps) s.cal.sensors ∧
    (sampled temps s).cal.trip = s.cal.trip ∧
    (s.reached temps s.cal.warn.toInt = true →
      (sampled temps s).cal.warnEvent = true ∧ bit (sampled temps s).sys.irqStatus 14 = true) ∧
    (s.reached temps s.cal.crit.toInt = true →
      (sampled temps s).cal.critEvent = true ∧ bit (sampled temps s).sys.irqStatus 15 = true) := by
  have hn := kept_noteTemps (List.Subset.refl _) (Kept.refl _ (modCal (fun c =>
    { c with sensors := putReadings (readings temps) c.sensors }) s))
  have hncal := hn.same .cal (by decide)
  have hnsites := hn.same .sites (by decide)
  have hndds := hn.same .dds (by decide)
  have hntime := hn.same .time (by decide)
  unfold sampled
  generalize noteTemps (modCal (fun c => { c with sensors := putReadings (readings temps) c.sensors }) s) = u
    at hncal hnsites hndds hntime ⊢
  have hucal : u.cal = { s.cal with sensors := putReadings (readings temps) s.cal.sensors } := hncal
  obtain ⟨hs1, hd1, ht1, hb1, -⟩ := levelNoted_keeps 14 (fun c => { c with warnEvent := true })
    (s.reached temps s.cal.warn.toInt) u
  have hc1 := levelNoted_cal 14 (fun c => { c with warnEvent := true }) (s.reached temps s.cal.warn.toInt) u
  generalize levelNoted 14 (fun c => { c with warnEvent := true }) (s.reached temps s.cal.warn.toInt) u = v
    at hs1 hd1 ht1 hb1 hc1 ⊢
  obtain ⟨hs2, hd2, ht2, hb2, hk2⟩ := levelNoted_keeps 15 (fun c => { c with critEvent := true })
    (s.reached temps s.cal.crit.toInt) v
  refine ⟨hs2.trans (hs1.trans hnsites), hd2.trans (hd1.trans hndds), ht2.trans (ht1.trans hntime), ?_, ?_,
    fun hw => ⟨?_, hk2 14 (by decide) (hb1 hw (by decide))⟩, fun hc => ⟨?_, hb2 hc (by decide)⟩⟩
  all_goals rw [levelNoted_cal, hc1, hucal]
  · cases s.reached temps s.cal.crit.toInt <;> cases s.reached temps s.cal.warn.toInt <;> rfl
  · cases s.reached temps s.cal.crit.toInt <;> cases s.reached temps s.cal.warn.toInt <;> rfl
  · rw [hw]
    cases s.reached temps s.cal.crit.toInt <;> rfl
  · rw [hc]
    rfl

/-- The trip: the calibration block notes it, sites and generators stop. -/
theorem tripNow_effect (s : State) : (tripNow s).cal = { s.cal with trip := true } ∧ (tripNow s).sys = s.sys ∧
    (tripNow s).sites = (stopSites (fun _ => true) s).sites ∧
    ∀ g, g < 8 → (s.gen g).running = true →
      ((tripNow s).gen g).stops = (s.gen g).stops ++ [(s.time.span + 1, true, none)] := by
  have hg := kept_stopGens (List.Subset.refl _) (Kept.refl _ (stopSites (fun _ => true)
    (modCal (fun c => { c with trip := true }) s)))
  have hs := kept_stopSites (fun _ => true) (List.Subset.refl _) (Kept.refl _ (modCal (fun c => { c with trip := true }) s))
  have hdds : (stopSites (fun _ => true) (modCal (fun c => { c with trip := true }) s)).dds = s.dds :=
    hs.same .dds (by decide)
  have htime : (stopSites (fun _ => true) (modCal (fun c => { c with trip := true }) s)).time = s.time :=
    hs.same .time (by decide)
  refine ⟨(hg.same .cal (by decide)).trans (hs.same .cal (by decide)),
    (hg.same .sys (by decide)).trans (hs.same .sys (by decide)), ?_, fun g h8 hr => ?_⟩
  · exact (hg.same .sites (by decide)).trans (stopSites_sites _ rfl rfl)
  · refine (stopGens_stops h8 ?_).trans ?_
    · rw [gen_of_dds hdds]
      exact hr
    · rw [gen_of_dds hdds, htime]

theorem thermSample_effect {temps : List (BitVec 12)} {s : State} (hr : s.sys.state ≠ .reset) (hl : temps.length = 24) :
    ∃ t, exec (.thermSample temps) s = .next t ∧
      (∀ i (h : i < temps.length), t.cal.sensors.get i = (s.cal.sensors.get i).put temps[i]) ∧
      (s.reached temps s.cal.warn.toInt = true → t.cal.warnEvent = true ∧ bit t.sys.irqStatus 14 = true) ∧
      (s.reached temps s.cal.crit.toInt = true → t.cal.critEvent = true ∧ bit t.sys.irqStatus 15 = true) ∧
      (tripped temps = true → s.cal.trip = false → t.cal.trip = true ∧
        t.sites = (stopSites (fun _ => true) s).sites ∧
        ∀ g, g < 8 → (s.gen g).running = true →
          (t.gen g).stops = (s.gen g).stops ++ [(s.time.span + 1, true, none)]) ∧
      (tripped temps = false → t.sites = s.sites ∧ t.dds = s.dds ∧ (t.cal.trip = true → s.cal.trip = true)) := by
  obtain ⟨hsites, hdds, htime, hsens, htrip, hwarn, hcrit⟩ := sampled_effect temps s
  have hput : ∀ i (h : i < temps.length), (sampled temps s).cal.sensors.get i = (s.cal.sensors.get i).put temps[i] :=
    fun i hi => by rw [hsens]; exact (putReadings_get (readings_nodup hl) _ i).1 _ (mem_readings hl hi)
  refine ⟨_, exec_thermSample hr, ?_⟩
  by_cases hc : (tripped temps && !s.cal.trip) = true
  · obtain ⟨hcal, hsys, hstop, hgen⟩ := tripNow_effect (sampled temps s)
    rw [if_pos hc, hcal, hsys]
    refine ⟨hput, hwarn, hcrit, fun _ _ => ⟨rfl, ?_, fun g h8 hrun => ?_⟩, fun hn => ?_⟩
    · exact hstop.trans (stopSites_sites _ hsites (by rw [htime]))
    · refine (hgen g h8 ?_).trans ?_
      · rw [gen_of_dds hdds]
        exact hrun
      · rw [gen_of_dds hdds, htime]
    · rw [hn] at hc
      exact absurd hc Bool.false_ne_true
  · rw [if_neg hc]
    have hno : tripped temps = true → s.cal.trip = false → False := fun h1 h2 => hc (by rw [h1, h2]; rfl)
    split
    · exact ⟨hput, hwarn, hcrit, fun h1 h2 => (hno h1 h2).elim, fun _ => ⟨hsites, hdds, fun h => htrip ▸ h⟩⟩
    · exact ⟨hput, hwarn, hcrit, fun h1 h2 => (hno h1 h2).elim, fun _ => ⟨hsites, hdds, nofun⟩⟩

theorem Sensor.put_peak (x : Sensor) (v : BitVec 12) :
    (x.put v).peak = if x.seen = false ∨ x.peak.toInt < v.toInt then v else x.peak := by
  unfold Sensor.put
  simp only [Bool.or_eq_true, Bool.not_eq_true', decide_eq_true_eq]

/-! ## The main converter -/

/-- A bit that a write reaches takes the value written. -/
theorem bit_rwMerge {rw : W64} {w : Wr} {i : Nat} (cur : W64) (hr : bit rw i = true) (hw : bit (wrMask w) i = true)
    (hi : i < 64) : bit (rwMerge rw w cur) i = bit w.val i := by
  rw [bit] at hr hw
  simp only [bit, rwMerge, BitVec.getLsbD_or, BitVec.getLsbD_and, BitVec.getLsbD_not, hr, hw, hi]
  simp

/-- A field of low bits that a write reaches takes the value written. -/
theorem bits_rwMerge {n lo len : Nat} {w : Wr} (cur : W64) (h : w.lo = true) (hn : lo + len ≤ n) (h32 : n ≤ 32) :
    bits (rwMerge (fm 0 n) w cur) lo len = bits w.val lo len := by
  refine Nat.eq_of_testBit_eq fun i => ?_
  rw [bits, bits, Nat.testBit_mod_two_pow, Nat.testBit_mod_two_pow, Nat.testBit_div_two_pow, Nat.testBit_div_two_pow]
  by_cases hi : i < len
  · have hb := bit_rwMerge (rw := fm 0 n) (w := w) (i := i + lo) cur (by rw [bit_fm]; simp; omega)
      (by rw [bit_wrMask_of_lt (by omega), h]) (by omega)
    rw [bit, bit, ← BitVec.testBit_toNat, ← BitVec.testBit_toNat] at hb
    rw [hb]
  · rw [decide_eq_false hi, Bool.false_and, Bool.false_and]

/-- The request fields of CAL_ADC as written. -/
def adcAsked (w : Wr) (s : State) : State :=
  modCal (fun c => { c with
    adcKind := BitVec.ofNat 4 (bits w.val 0 4), adcIndex := BitVec.ofNat 7 (bits w.val 4 7),
    adcA := BitVec.ofNat 4 (bits w.val 11 4), adcDone := clr c.adcDone (hitBits (fm 17 1) w) 17 }) s

theorem exec_calAdcGo {w : Wr} {s : State} (h : s.blockOn true = true) (hlo : w.lo = true) : exec (.calAdcGo w) s =
    .next (if bit w.val 15 && s.cal.adcBusy then modCal (fun c => { c with refused := true }) s
      else if !bit w.val 15 then adcAsked w s
      else if s.adcInput (bits w.val 0 4) (bits w.val 4 7) then modCal (fun c => { c with adcBusy := true }) (adcAsked w s)
      else modCal (fun c => { c with adcDone := true, adcSum := 0, refused := true }) (adcAsked w s)) := by
  have hgo : bit (hitBits (fm 15 1) w) 15 = bit w.val 15 := by
    rw [bit_hitBits_of_lt (by decide), hlo, Bool.true_and]
  show execCalAdcGo w s = _
  unfold execCalAdcGo
  rw [onBlock_pos h]
  dsimp only
  rw [hgo, bits_rwMerge _ hlo (by decide) (by decide), bits_rwMerge _ hlo (by decide) (by decide),
    bits_rwMerge _ hlo (by decide) (by decide)]
  rfl

theorem exec_calAdcDone {codes : List (BitVec 12)} {s : State} (h : s.cal.adcBusy = true) :
    exec (.calAdcDone codes) s = .next (modCal (fun c => { c with
      adcBusy := false, adcDone := true,
      adcSum := BitVec.ofNat 20 (((codes.take (2 ^ min 8 c.adcA.toNat)).map BitVec.toNat).foldl (· + ·) 0) }) s) :=
  if_pos h

/-! ## Ageing readings -/

/-- An octet after a reading. -/
def Octet.aged (bp : Nat) (x : Octet) : Octet :=
  let y := { x with readings := (bp :: x.readings).take 16, nReadings := satAdd 0xFFFF x.nReadings 1 }
  { y with d := y.dNow.toNat, m := y.mNow }

/-- With a reading there, d is their median. -/
theorem Octet.aged_fields (bp : Nat) (x : Octet) :
    (x.aged bp).readings = (bp :: x.readings).take 16 ∧
    (x.aged bp).d = (medianI (((bp :: x.readings).take 16).map Int.ofNat)).toNat ∧
    (x.aged bp).m = x.margin0 - (medianI (((bp :: x.readings).take 16).map Int.ofNat) - x.base0) :=
  ⟨rfl, rfl, rfl⟩

theorem exec_ageingReading {o : OctetId} {bp : Nat} {s : State} (h1 : s.sys.state ≠ .reset) (h2 : s.sys.state ≠ .boot)
    (h3 : s.sys.state ≠ .deepStandby) (hn : o.val < s.nOct) : exec (.ageingReading o bp) s =
    .next (if s.sys.state = .ready then
      setCeiling o.val (min ((modOctet o.val (Octet.aged bp) s).octet o.val).ceiling
        (ceilingAt ((modOctet o.val (Octet.aged bp) s).octet o.val).cFab ((modOctet o.val (Octet.aged bp) s).octet o.val).m))
        (modOctet o.val (Octet.aged bp) s)
      else modOctet o.val (Octet.aged bp) s) :=
  if_neg (by rintro (h | h | h | h); exacts [h1 h, h2 h, h3 h, Nat.not_le_of_lt hn h])

theorem setCeiling_octet_self (o v : Nat) (s : State) :
    ∃ dr, (setCeiling o v s).octet o = { s.octet o with ceiling := v, drop := dr } := by
  unfold setCeiling
  dsimp only
  split
  · refine ⟨true, ?_⟩
    rw [signalled_octet (signalled_raiseIrq 1 _), modSys_octet_view, modOctet_octet_self, modOctet_octet_self]
  · refine ⟨(s.octet o).drop, ?_⟩
    rw [modOctet_octet_self]

theorem ageingReading_effect {o : OctetId} (bp : Nat) {s : State} (h1 : s.sys.state ≠ .reset) (h2 : s.sys.state ≠ .boot)
    (h3 : s.sys.state ≠ .deepStandby) (hn : o.val < s.nOct) :
    let y := (s.octet o.val).aged bp
    ∃ t, exec (.ageingReading o bp) s = .next t ∧ (t.octet o.val).readings = y.readings ∧ (t.octet o.val).d = y.d ∧
      (t.octet o.val).m = y.m ∧
      (s.sys.state = .ready → (t.octet o.val).ceiling = min y.ceiling (ceilingAt y.cFab y.m) ∧
        (ceilingAt y.cFab y.m < y.ceiling → bit t.sys.irqStatus 1 = true)) ∧
      (s.sys.state ≠ .ready → (t.octet o.val).ceiling = y.ceiling) := by
  intro y
  have hy : (modOctet o.val (Octet.aged bp) s).octet o.val = y := modOctet_octet_self ..
  refine ⟨_, exec_ageingReading h1 h2 h3 hn, ?_⟩
  rw [hy]
  split
  · next hr =>
    obtain ⟨dr, ho⟩ := setCeiling_octet_self o.val (min y.ceiling (ceilingAt y.cFab y.m)) (modOctet o.val (Octet.aged bp) s)
    have hirq := (setCeiling_effect o.val (min y.ceiling (ceilingAt y.cFab y.m))
      (modOctet o.val (Octet.aged bp) s)).2.2.2.2
    rw [hy] at hirq ho
    rw [ho]
    exact ⟨rfl, rfl, rfl, fun _ => ⟨rfl, fun hlt => hirq (lt_of_le_of_lt (Nat.min_le_right _ _) hlt)⟩, fun hn => absurd hr hn⟩
  · next hr =>
    rw [hy]
    exact ⟨rfl, rfl, rfl, fun h => absurd h hr, fun _ => rfl⟩

/-- Settles O56: monitors, sensors, the converter and the ageing readings, each by what it leaves. -/
theorem monitorsAndSensors : Obligations.MonitorsAndSensors := by
  intro s
  refine ⟨fun i uv => ?_, fun hon i v => ?_, fun temps hr hl => ?_, fun hon w hlo => ?_, fun hb codes =>
    ⟨_, exec_calAdcDone hb, rfl⟩, fun o bp h1 h2 h3 hn => ?_⟩
  · intro m raw hist out
    refine ⟨exec_monSample_off, fun hen hr => ?_⟩
    obtain ⟨t, hx, hq, hirq, hstop, hkeep⟩ := monSample_effect (uv := uv) hen hr
    obtain ⟨hraw, hhist, hout, hcfg⟩ := m.sample_fields uv
    refine ⟨t, hx, ?_⟩
    intro q
    have hq' : q = (m.sample uv).1 := hq
    rw [hq']
    refine ⟨hraw, hhist, hout, hcfg, fun hu hfull => Mon.sample_resolved hu hfull, fun hc => ?_, fun hc => ?_⟩
    · obtain ⟨h2, hrise, hfall, hedges⟩ := Mon.sample_changed (uv := uv) hc.1 hc.2
      refine ⟨hrise, hfall, hedges, hirq h2, fun ha hf => hstop h2 ha ?_⟩
      have hfa : (m.sample uv).1.faultAbove = m.faultAbove := by rw [Mon.faultAbove, hcfg, Mon.faultAbove]
      rw [Mon.fault, hout, hfa]
      exact beq_iff_eq.mpr hf
    · obtain ⟨h2, hedges⟩ := Mon.sample_same (uv := uv) hc
      exact ⟨hedges, hkeep h2⟩
  · intro m c n bad
    have hget : (modMon i.val (Mon.written v) s).cal.mons.get i.val = m.written v :=
      SMap.get_mod_eq s.cal.mons i.val (Mon.written v)
    refine ⟨fun hbad => ⟨_, exec_calMonCfgWrite hon, hget.trans (Mon.written_bad hbad)⟩,
      fun hok => ⟨_, exec_calMonCfgWrite hon, ?_⟩⟩
    rw [hget]
    exact Mon.written_ok hok
  · intro old hit
    obtain ⟨t, hx, hput, hwarn, hcrit, htrip, hcold⟩ := thermSample_effect hr hl
    refine ⟨t, hx, fun i hi => ?_, fun h => hwarn (reached_of hl h), fun h => hcrit (reached_of hl h),
      fun h => htrip (tripped_of hl h), fun h => hcold (not_tripped_of h)⟩
    rw [hput i hi]
    exact ⟨rfl, rfl, Sensor.put_peak _ _⟩
  · intro kind index go
    refine ⟨fun hgo hb => ⟨_, exec_calAdcGo hon hlo, ?_⟩, fun hgo hb => ⟨_, exec_calAdcGo hon hlo, ?_⟩,
      fun hgo => ⟨_, exec_calAdcGo hon hlo, ?_⟩⟩
    all_goals rw [show bit w.val 15 = _ from hgo]
    · rw [hb]
      rfl
    · rw [hb, if_neg (by decide), if_neg (by decide)]
      split
      · next hin => exact ⟨rfl, rfl, fun _ => ⟨rfl, rfl⟩, fun h => absurd hin (by rw [h]; exact Bool.false_ne_true)⟩
      · next hin => exact ⟨rfl, rfl, fun h => absurd h hin, fun _ => ⟨hb, rfl, rfl, rfl⟩⟩
    · exact ⟨rfl, rfl, rfl, rfl⟩
  · intro x rs d m
    exact ageingReading_effect bp h1 h2 h3 hn

end Sys2Proof.Machine

/-!
The configuration memory: what its bytes read after a string is stored or a range erased, CFG_SAVE, and the ageing log.
-/

namespace Sys2Proof.Machine

/-! ## Bytes of a memory -/

/-- A byte of a string that is read. -/
theorem Mem.bytes_eq (m : Mem) (a n : Nat) : Mem.bytes m a n = (List.range n).map fun i => Mem.byte m (a + i) := by
  unfold Mem.bytes
  refine List.map_congr_left fun i hi => ?_
  have hi := List.mem_range.mp hi
  have g := SMap.get_filter (V := Byte) m (fun k => decide (a ≤ k) && decide (k < a + n)) (a + i)
  exact g.trans (if_pos (by simpa using hi))

/-- A string stored reads back. -/
theorem Mem.bytes_store (m : Mem) (a : Nat) (bs : List Byte) : Mem.bytes (Mem.store m a bs) a bs.length = bs := by
  rw [Mem.bytes_eq]
  refine List.ext_getElem (by simp) fun i _ hi => ?_
  rw [List.getElem_map, List.getElem_range, Mem.byte_store_in m a bs i hi]

/-- A string programmed reads back. -/
theorem flBytes_flStore (m : Mem) (a : Nat) {n : Nat} {bs : List Byte} (h : bs.length = n) :
    flBytes (flStore m a bs) a n = bs := by
  have hlen : (bs.map fun b => ~~~ b).length = n := by rw [List.length_map, h]
  unfold flBytes flStore
  conv_lhs => rw [← hlen]
  rw [Mem.bytes_store, List.map_map]
  refine (List.map_congr_left fun b _ => ?_).trans (List.map_id _)
  exact BitVec.not_not

theorem byte_flStore_out (m : Mem) (a : Nat) (bs : List Byte) {x : Nat} (h : x < a ∨ a + bs.length ≤ x) :
    Mem.byte (flStore m a bs) x = Mem.byte m x := Mem.byte_store_out _ _ _ _ (by rw [List.length_map]; exact h)

/-! ## CFG_SAVE -/

/-- The sectors that an image takes. -/
def sectors (n : Nat) : Nat := (n + 4095) / 4096 * 4096

theorem le_sectors (n : Nat) : n ≤ sectors n := by unfold sectors; omega

theorem byte_flErase (m : Mem) (a n x : Nat) :
    Mem.byte (flErase m a n) x = if x < a ∨ a + sectors n ≤ x then Mem.byte m x else 0#8 := Mem.byte_clear ..

/-- Where the new image goes, and its number. -/
def saveBank (s : State) : Bool := s.bank == some false
@[inherit_doc saveBank] def saveSeq (s : State) : Nat := s.cfg.seq.toNat + 1

/-- The image that a CFG_SAVE writes. -/
def savedImage (k : Nat) (s : State) : List Byte := s.saveImage (pay (s.cmd k).desc 0 4) (saveSeq s)

/-- The configuration memory with the sectors of the image erased, and with the image in them. -/
def erasedFor (k : Nat) (s : State) : Mem := flErase s.cfg.flash (bankBase (saveBank s)) (savedImage k s).length
@[inherit_doc erasedFor] def writtenFor (k : Nat) (s : State) : Mem :=
  flStore (erasedFor k s) (bankBase (saveBank s)) (savedImage k s)

/-- The bank written, or its sectors erased by a write that failed. -/
def bankWritten (k : Nat) (s : State) : State :=
  modCfg (fun c => { c with
    flash := writtenFor k s, bank := saveBank s, seq := BitVec.ofNat 32 (saveSeq s),
    present := hdrPresent (writtenFor k s) (bankBase (saveBank s)) }) s
@[inherit_doc bankWritten] def bankErased (k : Nat) (s : State) : State :=
  modCfg (fun c => { c with flash := erasedFor k s, saveFail := true }) s

section
variable {k : CmdSlot} {written : Bool} {s : State} (h : s.holds k.val 0x48 = true)
include h

theorem exec_cfgSave : exec (.cfgSave k written) s = .next (
    if s.time.span ≤ (s.cmd k.val).dspan then s
    else if !s.saveOk then complete k.val stPrecondition 0 s
    else if written && decide ((savedImage k.val s).length ≤ 3670016) then complete k.val stOK (saveSeq s)
      (bankWritten k.val s)
    else complete k.val stIntegrity 0 (bankErased k.val s)) := by
  show execCfgSave k written s = _
  unfold execCfgSave
  rw [onCmd_pos h]
  rfl

theorem exec_cfgSave_early (hd : s.time.span ≤ (s.cmd k.val).dspan) : exec (.cfgSave k written) s = .next s := by
  rw [exec_cfgSave h, if_pos hd]

theorem exec_cfgSave_refused (hd : (s.cmd k.val).dspan < s.time.span) (hs : s.saveOk = false) :
    exec (.cfgSave k written) s = .next (complete k.val stPrecondition 0 s) := by
  rw [exec_cfgSave h, if_neg (Nat.not_le_of_lt hd), hs, if_pos (by decide)]

theorem exec_cfgSave_due (hd : (s.cmd k.val).dspan < s.time.span) (hs : s.saveOk = true) :
    exec (.cfgSave k written) s = .next (if written && decide ((savedImage k.val s).length ≤ 3670016) then
      complete k.val stOK (saveSeq s) (bankWritten k.val s)
      else complete k.val stIntegrity 0 (bankErased k.val s)) := by
  rw [exec_cfgSave h, if_neg (Nat.not_le_of_lt hd), hs, if_neg (by decide)]

end

theorem doneAs_complete_modCfg (k : Nat) (st : BitVec 8) (r : Nat) (f : Cfg → Cfg) (s : State) :
    doneAs k st r s (complete k st r (modCfg f s)) ∧ onlySlot k s (complete k st r (modCfg f s)) :=
  ⟨doneAs_of_cmd ((modCmd_cmd_self ..).trans rfl), onlySlot_of_hqm (u := modCfg f s) rfl (onlySlot_complete ..)⟩

/-- Outside its sectors the image changes no byte. -/
theorem byte_erasedFor_out {k : Nat} {s : State} {x : Nat} (h : x < bankBase (saveBank s) ∨
    bankBase (saveBank s) + sectors (savedImage k s).length ≤ x) : Mem.byte (erasedFor k s) x = Mem.byte s.cfg.flash x := by
  unfold erasedFor
  rw [byte_flErase, if_pos h]

theorem byte_writtenFor_out {k : Nat} {s : State} {x : Nat} (h : x < bankBase (saveBank s) ∨
    bankBase (saveBank s) + sectors (savedImage k s).length ≤ x) : Mem.byte (writtenFor k s) x = Mem.byte s.cfg.flash x := by
  have hle := le_sectors (savedImage k s).length
  unfold writtenFor
  rw [byte_flStore_out _ _ _ (h.imp_right fun h => by omega), byte_erasedFor_out h]

/-! ## The ageing log -/

theorem leBytes_length (n v : Nat) : (leBytes n v).length = n := by
  induction n generalizing v with
  | zero => rfl
  | succ n ih => rw [leBytes, List.length_cons, ih]

/-- An entry takes 128 bytes. -/
theorem ageEntry_length (cause : Nat) (s : State) : (ageEntry cause s).length = 128 := by
  unfold ageEntry
  simp [leBytes_length]

/-- The half that an entry goes to, and its place there. -/
def ageFull (s : State) : Bool := decide (2048 ≤ s.cfg.ageEntries)
@[inherit_doc ageFull] def nextHalf (s : State) : Bool := if ageFull s then !s.cfg.ageHalf else s.cfg.ageHalf
@[inherit_doc ageFull] def nextEntry (s : State) : Nat := if ageFull s then 0 else s.cfg.ageEntries

/-- The configuration memory before an entry is appended: a full half gives way to the other, erased. -/
def ageCleared (s : State) : Mem :=
  if ageFull s then flErase s.cfg.flash (ageAddr (nextHalf s) 0) 0x40000 else s.cfg.flash

/-- An entry appended. -/
def ageAppended (fall : Bool) (s : State) : State :=
  modCfg (fun c => { c with
    flash := flStore (ageCleared s) (ageAddr (nextHalf s) (nextEntry s)) (ageEntry (if fall then 2 else 1) s),
    ageEntries := nextEntry s + 1, ageHalf := nextHalf s, ageSeq := c.ageSeq + 1 }) s

/-- When an entry is due. -/
def ageDue (fall : Bool) (s : State) : Prop :=
  s.timeOn = true ∧ s.cfg.absent = false ∧ (fall = true ∨ s.time.span % 2 ^ 35 = 0)

theorem exec_ageingLogAppend_notDue {fall : Bool} {s : State} (h : ¬ ageDue fall s) :
    exec (.ageingLogAppend fall) s = .next s := by
  refine if_pos ?_
  by_contra hc
  refine h ?_
  simp only [Bool.or_eq_true, Bool.not_eq_true', beq_iff_eq, not_or, Bool.not_eq_false, Bool.not_eq_true] at hc
  obtain ⟨⟨ht, ha⟩, hf⟩ := hc
  refine ⟨ht, ha, ?_⟩
  simpa [or_iff_not_imp_left] using hf

theorem exec_ageingLogAppend {fall : Bool} {s : State} (h : ageDue fall s) :
    exec (.ageingLogAppend fall) s = .next (ageAppended fall s) := by
  obtain ⟨ht, ha, hf⟩ := h
  refine (if_neg ?_).trans rfl
  rw [ht, ha]
  rcases hf with hf | hf
  · rw [hf, Bool.true_or]
    decide
  · rw [hf, beq_self_eq_true, Bool.or_true]
    decide

/-- The place of an entry lies in its half. -/
theorem agePlace_le (s : State) : ageAddr (nextHalf s) (nextEntry s) + 128 ≤ ageAddr (nextHalf s) 0 + 0x40000 ∧
    ageAddr (nextHalf s) 0 ≤ ageAddr (nextHalf s) (nextEntry s) := by
  have hi : nextEntry s < 2048 := by
    unfold nextEntry ageFull
    split
    · decide
    · next h => simpa using h
  unfold ageAddr
  omega

theorem byte_ageCleared (s : State) (x : Nat) : Mem.byte (ageCleared s) x =
    if ageFull s = true ∧ ageAddr (nextHalf s) 0 ≤ x ∧ x < ageAddr (nextHalf s) 0 + 0x40000 then 0#8
    else Mem.byte s.cfg.flash x := by
  unfold ageCleared
  cases ageFull s
  · rw [if_neg (by decide), if_neg (by simp)]
  · rw [if_pos rfl, byte_flErase, show sectors 0x40000 = 0x40000 from rfl]
    by_cases hx : ageAddr (nextHalf s) 0 ≤ x ∧ x < ageAddr (nextHalf s) 0 + 0x40000
    · rw [if_neg (by omega), if_pos ⟨rfl, hx⟩]
    · rw [if_pos (by omega), if_neg fun h => hx h.2]

theorem byte_ageAppended (fall : Bool) {s : State} {x : Nat} (h : x < ageAddr (nextHalf s) (nextEntry s) ∨
    ageAddr (nextHalf s) (nextEntry s) + 128 ≤ x) :
    Mem.byte (ageAppended fall s).cfg.flash x = Mem.byte (ageCleared s) x :=
  byte_flStore_out _ _ _ (by rw [ageEntry_length]; exact h)

/-- Settles O57: the bytes of an image or an entry as they read, and no other byte, for both writers of the memory. -/
theorem configurationMemory : Obligations.ConfigurationMemory := by
  refine ⟨fun k written s h => ?_, fun fall s => ?_⟩
  · intro seq b base im room spares
    refine ⟨exec_cfgSave_early h, fun hd => ⟨fun hs => ⟨_, exec_cfgSave_refused h hd hs, doneAs_complete .., onlySlot_complete ..,
      rfl⟩, fun hs hw hlen => ⟨_, exec_cfgSave_due h hd hs, ?_⟩, fun hs hf => ⟨_, exec_cfgSave_due h hd hs, ?_⟩⟩⟩
    · rw [if_pos (by rw [hw, Bool.true_and]; exact decide_eq_true hlen)]
      obtain ⟨hdone, hslot⟩ := doneAs_complete_modCfg k.val stOK (saveSeq s) (fun c => { c with
        flash := writtenFor k.val s, bank := saveBank s, seq := BitVec.ofNat 32 (saveSeq s),
        present := hdrPresent (writtenFor k.val s) (bankBase (saveBank s)) }) s
      exact ⟨hdone, hslot, flBytes_flStore _ _ rfl, fun x hx => byte_writtenFor_out hx, rfl, rfl, rfl, rfl⟩
    · rw [if_neg ?_]
      · obtain ⟨hdone, hslot⟩ := doneAs_complete_modCfg k.val stIntegrity 0 (fun c => { c with
          flash := erasedFor k.val s, saveFail := true }) s
        refine ⟨hdone, hslot, fun x hx => byte_erasedFor_out hx, rfl, rfl, rfl, fun x hlo hhi => ?_⟩
        exact (byte_flErase ..).trans (if_neg (not_or.mpr ⟨Nat.not_lt_of_le hlo, Nat.not_le_of_lt hhi⟩))
      · rw [Bool.and_eq_true, decide_eq_true_eq]
        rintro ⟨hw, hle⟩
        rcases hf with hf | hf
        · rw [hf] at hw
          exact absurd hw Bool.false_ne_true
        · exact absurd hle (Nat.not_le_of_lt hf)
  · intro full half i start place due
    have hfull : ageFull s = true ↔ full := decide_eq_true_iff
    have hhalf : half = nextHalf s := by
      unfold nextHalf
      simp only [hfull]
      rfl
    have hi : i = nextEntry s := by
      unfold nextEntry
      simp only [hfull]
      rfl
    have hstart : start = ageAddr (nextHalf s) 0 := by rw [← hhalf]
    have hplace : place = ageAddr (nextHalf s) (nextEntry s) := by rw [← hhalf, ← hi]
    obtain ⟨hle, hge⟩ := agePlace_le s
    refine ⟨fun hd => ⟨_, exec_ageingLogAppend hd, ?_⟩, exec_ageingLogAppend_notDue⟩
    rw [hstart, hplace, hhalf, hi]
    refine ⟨flBytes_flStore _ _ (ageEntry_length ..), rfl, rfl, rfl, fun x hx => ?_, fun x hlo hhi hx => ?_⟩
    · rw [byte_ageAppended fall (by omega), byte_ageCleared, if_neg (by omega)]
    · rw [byte_ageAppended fall hx, byte_ageCleared]
      exact ⟨fun hf => if_pos ⟨hfull.mpr hf, hlo, hhi⟩, fun hf => if_neg fun h => hf (hfull.mp h.1)⟩

end Sys2Proof.Machine

/-!
The topology of the Halso link: hellos, ports, the join of a domain, the loss of the upstream side, and the cable
register.
-/

namespace Sys2Proof.Machine

/-! ## Messages sent -/

/-- What a side sends changes the record of what was sent, and whose turn it is on a pair of ports. -/
theorem sendSide_eq (d : Nat) (t : Int) (cls : Nat) (ws : List Nat) (s : State) :
    ∃ a o, sendSide d t cls ws s = { s with halso := { s.halso with alt := a }, out := o } := by
  unfold sendSide
  split
  · exact ⟨_, _, rfl⟩
  · exact ⟨_, _, rfl⟩

theorem broadcast2_eq (t : Int) (ws : List Nat) (s : State) :
    ∃ a o, broadcast2 t ws s = { s with halso := { s.halso with alt := a }, out := o } := by
  obtain ⟨_, _, h⟩ := sendSide_eq 0 t 2 ws s
  unfold broadcast2
  rw [h]
  exact sendSide_eq ..

theorem sendHello_eq (s : State) : ∃ a o, sendHello s = { s with halso := { s.halso with alt := a }, out := o } := by
  unfold sendHello
  split
  · exact broadcast2_eq ..
  · exact ⟨_, _, rfl⟩

/-! ## Holds -/

/-- A hold entered: the servo, the cause, and nothing else but its own notes. -/
theorem enterHold_eq (cause : Nat) (s : State) : ∃ l p n x, enterHold cause s = { s with time := { s.time with
    servo := .holdover, holdCause := BitVec.ofNat 3 cause, holdSpans := n, holdExpired := x, meas := none,
    slewLeft := l, tsPend := p } } := by
  obtain ⟨l, p, n, x, h, -, -⟩ := enterServo_eq .holdover cause s
  exact ⟨l, p, n, x, h⟩

/-- A hold of the link that is raised. -/
def linkHeld (b cause : Nat) (s : State) : State := raiseIrq b (enterHold cause s)

theorem linkHeld_effect {b : Nat} (cause : Nat) (s : State) (hb : b < 20) :
    (linkHeld b cause s).halso = s.halso ∧ (linkHeld b cause s).time.servo = .holdover ∧
    (linkHeld b cause s).time.holdCause = BitVec.ofNat 3 cause ∧ (linkHeld b cause s).time.span = s.time.span ∧
    (linkHeld b cause s).time.offset = s.time.offset ∧ bit (linkHeld b cause s).sys.irqStatus b = true := by
  have hsig := signalled_raiseIrq b (enterHold cause s)
  have hb := bit_raiseIrq_irqStatus hb (enterHold cause s)
  obtain ⟨_, _, _, _, h⟩ := enterHold_eq cause s
  unfold linkHeld
  rw [signalled_halso hsig, signalled_time hsig, h]
  exact ⟨rfl, rfl, rfl, rfl, rfl, h ▸ hb⟩

/-! ## Hellos -/

/-- A side chosen while the device has not joined moves only the side. -/
theorem chooseSide_notJoined {s : State} (h : s.halso.joined = false) :
    ∃ u, chooseSide s = modHalso (fun x => { x with upstream := u }) s := by
  unfold chooseSide
  split
  · exact ⟨s.halso.upstream, rfl⟩
  · dsimp only
    rw [h, if_neg (by decide)]
    exact ⟨_, rfl⟩

/-- The ports stand, whatever side is chosen. -/
theorem chooseSide_ports (s : State) : (chooseSide s).halso.ports = s.halso.ports := by
  unfold chooseSide
  split
  · rfl
  · dsimp only
    split
    · exact (congrArg Halso.ports (linkHeld_effect 4 (modHalso (fun h => { h with rttStep := true })
        (modHalso (fun h => { h with upstream := s.bestSide }) s)) (by decide : 11 < 20)).1).trans rfl
    · rfl

/-- A hello noted: the device, its position, the master, and this device's own position. -/
def helloNoted (p : Nat) (h : Hello) (s : State) : State :=
  modHalso (fun x => { x with
    present := setBit x.present h.dev.toNat true, masterSeen := x.masterSeen || h.master,
    masterDev := if h.master then h.dev else x.masterDev,
    pos := if placed h then x.pos.set h.dev.toNat h.position.toNat else x.pos,
    position := BitVec.ofNat 4 (s.positionBy p h),
    helloDone := (bitList (setBit x.present h.dev.toNat true)).length + 1 == s.haN &&
      (x.masterSeen || h.master || s.isMaster) })
    (modPort p (fun x => { x with nbr := some (x.nbr.getD h.dev) }) s)

theorem heardHello_eq (p : Nat) (h : Hello) (s : State) :
    ∃ u, heardHello p h s = modHalso (fun x => { x with upstream := u }) (helloNoted p h s) := by
  have hh : heardHello p h s = if s.halso.joined then helloNoted p h s else chooseSide (helloNoted p h s) := rfl
  rw [hh]
  cases hj : s.halso.joined
  · exact chooseSide_notJoined (s := helloNoted p h s) hj
  · exact ⟨(helloNoted p h s).halso.upstream, rfl⟩

theorem exec_halsoHello_conflict {p : PortId} {h : Hello} {s : State} (hon : s.haOn = true)
    (hc : s.helloConflict h = true) :
    exec (.halsoHello p h) s = .next (raiseIrq 12 (modHalso (fun x => { x with conflict := true }) s)) :=
  (if_neg (by rw [hon]; decide)).trans (if_pos hc)

/-- A hello heard: what it leaves, but for what is sent on. -/
theorem exec_halsoHello {p : PortId} {h : Hello} {s : State} (hon : s.haOn = true) (hc : s.helloConflict h = false) :
    ∃ u a o, exec (.halsoHello p h) s = .next { helloNoted p.val h s with
      halso := { (helloNoted p.val h s).halso with upstream := u, alt := a }, out := o } := by
  have hx : exec (.halsoHello p h) s = .next (
      let s1 := heardHello p.val h s
      let fresh := s1.halso.present != s.halso.present || s1.halso.pos != s.halso.pos
      let s2 := if fresh then sendSide (1 - sideOf p.val) s1.now 2 (helloMsg h) s1 else s1
      if s1.halso.position = s.halso.position then s2 else sendHello s2) :=
    (if_neg (by rw [hon]; decide)).trans (if_neg (by rw [hc]; decide))
  obtain ⟨u, hu⟩ := heardHello_eq p.val h s
  rw [hx, hu]
  dsimp only
  have h2 : ∃ a o, (if ((modHalso (fun x => { x with upstream := u }) (helloNoted p.val h s)).halso.present !=
      s.halso.present || (modHalso (fun x => { x with upstream := u }) (helloNoted p.val h s)).halso.pos != s.halso.pos) = true
      then sendSide (1 - sideOf p.val) (modHalso (fun x => { x with upstream := u }) (helloNoted p.val h s)).now 2
        (helloMsg h) (modHalso (fun x => { x with upstream := u }) (helloNoted p.val h s))
      else modHalso (fun x => { x with upstream := u }) (helloNoted p.val h s)) = { helloNoted p.val h s with
        halso := { (helloNoted p.val h s).halso with upstream := u, alt := a }, out := o } := by
    split
    · obtain ⟨a, o, h⟩ := sendSide_eq (1 - sideOf p.val)
        (modHalso (fun x => { x with upstream := u }) (helloNoted p.val h s)).now 2 (helloMsg h)
        (modHalso (fun x => { x with upstream := u }) (helloNoted p.val h s))
      exact ⟨a, o, h⟩
    · exact ⟨_, _, rfl⟩
  obtain ⟨a, o, h2⟩ := h2
  rw [h2]
  split
  · exact ⟨u, a, o, rfl⟩
  · obtain ⟨a', o', h3⟩ := sendHello_eq { helloNoted p.val h s with
      halso := { (helloNoted p.val h s).halso with upstream := u, alt := a }, out := o }
    exact ⟨u, a', o', congrArg _ h3⟩

theorem positionBy_master {p : Nat} {h : Hello} {s : State} (hm : s.isMaster = true) : s.positionBy p h = 0 :=
  if_pos hm

/-! ## Joining -/

section
variable {s : State} (h : s.joinReady = true)
include h

theorem exec_halsoJoin : exec .halsoJoin s = .next (
    if s.isMaster then modHalso (fun h => { h with joined := true, joinPending := false }) s
    else if !s.quiet then modHalso (fun h => { h with joinPending := true }) s
    else joinDomain s) := by
  show execHalsoJoin s = _
  unfold execHalsoJoin
  rw [h, if_neg (by decide)]
  split
  · rfl
  · split
    · rfl
    · rfl

end

/-- The clock of a domain taken over, before the servo follows it. -/
def domainClock (t1 t2 : Nat) (d dev : Int) (s : State) : Time → Time :=
  let now := ((s.now : Int) + ((t1 : Int) + d - t2)).toNat
  let off := dev - t1
  fun x => { x with
    span := now / spanGr, grain := now % spanGr, offset := off,
    epoch := if decide ((now : Int) + off < s.devTime s.now - 5) then x.epoch + 1 else x.epoch,
    cfg := setBits x.cfg 0 2 3, srcNext := none, jump := none, step := none, lastT := now }

theorem joinDomain_eq {t1 t2 : Nat} {d dev : Int} {s : State}
    (h : ((List.range 4).filterMap fun p => if s.isUp p then (s.halso.ports.get p).pair else none).head? =
      some (t1, t2, d, dev)) : joinDomain s = enterAcquire 0 false (modHalso (fun h => { h with
        joined := true, joinPending := false,
        ports := h.ports.mapAll fun _ y => { y with fwd := none, t3 := none, pair := none } })
        (tsNote 4 (codeOf 64 (dev - t1 - s.time.offset)) (modTime (domainClock t1 t2 d dev s) (endSlew s)))) := by
  unfold joinDomain
  rw [h]
  rfl

/-- ACQUIRE entered with a source: the servo follows it, and its first measurement steps or does not. -/
theorem enterAcquire_follows {n : Nat} {step : Bool} {s : State} (h : s.src ≠ 0) : ∃ l p k x,
    enterAcquire n step s = { s with time := { s.time with
      servo := .acquire, holdCause := 0, holdSpans := k, holdExpired := x, meas := none, slewLeft := l, tsPend := p,
      acqN := n, acqStep := step } } := by
  obtain ⟨l, p, k, x, he, -, -⟩ := enterServo_eq .acquire 0 (modTime (fun x => { x with acqN := n, acqStep := step }) s)
  unfold enterAcquire
  rw [if_neg h]
  exact ⟨l, p, k, x, he⟩

/-- A device that joins: its clock is the domain's, its source the link, and the servo follows. -/
theorem joinDomain_effect {t1 t2 : Nat} {d dev : Int} {s : State}
    (h : ((List.range 4).filterMap fun p => if s.isUp p then (s.halso.ports.get p).pair else none).head? =
      some (t1, t2, d, dev)) :
    let now := ((s.now : Int) + ((t1 : Int) + d - t2)).toNat
    let t := joinDomain s
    t.halso.joined = true ∧ t.halso.joinPending = false ∧ t.time.span = now / 524288 ∧ t.time.grain = now % 524288 ∧
      t.time.offset = dev - t1 ∧ t.src = 3 ∧ t.time.servo = .acquire ∧ t.time.acqStep = false ∧
      t.time.epoch = if (now : Int) + (dev - t1) < s.now + s.time.offset - 5 then s.time.epoch + 1
        else s.time.epoch := by
  intro now t
  obtain ⟨p, hend⟩ := endSlew_eq s
  obtain ⟨q, hnote⟩ := tsNote_eq 4 (codeOf 64 (dev - t1 - s.time.offset)) (modTime (domainClock t1 t2 d dev s) (endSlew s))
  have hsrc : bits (setBits s.time.cfg 0 2 3) 0 2 = 3 := bits_setBits _ (by decide) 3
  have ht : t = joinDomain s := rfl
  rw [ht, joinDomain_eq h, hnote, hend]
  obtain ⟨l, r, k, x, hacq⟩ := enterAcquire_follows (n := 0) (step := false) (s := modHalso (fun h => { h with
    joined := true, joinPending := false,
    ports := h.ports.mapAll fun _ y => { y with fwd := none, t3 := none, pair := none } })
    { s with time := { domainClock t1 t2 d dev s { s.time with slewLeft := 0, tsPend := p } with tsPend := q } })
    (by show bits (setBits s.time.cfg 0 2 3) 0 2 ≠ 0; rw [hsrc]; decide)
  refine (congrArg (fun u : State => u.halso.joined = true ∧ u.halso.joinPending = false ∧ u.time.span = now / 524288 ∧
    u.time.grain = now % 524288 ∧ u.time.offset = dev - t1 ∧ u.src = 3 ∧ u.time.servo = .acquire ∧
    u.time.acqStep = false ∧ u.time.epoch = if (now : Int) + (dev - t1) < s.now + s.time.offset - 5 then s.time.epoch + 1
      else s.time.epoch) hacq).mpr ?_
  refine ⟨rfl, rfl, rfl, rfl, rfl, hsrc, rfl, rfl, ?_⟩
  show (if decide ((now : Int) + (dev - t1) < s.now + s.time.offset - 5) = true then s.time.epoch + 1 else s.time.epoch) = _
  simp only [decide_eq_true_eq]

/-! ## The upstream side lost -/

/-- What the loss of the upstream side takes from a joined device, whichever way it goes on. -/
def upstreamDropped (s : State) : State :=
  modHalso (fun h => { h with
    ringBroken := h.ringBroken || s.haRing,
    ports := h.ports.mapAll fun _ y => { y with fwd := none, t3 := none, pair := none, lastRtt := none } }) s

/-- The other side takes over. -/
def sideTaken (s : State) : State := modHalso (fun h => { h with upstream := !h.upstream, rttStep := true }) (upstreamDropped s)

/-- The device leaves the domain. -/
def domainLeft (s : State) : State :=
  modHalso (fun h => { h with joined := false, lost := true, marks := false }) (upstreamDropped s)

theorem exec_halsoUpstreamLost {other : Bool} {s : State} (hon : s.haOn = true) (hm : s.isMaster = false)
    (hl : s.upLost = true) : exec (.halsoUpstreamLost other) s = .next (
      if !s.halso.joined then modHalso (fun h => { h with marks := false }) s
      else if other && s.haRing && s.sideUp (1 - s.upSide) then linkHeld 11 4 (sideTaken s)
      else linkHeld 10 5 (domainLeft s)) := by
  show execHalsoUpstreamLost other s = _
  unfold execHalsoUpstreamLost
  rw [hon, hm, hl, if_neg (by decide)]
  split
  · rfl
  · dsimp only
    split
    · rfl
    · rfl

/-! ## Ports -/

/-- A port with its lanes locked, and the ring whole again where it is. -/
def lanesUp (p : Nat) (s : State) : State :=
  let s1 := modPort p (fun x => { x with up := true, lanes := 3, nbr := none }) s
  modHalso (fun h => { h with ringBroken := h.ringBroken && s1.ringBroken }) s1

theorem exec_halsoLanesLocked {p : PortId} {s : State} (h : s.timeOn = true) : exec (.halsoLanesLocked p) s =
    .next (sendHello (if (lanesUp p.val s).halso.joined then chooseSide (lanesUp p.val s) else lanesUp p.val s)) := if_pos h

theorem lanesUp_port (p : Nat) (s : State) : (lanesUp p s).halso.ports.get p =
    { s.halso.ports.get p with up := true, lanes := 3, nbr := none } :=
  SMap.get_mod_eq s.halso.ports p fun x => { x with up := true, lanes := 3, nbr := none }

/-- A port that lost a lane. -/
def lanesDown (lanes : BitVec 2) (x : HPort) : HPort :=
  { x with up := false, lanes := if lanes = 3 then 0 else lanes, fwd := none, t3 := none, pair := none, nbr := none }

theorem exec_halsoLinkDown (p : PortId) (l : BitVec 2) (s : State) : exec (.halsoLinkDown p l) s =
    .next (modHalso (fun h => { h with ringBroken := h.ringBroken || (modPort p.val (lanesDown l) s).ringBroken })
      (modPort p.val (lanesDown l) s)) := rfl

/-- A cable's register as written. -/
def cableWritten (p : Nat) (w : Wr) (s : State) : State :=
  modPort p (fun y => { y with asym := BitVec.ofNat 16 (bits w.val 0 16), valid := bit w.val 16 }) s

theorem exec_halsoCableWrite {p : PortId} {w : Wr} {s : State} (h : s.blockOn true = true) (hlo : w.lo = true) :
    exec (.halsoCableWrite p w) s = .next (
      if s.isUp p.val = true ∧ s.time.servo = .holdover ∧ s.time.holdCause = 4
      then enterAcquire 0 false (cableWritten p.val w s) else cableWritten p.val w s) := by
  have hb (cur : W64) : bit (rwMerge (fm 0 17) w cur) 16 = bit w.val 16 :=
    bit_rwMerge cur (by decide) (by rw [bit_wrMask_of_lt (by decide), hlo]) (by decide)
  have hc : (w.lo && s.isUp p.val && decide (s.time.servo = .holdover) && s.time.holdCause == 4) = true ↔
      s.isUp p.val = true ∧ s.time.servo = .holdover ∧ s.time.holdCause = 4 := by
    simp [hlo, and_assoc]
  show execHalsoCableWrite p w s = _
  unfold execHalsoCableWrite
  rw [onBlock_pos h]
  dsimp only
  rw [bits_rwMerge _ hlo (by decide) (by decide), hb]
  simp only [hc]
  rfl

theorem cableWritten_port (p : Nat) (w : Wr) (s : State) :
    ((cableWritten p w s).halso.ports.get p).asym = BitVec.ofNat 16 (bits w.val 0 16) ∧
    ((cableWritten p w s).halso.ports.get p).valid = bit w.val 16 := by
  have h : (cableWritten p w s).halso.ports.get p = _ := SMap.get_mod_eq s.halso.ports p fun y =>
    { y with asym := BitVec.ofNat 16 (bits w.val 0 16), valid := bit w.val 16 }
  rw [h]
  exact ⟨rfl, rfl⟩

/-- Settles O48: each message and event of the topology by what it leaves of the link and of the clock. -/
theorem halsoLinks : Obligations.HalsoLinks := by
  intro p s
  refine ⟨fun hon h => ⟨fun hc => ⟨_, exec_halsoHello_conflict hon hc, ?_, bit_raiseIrq_irqStatus (by decide) _⟩,
    fun hc => ?_⟩, fun hj => ⟨fun hm => ⟨_, exec_halsoJoin hj, ?_⟩, fun hm hq => ⟨_, exec_halsoJoin hj, ?_⟩,
    fun hm hq t1 t2 d dev hpair => ?_⟩, fun hon hm hl other => ?_, fun l => ⟨_, exec_halsoLinkDown p l s, ?_⟩,
    fun ht => ⟨_, exec_halsoLanesLocked ht, ?_, fun hj => ?_⟩, fun hon w hlo => ⟨_, exec_halsoCableWrite hon hlo, ?_⟩⟩
  · rw [signalled_halso (signalled_raiseIrq 12 _)]
    rfl
  · obtain ⟨u, a, o, hx⟩ := exec_halsoHello hon hc
    refine ⟨_, hx, rfl, rfl, rfl, rfl, fun hm => if_pos hm, fun hm => ?_⟩
    show BitVec.ofNat 4 (s.positionBy p.val h) = 0
    rw [positionBy_master hm]
    rfl
  · rw [if_pos hm]
    exact ⟨rfl, rfl⟩
  · rw [hm, hq, if_neg (by decide), if_pos (by decide)]
    exact ⟨rfl, rfl⟩
  · intro now
    refine ⟨_, exec_halsoJoin hj, ?_⟩
    rw [hm, hq, if_neg (by decide), if_neg (by decide)]
    exact joinDomain_effect hpair
  · intro other_
    have hx := exec_halsoUpstreamLost (other := other) hon hm hl
    refine ⟨fun hj ho => ?_, fun hj ho => ?_, fun hj => ⟨_, hx, ?_⟩⟩
    · obtain ⟨hh, hs, hc, -, -, hb⟩ := linkHeld_effect (b := 11) 4 (sideTaken s) (by decide)
      obtain ⟨rfl, h2, h3⟩ := ho
      rw [hj, h2, h3] at hx
      refine ⟨_, hx, ?_, ?_, ?_, hs, hc, hb⟩
      · exact congrArg Halso.upstream hh
      · exact (congrArg Halso.joined hh).trans hj
      · exact congrArg Halso.rttStep hh
    · obtain ⟨hh, hs, hc, hspan, hoff, hb⟩ := linkHeld_effect (b := 10) 5 (domainLeft s) (by decide)
      rw [hj, if_neg (by decide), if_neg fun h => ho (by simpa [and_assoc] using h)] at hx
      exact ⟨_, hx, congrArg Halso.joined hh, congrArg Halso.lost hh, hs, hc, hb, hspan, hoff⟩
    · rw [hj, if_pos (by decide)]
      exact ⟨rfl, rfl⟩
  · have hp : (modPort p.val (lanesDown l) s).halso.ports.get p.val = _ := SMap.get_mod_eq s.halso.ports p.val (lanesDown l)
    refine ⟨?_, ?_, fun i hi => SMap.get_mod_ne _ _ _ _ hi⟩
    · exact congrArg HPort.up hp
    · exact congrArg HPort.pair hp
  · split
    · rw [chooseSide_ports]
      exact lanesUp_port ..
    · exact lanesUp_port ..
  · rw [if_neg (by show ¬ s.halso.joined = true; rw [hj]; decide)]
    rfl
  · obtain ⟨ha, hv⟩ := cableWritten_port p.val w s
    obtain ⟨_, _, _, _, _, _, _, he, -⟩ := enterAcquire_eq 0 false (cableWritten p.val w s)
    split
    · next hends =>
      rw [he]
      exact ⟨ha, hv, fun _ => rfl, fun h => absurd hends h⟩
    · next hends => exact ⟨ha, hv, fun h => absurd h hends, fun _ => rfl⟩

end Sys2Proof.Machine

/-!
Messages of the Halso link: span marks, time ticks, servo offsets, and the class-0 and class-2 broadcasts.
-/

namespace Sys2Proof.Machine

/-! ## Class-0 broadcasts (R388, R390) -/

/-- What a first copy leaves before it acts: its note, and what is passed on. -/
def received (p dev w : Nat) (s : State) : State := passOn0 p dev [w] (noteCopy p w s)

theorem receive0_first {p dev w : Nat} {act : State → State} {s : State} (h : s.hasFirst p w = false) :
    receive0 p dev w act s = act (received p dev w s) :=
  if_neg (by rw [h]; exact Bool.false_ne_true)

theorem receive0_second {p dev w : Nat} {act : State → State} {s : State} (h : s.hasFirst p w = true) :
    receive0 p dev w act s = noteCopy p w s :=
  if_pos h

theorem noteCopy_eq (p w : Nat) (s : State) : ∃ f, noteCopy p w s = { s with halso := { s.halso with firsts := f } } := by
  unfold noteCopy
  split
  · exact ⟨_, rfl⟩
  · split <;> exact ⟨_, rfl⟩

theorem passOn0_eq (p dev : Nat) (ws : List Nat) (s : State) : ∃ o, passOn0 p dev ws s = { s with out := o } := by
  unfold passOn0
  split
  · exact ⟨_, rfl⟩
  · exact ⟨s.out, rfl⟩

theorem received_eq (p dev w : Nat) (s : State) :
    ∃ f o, received p dev w s = { s with halso := { s.halso with firsts := f }, out := o } := by
  obtain ⟨f, hf⟩ := noteCopy_eq p w s
  unfold received
  rw [hf]
  obtain ⟨o, ho⟩ := passOn0_eq p dev [w] { s with halso := { s.halso with firsts := f } }
  exact ⟨f, o, ho⟩

theorem passOn2_eq (p dev : Nat) (ws : List Nat) (s : State) :
    ∃ a o, passOn2 p dev ws s = { s with halso := { s.halso with alt := a }, out := o } := by
  unfold passOn2
  split
  · exact sendSide_eq ..
  · exact ⟨_, _, rfl⟩

/-! ## Folds that reach something -/

/-- What one step of a fold establishes, and every step keeps, holds at its end. -/
theorem foldl_reaches {β : Type} {P Q : State → Prop} {f : State → β → State} {l : List β} {b : β}
    (hP : ∀ t c, P t → P (f t c)) (hQ : ∀ t c, Q t → Q (f t c)) (hb : ∀ t, P t → Q (f t b)) (hl : b ∈ l) {s : State}
    (hs : P s) : Q (l.foldl f s) := by
  induction l generalizing s with
  | nil => exact absurd hl List.not_mem_nil
  | cons c l ih =>
    rw [List.foldl_cons]
    by_cases hc : b = c
    · subst hc
      exact List.foldlRecOn l f (hb s hs) fun t ht c _ => hQ t c ht
    · exact ih ((List.mem_cons.mp hl).resolve_left hc) (hP s c hs)

/-! ## Span marks (R384) -/

/-- A span mark noted on its port, with the blocks counted. -/
def markNoted (p : Nat) (m : MarkIn) (s : State) : State :=
  perfEvent 0x059 p m.bad.toNat (modPort p (fun x => { x with
    markAt := s.time.span + 1, blockErr := satAdd 0xFFFF x.blockErr m.bad.toNat }) s)

section
variable {s : State} (hon : s.haOn = true)
include hon

theorem exec_halsoSpanMark (p : PortId) (m : MarkIn) :
    exec (.halsoSpanMark p m) s = .next (modHalso (fun h => { h with
      marks := h.marks || s.isUp p.val, spanSlip := h.spanSlip || (h.joined && m.counter != s.stamp) })
      (markNoted p.val m s)) :=
  if_neg (by rw [hon]; decide)

theorem exec_halsoTimeTick (p : PortId) (m : HalsoTick) (g : Grain) :
    exec (.halsoTimeTick p m g) s = .next (
      if m.ret then
        modPort p.val (fun x => { x with lastGot := (((atGrain g s).now : Int) - x.latRx).toNat }) (atGrain g s)
      else if s.isUp p.val then forwardTick p.val m (atGrain g s) else atGrain g s) := by
  refine (if_neg (by rw [hon]; decide)).trans ?_
  show (if m.ret = true then _ else if s.isUp p.val = true then _ else _) = _
  split
  · rfl
  · split <;> rfl

theorem exec_halsoServoOffset (p : PortId) (dev : BitVec 4) (st : BitVec 3) (tr : Bool) (e : BitVec 48) :
    exec (.halsoServoOffset p dev st tr e) s = .next (
      if s.isMaster then modHalso (fun h => { h with
        peers := h.peers.set dev.toNat { e := e, state := st, traceable := tr, at_ := s.time.span + 1 } }) s
      else sendSide s.upSide s.now 1
        [0x24 + dev.toNat * 2 ^ 8 + st.toNat * 2 ^ 12 + b2n tr * 2 ^ 15, e.toNat] s) := by
  refine (if_neg (by rw [hon]; decide)).trans ?_
  split <;> rfl

theorem exec_halsoArm (p : PortId) (dev : BitVec 4) (b : Fin 32) (sp : BitVec 32) :
    exec (.halsoArm p dev b sp) s = .next (receive0 p.val dev.toNat (armMsg dev.toNat b.val sp.toNat) (fun u =>
      (List.range 8).foldl (fun t q => armPlan dev.toNat b.val (s.nearSpan 32 sp.toNat) q t) u) s) :=
  if_neg (by rw [hon]; decide)

theorem exec_halsoTrigger_event (p : PortId) (dev : BitVec 4) (e : Fin 32) (sp : BitVec 18) (cy : BitVec 8) (g : Grain) :
    exec (.halsoTrigger p dev (.event e) sp cy g) s = .next (receive0 p.val dev.toNat
      (eventMsg dev.toNat e.val sp.toNat cy.toNat) (fun u => halsoEvent e.val u.now u) (atGrain g s)) :=
  if_neg (by rw [hon]; decide)

theorem exec_halsoTrigger_group (p : PortId) (dev : BitVec 4) (gid : BitVec 8) (units : BitVec 16) (sp : BitVec 18)
    (cy : BitVec 8) (g : Grain) :
    exec (.halsoTrigger p dev (.group gid units) sp cy g) s = .next (receive0 p.val dev.toNat
      (firingMsg dev.toNat gid.toNat units.toNat sp.toNat cy.toNat) (fun u => (List.range 16).foldl (fun x i =>
        remoteFiring gid dev.toNat (s.nearSpan 18 sp.toNat * spanGr + cy.toNat * cycleGr) i x) u) (atGrain g s)) :=
  if_neg (by rw [hon]; decide)

theorem exec_halsoMatchBroadcast (p : PortId) (dev grp : BitVec 4) (hit : Bool) (cyc : BitVec 25) :
    exec (.halsoMatchBroadcast p dev grp hit cyc) s = .next (receive0 p.val dev.toNat
      (hitMsg dev.toNat grp.toNat hit cyc.toNat) (modHalso fun h => { h with
        hits := { dev := dev.toNat, group := grp.toNat, cycle := cyc.toNat, hit := hit } ::
          h.hits.filter fun z => !(z.dev == dev.toNat && z.group == grp.toNat && z.cycle == cyc.toNat) }) s) :=
  if_neg (by rw [hon]; decide)

end

theorem markNoted_halso (p : Nat) (m : MarkIn) (s : State) : (markNoted p m s).halso = { s.halso with
    ports := s.halso.ports.mod p fun x => { x with
      markAt := s.time.span + 1, blockErr := satAdd 0xFFFF x.blockErr m.bad.toNat } } :=
  (signalled_halso (signalled_perfEvent 0x059 p m.bad.toNat (modPort p _ s))).trans rfl

theorem markNoted_port (p : Nat) (m : MarkIn) (s : State) : (markNoted p m s).halso.ports.get p =
    { s.halso.ports.get p with
      markAt := s.time.span + 1, blockErr := satAdd 0xFFFF (s.halso.ports.get p).blockErr m.bad.toNat } := by
  rw [markNoted_halso]
  exact SMap.get_mod_eq s.halso.ports p fun x => { x with
    markAt := s.time.span + 1, blockErr := satAdd 0xFFFF x.blockErr m.bad.toNat }

theorem markNoted_time (p : Nat) (m : MarkIn) (s : State) : (markNoted p m s).time = s.time :=
  (signalled_time (signalled_perfEvent 0x059 p m.bad.toNat (modPort p _ s))).trans rfl

/-! ## Time ticks (R387, R393, R394) -/

/-- A measured tick pair, as its port keeps it: the round trip, and the pair for a join. -/
def pairKept (p t1 t2 : Nat) (rtt h dev : Int) (s : State) : State :=
  modPort p (fun y => { y with
    rtt := rtt.toNat, lastRtt := some rtt.toNat,
    pair := if s.halso.joined then some (t1, t2, h, dev) else some (y.pair.getD (t1, t2, h, dev)) }) s

theorem pairKept_rtt (p t1 t2 : Nat) (rtt h dev : Int) (s : State) :
    ((pairKept p t1 t2 rtt h dev s).halso.ports.get p).rtt = rtt.toNat := by
  unfold pairKept
  rw [modPort_halso, SMap.get_mod_eq]

theorem compareTime_halso (m a : Int) (s : State) : (compareTime m a s).halso = s.halso :=
  (kept_compareTime m a (List.Subset.refl _) (Kept.refl _ s)).same .halso (by decide)

theorem measure_halso (e : Int) (s : State) : (measure e s).halso = s.halso :=
  (kept_measure e (List.Subset.refl _) (Kept.refl _ s)).same .halso (by decide)

/-- The comparison of device times is no measurement of the source. -/
theorem compareTime_lastE (m a : Int) (s : State) : (compareTime m a s).time.lastE = s.time.lastE := by
  unfold compareTime
  dsimp only
  split
  · rfl
  · split
    · split
      · rfl
      · split
        · obtain ⟨p, h⟩ := tsNote_eq 6 0 (modTime (fun x => { x with slewLeft := a + s.time.offset - m }) s)
          rw [h]
          rfl
        · rfl
    · exact (newJump_notes ..).2.1

theorem sendOffset_eq (e : Int) (s : State) :
    ∃ a o, sendOffset e s = { s with halso := { s.halso with alt := a }, out := o } :=
  sendSide_eq ..

/-- The phase of the hop measured, told to the master, and the device time of the pair compared. -/
def hopMeasured (e dev at_ : Int) (s : State) : State := compareTime dev at_ (sendOffset e (measure e s))

theorem hopMeasured_effect (e dev at_ : Int) (s : State) :
    (hopMeasured e dev at_ s).halso.ports = s.halso.ports ∧ (hopMeasured e dev at_ s).time.lastE = e := by
  obtain ⟨a, o, h⟩ := sendOffset_eq e (measure e s)
  unfold hopMeasured
  rw [compareTime_halso, compareTime_lastE, h]
  refine ⟨?_, (measure_notes e s).1⟩
  show (measure e s).halso.ports = s.halso.ports
  rw [measure_halso]

/-- The round trip of a pair has moved past the threshold. -/
def State.rttStepped (s : State) (p : Nat) (rtt : Int) : Bool :=
  match (s.halso.ports.get p).lastRtt with
  | some r => decide ((s.rttThr : Int) < ((rtt - r).natAbs : Int))
  | none => false

theorem rttStepped_iff (s : State) (p : Nat) (rtt : Int) : s.rttStepped p rtt = true ↔
    ∃ r, (s.halso.ports.get p).lastRtt = some r ∧ (s.rttThr : Int) < ((rtt - r).natAbs : Int) := by
  unfold State.rttStepped
  cases (s.halso.ports.get p).lastRtt with
  | none => exact ⟨fun h => absurd h Bool.false_ne_true, fun ⟨_, h, _⟩ => absurd h (by simp)⟩
  | some r =>
    simp only [decide_eq_true_eq, Option.some.injEq, exists_eq_left']

/-- A device that stepped: the change is flagged, and the servo held. -/
def hopStepped (s : State) : State := linkHeld 11 4 (modHalso (fun y => { y with rttStep := true }) s)

/-- What a pair leaves once its hop's phase is known. -/
theorem tickPair_eq (p t1 t2 t3 t4 : Nat) (dev : Int) (s : State) :
    let rtt : Int := (t4 : Int) - t1 - ((t3 : Int) - t2)
    let a := rtt + signedOf 16 (s.halso.ports.get p).asym.toNat
    ∃ h n, (2 * h = a ∨ 2 * h = a + 1 ∨ 2 * h = a - 1) ∧
      let u := pairKept p t1 t2 rtt h dev { s with free := n }
      tickPair p t1 t2 t3 t4 dev s =
        if !s.halso.joined || s.src ≠ 3 then u
        else if s.rttStepped p rtt then hopStepped u
        else hopMeasured ((t2 : Int) - t1 - h) dev ((t2 : Int) + h) u := by
  intro rtt a
  obtain ⟨hnear, n, hn⟩ := halfOf_near a s
  refine ⟨(halfOf a s).1, n, hnear, ?_⟩
  intro u
  have hu : u = pairKept p t1 t2 rtt (halfOf a s).1 dev (halfOf a s).2 := by rw [hn]
  have hj : (halfOf a s).2.halso.joined = s.halso.joined := by rw [hn]
  rw [hu, pairKept, hj]
  rfl

theorem tickPair_effect (p t1 t2 t3 t4 : Nat) (dev : Int) (s : State) :
    let rtt : Int := (t4 : Int) - t1 - ((t3 : Int) - t2)
    let a := rtt + signedOf 16 (s.halso.ports.get p).asym.toNat
    let t := tickPair p t1 t2 t3 t4 dev s
    (t.halso.ports.get p).rtt = rtt.toNat ∧
    (s.halso.joined = true → s.src = 3 → s.rttStepped p rtt = true → t.halso.rttStep = true ∧
      t.time.servo = .holdover ∧ t.time.holdCause = 4 ∧ bit t.sys.irqStatus 11 = true) ∧
    (s.halso.joined = true → s.src = 3 → s.rttStepped p rtt = false →
      ∃ h : Int, (2 * h = a ∨ 2 * h = a + 1 ∨ 2 * h = a - 1) ∧ t.time.lastE = (t2 : Int) - t1 - h) := by
  intro rtt a t
  obtain ⟨h, n, hnear, ht⟩ := tickPair_eq p t1 t2 t3 t4 dev s
  have hte : t = _ := ht
  have hrtt := pairKept_rtt p t1 t2 rtt h dev { s with free := n }
  have hact : s.halso.joined = true → s.src = 3 → ¬ (!s.halso.joined || decide (s.src ≠ 3)) = true := fun hj h3 => by
    rw [hj, h3]; decide
  generalize pairKept p t1 t2 rtt h dev { s with free := n } = u at hte hrtt
  obtain ⟨sh, ss, sc, -, -, sb⟩ := linkHeld_effect 4 (modHalso (fun y => { y with rttStep := true }) u)
    (by decide : 11 < 20)
  obtain ⟨mp, me⟩ := hopMeasured_effect ((t2 : Int) - t1 - h) dev ((t2 : Int) + h) u
  rw [hte]
  refine ⟨?_, fun hj h3 hs => ?_, fun hj h3 hs => ⟨h, hnear, ?_⟩⟩
  · split
    · exact hrtt
    · split
      · rw [hopStepped, sh]
        exact hrtt
      · rw [mp]
        exact hrtt
  · rw [if_neg (hact hj h3), if_pos hs]
    exact ⟨congrArg Halso.rttStep sh, ss, sc, sb⟩
  · rw [if_neg (hact hj h3), if_neg (by rw [hs]; exact Bool.false_ne_true)]
    exact me

/-- A forward tick noted, which begins the next pair. -/
def tickNoted (p : Nat) (m : HalsoTick) (t2 : Nat) (s : State) : State :=
  modHalso (fun h => { h with masterTraceable := m.traceable })
    (modPort p (fun y => { y with fwd := some (m.sent, t2, m.devTime), t3 := none }) s)

/-- Where a pair has begun and its return tick is out, the tick completes it. -/
def pairDone (p : Nat) (m : HalsoTick) (s : State) : State :=
  match (s.halso.ports.get p).fwd, (s.halso.ports.get p).t3 with
  | some (t1, u, dev), some t3 => tickPair p t1 u t3 m.got dev s
  | _, _ => s

theorem forwardTick_eq (p : Nat) (m : HalsoTick) (s : State) : forwardTick p m s =
    tickNoted p m ((s.now : Int) - (s.halso.ports.get p).latRx).toNat (pairDone p m s) := rfl

theorem tickNoted_port (p : Nat) (m : HalsoTick) (t2 : Nat) (s : State) : (tickNoted p m t2 s).halso.ports.get p =
    { s.halso.ports.get p with fwd := some (m.sent, t2, m.devTime), t3 := none } :=
  SMap.get_mod_eq s.halso.ports p fun y => { y with fwd := some (m.sent, t2, m.devTime), t3 := none }

theorem pairDone_some {p t1 t2 t3 : Nat} {d : Int} {m : HalsoTick} {s : State}
    (hf : (s.halso.ports.get p).fwd = some (t1, t2, d)) (h3 : (s.halso.ports.get p).t3 = some t3) :
    pairDone p m s = tickPair p t1 t2 t3 m.got d s := by
  unfold pairDone
  rw [hf, h3]

/-! ## Arrivals at barriers (R124, R392) -/

/-- A sender's arrival at the barrier of a site's group. -/
def armSite (dev b span : Nat) (t : State) (n : Nat) : State :=
  updateBarrier n b (modBarrier n b (fun z => { z with remote := z.remote.set dev (some span) }) t)

theorem modBarrier_remote {f : Barrier → Barrier} (hf : ∀ z, (f z).remote = z.remote) (l b l' : Nat) (s : State) :
    ((modBarrier l b f s).barrier l' b).remote = (s.barrier l' b).remote := by
  by_cases h : l' = l
  · rw [h, modBarrier_barrier_self, hf]
  · rw [modBarrier_barrier_ne _ _ h]

theorem arrivalSent_remote (n b l : Nat) (s : State) :
    ((arrivalSent n b s).barrier l b).remote = (s.barrier l b).remote := by
  have hsent := modBarrier_remote (f := fun z => { z with sent := true }) (fun _ => rfl) ((s.site n).leader n b) b l s
  unfold arrivalSent
  dsimp only
  split
  · split
    · rw [barrier_of_barriers (broadcast0_barriers ..)]
      exact hsent
    · exact hsent
  · rfl

/-- An update forgets no arrival. -/
theorem updateBarrier_remote (n b l : Nat) (s : State) :
    ((updateBarrier n b s).barrier l b).remote = (s.barrier l b).remote := by
  rw [updateBarrier_eq]
  split
  · rw [modBarrier_remote (f := fun z => { z with rel := (arrivalSent n b s).formRel n b }) (fun _ => rfl),
      arrivalSent_remote]
  · exact arrivalSent_remote n b l s

/-- The barrier of a group has a sender's arrival. -/
def hasArrival (dev b span n : Nat) (t : State) : Prop := (t.barrier n b).remote.get dev = some span

theorem armSite_arrives (dev b span n : Nat) (t : State) : hasArrival dev b span n (armSite dev b span t n) := by
  unfold hasArrival armSite
  rw [updateBarrier_remote, modBarrier_barrier_self, SMap.get_set_eq]

theorem hasArrival_armSite {dev b span n : Nat} (k : Nat) {t : State} (h : hasArrival dev b span n t) :
    hasArrival dev b span n (armSite dev b span t k) := by
  by_cases hk : n = k
  · exact hk ▸ armSite_arrives dev b span n t
  · unfold hasArrival armSite
    rw [updateBarrier_remote, modBarrier_barrier_ne _ _ hk]
    exact h

theorem armPlan_eq (dev b span p : Nat) (s : State) : armPlan dev b span p s =
    match s.plan p with
    | none => s
    | some q => (q.sites.filter fun n =>
        (s.site n).barValid b && bit ((s.site n).barDevices b) dev && (s.site n).leader n b == n).foldl
          (armSite dev b span) s := rfl

theorem hasArrival_armPlan {dev b span n : Nat} (p : Nat) {t : State} (h : hasArrival dev b span n t) :
    hasArrival dev b span n (armPlan dev b span p t) := by
  rw [armPlan_eq]
  cases t.plan p with
  | none => exact h
  | some q => exact List.foldlRecOn _ _ h fun u hu k _ => hasArrival_armSite k hu

/-- The step of a group's plan reaches the group, where its barrier names the sender. -/
theorem armPlan_arrives {dev b i n : Nat} (span : Nat) {q : Plan} {t : State} (hq : t.plan i = some q) (hn : n ∈ q.sites)
    (hl : (t.site n).leader n b = n) (hv : (t.site n).barValid b = true)
    (hd : bit ((t.site n).barDevices b) dev = true) : hasArrival dev b span n (armPlan dev b span i t) := by
  rw [armPlan_eq, hq]
  refine foldl_reaches (P := fun _ => True) (fun _ _ _ => trivial) (fun _ k h => hasArrival_armSite k h)
    (fun u _ => armSite_arrives dev b span n u) (List.mem_filter.mpr ⟨hn, ?_⟩) trivial
  rw [hl, hv, hd]
  simp

/-- An arrival reaches every group of a loaded plan whose barrier names the sender. -/
theorem armPlans_arrive {dev b i n : Nat} (span : Nat) {q : Plan} {s : State} (hi : i < 8) (hq : s.plan i = some q)
    (hn : n ∈ q.sites) (hl : (s.site n).leader n b = n) (hv : (s.site n).barValid b = true)
    (hd : bit ((s.site n).barDevices b) dev = true) :
    hasArrival dev b span n ((List.range 8).foldl (fun t p => armPlan dev b span p t) s) := by
  refine foldl_reaches (P := fun t => t.sites = s.sites ∧ t.vs = s.vs) (fun t p ht => ?_)
    (fun t p h => hasArrival_armPlan p h) (fun t ht => ?_) (List.mem_range.mpr hi) ⟨rfl, rfl⟩
  · have hk := kept_armPlan dev b span p (List.Subset.refl _) (Kept.refl _ t)
    exact ⟨(hk.same .sites (by decide)).trans ht.1, (hk.same .vs (by decide)).trans ht.2⟩
  · have hsite := site_of_sites ht.1 n
    refine armPlan_arrives span (?_ : t.plan i = some q) hn ?_ ?_ ?_
    · rw [State.plan, ht.2]; exact hq
    · rw [hsite]; exact hl
    · rw [hsite]; exact hv
    · rw [hsite]; exact hd

/-! ## Halso events (R118, R119, R392) -/

/-- The latches of a Halso event stand, and so do the generators that jump on Halso events. -/
def EventKept (e : Nat) (s t : State) : Prop :=
  (∀ n, (t.site n).latches.get (16 + e) = (s.site n).latches.get (16 + e)) ∧
  ∀ j, bits (s.gen j).cfg 2 3 = 2 → t.gen j = s.gen j

theorem EventKept.refl (e : Nat) (s : State) : EventKept e s s := ⟨fun _ => rfl, fun _ _ => rfl⟩

theorem EventKept.trans {e : Nat} {s t u : State} (h : EventKept e s t) (k : EventKept e t u) : EventKept e s u :=
  ⟨fun n => (k.1 n).trans (h.1 n), fun j hj => (k.2 j (by rw [h.2 j hj]; exact hj)).trans (h.2 j hj)⟩

theorem eventKept_of_kept {e : Nat} {m : List Part} {s t : State} (h : Kept m s t) (hs : Part.sites ∉ m)
    (hd : Part.dds ∉ m) : EventKept e s t :=
  ⟨fun n => by rw [site_of_sites (h.same .sites hs)], fun j _ => gen_of_dds (h.same .dds hd) j⟩

theorem eventKept_foldl {e : Nat} {f : State → Nat → State} {l : List Nat} (hf : ∀ t, ∀ u ∈ l, EventKept e t (f t u))
    (s : State) : EventKept e s (l.foldl f s) :=
  List.foldlRecOn l f (EventKept.refl e s) fun t ht u hu => ht.trans (hf t u hu)

/-- The latches of a trigger unit are none of an event's. -/
theorem eventKept_setLatches {e u : Nat} (t : Nat) (hu : u < 16) (s : State) : EventKept e s (setLatches u t s) := by
  refine ⟨fun n => ?_, fun j _ => gen_of_dds ((kept_setLatches (m := [.sites]) u t (List.Subset.refl _)
    (Kept.refl _ s)).same .dds (by decide)) j⟩
  have h : (setLatches u t s).site n = _ := foldl_modSite_site _ List.nodup_range s n
  rw [h]
  split
  · exact SMap.get_mod_ne _ _ _ _ (by omega)
  · rfl

/-- A trigger unit's jumps are of generators of its kind. -/
theorem eventKept_jumpSource {e : Nat} (u t : Nat) (s : State) : EventKept e s (jumpSource 1 u t s) := by
  refine eventKept_foldl (fun v n _ => ?_) s
  dsimp only
  split
  · next hk =>
    refine ⟨fun _ => rfl, fun j hj => modGen_gen_ne _ _ _ _ ?_⟩
    rintro rfl
    rw [hj] at hk
    exact absurd hk (by simp)
  · exact .refl e v

theorem eventKept_signalled {e : Nat} {s t : State} (h : signalled s t) : EventKept e s t :=
  ⟨fun n => by rw [signalled_site h], fun j _ => gen_of_dds (signalled_dds h) j⟩

theorem eventKept_emit {e : Nat} (c : Prop) [Decidable c] (o : Out) (s : State) :
    EventKept e s (if c then emit o s else s) := by
  split
  · exact eventKept_of_kept (m := [.out]) (kept_emit o (List.Subset.refl _) (Kept.refl _ s)) (by decide) (by decide)
  · exact .refl e s

theorem eventKept_sendFiring {e : Nat} (g : Group) (u t : Nat) (s : State) : EventKept e s (sendFiring g u t s) :=
  eventKept_of_kept (m := [.out]) (kept_sendFiring g u t (List.Subset.refl _) (Kept.refl _ s)) (by decide) (by decide)

theorem eventKept_fireEffects {e u : Nat} (m t : Nat) (hu : u < 16) (s : State) :
    EventKept e s (fireEffects m u t s) := by
  unfold fireEffects
  exact (((eventKept_signalled (signalled_perfEvent 0x048 u 1 s)).trans (eventKept_setLatches t hu _)).trans
    (eventKept_emit _ _ _)).trans ((eventKept_jumpSource u t _).trans (eventKept_sendFiring _ _ _ _))

theorem eventKept_missTrigger {e : Nat} (m u : Nat) (s : State) : EventKept e s (missTrigger m u s) :=
  eventKept_of_kept (kept_missTrigger m u (List.Subset.refl _) (Kept.refl _ s)) (by decide) (by decide)

theorem eventKept_conditionMet {e u : Nat} (t : Nat) (hu : u < 16) (s : State) : EventKept e s (conditionMet u t s) := by
  have hmiss := eventKept_missTrigger (e := e) (s.unit u).master u s
  unfold conditionMet
  dsimp only
  split
  · exact .refl e s
  split
  · exact hmiss
  split
  · split
    · exact eventKept_fireEffects _ t hu (modUnit u (fun y => y.startHold t) s)
    · exact hmiss
  have hfire : ∀ sm, EventKept e s (fireEffects (s.unit u).master u t (holdFor u t sm s)) := fun sm =>
    eventKept_fireEffects _ t hu (holdFor u t sm s)
  split
  · exact (hfire _).trans (eventKept_of_kept (kept_trigger (m := [.cap]) _ t _ _ _ (List.Subset.refl _) (Kept.refl _ _))
      (by decide) (by decide))
  split
  · split
    · exact hfire _
    · exact hmiss
  · split
    · exact hfire _
    · exact hmiss

theorem eventKept_sourceEvent {e : Nat} (src sel t : Nat) (s : State) : EventKept e s (sourceEvent src sel t s) := by
  refine eventKept_foldl (fun v u hu => ?_) s
  show EventKept e v (if _ then conditionMet u t v else v)
  split
  · exact eventKept_conditionMet t (List.mem_range.mp hu) v
  · exact .refl e v

/-- An event requests a jump of every running generator that it jumps. -/
theorem jumpSource_jump {kind idx t j : Nat} {s : State} (hj : j < 8) (hr : (s.gen j).running = true)
    (hk : bits (s.gen j).cfg 2 3 = kind) (hi : bits (s.gen j).cfg 5 5 = idx) :
    ((jumpSource kind idx t s).gen j).jump = some (t, (s.gen j).target.toNat) := by
  obtain ⟨u, -, hu, hj⟩ := foldl_at State.gen (P := fun _ => True) (step := fun u n =>
      if bits (u.gen n).cfg 2 3 == kind && bits (u.gen n).cfg 5 5 == idx then requestJump n t (u.gen n).target.toNat u
      else u) (s := s) (i := j) (fun _ _ _ _ => trivial)
    (fun u n _ k _ hkn => by
      split
      · exact modGen_gen_ne _ _ _ _ hkn
      · rfl) List.nodup_range trivial (List.mem_range.mpr hj)
  refine (congrArg Gen.jump hj).trans ?_
  rw [if_pos (by rw [hu, hk, hi]; simp), requestJump_eq, modGen_gen_self, (jumpAsked_target_jump ..).2, hu, if_pos hr]

theorem jumpSource_sites (kind idx t : Nat) (s : State) : (jumpSource kind idx t s).sites = s.sites :=
  (kept_jumpSource (m := [.dds]) kind idx t (List.Subset.refl _) (Kept.refl _ s)).same .sites (by decide)

theorem halsoEvent_latch {e n : Nat} (t : Nat) (s : State) (hn : n < 64) :
    ((halsoEvent e t s).site n).latches.get (16 + e) =
      ((s.site n).latches.get (16 + e)).fire (s.site n).latchT t := by
  unfold halsoEvent
  rw [site_of_sites (jumpSource_sites ..), (eventKept_sourceEvent (e := e) 4 e t _).1 n, setLatches_latch t s hn]

theorem halsoEvent_jump {e j : Nat} (t : Nat) {s : State} (hj : j < 8) (hr : (s.gen j).running = true)
    (hk : bits (s.gen j).cfg 2 3 = 2) (hi : bits (s.gen j).cfg 5 5 = e) :
    ((halsoEvent e t s).gen j).jump = some (t, (s.gen j).target.toNat) := by
  have hset : (setLatches (16 + e) t s).gen j = s.gen j :=
    gen_of_dds ((kept_setLatches (m := [.sites]) (16 + e) t (List.Subset.refl _) (Kept.refl _ s)).same .dds (by decide)) j
  have hsame := (eventKept_sourceEvent (e := e) 4 e t (setLatches (16 + e) t s)).2 j (by rw [hset]; exact hk)
  rw [hset] at hsame
  unfold halsoEvent
  rw [jumpSource_jump hj (by rw [hsame]; exact hr) (by rw [hsame]; exact hk) (by rw [hsame]; exact hi), hsame]

/-! ## Remote firings (R320) -/

/-- The group of a master admits a firing of a group and a device. -/
def State.admits (s : State) (gid : BitVec 8) (dev u : Nat) : Prop :=
  (s.group u).gid = gid ∧ bit (s.group u).devices dev = true ∧ (s.group u).recs = true

theorem remoteFiring_refused {gid : BitVec 8} {dev t u : Nat} {s : State} (h : ¬ s.admits gid dev u) :
    remoteFiring gid dev t u s = s := by
  refine if_pos ?_
  by_contra hc
  refine h ?_
  simpa [State.admits, and_assoc] using hc

section
variable {gid : BitVec 8} {dev t m : Nat} {s : State} (h : s.admits gid dev m)
include h

theorem remoteFiring_rearming (hst : (s.group m).st = .rearming) : remoteFiring gid dev t m s = missRemote m s := by
  obtain ⟨hg, hd, hr⟩ := h
  unfold remoteFiring
  dsimp only
  rw [if_neg (by simp [hg, hd, hr]), hst]

theorem remoteFiring_armed (hst : (s.group m).st = .armed) (ha : (s.group m).armAt * spanGr ≤ t) :
    remoteFiring gid dev t m s = trigger m t 0 (setBit 0 dev true) false s := by
  obtain ⟨hg, hd, hr⟩ := h
  have hf : (s.group m).armedFor t = true := by
    unfold Group.armedFor
    rw [hst, decide_eq_true ha]
    decide
  unfold remoteFiring
  dsimp only
  rw [if_neg (by simp [hg, hd, hr]), hst]
  exact if_pos hf

end

/-- The group of a master triggered. -/
def groupTriggered (m : Nat) (tr : Trig) (s : State) : State :=
  modGroup m (fun y => { y with st := .collecting, missedAcc := 0, trig := some tr }) s

theorem trigger_eq (m t : Nat) (causes remotes : BitVec 16) (forced : Bool) (s : State) :
    trigger m t causes remotes forced s = closeIfDone m (groupTriggered m {
      ft := t, sample := s.sampleFor m t, causeMap := causes, remoteMap := remotes, forced := forced,
      missed := (s.group m).missedAcc } s) := rfl

theorem closeRecord_group_ne {m u : Nat} (x : Nat) (s : State) (h : u ≠ m) :
    (closeRecord m x s).group u = s.group u := by
  unfold closeRecord
  dsimp only
  split
  · rfl
  · split
    · rfl
    · exact modGroup_group_ne _ _ h

theorem closeIfDone_group_ne {m u : Nat} (s : State) (h : u ≠ m) : (closeIfDone m s).group u = s.group u := by
  unfold closeIfDone
  split
  · exact closeRecord_group_ne 0 s h
  · rfl

theorem missRemote_effect (m : Nat) (s : State) :
    (missRemote m s).group m = { s.group m with missedAcc := (s.group m).missedAcc + 1 } ∧
    ((missRemote m s).unit m).remote = satAdd 0xFFFF (s.unit m).remote 1 :=
  ⟨modGroup_group_self m _ _,
    congrArg TrigUnit.remote (modUnit_unit_self m (fun u => { u with remote := satAdd 0xFFFF u.remote 1 }) s)⟩

theorem missRemote_group_ne {m u : Nat} (s : State) (h : u ≠ m) : (missRemote m s).group u = s.group u :=
  modGroup_group_ne _ _ h

/-- A remote firing at a group leaves the others alone. -/
theorem remoteFiring_group_ne {gid : BitVec 8} {dev t m u : Nat} {s : State} (h : u ≠ m) :
    (remoteFiring gid dev t m s).group u = s.group u := by
  have hmiss := missRemote_group_ne s h
  unfold remoteFiring
  dsimp only
  split
  · rfl
  · split
    · split
      · rw [trigger_eq, closeIfDone_group_ne _ h, groupTriggered, modGroup_group_ne _ _ h]
      · split
        · exact hmiss
        · rfl
    · split
      · rfl
      · split
        · rw [modGroup_group_ne _ _ h, hmiss]
        · exact hmiss
    · exact hmiss
    · rfl

/-- A remote firing that one group admits is the step of that group. -/
theorem remoteFirings_one {gid : BitVec 8} {dev t m : Nat} {s : State} (hm : m < 16)
    (ho : ∀ u, u < 16 → u ≠ m → ¬ s.admits gid dev u) :
    (List.range 16).foldl (fun x i => remoteFiring gid dev t i x) s = remoteFiring gid dev t m s := by
  refine foldl_eq_step (f := fun x i => remoteFiring gid dev t i x) List.nodup_range (List.mem_range.mpr hm)
    (fun u hu hum => remoteFiring_refused (ho u (List.mem_range.mp hu) hum))
    fun u hu hum => remoteFiring_refused ?_
  rw [State.admits, remoteFiring_group_ne hum]
  exact ho u (List.mem_range.mp hu) hum

/-- A group's merge with a device's fail, or the end of its run. -/
def mergeNoted (dev : Nat) (ended : Bool) (sp : BitVec 48) (o : Merge) : Merge :=
  if ended then { o with ended := setBit o.ended dev true }
  else { o with failed := setBit o.failed dev true,
                first := if o.failed = 0 ∨ sp.toNat < o.first.toNat then sp else o.first }

/-! ## The messages -/

section
variable (p : PortId) (dev : BitVec 4) {s : State} (hon : s.haOn = true)
include hon

theorem halsoSpanMark_effect (c : BitVec 48) (bad : BitVec 16) :
    ∃ t, exec (.halsoSpanMark p { counter := c, bad := bad }) s = .next t ∧
      t.halso.spanSlip = (s.halso.spanSlip || (s.halso.joined && c != BitVec.ofNat 48 s.time.span)) ∧
      (t.halso.ports.get p.val).markAt = s.time.span + 1 ∧
      (t.halso.ports.get p.val).blockErr = satAdd 0xFFFF (s.halso.ports.get p.val).blockErr bad.toNat ∧
      (s.isUp p.val = true → t.halso.marks = true) ∧ t.time = s.time := by
  have hh := markNoted_halso p.val { counter := c, bad := bad } s
  have hport := markNoted_port p.val { counter := c, bad := bad } s
  refine ⟨_, exec_halsoSpanMark hon p { counter := c, bad := bad }, ?_, ?_, ?_, fun hup => ?_, markNoted_time ..⟩
  · rw [modHalso_halso, hh]
    rfl
  · rw [modHalso_halso]
    exact congrArg HPort.markAt hport
  · rw [modHalso_halso]
    exact congrArg HPort.blockErr hport
  · rw [modHalso_halso]
    exact (congrArg (_ || ·) hup).trans (Bool.or_true _)

theorem halsoArm_effect (b : Fin 32) (sp : BitVec 32)
    (hf : s.hasFirst p.val (armMsg dev.toNat b.val sp.toNat) = false) :
    ∃ t, exec (.halsoArm p dev b sp) s = .next t ∧
      ∀ i q n, i < 8 → s.plan i = some q → n ∈ q.sites → (s.site n).leader n b.val = n →
        (s.site n).barValid b.val = true → bit ((s.site n).barDevices b.val) dev.toNat = true →
        (t.barrier n b.val).remote.get dev.toNat = some (s.nearSpan 32 sp.toNat) := by
  obtain ⟨f, o, hr⟩ := received_eq p.val dev.toNat (armMsg dev.toNat b.val sp.toNat) s
  rw [exec_halsoArm hon, receive0_first hf, hr]
  exact ⟨_, rfl, fun i q n hi hq hn hl hv hd => armPlans_arrive (s := { s with
    halso := { s.halso with firsts := f }, out := o }) _ hi hq hn hl hv hd⟩

theorem halsoEvent_effect (g : Grain) (e : Fin 32) (sp : BitVec 18) (cy : BitVec 8)
    (hf : s.hasFirst p.val (eventMsg dev.toNat e.val sp.toNat cy.toNat) = false) :
    let now := s.time.span * 524288 + g.val
    ∃ t, exec (.halsoTrigger p dev (.event e) sp cy g) s = .next t ∧
      (∀ n, n < 64 → let l := (s.site n).latches.get (16 + e.val)
        (t.site n).latches.get (16 + e.val) =
          if l.set = true ∨ now < l.clr ∨ now < (s.site n).latchT then l else { l with set := true, t := now }) ∧
      ∀ j, j < 8 → (s.gen j).running = true → bits (s.gen j).cfg 2 3 = 2 → bits (s.gen j).cfg 5 5 = e.val →
        (t.gen j).jump = some (now, (s.gen j).target.toNat) := by
  intro now
  obtain ⟨f, o, hr⟩ := received_eq p.val dev.toNat (eventMsg dev.toNat e.val sp.toNat cy.toNat) (atGrain g s)
  have hg : (atGrain g s).hasFirst p.val (eventMsg dev.toNat e.val sp.toNat cy.toNat) = false := hf
  rw [exec_halsoTrigger_event hon, receive0_first hg, hr]
  refine ⟨_, rfl, fun n hn => ?_, fun j hj hrun hk hi => ?_⟩
  · rw [halsoEvent_latch _ _ hn]
    exact latch_fire _ _ now
  · exact halsoEvent_jump (s := { atGrain g s with halso := { (atGrain g s).halso with firsts := f }, out := o })
      now hj hrun hk hi

theorem halsoMatchBroadcast_effect (grp : BitVec 4) (hit : Bool) (cyc : BitVec 25) :
    ∃ t, exec (.halsoMatchBroadcast p dev grp hit cyc) s = .next t ∧
      (s.hasFirst p.val (hitMsg dev.toNat grp.toNat hit cyc.toNat) = false →
        t.halso.hits.head? = some { dev := dev.toNat, group := grp.toNat, cycle := cyc.toNat, hit := hit }) ∧
      (s.hasFirst p.val (hitMsg dev.toNat grp.toNat hit cyc.toNat) = true →
        t.halso.hits = s.halso.hits ∧ t.out = s.out) := by
  refine ⟨_, exec_halsoMatchBroadcast hon p dev grp hit cyc, fun hf => ?_, fun hf => ?_⟩
  · rw [receive0_first hf]
    rfl
  · obtain ⟨f, h⟩ := noteCopy_eq p.val (hitMsg dev.toNat grp.toNat hit cyc.toNat) s
    rw [receive0_second hf, h]
    exact ⟨rfl, rfl⟩

/-- A fail merge noted in its group. -/
theorem halsoFailMerge_effect (grp : CntId) (site : SiteId) (status : BitVec 8) (ended : Bool) (sp : BitVec 48) :
    ∃ t, exec (.halsoFailMerge p grp { dev := dev, site := site, status := status } ended sp) s = .next t ∧
      t.halso.merges.get grp.val = mergeNoted dev.toNat ended sp (s.halso.merges.get grp.val) := by
  refine ⟨_, if_neg (by rw [hon]; exact Bool.false_ne_true), ?_⟩
  obtain ⟨a, o, h⟩ := passOn2_eq p.val dev.toNat
    [mergeMsg grp.val dev.toNat site.val ended status.toNat, sp.toNat] (modHalso (fun h => { h with
      merges := h.merges.mod grp.val (mergeNoted dev.toNat ended sp) }) s)
  exact (congrArg (fun t : State => t.halso.merges.get grp.val) h).trans
    (SMap.get_mod_eq s.halso.merges grp.val (mergeNoted dev.toNat ended sp))

end

section
variable (p : PortId) (g : Grain) {s : State} (hon : s.haOn = true)
include hon

theorem halsoReturnTick_effect {m : HalsoTick} (hm : m.ret = true) :
    ∃ t, exec (.halsoTimeTick p m g) s = .next t ∧
      (t.halso.ports.get p.val).lastGot =
        (((s.time.span * 524288 + g.val : Nat) : Int) - (s.halso.ports.get p.val).latRx).toNat ∧
      t.time.offset = s.time.offset := by
  refine ⟨_, exec_halsoTimeTick hon p m g, ?_, ?_⟩
  · rw [if_pos hm]
    exact congrArg HPort.lastGot (SMap.get_mod_eq s.halso.ports p.val fun x => { x with
      lastGot := (((atGrain g s).now : Int) - x.latRx).toNat })
  · rw [if_pos hm]
    rfl

/-- A forward tick on the upstream side begins the next pair, and completes the one begun before it. -/
theorem exec_halsoTimeTick_forward {m : HalsoTick} (hm : m.ret = false) (hup : s.isUp p.val = true) :
    exec (.halsoTimeTick p m g) s = .next (tickNoted p.val m
      (((s.time.span * 524288 + g.val : Nat) : Int) - (s.halso.ports.get p.val).latRx).toNat
      (pairDone p.val m (atGrain g s))) := by
  rw [exec_halsoTimeTick hon, if_neg (by rw [hm]; exact Bool.false_ne_true), if_pos hup]
  exact congrArg _ (forwardTick_eq ..)

variable (dev : BitVec 4) {gid : BitVec 8} (units : BitVec 16) (sp : BitVec 18) (cy : BitVec 8) {m : Nat} (hm : m < 16)
  (hf : s.hasFirst p.val (firingMsg dev.toNat gid.toNat units.toNat sp.toNat cy.toNat) = false)
  (ho : ∀ u, u < 16 → u ≠ m → ¬ s.admits gid dev.toNat u)
include hm hf ho

/-- The firing of a group's device is the step of the one group that admits it. -/
theorem exec_halsoFiring : ∃ v, (∀ u, v.group u = s.group u) ∧ (∀ u, v.unit u = s.unit u) ∧
    (∀ k t, v.sampleFor k t = (atGrain g s).sampleFor k t) ∧
    exec (.halsoTrigger p dev (.group gid units) sp cy g) s =
      .next (remoteFiring gid dev.toNat (s.nearSpan 18 sp.toNat * 524288 + cy.toNat * 2048) m v) := by
  obtain ⟨f, o, hr⟩ := received_eq p.val dev.toNat (firingMsg dev.toNat gid.toNat units.toNat sp.toNat cy.toNat)
    (atGrain g s)
  rw [exec_halsoTrigger_group hon, receive0_first (s := atGrain g s) hf, hr]
  exact ⟨{ atGrain g s with halso := { (atGrain g s).halso with firsts := f }, out := o }, fun _ => rfl, fun _ => rfl,
    fun _ _ => rfl, congrArg _ (remoteFirings_one hm ho)⟩

variable (ha : s.admits gid dev.toNat m)
include ha

/-- It triggers a group that is armed at its instant. -/
theorem halsoFiring_armed (hst : (s.group m).st = .armed)
    (hat : (s.group m).armAt * 524288 ≤ s.nearSpan 18 sp.toNat * 524288 + cy.toNat * 2048) :
    let ft := s.nearSpan 18 sp.toNat * 524288 + cy.toNat * 2048
    let tr : Trig := { ft := ft, sample := (atGrain g s).sampleFor m ft, remoteMap := setBit 0 dev.toNat true,
                       missed := (s.group m).missedAcc }
    ∃ v, exec (.halsoTrigger p dev (.group gid units) sp cy g) s = .next (closeIfDone m v) ∧
      v.group m = { s.group m with st := .collecting, missedAcc := 0, trig := some tr } ∧
      ∀ u, u ≠ m → v.group u = s.group u := by
  intro ft tr
  obtain ⟨v, hgroup, -, hsample, hx⟩ := exec_halsoFiring p g hon dev units sp cy hm hf ho
  have hadm : v.admits gid dev.toNat m := by rw [State.admits, hgroup]; exact ha
  refine ⟨groupTriggered m tr v, ?_, ?_, fun u hu => ?_⟩
  · rw [hx, remoteFiring_armed hadm (by rw [hgroup]; exact hst) (by rw [hgroup]; exact hat), trigger_eq, hsample, hgroup]
  · rw [groupTriggered, modGroup_group_self, hgroup]
  · rw [groupTriggered, modGroup_group_ne _ _ hu, hgroup]

/-- It is a missed trigger of a group that re-arms. -/
theorem halsoFiring_rearming (hst : (s.group m).st = .rearming) :
    ∃ t, exec (.halsoTrigger p dev (.group gid units) sp cy g) s = .next t ∧
      t.group m = { s.group m with missedAcc := (s.group m).missedAcc + 1 } ∧
      (t.unit m).remote = satAdd 0xFFFF (s.unit m).remote 1 := by
  obtain ⟨v, hgroup, hunit, -, hx⟩ := exec_halsoFiring p g hon dev units sp cy hm hf ho
  have hadm : v.admits gid dev.toNat m := by rw [State.admits, hgroup]; exact ha
  obtain ⟨hg, hu⟩ := missRemote_effect m v
  rw [hgroup] at hg
  rw [hunit] at hu
  exact ⟨_, hx.trans (congrArg _ (remoteFiring_rearming hadm (by rw [hgroup]; exact hst))), hg, hu⟩

end

/-- Settles O47: each message by its row; a first copy acts behind its note and what is passed on. -/
theorem halsoMessages : Obligations.HalsoMessages := by
  intro p dev g s hon now
  refine ⟨halsoSpanMark_effect p hon, fun m => ?_, fun st tr e => ⟨fun hm => ?_, fun hm => ?_⟩,
    halsoArm_effect p dev hon, halsoEvent_effect p dev hon g, fun gid units sp cy m hm => ?_,
    halsoMatchBroadcast_effect p dev hon, fun grp site status sp => ?_⟩
  · intro x at_
    refine ⟨halsoReturnTick_effect p g hon, fun hm hup => ⟨_, exec_halsoTimeTick_forward p g hon hm hup, ?_, ?_, rfl,
      fun t1 t2 d t3 hf h3 => ?_⟩⟩
    · rw [tickNoted_port]
    · rw [tickNoted_port]
    · intro rtt stepped
      obtain ⟨hr, hs, hn⟩ := tickPair_effect p.val t1 t2 t3 m.got d (atGrain g s)
      rw [pairDone_some (s := atGrain g s) hf h3, tickNoted_port]
      exact ⟨hr, fun hj h3 hst => hs hj h3 ((rttStepped_iff (atGrain g s) p.val rtt).mpr hst),
        fun hj h3 hst => hn hj h3 (Bool.eq_false_iff.mpr fun h =>
          hst ((rttStepped_iff (atGrain g s) p.val rtt).mp h))⟩
  · refine ⟨_, exec_halsoServoOffset hon p dev st tr e, ?_, ?_⟩
    · rw [if_pos hm]
      rfl
    · rw [if_pos hm]
      exact SMap.get_set_eq ..
  · rw [exec_halsoServoOffset hon, if_neg (by rw [hm]; exact Bool.false_ne_true)]
  · intro admits ft hf ha ho
    exact ⟨halsoFiring_armed p g hon dev units sp cy hm hf ho ha, halsoFiring_rearming p g hon dev units sp cy hm hf ho ha⟩
  · intro o
    obtain ⟨t, ht, hmt⟩ := halsoFailMerge_effect p dev hon grp site status true sp
    obtain ⟨u, hu, hmu⟩ := halsoFailMerge_effect p dev hon grp site status false sp
    exact ⟨⟨t, ht, hmt⟩, u, hu, congrArg Merge.failed hmu, (congrArg Merge.ended hmu :), congrArg Merge.first hmu⟩

end Sys2Proof.Machine
